-- ==== Sys2Proof/Word.lean ====
section
/-!
DEFINITION. The word types of the S12 and their plainest arithmetic (spec/00_scope.md R4, spec/07_encoding.md R159).
-/

namespace Sys2Proof

/-- A 32-bit word: an instruction word, a register lane, a scalar register (R159, R162). -/
abbrev Word := BitVec 32

/-- A byte of memory (R5). -/
abbrev Byte := BitVec 8

/-- A 56-bit virtual byte address; also the program counter (R14, R159). -/
abbrev VAddr := BitVec 56

/-- A set of lanes of one wave: bit `l` stands for lane `l` (R31). -/
abbrev LaneMask := BitVec 32

end Sys2Proof
end

