-- ==== Sys2Proof/Machine/Map.lean ====
section
/-!
DEFINITION. Sparse maps in one canonical form: keys strictly rising, no entry equal to what an unlisted key reads
as. Memory, register files and registers of the S12 are held in them, so that equal contents are equal data.
-/

namespace Sys2Proof.Machine

/-- A sparse map from numbers to values: a list of key and value pairs. -/
abbrev SMap (α : Type) := List (Nat × α)

/-- The value at key `k`; `d` is what an unlisted key reads as. -/
def SMap.get {α : Type} (d : α) (k : Nat) : SMap α → α
  | [] => d
  | (i, v) :: m => if i = k then v else SMap.get d k m

/-- Puts `v` at key `k`, keeping the keys rising. -/
def SMap.insert {α : Type} (k : Nat) (v : α) : SMap α → SMap α
  | [] => [(k, v)]
  | (i, w) :: m =>
    if k < i then (k, v) :: (i, w) :: m
    else if k = i then (k, v) :: m
    else (i, w) :: SMap.insert k v m

/-- Removes key `k`. -/
def SMap.erase {α : Type} (k : Nat) : SMap α → SMap α
  | [] => []
  | (i, w) :: m => if i = k then SMap.erase k m else (i, w) :: SMap.erase k m

/-- Writes `v` at key `k`; writing what an unlisted key reads as removes the entry. -/
def SMap.set {α : Type} [DecidableEq α] (d : α) (k : Nat) (v : α) (m : SMap α) : SMap α :=
  if v = d then SMap.erase k m else SMap.insert k v m

/-- Writes a list of values at consecutive keys. -/
def SMap.setList {α : Type} [DecidableEq α] (d : α) (k : Nat) : List α → SMap α → SMap α
  | [], m => m
  | v :: vs, m => SMap.setList d (k + 1) vs (SMap.set d k v m)

/-- Reads `n` values at consecutive keys. -/
def SMap.getList {α : Type} (d : α) (k n : Nat) (m : SMap α) : List α :=
  (List.range n).map (fun i => SMap.get d (k + i) m)

/-- The `n` keys from `lo` on, counted from 0. -/
def SMap.sub {α : Type} (lo n : Nat) (m : SMap α) : SMap α :=
  (m.filter (fun e => decide (lo ≤ e.1) && decide (e.1 < lo + n))).map (fun e => (e.1 - lo, e.2))

/-- Replaces the `n` keys from `lo` on by a map whose keys count from 0. -/
def SMap.putSub {α : Type} (lo n : Nat) (x m : SMap α) : SMap α :=
  m.filter (fun e => decide (e.1 < lo)) ++
  ((x.filter (fun e => decide (e.1 < n))).map (fun e => (lo + e.1, e.2)) ++ m.filter (fun e => decide (lo + n ≤ e.1)))

/-- The map of a list's values at keys 0, 1, …, what equals `d` left out. -/
def SMap.ofList {α : Type} [DecidableEq α] (d : α) (vs : List α) : SMap α :=
  (vs.zipIdx.filter (fun x => decide (x.1 ≠ d))).map (fun x => (x.2, x.1))

/-- Every key of the map is above `b`, strictly rising, and no entry holds `d`. -/
def SMap.wfFrom {α : Type} [DecidableEq α] (d : α) (b : Nat) : SMap α → Bool
  | [] => true
  | (i, v) :: m => decide (b ≤ i) && decide (v ≠ d) && SMap.wfFrom d (i + 1) m

/-- The canonical form: strictly rising keys, no entry equal to what an unlisted key reads as. -/
def SMap.wf {α : Type} [DecidableEq α] (d : α) (m : SMap α) : Bool := SMap.wfFrom d 0 m

end Sys2Proof.Machine
end

