-- ==== Sys2Proof/Machine/Bits.lean ====
section
/-!
DEFINITION. Bit fields, byte order, signed readings and lane sets.
-/

namespace Sys2Proof.Machine

/-- Bits [lo + w - 1 : lo] of a number. -/
def field (v lo w : Nat) : Nat := v / 2 ^ lo % 2 ^ w

/-- Bit `i` of a number. -/
def bitAt (v i : Nat) : Bool := v / 2 ^ i % 2 == 1

/-- The number with bits [lo + w - 1 : lo] replaced by `x`. -/
def setField (v lo w x : Nat) : Nat :=
  v / 2 ^ (lo + w) * 2 ^ (lo + w) + x % 2 ^ w * 2 ^ lo + v % 2 ^ lo

/-- A number read as a two's complement integer of `w` bits. -/
def signed (w v : Nat) : Int := if v % 2 ^ w < 2 ^ (w - 1) then (v % 2 ^ w : Nat) else (v % 2 ^ w : Nat) - (2 ^ w : Nat)

/-- The two's complement bits of an integer in `w` bits. -/
def unsigned (w : Nat) (i : Int) : Nat := (i % (2 ^ w : Nat)).toNat

/-- The number whose little-endian bytes these are (R4). -/
def natOfBytes : List Byte → Nat
  | [] => 0
  | b :: bs => b.toNat + 256 * natOfBytes bs

/-- The `n` little-endian bytes of a number (R4). -/
def bytesOf : Nat → Nat → List Byte
  | 0, _ => []
  | n + 1, v => BitVec.ofNat 8 v :: bytesOf n (v / 256)

/-- `n` bytes of a list from offset `i`, missing bytes as zero. -/
def slice (bs : List Byte) (i n : Nat) : List Byte := (List.range n).map (fun j => bs.getD (i + j) 0)

/-- The little-endian number in `n` bytes of a list from offset `i`. -/
def natAt (bs : List Byte) (i n : Nat) : Nat := natOfBytes (slice bs i n)

/-- Every byte of a range of a list is zero. -/
def zeroAt (bs : List Byte) (i n : Nat) : Bool := natAt bs i n == 0

/-- The lanes of a mask, ascending. -/
def lanesOf (m : LaneMask) : List Nat := (List.range 32).filter (fun l => m.getLsbD l)

/-- The mask of a list of lanes. -/
def maskOf : List Nat → LaneMask
  | [] => 0
  | l :: ls => BitVec.twoPow 32 l ||| maskOf ls

/-- The lanes of a mask for which a test holds. -/
def lanesWhere (m : LaneMask) (p : Nat → Bool) : LaneMask := maskOf ((lanesOf m).filter p)

/-- The number of lanes of a mask. -/
def laneCount (m : LaneMask) : Nat := (lanesOf m).length

/-- The lowest lane of a mask. -/
def lowest (m : LaneMask) : Option Nat := (lanesOf m).head?

/-- The number `a` divided by `b`, rounded up. -/
def ceilDiv (a b : Nat) : Nat := (a + b - 1) / b

/-- The element of a list that comes first in the order `lt`. -/
def bestOf {α : Type} (better : α → α → Bool) : List α → Option α
  | [] => none
  | x :: xs => some (xs.foldl (fun a b => if better b a then b else a) x)

/-- Inserts an element before the first that it does not come after. -/
def insertBy {α : Type} (before : α → α → Bool) (a : α) : List α → List α
  | [] => [a]
  | x :: xs => if before a x then a :: x :: xs else x :: insertBy before a xs

/-- A list in the order `before`; what the order does not tell apart keeps its order. -/
def sortBy {α : Type} (before : α → α → Bool) (xs : List α) : List α := xs.foldr (insertBy before) []

/-- A step that may stop early, over a list. -/
def foldOpt {α β : Type} (f : β → α → Option β) (b : β) : List α → Option β
  | [] => some b
  | x :: xs => match f b x with
    | some b' => foldOpt f b' xs
    | none => none

end Sys2Proof.Machine
end

