-- ==== Sys2Proof/Machine/Num.lean ====
section
/-!
DEFINITION. Numbers: floating-point formats, exact values, rounding, integer narrowing and the exact operations of
spec/06_numbers.md (R122 to R133, R148, R158). A finite value is a sign and m·2^e; a value that has no finite binary
expansion (a quotient, a root) is carried with more bits than any format keeps and a last bit that says it is inexact.
-/

namespace Sys2Proof.Machine

/-- How a format spells its NaNs (R122 Table 1). -/
inductive NanKind where
  | ieee | e4m3 | none
  deriving DecidableEq, Repr

/-- A floating-point format (R122): exponent bits, fraction bits, whether it has infinities, and its NaNs. -/
structure FFmt where
  eb : Nat
  fb : Nat
  inf : Bool
  nan : NanKind
  deriving DecidableEq, Repr

def FFmt.f64 : FFmt := { eb := 11, fb := 52, inf := true, nan := .ieee }
def FFmt.f32 : FFmt := { eb := 8, fb := 23, inf := true, nan := .ieee }
/-- f19 by its 19 bits; it sits in [31:13] of its container. -/
def FFmt.f19 : FFmt := { eb := 8, fb := 10, inf := true, nan := .ieee }
def FFmt.bf16 : FFmt := { eb := 8, fb := 7, inf := true, nan := .ieee }
def FFmt.f16 : FFmt := { eb := 5, fb := 10, inf := true, nan := .ieee }
def FFmt.e5m2 : FFmt := { eb := 5, fb := 2, inf := true, nan := .ieee }
def FFmt.e4m3 : FFmt := { eb := 4, fb := 3, inf := false, nan := .e4m3 }
def FFmt.e3m4 : FFmt := { eb := 3, fb := 4, inf := false, nan := .none }
def FFmt.e3m2 : FFmt := { eb := 3, fb := 2, inf := false, nan := .none }
def FFmt.e2m3 : FFmt := { eb := 2, fb := 3, inf := false, nan := .none }
def FFmt.e2m1 : FFmt := { eb := 2, fb := 1, inf := false, nan := .none }

/-- The exponent bias (R122 Table 1). -/
def FFmt.bias (f : FFmt) : Nat := 2 ^ (f.eb - 1) - 1

/-- The width of an encoding. -/
def FFmt.width (f : FFmt) : Nat := 1 + f.eb + f.fb

/-- The magnitude bits of the greatest finite value. -/
def FFmt.maxBits (f : FFmt) : Nat :=
  if f.inf then (2 ^ f.eb - 1) * 2 ^ f.fb - 1
  else match f.nan with
    | .e4m3 => 2 ^ (f.eb + f.fb) - 2
    | _ => 2 ^ (f.eb + f.fb) - 1

/-- An exact value. A NaN keeps its sign, whether it signals, and its fraction aligned to 52 bits. -/
inductive Num where
  | nan (neg sig : Bool) (frac : Nat)
  | inf (neg : Bool)
  | fin (neg : Bool) (m : Nat) (e : Int)
  deriving DecidableEq, Repr

/-- The NaN that an operation creates. -/
def Num.qnan : Num := .nan false false (2 ^ 51)

def Num.isNan : Num → Bool
  | .nan _ _ _ => true
  | _ => false

def Num.isSig : Num → Bool
  | .nan _ s _ => s
  | _ => false

def Num.isInf : Num → Bool
  | .inf _ => true
  | _ => false

def Num.isZero : Num → Bool
  | .fin _ m _ => m == 0
  | _ => false

def Num.neg : Num → Bool
  | .nan n _ _ => n
  | .inf n => n
  | .fin n _ _ => n

/-- The value with its sign replaced. -/
def Num.withSign (n : Bool) : Num → Num
  | .nan _ s f => .nan n s f
  | .inf _ => .inf n
  | .fin _ m e => .fin n m e

/-- The value of an integer. -/
def Num.ofInt (i : Int) : Num := .fin (decide (i < 0)) i.natAbs 0

/-- The value that an encoding holds (R122). -/
def FFmt.decode (f : FFmt) (bits : Nat) : Num :=
  let neg := bitAt bits (f.eb + f.fb)
  let e := field bits f.fb f.eb
  let fr := field bits 0 f.fb
  let isN : Bool := match f.nan with
    | .ieee => decide (e = 2 ^ f.eb - 1) && decide (fr ≠ 0)
    | .e4m3 => decide (e = 2 ^ f.eb - 1) && decide (fr = 2 ^ f.fb - 1)
    | .none => false
  if isN then .nan neg (f.nan == .ieee && !bitAt fr (f.fb - 1)) (fr * 2 ^ (52 - f.fb))
  else if f.inf && decide (e = 2 ^ f.eb - 1) then .inf neg
  else if e = 0 then .fin neg fr (1 - (f.bias : Int) - f.fb)
  else .fin neg (2 ^ f.fb + fr) ((e : Int) - f.bias - f.fb)

/-- The bits of a NaN result (R123): canonical, or with payload preservation the operand's own, made quiet. -/
def FFmt.nanBits (f : FFmt) (keep : Bool) (v : Num) : Nat :=
  match f.nan with
  | .none => 0
  | .e4m3 => 0x7F + (if keep && v.neg then 0x80 else 0)
  | .ieee =>
    match v with
    | .nan n _ fr =>
      if keep then (if n then 2 ^ (f.eb + f.fb) else 0) + (2 ^ f.eb - 1) * 2 ^ f.fb +
        (fr / 2 ^ (52 - f.fb) ||| 2 ^ (f.fb - 1)) % 2 ^ f.fb
      else (2 ^ f.eb - 1) * 2 ^ f.fb + 2 ^ (f.fb - 1)
    | _ => (2 ^ f.eb - 1) * 2 ^ f.fb + 2 ^ (f.fb - 1)

/-- The bits of a magnitude with a sign. -/
def FFmt.signed (f : FFmt) (neg : Bool) (mag : Nat) : Nat := (if neg then 2 ^ (f.eb + f.fb) else 0) + mag

/-- Causes of the arithmetic log (R416 Table 5). -/
def evOverflow : Nat := 1
def evUnderflow : Nat := 2
def evInvalid : Nat := 3
def evDivZero : Nat := 4
def evScale : Nat := 5

/-- The magnitude m·2^-sh rounded to an integer under a rounding mode (R129, R132); `draw` is a stochastic step. -/
def roundShift (mode draw : Nat) (neg : Bool) (m sh : Nat) : Nat :=
  let k := m / 2 ^ sh
  let r := m % 2 ^ sh
  let up : Bool :=
    match mode with
    | 0 => decide (2 * r > 2 ^ sh) || (decide (2 * r = 2 ^ sh) && decide (sh ≠ 0) && k % 2 == 1)
    | 1 => false
    | 2 => neg && decide (r ≠ 0)
    | 3 => !neg && decide (r ≠ 0)
    | 4 => decide (sh ≠ 0) && decide (2 * r ≥ 2 ^ sh)
    | _ => decide (r * 2 ^ 16 / 2 ^ sh + draw ≥ 2 ^ 16)
  if up then k + 1 else k

/-- The result of a rounding: the bits and the causes logged. -/
structure Rounded where
  bits : Nat
  ev : List Nat := []
  deriving DecidableEq, Repr

/-- What an overflow gives (R130 step 3). -/
def FFmt.overflow (f : FFmt) (mode : Nat) (sat neg : Bool) : Nat :=
  let toMax : Bool := sat || mode == 1 || (mode == 2 && !neg) || (mode == 3 && neg)
  if toMax then f.signed neg f.maxBits
  else if f.inf then f.signed neg ((2 ^ f.eb - 1) * 2 ^ f.fb)
  else match f.nan with
    | .e4m3 => f.signed neg 0x7F
    | _ => f.signed neg f.maxBits

/-- round_to for a floating format (R130). `keep` is NANP. -/
def FFmt.round (f : FFmt) (mode draw : Nat) (sat keep : Bool) (v : Num) : Rounded :=
  match v with
  | .nan _ _ _ => if f.nan = .none then { bits := 0, ev := [evInvalid] } else { bits := f.nanBits keep v }
  | .inf n =>
    if f.inf then
      if sat then { bits := f.signed n f.maxBits, ev := [evOverflow] }
      else { bits := f.signed n ((2 ^ f.eb - 1) * 2 ^ f.fb) }
    else if f.nan = .e4m3 ∧ sat = false then { bits := f.signed n 0x7F }
    else { bits := f.signed n f.maxBits, ev := [evOverflow] }
  | .fin n m e =>
    if m = 0 then { bits := f.signed n 0 }
    else
      let ex : Int := (Nat.log2 m : Int) + e
      let emin : Int := 1 - (f.bias : Int)
      let q : Int := max (ex - f.fb) (emin - f.fb)
      let k := if q ≤ e then m * 2 ^ (e - q).toNat else roundShift mode draw n m (q - e).toNat
      let exact : Bool := decide (q ≤ e) || decide (m % 2 ^ (q - e).toNat = 0)
      let kq : Nat × Int := if k = 2 ^ (f.fb + 1) then (2 ^ f.fb, q + 1) else (k, q)
      let mag : Nat := if kq.1 < 2 ^ f.fb then kq.1
        else (kq.2 + f.fb + f.bias).toNat * 2 ^ f.fb + (kq.1 - 2 ^ f.fb)
      if f.maxBits < mag then { bits := f.overflow mode sat n, ev := [evOverflow] }
      else { bits := f.signed n mag, ev := if ex < emin ∧ exact = false then [evUnderflow] else [] }

/-- round_to for an integer format of `w` bits (R130 step 5). -/
def roundInt (w : Nat) (sgn : Bool) (mode draw : Nat) (sat : Bool) (v : Num) : Rounded :=
  let lo : Int := if sgn then -(2 ^ (w - 1) : Nat) else 0
  let hi : Int := if sgn then (2 ^ (w - 1) : Nat) - 1 else (2 ^ w : Nat) - 1
  match v with
  | .nan _ _ _ => { bits := 0, ev := [evInvalid] }
  | .inf n => { bits := unsigned w (if n then lo else hi), ev := [evInvalid] }
  | .fin n m e =>
    let k := if 0 ≤ e then m * 2 ^ e.toNat else roundShift mode draw n m (-e).toNat
    let i : Int := if n then -(k : Int) else k
    if lo ≤ i ∧ i ≤ hi then { bits := unsigned w i }
    else { bits := unsigned w (if sat then (if i < lo then lo else hi) else i), ev := [evInvalid] }

/-- The signed mantissa of a finite value at exponent `q`, for q no greater than its own. -/
def Num.scaled (q : Int) : Num → Int
  | .fin n m e => let k : Int := (m * 2 ^ (e - q).toNat : Nat); if n then -k else k
  | _ => 0

/-- The sign of a sum that is exactly zero (R130 step 4): that of zeros which all share it, else + but for RDN. -/
def zeroSumSign (mode : Nat) (terms : List Num) : Bool :=
  if terms.all (fun t => t.isZero && t.neg) && !terms.isEmpty then true
  else if terms.all (fun t => t.isZero && !t.neg) then false
  else mode == 2

/-- The exact sum of terms of which none is a NaN and no two are opposite infinities (R130, R148). -/
def sumNums (mode : Nat) (terms : List Num) : Num :=
  match terms.find? Num.isInf with
  | some i => i
  | none =>
    let q := terms.foldl (fun q t => match t with
      | .fin _ _ e => min q e
      | _ => q) (0 : Int)
    let t : Int := terms.foldl (fun acc x => acc + x.scaled q) 0
    if t = 0 then .fin (zeroSumSign mode terms) 0 0 else .fin (decide (t < 0)) t.natAbs q

/-- An operation's value and the causes that it logs before rounding. -/
structure Exact where
  v : Num
  ev : List Nat := []
  deriving DecidableEq, Repr

/-- The NaN that operands give (R123): the first of them; a signalling one logs invalid. -/
def nanOf (xs : List Num) : Option Exact :=
  (xs.find? Num.isNan).map (fun v => { v := v, ev := if xs.any Num.isSig then [evInvalid] else [] })

/-- Exact sum of terms, each NaN or infinity handled as IEEE 754 gives. -/
def sumExact (mode : Nat) (terms : List Num) : Exact :=
  match nanOf terms with
  | some e => e
  | none =>
    if terms.any (fun t => t.isInf && t.neg) && terms.any (fun t => t.isInf && !t.neg) then
      { v := .qnan, ev := [evInvalid] }
    else { v := sumNums mode terms }

/-- Exact product. -/
def mulExact (a b : Num) : Exact :=
  match nanOf [a, b] with
  | some e => e
  | none =>
    let n := xor a.neg b.neg
    match a, b with
    | .fin _ m e, .fin _ m' e' => { v := .fin n (m * m') (e + e') }
    | .inf _, y => if y.isZero then { v := .qnan, ev := [evInvalid] } else { v := .inf n }
    | x, .inf _ => if x.isZero then { v := .qnan, ev := [evInvalid] } else { v := .inf n }
    | x, _ => { v := x }

/-- A quotient of magnitudes with enough bits for every rounding, the last bit set when it is inexact. -/
def divMag (m m' : Nat) : Nat × Int :=
  let sh := 160 + Nat.log2 m' + 1
  let q := m * 2 ^ sh / m'
  (2 * q + (if m * 2 ^ sh % m' = 0 then 0 else 1), -(sh : Int) - 1)

/-- Exact quotient (R158). -/
def divExact (a b : Num) : Exact :=
  match nanOf [a, b] with
  | some e => e
  | none =>
    let n := xor a.neg b.neg
    match a, b with
    | .inf _, .inf _ => { v := .qnan, ev := [evInvalid] }
    | .inf _, _ => { v := .inf n }
    | _, .inf _ => { v := .fin n 0 0 }
    | .fin _ m e, .fin _ m' e' =>
      if m' = 0 then
        if m = 0 then { v := .qnan, ev := [evInvalid] } else { v := .inf n, ev := [evDivZero] }
      else if m = 0 then { v := .fin n 0 0 }
      else let q := divMag m m'; { v := .fin n q.1 (q.2 + e - e') }
    | x, _ => { v := x }

/-- One binary digit of an integer square root: `b` is the bit tried. -/
def isqrtStep (n r b : Nat) : Nat := if (r + b) * (r + b) ≤ n then r + b else r

/-- The integer square root, found from bit `k` - 1 down to bit 0. -/
def isqrtFrom (n : Nat) : Nat → Nat → Nat
  | 0, r => r
  | k + 1, r => isqrtFrom n k (isqrtStep n r (2 ^ k))

/-- The integer square root. -/
def isqrt (n : Nat) : Nat := isqrtFrom n (Nat.log2 n / 2 + 1) 0

/-- Exact square root (R158), with the last bit set when it is inexact. -/
def sqrtExact (a : Num) : Exact :=
  match nanOf [a] with
  | some e => e
  | none =>
    match a with
    | .inf n => if n then { v := .qnan, ev := [evInvalid] } else { v := a }
    | .fin n m e =>
      if m = 0 then { v := a }
      else if n then { v := .qnan, ev := [evInvalid] }
      else
        let odd : Bool := decide (e % 2 ≠ 0)
        let m1 := (if odd then 2 * m else m) * 2 ^ 320
        let e1 : Int := (if odd then e - 1 else e) - 320
        let r := isqrt m1
        { v := .fin false (2 * r + (if r * r = m1 then 0 else 1)) (e1 / 2 - 1) }
    | _ => { v := a }

/-- Comparison of two values that are not NaN: less, equal or greater as -1, 0, 1. -/
def cmpNum (a b : Num) : Int :=
  match a, b with
  | .inf n, .inf n' => if n = n' then 0 else if n then -1 else 1
  | .inf n, _ => if n then -1 else 1
  | _, .inf n => if n then 1 else -1
  | .fin _ _ e, .fin _ _ e' =>
    let q := min e e'
    let d := a.scaled q - b.scaled q
    if d = 0 then 0 else if d < 0 then -1 else 1
  | _, _ => 0

/-- The magnitude of a finite value lies below 2^x. -/
def Num.below (x : Int) : Num → Bool
  | .fin _ m e => decide (m ≠ 0) && decide ((Nat.log2 m : Int) + e < x)
  | _ => false

/-- The value as flushing reads it (R133): a nonzero value below the test format's normal range is a zero. -/
def Num.flushed (dbl : Bool) (v : Num) : Num :=
  if v.below (if dbl then -1022 else -126) then .fin v.neg 0 0 else v

/-- A step of a stochastic generator (R132): the new state and the 16 bits drawn. -/
def stoStep (g : Word) : Word × Nat :=
  let g := if g = 0 then 0x6D2B79F5 else g
  let g := g ^^^ (g <<< 13)
  let g := g ^^^ (g >>> 17)
  let g := g ^^^ (g <<< 5)
  (g, g.toNat / 65536)

end Sys2Proof.Machine
end

