-- ==== Sys2Proof/Syntax.lean ====
section
/-!
DEFINITION. The syntax of the S12: every row of spec/opcode_table.json is one constructor of `Instr`.
The first 199 constructors are the instruction words of spec/07_encoding.md (R160, R178); the other 117 are
the table's events, the indivisible steps of the machine and of the host around it, each with the data that
the event brings (spec/95_what_each_step_holds.md).
-/

namespace Sys2Proof

/-- An 8-bit operand code of R162, as the thing it names. -/
inductive Operand where
  /-- vector register v0 to v127 -/
  | v (n : Fin 128)
  /-- scalar register x0 to x63 -/
  | x (n : Fin 64)
  /-- predicate register p0 to p15 -/
  | p (n : Fin 16)
  /-- special of R165 Table 7 -/
  | sp (n : Fin 16)
  /-- constant of R167 Table 8 -/
  | k (n : Fin 31)
  /-- the literal of the preceding lit (R168) -/
  | lit
  deriving DecidableEq, Repr

/-- The source of an incoming access (R112, R392). -/
inductive Source where
  /-- host function `fn` of the PCIe port: 0 is the physical function, f + 1 is virtual function f (R388) -/
  | host (fn : Nat)
  /-- Saddle link `j` (R392) -/
  | link (j : Nat)
  deriving DecidableEq, Repr

/-- Which of the three RCB address registers of R510 is written. -/
inductive RcbReg where
  | root
  | part (s0 : Nat)
  | vf (s0 f : Nat)
  deriving DecidableEq, Repr

/-- Where a register write lands (R388, R389, R390). -/
inductive RegTarget where
  /-- byte offset in the device register space, through BAR 0 -/
  | bar0 (off : Nat)
  /-- byte offset in the doorbell page of context `c` of function `f`, through BAR 2 -/
  | doorbell (f c off : Nat)
  deriving DecidableEq, Repr

/-- A response to a PRI page request (R451). -/
inductive PriResp where
  | success | failure | malformed
  deriving DecidableEq, Repr

/-- An engine that signals quiesce-complete (R423, R446). -/
inductive EngineClass where
  | copy | matrix | sight | attention
  deriving DecidableEq, Repr

/-- The kind of access a translation serves (R95). -/
inductive Access where
  | read | write | fetch
  deriving DecidableEq, Repr

/-- One constructor per row of spec/opcode_table.json. -/
inductive Instr where
  -- control, mode, fragments, waiting and launch (R189)
  | nop
  | br (off : BitVec 20)
  | brt (p : Fin 16) (off : BitVec 20)
  | brx (a : Operand)
  | call (r : Fin 16) (off : BitVec 20)
  | ret (r : Fin 16)
  | tok (off : BitVec 20)
  | rejoin (k : Fin 16)
  | exit (a : Operand)
  | yield
  | waitf (a : Operand)
  | waitv (c : Fin 4) (a b : Operand)
  | fpt (k : BitVec 16)
  | sleep (n : BitVec 24)
  | bar (n : Fin 4)
  | barArrive (n : Fin 4)
  | barWait (n : Fin 4)
  | lfsr (d a : Operand)
  | lfsrRd (d : Operand)
  | modeSet (s : BitVec 8) (v : BitVec 16)
  | modeGet (d : Operand)
  | modePut (a : Operand)
  | guard (s : Fin 8) (p : Fin 16)
  | lrec (a b : Operand)
  | launch (a : Operand)
  | lit (l : BitVec 24)
  | lih (h : BitVec 8)
  | trap (c : BitVec 8)
  | sysr (d : Operand) (s : BitVec 16)
  | sysw (d : Operand) (s : BitVec 16)
  | brk (c : BitVec 8)
  -- integer, logic, lanes and predicates (R220)
  | add (d a b : Operand)
  | sub (d a b : Operand)
  | addc (d a b : Operand)
  | subb (d a b : Operand)
  | mul (d a b : Operand)
  | mulh (d a b : Operand)
  | mad (d a b : Operand)
  | madh (d a b : Operand)
  | div (d a b : Operand)
  | rem (d a b : Operand)
  | neg (d a : Operand)
  | abs (d a : Operand)
  | min (d a b : Operand)
  | max (d a b : Operand)
  | and (d a b : Operand)
  | or (d a b : Operand)
  | xor (d a b : Operand)
  | not (d a : Operand)
  | andn (d a b : Operand)
  | shl (d a b : Operand)
  | shr (d a b : Operand)
  | sar (d a b : Operand)
  | rol (d a b : Operand)
  | bfx (d a b : Operand)
  | bfi (d a b : Operand)
  | popc (d a : Operand)
  | clz (d a : Operand)
  | ctz (d a : Operand)
  | brev (d a : Operand)
  | cmp (r : Fin 16) (p : Fin 16) (a b : Operand)
  | sel (d a b : Operand)
  | mov (d a : Operand)
  | movi (d : Operand) (i : BitVec 16)
  | movs (d a b : Operand)
  | shflIdx (d a b : Operand)
  | shflXor (d a b : Operand)
  | shflUp (d a b : Operand)
  | shflDown (d a b : Operand)
  | vote (d a : Operand) (k : BitVec 8)
  | ballot (d a : Operand) (s : Fin 4)
  | redux (d a : Operand) (o : BitVec 5)
  | scan (d a : Operand) (e : Bool) (o : Fin 16)
  | pand (d a b : Operand)
  | por (d a b : Operand)
  | pxor (d a b : Operand)
  | pnot (d a : Operand)
  | pcnt (d a : Operand) (s : Fin 4)
  -- floating point, intervals, conversion and packed dots (R243)
  | fadd (d a b : Operand)
  | fsub (d a b : Operand)
  | fmul (d a b : Operand)
  | ffma (d a b : Operand)
  | fabs (d a : Operand)
  | fneg (d a : Operand)
  | fmin (d a b : Operand)
  | fmax (d a b : Operand)
  | fcmp (r : Fin 16) (p : Fin 16) (a b : Operand)
  | fcls (d a : Operand)
  | frcp (d a : Operand)
  | frsq (d a : Operand)
  | fsqrt (d a : Operand)
  | fdiv (d a b : Operand)
  | fex2 (d a : Operand)
  | flg2 (d a : Operand)
  | fsin (d a : Operand)
  | fcos (d a : Operand)
  | ffrac (d a : Operand)
  | fround (d a : Operand)
  | fscale (d a b : Operand)
  | cvtFi (d a : Operand) (c : Fin 16)
  | cvtIf (d a : Operand) (c : Fin 16)
  | cvtFfFrom (d a : Operand) (p : Fin 16)
  | cvtFfTo (d a : Operand) (p : Fin 16)
  | pack8 (d a : Operand) (k : Fin 8) (f : Fin 32)
  | pack6 (d a : Operand) (k : Fin 8) (f : Fin 32)
  | pack4 (d a : Operand) (k : Fin 8) (f : Fin 32)
  | unpack (d a : Operand) (k : Fin 8) (f : Fin 32)
  | dot2 (d a b : Operand)
  | dot4 (d a b : Operand)
  | dot8 (d a b : Operand)
  | rseed (a : Operand)
  | rnext (d : Operand)
  | rnextH (d : Operand)
  | ipt (d a b : Operand)
  | ilo (d a : Operand)
  | ihi (d a : Operand)
  | imid (d a : Operand)
  | iwid (d a : Operand)
  | ihull (d a b : Operand)
  | isect (d a b : Operand)
  | iin (d a b : Operand)
  | ibis (d a b : Operand)
  | itake (d a b : Operand)
  | bbox (d a b : Operand)
  -- memory, atomics, futures, copies and barriers (R271)
  | ldG (d : Operand) (w : Fin 8) (b : Fin 32) (x : Operand)
  | ldL (d : Operand) (w : Fin 8) (b : Fin 32) (x : Operand)
  | ldC (d : Operand) (w : Fin 8) (b : Fin 32) (x : Operand)
  | ldS (d : Operand) (w : Fin 8) (b : Fin 32) (x : Operand)
  | ldP (d : Operand) (w : Fin 8) (b : Fin 32) (x : Operand)
  | stG (d : Operand) (w : Fin 8) (b : Fin 32) (x : Operand)
  | stL (d : Operand) (w : Fin 8) (b : Fin 32) (x : Operand)
  | stC (d : Operand) (w : Fin 8) (b : Fin 32) (x : Operand)
  | stS (d : Operand) (w : Fin 8) (b : Fin 32) (x : Operand)
  | stP (d : Operand) (w : Fin 8) (b : Fin 32) (x : Operand)
  | ldx (d : Operand) (w : Fin 8) (b : Fin 32) (x : Operand)
  | stx (d : Operand) (w : Fin 8) (b : Fin 32) (x : Operand)
  | ild (d : Operand) (w : Fin 8) (b : Fin 32) (x : Operand)
  | ist (d : Operand) (w : Fin 8) (b : Fin 32) (x : Operand)
  | prf (w : Fin 8) (b : Fin 32) (x : Operand)
  | atomAdd (d : Operand) (q : Bool) (b : Fin 32) (x : Operand)
  | atomFadd (d : Operand) (q : Bool) (b : Fin 32) (x : Operand)
  | atomMin (d : Operand) (q : Bool) (b : Fin 32) (x : Operand)
  | atomMax (d : Operand) (q : Bool) (b : Fin 32) (x : Operand)
  | atomAnd (d : Operand) (q : Bool) (b : Fin 32) (x : Operand)
  | atomOr (d : Operand) (q : Bool) (b : Fin 32) (x : Operand)
  | atomXor (d : Operand) (q : Bool) (b : Fin 32) (x : Operand)
  | atomExch (d : Operand) (q : Bool) (b : Fin 32) (x : Operand)
  | atomInc (d : Operand) (q : Bool) (b : Fin 32) (x : Operand)
  | atomDec (d : Operand) (q : Bool) (b : Fin 32) (x : Operand)
  | redAdd (d : Operand) (q : Bool) (b : Fin 32) (x : Operand)
  | redFadd (d : Operand) (q : Bool) (b : Fin 32) (x : Operand)
  | redMin (d : Operand) (q : Bool) (b : Fin 32) (x : Operand)
  | redMax (d : Operand) (q : Bool) (b : Fin 32) (x : Operand)
  | redAnd (d : Operand) (q : Bool) (b : Fin 32) (x : Operand)
  | redOr (d : Operand) (q : Bool) (b : Fin 32) (x : Operand)
  | redXor (d : Operand) (q : Bool) (b : Fin 32) (x : Operand)
  | redExch (d : Operand) (q : Bool) (b : Fin 32) (x : Operand)
  | redInc (d : Operand) (q : Bool) (b : Fin 32) (x : Operand)
  | redDec (d : Operand) (q : Bool) (b : Fin 32) (x : Operand)
  | cas (d : Operand) (q : Bool) (b : Fin 32) (x : Operand)
  | ldf (d : Operand) (b : Fin 32) (x : Operand)
  | stf (d : Operand) (b : Fin 32) (x : Operand)
  | cpy (a : Operand)
  | cpyCol (a : Operand)
  | cpyMc (a : Operand)
  | cpyThen (a b : Operand)
  | sealBatch (d : Operand)
  | bwait (k : Fin 16)
  | slotFree (a : Operand)
  | tbarInit (a b : Operand)
  | tbarExpect (a b : Operand)
  | tbarArrive (d a : Operand)
  | tbarWait (a b : Operand)
  | fenceX (p q : Fin 8)
  | fenceH
  | spl (d a b : Operand)
  | fil (d a b : Operand)
  -- matrix, scaled tiles and accumulators (R298)
  | mma (n : Fin 4) (a b : Operand)
  | mmaB (n : Fin 4) (a b : Operand)
  | mmat (a : Operand)
  | accSwap (n : Fin 4)
  | accZero (n : Fin 4)
  | accZeroV (n : Fin 4)
  | accRd (d a : Operand) (r n : Fin 4)
  | accWr (d a : Operand) (r n : Fin 4)
  | tld (d : Operand) (w : Fin 8) (b : Fin 32) (x : Operand)
  | tldT (d : Operand) (w : Fin 8) (b : Fin 32) (x : Operand)
  | tst (d : Operand) (w : Fin 8) (b : Fin 32) (x : Operand)
  | tscale (d a : Operand) (f : Fin 32)
  | fmtv (d a : Operand)
  -- shading cache and sight units (R336), attention (R352)
  | scq (d a b : Operand)
  | scfill (d a b : Operand)
  | scinv (d a : Operand)
  | scage (d a b : Operand)
  | rast (a : Operand)
  | ray (a b : Operand)
  | qpost (a : Operand)
  | amerge (d a b : Operand)
  | afin (d a : Operand)
  -- handler returns (R414), waits and scheduling (R41, R62, R63, R92, R110, R116, R199, R203)
  | unassignedOpcode (word : Word)
  | handlerReturnContinue
  | handlerReturnPc
  | handlerReturnEnd
  | rejoinTimeout (wave tokenId : Nat)
  | waitRetest (wave slot : Nat)
  | waitPeriodicRetest (wave slot : Nat)
  | pendingReadyReplace (core port : Nat)
  | fragmentRankAging (wave slot : Nat)
  | sleepExpiry (wave slot : Nat)
  | loadDataReturn (load : Nat) (data : List Byte)
  | fenceComplete (wave slot : Nat)
  -- queues, launches and the work distributor (R56, R59, R72, R443, R444)
  | doorbellWrite (vf ctx : Nat) (widx : Word)
  | queueEnableWrite (vf ctx : Nat) (val : Word)
  | queueEntryRelease (vf ctx : Nat)
  | launchPriorityAging (launch : Nat)
  | workgroupDispatch (part : Nat)
  | workgroupComplete (wg : Nat)
  | ctxBindWrite (part vf ctx : Nat) (val : BitVec 64)
  -- eviction and pre-emption (R66 to R71)
  | deepPark (wave : Nat)
  | waveEviction (wave : Nat)
  | waveRestore (wave : Nat)
  | timeSliceEnd (vf ctx : Nat)
  | preemptionSave (vf ctx : Nat)
  | resumption (wg : Nat)
  -- translation, caches, clocks and incoming accesses (R85, R97, R99, R108, R112)
  | pageWalk (vf ctx : Nat) (va : VAddr) (acc : Access)
  | tlbInvalidate (vf ctx : Nat) (val : Word)
  | invalidationComplete (vf ctx : Nat)
  | mscRequest (slice t : Nat) (wr : Option (BitVec 8))
  | mscFillComplete (slice index : Nat)
  | ptsTick
  | l1CopyExpiry (core line : Nat)
  | incomingWrite (src : Source) (addr : Nat) (data : List Byte)
  | incomingRead (src : Source) (addr len : Nat)
  -- engines (R118, R283, R286, R288, R289, R293, R306, R315, R342, R481)
  | pageMigration (cmd : Nat)
  | copyCommandStart (engine : Nat)
  | guardWordResolve (cmd : Nat)
  | multicastStart (cmd : Nat)
  | copyBytesLand (cmd sectors : Nat)
  | commandComplete (cmd : Nat)
  | matrixEntryStart (core : Nat)
  | matrixChunkComplete (core mismatch : Nat)
  | mmatKstep (core : Nat)
  | sightCommandRun (slice cluster : Nat)
  -- shading cache (R327, R331, R334)
  | scCtlWrite (part : Nat) (val : Word)
  | scLookupRetry (wave slot : Nat)
  | scRelookup (wave slot : Nat)
  | shadeBatchDispatch (slice : Nat)
  -- attention and the memory stacks (R355, R361, R362, R461)
  | attentionCommandStart (cmd : Nat)
  | bauRowRead (cmd bau : Nat) (fault : Bool)
  | attentionResultWrite (cmd : Nat)
  | refresh (stack channel : Nat)
  | hotRowThrottle (stack bank row : Nat)
  | hotRowSideQueue (stack channel : Nat)
  | hotRowWindowEnd
  -- tenancy (R367, R369, R372, R373, R376, R377, R381 to R386, R495, R510)
  | ptCfgWrite (part : Nat) (val : Word)
  | ownershipWrite (part off : Nat) (val : Word)
  | vfCtlWrite (part vf : Nat) (val : Word)
  | rcbAddressWrite (reg : RcbReg) (val : BitVec 64)
  | keySlotOrdinary (slot : Nat)
  | keySlotOff (slot : Nat)
  | keySlotPlain (slot : Nat)
  | keySlotSealedWrite (slot : Nat)
  | keyModeChangeComplete (slot : Nat)
  | sealUnwrap
  | sealGrantWrite (part vf ctx : Nat) (val : Word)
  | meterWrite (meter off : Nat) (val : Word)
  | meterTokenTick
  | egressReadAbort (id : Nat)
  | logBaseCommit (val : Word)
  | logCheckpoint
  | logEntryWrite
  -- scrubbing, injection, confinement and resets (R423, R445, R446, R452, R458, R491, R507)
  | scrubGo (part : Nat) (val : Word)
  | scrubGranule
  | patrolScrub (addr : Nat)
  | errorInject
  | contextKill (vf ctx : Nat)
  | vfReset (part vf : Nat)
  | partitionReset (part : Nat)
  | quiesceComplete (conf : Nat) (eng : EngineClass)
  | confinementCapture (conf : Nat)
  -- the device (R393, R395, R497 to R504)
  | powerOn
  | bootGo
  | bootVerifyComplete
  | deviceReset
  | pcieConventionalReset
  | watchdogKick
  | watchdogPeriodWrite (val : Word)
  | watchdogExpiry
  | voltageFrequencyLoop (slice : Nat) (up : Bool)
  | linkEqualisation (lane taps : Nat)
  | hbmReadEye (channel delay : Nat)
  | refreshThreshold (stack : Nat) (temp : Int)
  | ageingLoop (slice needMHz marginMV : Nat)
  | powerLimit (deciWatts : Nat)
  | thermalThrottle (slice : Nat) (temp : Int)
  | thermalTrip (temp : Int)
  | saddleFlitReplay (link : Nat)
  | saddleLinkRetrain (link : Nat) (trained : Option (BitVec 8))
  | colBridgeReplay (dir : Bool) (lane : Nat)
  | pcieLinkDown
  -- the host and the ports (R7, R218, R397, R399, R433, R451)
  | priResponse (id : Nat) (r : PriResp)
  | priTimeout (id : Nat)
  | stateReadback (unit index off : Nat)
  | debugHaltControl (vf ctx : Nat) (enable : Bool)
  | brkResume (wave slot : Nat)
  | mgmtKill (wave : Nat) (slot : Option Nat)
  | rbacc (dr : BitVec 96)
  | extest (cells : List Bool)
  | sample (cells : List Bool)
  | preload (cells : List Bool)
  | bypass
  | registerWrite (t : RegTarget) (val : Word)
  | l2MissReport (load : Nat)
  | captureDr
  | thermalThrottleRelease (slice : Nat) (temp : Int)
  | errorInjectComplete
  deriving DecidableEq, Repr

end Sys2Proof
end

