-- ==== Sys2Proof/Decode.lean ====
section
/-!
DEFINITION. Decoding and encoding of the S12's instruction words (spec/07_encoding.md R159 to R170, R178, R179,
and the encoding tables R189, R220, R243, R271, R298, R336, R352). A word decodes to an instruction, to an
instruction with a nonzero reserved field (trap 0x02, R468), or to nothing (trap 0x01, R467).
-/

namespace Sys2Proof

/-- The operand that an 8-bit code names (R162 Table 6). -/
def Operand.ofCode (c : Nat) : Operand :=
  if h : c < 128 then .v ⟨c, h⟩
  else if h : c - 128 < 64 then .x ⟨c - 128, h⟩
  else if h : c - 192 < 16 then .p ⟨c - 192, h⟩
  else if h : c - 208 < 16 then .sp ⟨c - 208, h⟩
  else if h : c - 224 < 31 then .k ⟨c - 224, h⟩
  else .lit

/-- The 8-bit code of an operand (R162 Table 6). -/
def Operand.code : Operand → Nat
  | .v n => n.val
  | .x n => 128 + n.val
  | .p n => 192 + n.val
  | .sp n => 208 + n.val
  | .k n => 224 + n.val
  | .lit => 255

/-- What a 32-bit word is. -/
inductive Decoded where
  /-- an instruction word or a lead-in word with every reserved field zero -/
  | ok (i : Instr)
  /-- the instruction, with a nonzero bit in a field that its description marks zero (R468) -/
  | reservedField (i : Instr)
  /-- no instruction: an unassigned opcode, or an unassigned value of a numbered code (R467, R468) -/
  | unassigned
  deriving DecidableEq, Repr

/-- An instruction whose reserved fields are all zero exactly when `zero` holds. -/
def resv (zero : Bool) (i : Instr) : Decoded := if zero then .ok i else .reservedField i

/-- atom and red share an opcode: bits [15:14] of the word tell them apart (R277). -/
def atomRed (l : Nat) (atom red : Instr) : Decoded :=
  if l / 16384 % 4 == 2 then .ok atom else if l / 16384 % 4 == 0 then .ok red else .unassigned

/-- Opcodes 0x00 to 0x1F (R178 Table 14). `l` is the word below its opcode; `d`, `a` and `b` are its three bytes. -/
def decodeControl (op l d a b : Nat) : Decoded :=
  match op with
  | 0x00 => resv (l == 0) (.nop)
  | 0x01 => resv (l / 1048576 == 0) (.br (BitVec.ofNat 20 (l % 1048576)))
  | 0x02 => .ok (.brt (Fin.ofNat 16 (l / 1048576)) (BitVec.ofNat 20 (l % 1048576)))
  | 0x03 => resv (b == 0 && d == 0) (.brx (.ofCode a))
  | 0x04 => .ok (.call (Fin.ofNat 16 (l / 1048576)) (BitVec.ofNat 20 (l % 1048576)))
  | 0x05 => resv (l / 16 == 0) (.ret (Fin.ofNat 16 (l % 16)))
  | 0x06 => resv (l / 1048576 == 0) (.tok (BitVec.ofNat 20 (l % 1048576)))
  | 0x07 => resv (l % 1048576 == 0) (.rejoin (Fin.ofNat 16 (l / 1048576)))
  | 0x08 => resv (b == 0 && d == 0) (.exit (.ofCode a))
  | 0x09 => resv (l == 0) (.yield)
  | 0x0A => resv (b == 0 && d == 0) (.waitf (.ofCode a))
  | 0x0B => resv (l / 262144 == 0) (.waitv (Fin.ofNat 4 ((l / 65536) % 4)) (.ofCode a) (.ofCode b))
  | 0x0C => resv (d == 0) (.fpt (BitVec.ofNat 16 (l % 65536)))
  | 0x0D => .ok (.sleep (BitVec.ofNat 24 (l)))
  | 0x0E => resv (l / 4 == 0) (.bar (Fin.ofNat 4 (l % 4)))
  | 0x0F => resv (l / 4 == 0) (.barArrive (Fin.ofNat 4 (l % 4)))
  | 0x10 => resv (l / 4 == 0) (.barWait (Fin.ofNat 4 (l % 4)))
  | 0x11 => if b == 0 then .ok (.lfsr (.ofCode d) (.ofCode a))
    else if b == 1 then resv (a == 0) (.lfsrRd (.ofCode d))
    else .reservedField (.lfsr (.ofCode d) (.ofCode a))
  | 0x12 => .ok (.modeSet (BitVec.ofNat 8 (d)) (BitVec.ofNat 16 (l % 65536)))
  | 0x13 => resv (l % 65536 == 0) (.modeGet (.ofCode d))
  | 0x14 => resv (b == 0 && d == 0) (.modePut (.ofCode a))
  | 0x15 => resv (l / 128 == 0) (.guard (Fin.ofNat 8 ((l / 16) % 8)) (Fin.ofNat 16 (l % 16)))
  | _ => .unassigned

/-- Opcodes 0x20 to 0x4F (R178 Table 15). `l` is the word below its opcode; `d`, `a` and `b` are its three bytes. -/
def decodeInteger (op l d a b : Nat) : Decoded :=
  match op with
  | 0x20 => .ok (.add (.ofCode d) (.ofCode a) (.ofCode b))
  | 0x21 => .ok (.sub (.ofCode d) (.ofCode a) (.ofCode b))
  | 0x22 => .ok (.addc (.ofCode d) (.ofCode a) (.ofCode b))
  | 0x23 => .ok (.subb (.ofCode d) (.ofCode a) (.ofCode b))
  | 0x24 => .ok (.mul (.ofCode d) (.ofCode a) (.ofCode b))
  | 0x25 => .ok (.mulh (.ofCode d) (.ofCode a) (.ofCode b))
  | 0x26 => .ok (.mad (.ofCode d) (.ofCode a) (.ofCode b))
  | 0x27 => .ok (.madh (.ofCode d) (.ofCode a) (.ofCode b))
  | 0x28 => .ok (.div (.ofCode d) (.ofCode a) (.ofCode b))
  | 0x29 => .ok (.rem (.ofCode d) (.ofCode a) (.ofCode b))
  | 0x2A => resv (b == 0) (.neg (.ofCode d) (.ofCode a))
  | 0x2B => resv (b == 0) (.abs (.ofCode d) (.ofCode a))
  | 0x2C => .ok (.min (.ofCode d) (.ofCode a) (.ofCode b))
  | 0x2D => .ok (.max (.ofCode d) (.ofCode a) (.ofCode b))
  | 0x2E => .ok (.and (.ofCode d) (.ofCode a) (.ofCode b))
  | 0x2F => .ok (.or (.ofCode d) (.ofCode a) (.ofCode b))
  | 0x30 => .ok (.xor (.ofCode d) (.ofCode a) (.ofCode b))
  | 0x31 => resv (b == 0) (.not (.ofCode d) (.ofCode a))
  | 0x32 => .ok (.andn (.ofCode d) (.ofCode a) (.ofCode b))
  | 0x33 => .ok (.shl (.ofCode d) (.ofCode a) (.ofCode b))
  | 0x34 => .ok (.shr (.ofCode d) (.ofCode a) (.ofCode b))
  | 0x35 => .ok (.sar (.ofCode d) (.ofCode a) (.ofCode b))
  | 0x36 => .ok (.rol (.ofCode d) (.ofCode a) (.ofCode b))
  | 0x37 => .ok (.bfx (.ofCode d) (.ofCode a) (.ofCode b))
  | 0x38 => .ok (.bfi (.ofCode d) (.ofCode a) (.ofCode b))
  | 0x39 => resv (b == 0) (.popc (.ofCode d) (.ofCode a))
  | 0x3A => resv (b == 0) (.clz (.ofCode d) (.ofCode a))
  | 0x3B => resv (b == 0) (.ctz (.ofCode d) (.ofCode a))
  | 0x3C => resv (b == 0) (.brev (.ofCode d) (.ofCode a))
  | 0x3D => .ok (.cmp (Fin.ofNat 16 (l / 1048576)) (Fin.ofNat 16 ((l / 65536) % 16)) (.ofCode a) (.ofCode b))
  | 0x3E => .ok (.sel (.ofCode d) (.ofCode a) (.ofCode b))
  | 0x3F => resv (b == 0) (.mov (.ofCode d) (.ofCode a))
  | 0x40 => .ok (.movi (.ofCode d) (BitVec.ofNat 16 (l % 65536)))
  | 0x41 => .ok (.movs (.ofCode d) (.ofCode a) (.ofCode b))
  | 0x42 => .ok (.shflIdx (.ofCode d) (.ofCode a) (.ofCode b))
  | 0x43 => .ok (.shflXor (.ofCode d) (.ofCode a) (.ofCode b))
  | 0x44 => .ok (.shflUp (.ofCode d) (.ofCode a) (.ofCode b))
  | 0x45 => .ok (.shflDown (.ofCode d) (.ofCode a) (.ofCode b))
  | 0x46 => .ok (.vote (.ofCode d) (.ofCode a) (BitVec.ofNat 8 (b)))
  | 0x47 => resv (l / 4 % 64 == 0) (.ballot (.ofCode d) (.ofCode a) (Fin.ofNat 4 (l % 4)))
  | 0x48 => resv (l / 32 % 8 == 0) (.redux (.ofCode d) (.ofCode a) (BitVec.ofNat 5 (l % 32)))
  | 0x49 => resv (l / 32 % 8 == 0) (.scan (.ofCode d) (.ofCode a) (((l / 16) % 2) == 1) (Fin.ofNat 16 (l % 16)))
  | 0x4A => .ok (.pand (.ofCode d) (.ofCode a) (.ofCode b))
  | 0x4B => .ok (.por (.ofCode d) (.ofCode a) (.ofCode b))
  | 0x4C => .ok (.pxor (.ofCode d) (.ofCode a) (.ofCode b))
  | 0x4D => resv (b == 0) (.pnot (.ofCode d) (.ofCode a))
  | 0x4E => resv (l / 4 % 64 == 0) (.pcnt (.ofCode d) (.ofCode a) (Fin.ofNat 4 (l % 4)))
  | _ => .unassigned

/-- Opcodes 0x50 to 0x7F (R178 Table 16). `l` is the word below its opcode; `d`, `a` and `b` are its three bytes. -/
def decodeFloat (op l d a b : Nat) : Decoded :=
  match op with
  | 0x50 => .ok (.fadd (.ofCode d) (.ofCode a) (.ofCode b))
  | 0x51 => .ok (.fsub (.ofCode d) (.ofCode a) (.ofCode b))
  | 0x52 => .ok (.fmul (.ofCode d) (.ofCode a) (.ofCode b))
  | 0x53 => .ok (.ffma (.ofCode d) (.ofCode a) (.ofCode b))
  | 0x54 => resv (b == 0) (.fabs (.ofCode d) (.ofCode a))
  | 0x55 => resv (b == 0) (.fneg (.ofCode d) (.ofCode a))
  | 0x56 => .ok (.fmin (.ofCode d) (.ofCode a) (.ofCode b))
  | 0x57 => .ok (.fmax (.ofCode d) (.ofCode a) (.ofCode b))
  | 0x58 => .ok (.fcmp (Fin.ofNat 16 (l / 1048576)) (Fin.ofNat 16 ((l / 65536) % 16)) (.ofCode a) (.ofCode b))
  | 0x59 => resv (b == 0) (.fcls (.ofCode d) (.ofCode a))
  | 0x5A => resv (b == 0) (.frcp (.ofCode d) (.ofCode a))
  | 0x5B => resv (b == 0) (.frsq (.ofCode d) (.ofCode a))
  | 0x5C => resv (b == 0) (.fsqrt (.ofCode d) (.ofCode a))
  | 0x5D => .ok (.fdiv (.ofCode d) (.ofCode a) (.ofCode b))
  | 0x5E => resv (b == 0) (.fex2 (.ofCode d) (.ofCode a))
  | 0x5F => resv (b == 0) (.flg2 (.ofCode d) (.ofCode a))
  | 0x60 => resv (b == 0) (.fsin (.ofCode d) (.ofCode a))
  | 0x61 => resv (b == 0) (.fcos (.ofCode d) (.ofCode a))
  | 0x62 => resv (b == 0) (.ffrac (.ofCode d) (.ofCode a))
  | 0x63 => resv (b == 0) (.fround (.ofCode d) (.ofCode a))
  | 0x64 => .ok (.fscale (.ofCode d) (.ofCode a) (.ofCode b))
  | 0x65 => resv (l / 16 % 16 == 0) (.cvtFi (.ofCode d) (.ofCode a) (Fin.ofNat 16 (l % 16)))
  | 0x66 => resv (l / 16 % 16 == 0) (.cvtIf (.ofCode d) (.ofCode a) (Fin.ofNat 16 (l % 16)))
  | 0x67 => resv (b / 32 == 0) (if b / 16 % 2 == 0 then .cvtFfFrom (.ofCode d) (.ofCode a) (Fin.ofNat 16 (l % 16))
    else .cvtFfTo (.ofCode d) (.ofCode a) (Fin.ofNat 16 (l % 16)))
  | 0x68 => .ok (.pack8 (.ofCode d) (.ofCode a) (Fin.ofNat 8 ((l / 32) % 8)) (Fin.ofNat 32 (l % 32)))
  | 0x69 => .ok (.pack6 (.ofCode d) (.ofCode a) (Fin.ofNat 8 ((l / 32) % 8)) (Fin.ofNat 32 (l % 32)))
  | 0x6A => .ok (.pack4 (.ofCode d) (.ofCode a) (Fin.ofNat 8 ((l / 32) % 8)) (Fin.ofNat 32 (l % 32)))
  | 0x6B => .ok (.unpack (.ofCode d) (.ofCode a) (Fin.ofNat 8 ((l / 32) % 8)) (Fin.ofNat 32 (l % 32)))
  | 0x6C => .ok (.dot2 (.ofCode d) (.ofCode a) (.ofCode b))
  | 0x6D => .ok (.dot4 (.ofCode d) (.ofCode a) (.ofCode b))
  | 0x6E => .ok (.dot8 (.ofCode d) (.ofCode a) (.ofCode b))
  | 0x6F => resv (b == 0 && d == 0) (.rseed (.ofCode a))
  | 0x70 => resv (a == 0 && b / 2 == 0) (if b % 2 == 0 then .rnext (.ofCode d) else .rnextH (.ofCode d))
  | 0x71 => .ok (.ipt (.ofCode d) (.ofCode a) (.ofCode b))
  | 0x72 => resv (b == 0) (.ilo (.ofCode d) (.ofCode a))
  | 0x73 => resv (b == 0) (.ihi (.ofCode d) (.ofCode a))
  | 0x74 => resv (b == 0) (.imid (.ofCode d) (.ofCode a))
  | 0x75 => resv (b == 0) (.iwid (.ofCode d) (.ofCode a))
  | 0x76 => .ok (.ihull (.ofCode d) (.ofCode a) (.ofCode b))
  | 0x77 => .ok (.isect (.ofCode d) (.ofCode a) (.ofCode b))
  | 0x78 => .ok (.iin (.ofCode d) (.ofCode a) (.ofCode b))
  | 0x79 => .ok (.ibis (.ofCode d) (.ofCode a) (.ofCode b))
  | 0x7A => .ok (.itake (.ofCode d) (.ofCode a) (.ofCode b))
  | 0x7B => .ok (.bbox (.ofCode d) (.ofCode a) (.ofCode b))
  | _ => .unassigned

/-- Opcodes 0x80 to 0xAF (R178 Table 17). `l` is the word below its opcode; `d`, `a` and `b` are its three bytes. -/
def decodeMemory (op l d a b : Nat) : Decoded :=
  match op with
  | 0x80 => .ok (.ldG (.ofCode d) (Fin.ofNat 8 ((l / 8192) % 8)) (Fin.ofNat 32 ((l / 256) % 32)) (.ofCode b))
  | 0x81 => .ok (.ldL (.ofCode d) (Fin.ofNat 8 ((l / 8192) % 8)) (Fin.ofNat 32 ((l / 256) % 32)) (.ofCode b))
  | 0x82 => .ok (.ldC (.ofCode d) (Fin.ofNat 8 ((l / 8192) % 8)) (Fin.ofNat 32 ((l / 256) % 32)) (.ofCode b))
  | 0x83 => .ok (.ldS (.ofCode d) (Fin.ofNat 8 ((l / 8192) % 8)) (Fin.ofNat 32 ((l / 256) % 32)) (.ofCode b))
  | 0x84 => .ok (.ldP (.ofCode d) (Fin.ofNat 8 ((l / 8192) % 8)) (Fin.ofNat 32 ((l / 256) % 32)) (.ofCode b))
  | 0x85 => .ok (.stG (.ofCode d) (Fin.ofNat 8 ((l / 8192) % 8)) (Fin.ofNat 32 ((l / 256) % 32)) (.ofCode b))
  | 0x86 => .ok (.stL (.ofCode d) (Fin.ofNat 8 ((l / 8192) % 8)) (Fin.ofNat 32 ((l / 256) % 32)) (.ofCode b))
  | 0x87 => .ok (.stC (.ofCode d) (Fin.ofNat 8 ((l / 8192) % 8)) (Fin.ofNat 32 ((l / 256) % 32)) (.ofCode b))
  | 0x88 => .ok (.stS (.ofCode d) (Fin.ofNat 8 ((l / 8192) % 8)) (Fin.ofNat 32 ((l / 256) % 32)) (.ofCode b))
  | 0x89 => .ok (.stP (.ofCode d) (Fin.ofNat 8 ((l / 8192) % 8)) (Fin.ofNat 32 ((l / 256) % 32)) (.ofCode b))
  | 0x8A => .ok (.ldx (.ofCode d) (Fin.ofNat 8 ((l / 8192) % 8)) (Fin.ofNat 32 ((l / 256) % 32)) (.ofCode b))
  | 0x8B => .ok (.stx (.ofCode d) (Fin.ofNat 8 ((l / 8192) % 8)) (Fin.ofNat 32 ((l / 256) % 32)) (.ofCode b))
  | 0x8C => .ok (.ild (.ofCode d) (Fin.ofNat 8 ((l / 8192) % 8)) (Fin.ofNat 32 ((l / 256) % 32)) (.ofCode b))
  | 0x8D => .ok (.ist (.ofCode d) (Fin.ofNat 8 ((l / 8192) % 8)) (Fin.ofNat 32 ((l / 256) % 32)) (.ofCode b))
  | 0x8E => resv (d == 0) (.prf (Fin.ofNat 8 ((l / 8192) % 8)) (Fin.ofNat 32 ((l / 256) % 32)) (.ofCode b))
  | 0x8F => atomRed l (.atomAdd (.ofCode d) (l / 8192 % 2 == 1) (Fin.ofNat 32 (l / 256 % 32)) (.ofCode b))
    (.redAdd (.ofCode d) (l / 8192 % 2 == 1) (Fin.ofNat 32 (l / 256 % 32)) (.ofCode b))
  | 0x90 => atomRed l (.atomFadd (.ofCode d) (l / 8192 % 2 == 1) (Fin.ofNat 32 (l / 256 % 32)) (.ofCode b))
    (.redFadd (.ofCode d) (l / 8192 % 2 == 1) (Fin.ofNat 32 (l / 256 % 32)) (.ofCode b))
  | 0x91 => atomRed l (.atomMin (.ofCode d) (l / 8192 % 2 == 1) (Fin.ofNat 32 (l / 256 % 32)) (.ofCode b))
    (.redMin (.ofCode d) (l / 8192 % 2 == 1) (Fin.ofNat 32 (l / 256 % 32)) (.ofCode b))
  | 0x92 => atomRed l (.atomMax (.ofCode d) (l / 8192 % 2 == 1) (Fin.ofNat 32 (l / 256 % 32)) (.ofCode b))
    (.redMax (.ofCode d) (l / 8192 % 2 == 1) (Fin.ofNat 32 (l / 256 % 32)) (.ofCode b))
  | 0x93 => atomRed l (.atomAnd (.ofCode d) (l / 8192 % 2 == 1) (Fin.ofNat 32 (l / 256 % 32)) (.ofCode b))
    (.redAnd (.ofCode d) (l / 8192 % 2 == 1) (Fin.ofNat 32 (l / 256 % 32)) (.ofCode b))
  | 0x94 => atomRed l (.atomOr (.ofCode d) (l / 8192 % 2 == 1) (Fin.ofNat 32 (l / 256 % 32)) (.ofCode b))
    (.redOr (.ofCode d) (l / 8192 % 2 == 1) (Fin.ofNat 32 (l / 256 % 32)) (.ofCode b))
  | 0x95 => atomRed l (.atomXor (.ofCode d) (l / 8192 % 2 == 1) (Fin.ofNat 32 (l / 256 % 32)) (.ofCode b))
    (.redXor (.ofCode d) (l / 8192 % 2 == 1) (Fin.ofNat 32 (l / 256 % 32)) (.ofCode b))
  | 0x96 => atomRed l (.atomExch (.ofCode d) (l / 8192 % 2 == 1) (Fin.ofNat 32 (l / 256 % 32)) (.ofCode b))
    (.redExch (.ofCode d) (l / 8192 % 2 == 1) (Fin.ofNat 32 (l / 256 % 32)) (.ofCode b))
  | 0x97 => atomRed l (.atomInc (.ofCode d) (l / 8192 % 2 == 1) (Fin.ofNat 32 (l / 256 % 32)) (.ofCode b))
    (.redInc (.ofCode d) (l / 8192 % 2 == 1) (Fin.ofNat 32 (l / 256 % 32)) (.ofCode b))
  | 0x98 => atomRed l (.atomDec (.ofCode d) (l / 8192 % 2 == 1) (Fin.ofNat 32 (l / 256 % 32)) (.ofCode b))
    (.redDec (.ofCode d) (l / 8192 % 2 == 1) (Fin.ofNat 32 (l / 256 % 32)) (.ofCode b))
  | 0x99 => if l / 16384 % 4 == 2 then .ok (.cas (.ofCode d) (l / 8192 % 2 == 1) (Fin.ofNat 32 (l / 256 % 32)) (.ofCode b))
    else .unassigned
  | 0x9A => if l / 8192 % 8 == 5 then .ok (.ldf (.ofCode d) (Fin.ofNat 32 (l / 256 % 32)) (.ofCode b)) else .unassigned
  | 0x9B => if l / 8192 % 8 == 5 then .ok (.stf (.ofCode d) (Fin.ofNat 32 (l / 256 % 32)) (.ofCode b)) else .unassigned
  | 0x9C => resv (b == 0 && d == 0) (.cpy (.ofCode a))
  | 0x9D => resv (b == 0 && d == 0) (.cpyCol (.ofCode a))
  | 0x9E => resv (b == 0 && d == 0) (.cpyMc (.ofCode a))
  | 0x9F => resv (d == 0) (.cpyThen (.ofCode a) (.ofCode b))
  | 0xA0 => resv (l % 65536 == 0) (.sealBatch (.ofCode d))
  | 0xA1 => resv (l / 16 == 0) (.bwait (Fin.ofNat 16 (l % 16)))
  | 0xA2 => resv (b == 0 && d == 0) (.slotFree (.ofCode a))
  | 0xA3 => resv (d == 0) (.tbarInit (.ofCode a) (.ofCode b))
  | 0xA4 => resv (d == 0) (.tbarExpect (.ofCode a) (.ofCode b))
  | 0xA5 => resv (b == 0) (.tbarArrive (.ofCode d) (.ofCode a))
  | 0xA6 => resv (d == 0) (.tbarWait (.ofCode a) (.ofCode b))
  | 0xA7 => resv (l / 64 == 0) (.fenceX (Fin.ofNat 8 ((l / 8) % 8)) (Fin.ofNat 8 (l % 8)))
  | 0xA8 => resv (l == 0) (.fenceH)
  | 0xA9 => .ok (.spl (.ofCode d) (.ofCode a) (.ofCode b))
  | 0xAA => .ok (.fil (.ofCode d) (.ofCode a) (.ofCode b))
  | _ => .unassigned

/-- Opcodes 0xB0 to 0xDF (R178 Table 18). `l` is the word below its opcode; `d`, `a` and `b` are its three bytes. -/
def decodeMatrix (op l d a b : Nat) : Decoded :=
  match op with
  | 0xB0 => resv (l / 262144 == 0) (.mma (Fin.ofNat 4 ((l / 65536) % 4)) (.ofCode a) (.ofCode b))
  | 0xB1 => resv (l / 262144 == 0) (.mmaB (Fin.ofNat 4 ((l / 65536) % 4)) (.ofCode a) (.ofCode b))
  | 0xB2 => resv (b == 0 && d == 0) (.mmat (.ofCode a))
  | 0xB3 => resv (l / 4 == 0) (.accSwap (Fin.ofNat 4 (l % 4)))
  | 0xB4 => resv (l / 8 == 0) (if l / 4 % 2 == 0 then .accZero (Fin.ofNat 4 (l % 4)) else .accZeroV (Fin.ofNat 4 (l % 4)))
  | 0xB5 => resv (l / 16 % 16 == 0) (.accRd (.ofCode d) (.ofCode a) (Fin.ofNat 4 ((l / 4) % 4)) (Fin.ofNat 4 (l % 4)))
  | 0xB6 => resv (l / 16 % 16 == 0) (.accWr (.ofCode d) (.ofCode a) (Fin.ofNat 4 ((l / 4) % 4)) (Fin.ofNat 4 (l % 4)))
  | 0xB7 => .ok (.tld (.ofCode d) (Fin.ofNat 8 ((l / 8192) % 8)) (Fin.ofNat 32 ((l / 256) % 32)) (.ofCode b))
  | 0xB8 => .ok (.tldT (.ofCode d) (Fin.ofNat 8 ((l / 8192) % 8)) (Fin.ofNat 32 ((l / 256) % 32)) (.ofCode b))
  | 0xB9 => .ok (.tst (.ofCode d) (Fin.ofNat 8 ((l / 8192) % 8)) (Fin.ofNat 32 ((l / 256) % 32)) (.ofCode b))
  | 0xBA => resv (l / 32 % 8 == 0) (.tscale (.ofCode d) (.ofCode a) (Fin.ofNat 32 (l % 32)))
  | 0xBB => resv (b == 0) (.fmtv (.ofCode d) (.ofCode a))
  | 0xD0 => .ok (.scq (.ofCode d) (.ofCode a) (.ofCode b))
  | 0xD1 => .ok (.scfill (.ofCode d) (.ofCode a) (.ofCode b))
  | 0xD2 => resv (b == 0) (.scinv (.ofCode d) (.ofCode a))
  | 0xD3 => .ok (.scage (.ofCode d) (.ofCode a) (.ofCode b))
  | 0xD4 => resv (b == 0 && d == 0) (.rast (.ofCode a))
  | 0xD5 => resv (d == 0) (.ray (.ofCode a) (.ofCode b))
  | _ => .unassigned

/-- Opcodes 0xE0 to 0xFF (R178 Table 19). `l` is the word below its opcode; `d`, `a` and `b` are its three bytes. -/
def decodeSystem (op l d a b : Nat) : Decoded :=
  match op with
  | 0xE0 => resv (b == 0 && d == 0) (.qpost (.ofCode a))
  | 0xE1 => .ok (.amerge (.ofCode d) (.ofCode a) (.ofCode b))
  | 0xE2 => resv (b == 0) (.afin (.ofCode d) (.ofCode a))
  | 0xE8 => resv (d == 0) (.lrec (.ofCode a) (.ofCode b))
  | 0xE9 => resv (b == 0 && d == 0) (.launch (.ofCode a))
  | 0xF0 => .ok (.lit (BitVec.ofNat 24 (l)))
  | 0xF1 => resv (l / 256 == 0) (.lih (BitVec.ofNat 8 (b)))
  | 0xF2 => resv (l / 256 == 0) (.trap (BitVec.ofNat 8 (b)))
  | 0xF3 => .ok (.sysr (.ofCode d) (BitVec.ofNat 16 (l % 65536)))
  | 0xF4 => .ok (.sysw (.ofCode d) (BitVec.ofNat 16 (l % 65536)))
  | 0xF5 => resv (l / 256 == 0) (.brk (BitVec.ofNat 8 (b)))
  | _ => .unassigned

/-- The instruction of a 32-bit word (R160, R178). -/
def decodeNat (w : Nat) : Decoded :=
  let op := w / 16777216 % 256
  let l := w % 16777216
  let d := l / 65536
  let a := l / 256 % 256
  let b := l % 256
  if op < 0x20 then decodeControl op l d a b
  else if op < 0x50 then decodeInteger op l d a b
  else if op < 0x80 then decodeFloat op l d a b
  else if op < 0xB0 then decodeMemory op l d a b
  else if op < 0xE0 then decodeMatrix op l d a b
  else decodeSystem op l d a b

/-- The instruction of a word (R160, R178). -/
def decode (w : Word) : Decoded := decodeNat w.toNat

/-- The primary opcode byte of a word. -/
def opByte (w : Word) : Nat := w.toNat / 16777216

/-- Opcodes that encoding version `ver` leaves unassigned although version 3 assigns them (R179, R467 Table 1). -/
def absentIn (ver op : Nat) : Bool :=
  (ver ≤ 2 && (op == 0xB1 || (0xE0 ≤ op && op ≤ 0xE2))) ||
  (ver ≤ 1 && ((0x71 ≤ op && op ≤ 0x7B) || op == 0x9F || op == 0xBA || (0xD0 ≤ op && op ≤ 0xD5)))

/-- Decoding under a kernel's encoding version (R179). -/
def decodeVersion (ver : Nat) (w : Word) : Decoded :=
  if absentIn ver (opByte w) then .unassigned else decode w

/-- A word from four bytes, the least significant byte first (R159). -/
def wordOfBytes (b0 b1 b2 b3 : Byte) : Word := b3 ++ b2 ++ b1 ++ b0

/-- Decoding of the bytes of a word in memory, with the bytes left over; fewer than four bytes give no word. -/
def decodeBytes : List Byte → Option (Decoded × List Byte)
  | b0 :: b1 :: b2 :: b3 :: rest => some (decode (wordOfBytes b0 b1 b2 b3), rest)
  | _ => none

/-- The four bytes of a word as memory holds them (R159). -/
def wordBytes (w : Word) : List Byte :=
  [w.extractLsb' 0 8, w.extractLsb' 8 8, w.extractLsb' 16 8, w.extractLsb' 24 8]

/-- The instruction that the decoder reads from a word of the opcode table: its 32 bits, laid out in memory byte by
byte. Rows with no bits (the events) have no word. -/
def decodeTableWord (nbits w : Nat) : Option Instr :=
  if nbits = 0 then none
  else match decodeBytes (wordBytes (BitVec.ofNat 32 w)) with
    | some (.ok i, _) => some i
    | _ => none

/-- The word of an instruction, as a number; an event has none. -/
def encodeNat : Instr → Option Nat
  | .nop => some (0x00000000)
  | .br off => some (0x01000000 + off.toNat)
  | .brt p off => some (0x02000000 + p.val * 1048576 + off.toNat)
  | .brx a => some (0x03000000 + a.code * 256)
  | .call r off => some (0x04000000 + r.val * 1048576 + off.toNat)
  | .ret r => some (0x05000000 + r.val)
  | .tok off => some (0x06000000 + off.toNat)
  | .rejoin k => some (0x07000000 + k.val * 1048576)
  | .exit a => some (0x08000000 + a.code * 256)
  | .yield => some (0x09000000)
  | .waitf a => some (0x0A000000 + a.code * 256)
  | .waitv c a b => some (0x0B000000 + c.val * 65536 + a.code * 256 + b.code)
  | .fpt k => some (0x0C000000 + k.toNat)
  | .sleep n => some (0x0D000000 + n.toNat)
  | .bar n => some (0x0E000000 + n.val)
  | .barArrive n => some (0x0F000000 + n.val)
  | .barWait n => some (0x10000000 + n.val)
  | .lfsr d a => some (0x11000000 + d.code * 65536 + a.code * 256)
  | .lfsrRd d => some (0x11000001 + d.code * 65536)
  | .modeSet s v => some (0x12000000 + s.toNat * 65536 + v.toNat)
  | .modeGet d => some (0x13000000 + d.code * 65536)
  | .modePut a => some (0x14000000 + a.code * 256)
  | .guard s p => some (0x15000000 + s.val * 16 + p.val)
  | .lrec a b => some (0xE8000000 + a.code * 256 + b.code)
  | .launch a => some (0xE9000000 + a.code * 256)
  | .lit l => some (0xF0000000 + l.toNat)
  | .lih h => some (0xF1000000 + h.toNat)
  | .trap c => some (0xF2000000 + c.toNat)
  | .sysr d s => some (0xF3000000 + d.code * 65536 + s.toNat)
  | .sysw d s => some (0xF4000000 + d.code * 65536 + s.toNat)
  | .brk c => some (0xF5000000 + c.toNat)
  | .add d a b => some (0x20000000 + d.code * 65536 + a.code * 256 + b.code)
  | .sub d a b => some (0x21000000 + d.code * 65536 + a.code * 256 + b.code)
  | .addc d a b => some (0x22000000 + d.code * 65536 + a.code * 256 + b.code)
  | .subb d a b => some (0x23000000 + d.code * 65536 + a.code * 256 + b.code)
  | .mul d a b => some (0x24000000 + d.code * 65536 + a.code * 256 + b.code)
  | .mulh d a b => some (0x25000000 + d.code * 65536 + a.code * 256 + b.code)
  | .mad d a b => some (0x26000000 + d.code * 65536 + a.code * 256 + b.code)
  | .madh d a b => some (0x27000000 + d.code * 65536 + a.code * 256 + b.code)
  | .div d a b => some (0x28000000 + d.code * 65536 + a.code * 256 + b.code)
  | .rem d a b => some (0x29000000 + d.code * 65536 + a.code * 256 + b.code)
  | .neg d a => some (0x2A000000 + d.code * 65536 + a.code * 256)
  | .abs d a => some (0x2B000000 + d.code * 65536 + a.code * 256)
  | .min d a b => some (0x2C000000 + d.code * 65536 + a.code * 256 + b.code)
  | .max d a b => some (0x2D000000 + d.code * 65536 + a.code * 256 + b.code)
  | .and d a b => some (0x2E000000 + d.code * 65536 + a.code * 256 + b.code)
  | .or d a b => some (0x2F000000 + d.code * 65536 + a.code * 256 + b.code)
  | .xor d a b => some (0x30000000 + d.code * 65536 + a.code * 256 + b.code)
  | .not d a => some (0x31000000 + d.code * 65536 + a.code * 256)
  | .andn d a b => some (0x32000000 + d.code * 65536 + a.code * 256 + b.code)
  | .shl d a b => some (0x33000000 + d.code * 65536 + a.code * 256 + b.code)
  | .shr d a b => some (0x34000000 + d.code * 65536 + a.code * 256 + b.code)
  | .sar d a b => some (0x35000000 + d.code * 65536 + a.code * 256 + b.code)
  | .rol d a b => some (0x36000000 + d.code * 65536 + a.code * 256 + b.code)
  | .bfx d a b => some (0x37000000 + d.code * 65536 + a.code * 256 + b.code)
  | .bfi d a b => some (0x38000000 + d.code * 65536 + a.code * 256 + b.code)
  | .popc d a => some (0x39000000 + d.code * 65536 + a.code * 256)
  | .clz d a => some (0x3A000000 + d.code * 65536 + a.code * 256)
  | .ctz d a => some (0x3B000000 + d.code * 65536 + a.code * 256)
  | .brev d a => some (0x3C000000 + d.code * 65536 + a.code * 256)
  | .cmp r p a b => some (0x3D000000 + r.val * 1048576 + p.val * 65536 + a.code * 256 + b.code)
  | .sel d a b => some (0x3E000000 + d.code * 65536 + a.code * 256 + b.code)
  | .mov d a => some (0x3F000000 + d.code * 65536 + a.code * 256)
  | .movi d i => some (0x40000000 + d.code * 65536 + i.toNat)
  | .movs d a b => some (0x41000000 + d.code * 65536 + a.code * 256 + b.code)
  | .shflIdx d a b => some (0x42000000 + d.code * 65536 + a.code * 256 + b.code)
  | .shflXor d a b => some (0x43000000 + d.code * 65536 + a.code * 256 + b.code)
  | .shflUp d a b => some (0x44000000 + d.code * 65536 + a.code * 256 + b.code)
  | .shflDown d a b => some (0x45000000 + d.code * 65536 + a.code * 256 + b.code)
  | .vote d a k => some (0x46000000 + d.code * 65536 + a.code * 256 + k.toNat)
  | .ballot d a s => some (0x47000000 + d.code * 65536 + a.code * 256 + s.val)
  | .redux d a o => some (0x48000000 + d.code * 65536 + a.code * 256 + o.toNat)
  | .scan d a e o => some (0x49000000 + d.code * 65536 + a.code * 256 + e.toNat * 16 + o.val)
  | .pand d a b => some (0x4A000000 + d.code * 65536 + a.code * 256 + b.code)
  | .por d a b => some (0x4B000000 + d.code * 65536 + a.code * 256 + b.code)
  | .pxor d a b => some (0x4C000000 + d.code * 65536 + a.code * 256 + b.code)
  | .pnot d a => some (0x4D000000 + d.code * 65536 + a.code * 256)
  | .pcnt d a s => some (0x4E000000 + d.code * 65536 + a.code * 256 + s.val)
  | .fadd d a b => some (0x50000000 + d.code * 65536 + a.code * 256 + b.code)
  | .fsub d a b => some (0x51000000 + d.code * 65536 + a.code * 256 + b.code)
  | .fmul d a b => some (0x52000000 + d.code * 65536 + a.code * 256 + b.code)
  | .ffma d a b => some (0x53000000 + d.code * 65536 + a.code * 256 + b.code)
  | .fabs d a => some (0x54000000 + d.code * 65536 + a.code * 256)
  | .fneg d a => some (0x55000000 + d.code * 65536 + a.code * 256)
  | .fmin d a b => some (0x56000000 + d.code * 65536 + a.code * 256 + b.code)
  | .fmax d a b => some (0x57000000 + d.code * 65536 + a.code * 256 + b.code)
  | .fcmp r p a b => some (0x58000000 + r.val * 1048576 + p.val * 65536 + a.code * 256 + b.code)
  | .fcls d a => some (0x59000000 + d.code * 65536 + a.code * 256)
  | .frcp d a => some (0x5A000000 + d.code * 65536 + a.code * 256)
  | .frsq d a => some (0x5B000000 + d.code * 65536 + a.code * 256)
  | .fsqrt d a => some (0x5C000000 + d.code * 65536 + a.code * 256)
  | .fdiv d a b => some (0x5D000000 + d.code * 65536 + a.code * 256 + b.code)
  | .fex2 d a => some (0x5E000000 + d.code * 65536 + a.code * 256)
  | .flg2 d a => some (0x5F000000 + d.code * 65536 + a.code * 256)
  | .fsin d a => some (0x60000000 + d.code * 65536 + a.code * 256)
  | .fcos d a => some (0x61000000 + d.code * 65536 + a.code * 256)
  | .ffrac d a => some (0x62000000 + d.code * 65536 + a.code * 256)
  | .fround d a => some (0x63000000 + d.code * 65536 + a.code * 256)
  | .fscale d a b => some (0x64000000 + d.code * 65536 + a.code * 256 + b.code)
  | .cvtFi d a c => some (0x65000000 + d.code * 65536 + a.code * 256 + c.val)
  | .cvtIf d a c => some (0x66000000 + d.code * 65536 + a.code * 256 + c.val)
  | .cvtFfFrom d a p => some (0x67000000 + d.code * 65536 + a.code * 256 + p.val)
  | .cvtFfTo d a p => some (0x67000010 + d.code * 65536 + a.code * 256 + p.val)
  | .pack8 d a k f => some (0x68000000 + d.code * 65536 + a.code * 256 + k.val * 32 + f.val)
  | .pack6 d a k f => some (0x69000000 + d.code * 65536 + a.code * 256 + k.val * 32 + f.val)
  | .pack4 d a k f => some (0x6A000000 + d.code * 65536 + a.code * 256 + k.val * 32 + f.val)
  | .unpack d a k f => some (0x6B000000 + d.code * 65536 + a.code * 256 + k.val * 32 + f.val)
  | .dot2 d a b => some (0x6C000000 + d.code * 65536 + a.code * 256 + b.code)
  | .dot4 d a b => some (0x6D000000 + d.code * 65536 + a.code * 256 + b.code)
  | .dot8 d a b => some (0x6E000000 + d.code * 65536 + a.code * 256 + b.code)
  | .rseed a => some (0x6F000000 + a.code * 256)
  | .rnext d => some (0x70000000 + d.code * 65536)
  | .rnextH d => some (0x70000001 + d.code * 65536)
  | .ipt d a b => some (0x71000000 + d.code * 65536 + a.code * 256 + b.code)
  | .ilo d a => some (0x72000000 + d.code * 65536 + a.code * 256)
  | .ihi d a => some (0x73000000 + d.code * 65536 + a.code * 256)
  | .imid d a => some (0x74000000 + d.code * 65536 + a.code * 256)
  | .iwid d a => some (0x75000000 + d.code * 65536 + a.code * 256)
  | .ihull d a b => some (0x76000000 + d.code * 65536 + a.code * 256 + b.code)
  | .isect d a b => some (0x77000000 + d.code * 65536 + a.code * 256 + b.code)
  | .iin d a b => some (0x78000000 + d.code * 65536 + a.code * 256 + b.code)
  | .ibis d a b => some (0x79000000 + d.code * 65536 + a.code * 256 + b.code)
  | .itake d a b => some (0x7A000000 + d.code * 65536 + a.code * 256 + b.code)
  | .bbox d a b => some (0x7B000000 + d.code * 65536 + a.code * 256 + b.code)
  | .ldG d w b x => some (0x80000000 + d.code * 65536 + w.val * 8192 + b.val * 256 + x.code)
  | .ldL d w b x => some (0x81000000 + d.code * 65536 + w.val * 8192 + b.val * 256 + x.code)
  | .ldC d w b x => some (0x82000000 + d.code * 65536 + w.val * 8192 + b.val * 256 + x.code)
  | .ldS d w b x => some (0x83000000 + d.code * 65536 + w.val * 8192 + b.val * 256 + x.code)
  | .ldP d w b x => some (0x84000000 + d.code * 65536 + w.val * 8192 + b.val * 256 + x.code)
  | .stG d w b x => some (0x85000000 + d.code * 65536 + w.val * 8192 + b.val * 256 + x.code)
  | .stL d w b x => some (0x86000000 + d.code * 65536 + w.val * 8192 + b.val * 256 + x.code)
  | .stC d w b x => some (0x87000000 + d.code * 65536 + w.val * 8192 + b.val * 256 + x.code)
  | .stS d w b x => some (0x88000000 + d.code * 65536 + w.val * 8192 + b.val * 256 + x.code)
  | .stP d w b x => some (0x89000000 + d.code * 65536 + w.val * 8192 + b.val * 256 + x.code)
  | .ldx d w b x => some (0x8A000000 + d.code * 65536 + w.val * 8192 + b.val * 256 + x.code)
  | .stx d w b x => some (0x8B000000 + d.code * 65536 + w.val * 8192 + b.val * 256 + x.code)
  | .ild d w b x => some (0x8C000000 + d.code * 65536 + w.val * 8192 + b.val * 256 + x.code)
  | .ist d w b x => some (0x8D000000 + d.code * 65536 + w.val * 8192 + b.val * 256 + x.code)
  | .prf w b x => some (0x8E000000 + w.val * 8192 + b.val * 256 + x.code)
  | .atomAdd d q b x => some (0x8F008000 + d.code * 65536 + q.toNat * 8192 + b.val * 256 + x.code)
  | .atomFadd d q b x => some (0x90008000 + d.code * 65536 + q.toNat * 8192 + b.val * 256 + x.code)
  | .atomMin d q b x => some (0x91008000 + d.code * 65536 + q.toNat * 8192 + b.val * 256 + x.code)
  | .atomMax d q b x => some (0x92008000 + d.code * 65536 + q.toNat * 8192 + b.val * 256 + x.code)
  | .atomAnd d q b x => some (0x93008000 + d.code * 65536 + q.toNat * 8192 + b.val * 256 + x.code)
  | .atomOr d q b x => some (0x94008000 + d.code * 65536 + q.toNat * 8192 + b.val * 256 + x.code)
  | .atomXor d q b x => some (0x95008000 + d.code * 65536 + q.toNat * 8192 + b.val * 256 + x.code)
  | .atomExch d q b x => some (0x96008000 + d.code * 65536 + q.toNat * 8192 + b.val * 256 + x.code)
  | .atomInc d q b x => some (0x97008000 + d.code * 65536 + q.toNat * 8192 + b.val * 256 + x.code)
  | .atomDec d q b x => some (0x98008000 + d.code * 65536 + q.toNat * 8192 + b.val * 256 + x.code)
  | .redAdd d q b x => some (0x8F000000 + d.code * 65536 + q.toNat * 8192 + b.val * 256 + x.code)
  | .redFadd d q b x => some (0x90000000 + d.code * 65536 + q.toNat * 8192 + b.val * 256 + x.code)
  | .redMin d q b x => some (0x91000000 + d.code * 65536 + q.toNat * 8192 + b.val * 256 + x.code)
  | .redMax d q b x => some (0x92000000 + d.code * 65536 + q.toNat * 8192 + b.val * 256 + x.code)
  | .redAnd d q b x => some (0x93000000 + d.code * 65536 + q.toNat * 8192 + b.val * 256 + x.code)
  | .redOr d q b x => some (0x94000000 + d.code * 65536 + q.toNat * 8192 + b.val * 256 + x.code)
  | .redXor d q b x => some (0x95000000 + d.code * 65536 + q.toNat * 8192 + b.val * 256 + x.code)
  | .redExch d q b x => some (0x96000000 + d.code * 65536 + q.toNat * 8192 + b.val * 256 + x.code)
  | .redInc d q b x => some (0x97000000 + d.code * 65536 + q.toNat * 8192 + b.val * 256 + x.code)
  | .redDec d q b x => some (0x98000000 + d.code * 65536 + q.toNat * 8192 + b.val * 256 + x.code)
  | .cas d q b x => some (0x99008000 + d.code * 65536 + q.toNat * 8192 + b.val * 256 + x.code)
  | .ldf d b x => some (0x9A00A000 + d.code * 65536 + b.val * 256 + x.code)
  | .stf d b x => some (0x9B00A000 + d.code * 65536 + b.val * 256 + x.code)
  | .cpy a => some (0x9C000000 + a.code * 256)
  | .cpyCol a => some (0x9D000000 + a.code * 256)
  | .cpyMc a => some (0x9E000000 + a.code * 256)
  | .cpyThen a b => some (0x9F000000 + a.code * 256 + b.code)
  | .sealBatch d => some (0xA0000000 + d.code * 65536)
  | .bwait k => some (0xA1000000 + k.val)
  | .slotFree a => some (0xA2000000 + a.code * 256)
  | .tbarInit a b => some (0xA3000000 + a.code * 256 + b.code)
  | .tbarExpect a b => some (0xA4000000 + a.code * 256 + b.code)
  | .tbarArrive d a => some (0xA5000000 + d.code * 65536 + a.code * 256)
  | .tbarWait a b => some (0xA6000000 + a.code * 256 + b.code)
  | .fenceX p q => some (0xA7000000 + p.val * 8 + q.val)
  | .fenceH => some (0xA8000000)
  | .spl d a b => some (0xA9000000 + d.code * 65536 + a.code * 256 + b.code)
  | .fil d a b => some (0xAA000000 + d.code * 65536 + a.code * 256 + b.code)
  | .mma n a b => some (0xB0000000 + n.val * 65536 + a.code * 256 + b.code)
  | .mmaB n a b => some (0xB1000000 + n.val * 65536 + a.code * 256 + b.code)
  | .mmat a => some (0xB2000000 + a.code * 256)
  | .accSwap n => some (0xB3000000 + n.val)
  | .accZero n => some (0xB4000000 + n.val)
  | .accZeroV n => some (0xB4000004 + n.val)
  | .accRd d a r n => some (0xB5000000 + d.code * 65536 + a.code * 256 + r.val * 4 + n.val)
  | .accWr d a r n => some (0xB6000000 + d.code * 65536 + a.code * 256 + r.val * 4 + n.val)
  | .tld d w b x => some (0xB7000000 + d.code * 65536 + w.val * 8192 + b.val * 256 + x.code)
  | .tldT d w b x => some (0xB8000000 + d.code * 65536 + w.val * 8192 + b.val * 256 + x.code)
  | .tst d w b x => some (0xB9000000 + d.code * 65536 + w.val * 8192 + b.val * 256 + x.code)
  | .tscale d a f => some (0xBA000000 + d.code * 65536 + a.code * 256 + f.val)
  | .fmtv d a => some (0xBB000000 + d.code * 65536 + a.code * 256)
  | .scq d a b => some (0xD0000000 + d.code * 65536 + a.code * 256 + b.code)
  | .scfill d a b => some (0xD1000000 + d.code * 65536 + a.code * 256 + b.code)
  | .scinv d a => some (0xD2000000 + d.code * 65536 + a.code * 256)
  | .scage d a b => some (0xD3000000 + d.code * 65536 + a.code * 256 + b.code)
  | .rast a => some (0xD4000000 + a.code * 256)
  | .ray a b => some (0xD5000000 + a.code * 256 + b.code)
  | .qpost a => some (0xE0000000 + a.code * 256)
  | .amerge d a b => some (0xE1000000 + d.code * 65536 + a.code * 256 + b.code)
  | .afin d a => some (0xE2000000 + d.code * 65536 + a.code * 256)
  | _ => none

/-- The word of an instruction (R160, R178 and the encoding tables); an event has none. -/
def encode (i : Instr) : Option Word := (encodeNat i).map (BitVec.ofNat 32)

end Sys2Proof
end

