-- ==== Sys2Proof/Machine/Aes.lean ====
section
/-!
DEFINITION. AES-XTS-256, which the spec names for memory under a key (spec/04_memory.md R87); its definition is that of
FIPS 197 and IEEE 1619. A data unit is one 128 B line, with the line's number as its tweak value, and a sector is one
16 B block of it.
-/

namespace Sys2Proof.Machine

/-- Multiplication by x in the field of AES. -/
def xtime (b : Byte) : Byte := (b <<< 1) ^^^ (if b.msb then 0x1B else 0)

/-- Multiplication in the field of AES: `n` bits of the first factor. -/
def gmul : Nat → Byte → Byte → Byte
  | 0, _, _ => 0
  | n + 1, a, b => (if a.getLsbD 0 then b else 0) ^^^ gmul n (a >>> 1) (xtime b)

/-- The inverse in the field of AES, 0 for 0: the 254th power. -/
def ginv (b : Byte) : Byte :=
  let p (x y : Byte) : Byte := gmul 8 x y
  let b2 := p b b
  let b4 := p b2 b2
  let b8 := p b4 b4
  let b16 := p b8 b8
  let b32 := p b16 b16
  let b64 := p b32 b32
  p (p (p b2 b4) (p b8 b16)) (p (p b32 b64) (p b64 b64))

/-- The substitution of AES and its inverse. -/
def sbox (b : Byte) : Byte :=
  let i := ginv b
  i ^^^ i.rotateLeft 1 ^^^ i.rotateLeft 2 ^^^ i.rotateLeft 3 ^^^ i.rotateLeft 4 ^^^ 0x63

def sboxInv (b : Byte) : Byte := ginv (b.rotateLeft 1 ^^^ b.rotateLeft 3 ^^^ b.rotateLeft 6 ^^^ 0x05)

/-- Bytewise exclusive or. -/
def xorBytes (a b : List Byte) : List Byte := List.zipWith (· ^^^ ·) a b

/-- The key schedule of AES-256: words from number `i` on, given those before it, newest first. -/
def keyWords : Nat → Nat → List (List Byte) → List (List Byte)
  | 0, _, ws => ws
  | n + 1, i, ws =>
    let last := ws.getD 0 []
    let rcon : List Byte := [(1 : Byte) <<< (i / 8 - 1), 0, 0, 0]
    let t := if i % 8 = 0 then xorBytes ((last.drop 1 ++ last.take 1).map sbox) rcon
      else if i % 8 = 4 then last.map sbox else last
    keyWords n (i + 1) (xorBytes (ws.getD 7 []) t :: ws)

/-- The 15 round keys of a 32-byte key. -/
def roundKeys (key : List Byte) : List (List Byte) :=
  let ws := (keyWords 52 8 ((List.range 8).map (fun i => slice key (4 * i) 4)).reverse).reverse
  (List.range 15).map (fun r => (List.range 4).flatMap (fun c => ws.getD (4 * r + c) []))

/-- Row shifts: byte `i` comes from column `i / 4 + i % 4`, or minus for the inverse. -/
def shiftRows (b : List Byte) : List Byte := (List.range 16).map (fun i => b.getD ((i + 4 * (i % 4)) % 16) 0)
def shiftRowsInv (b : List Byte) : List Byte := (List.range 16).map (fun i => b.getD ((i + 12 * (i % 4)) % 16) 0)

/-- Column mixing with the given row of coefficients. -/
def mixWith (m b : List Byte) : List Byte :=
  (List.range 16).map (fun i => (List.range 4).foldl (fun x j =>
    x ^^^ gmul 8 (m.getD ((j + 4 - i % 4) % 4) 0) (b.getD (i / 4 * 4 + j) 0)) 0)

/-- One AES-256 encryption of a block. -/
def aesEnc (key b : List Byte) : List Byte :=
  let ks := roundKeys key
  let mid := (List.range 13).foldl (fun x r =>
    xorBytes (mixWith [2, 3, 1, 1] (shiftRows (x.map sbox))) (ks.getD (r + 1) [])) (xorBytes b (ks.getD 0 []))
  xorBytes (shiftRows (mid.map sbox)) (ks.getD 14 [])

/-- One AES-256 decryption of a block. -/
def aesDec (key b : List Byte) : List Byte :=
  let ks := roundKeys key
  let mid := (List.range 13).foldl (fun x r =>
    mixWith [14, 11, 13, 9] (xorBytes ((shiftRowsInv x).map sboxInv) (ks.getD (13 - r) [])))
    (xorBytes b (ks.getD 14 []))
  xorBytes ((shiftRowsInv mid).map sboxInv) (ks.getD 0 [])

/-- The XTS tweak of block `j` of line `line` under a tweak key. -/
def xtsTweak (key : List Byte) (line j : Nat) : List Byte :=
  let step (t : Nat) : Nat := (2 * t % 2 ^ 128) ^^^ (if 2 ^ 127 ≤ t then 0x87 else 0)
  bytesOf 16 ((List.range j).foldl (fun t _ => step t) (natOfBytes (aesEnc key (bytesOf 16 line))))

/-- Encryption and decryption of block `j` of a line under a data key and a tweak key, 32 bytes each. -/
def xtsEnc (keys : List Byte) (line j : Nat) (b : List Byte) : List Byte :=
  let t := xtsTweak (keys.drop 32) line j
  xorBytes (aesEnc (keys.take 32) (xorBytes b t)) t

def xtsDec (keys : List Byte) (line j : Nat) (b : List Byte) : List Byte :=
  let t := xtsTweak (keys.drop 32) line j
  xorBytes (aesDec (keys.take 32) (xorBytes b t)) t

end Sys2Proof.Machine
end

