-- ==== Sys2Proof/Config.lean ====
section
/-!
DEFINITION. What the spec leaves open and what a device's fuses and random source decide: constants with no body, so
that nothing proved of the model can rest on a value of theirs.
-/

namespace Sys2Proof.Config

/-- A free value (R32, R69, R100, R457): drawn with the counter State.free. -/
opaque freeWord : Nat → Word

/-- A free byte, the `i`-th of a draw. -/
opaque freeByte : Nat → Nat → Byte

/-- Whether a path that has not been fenced observes the older of two values (R107, R113). -/
opaque pickOlder : (draw write : Nat) → Bool

/-- The `n`-th pair of 256-bit keys that the device's random source gives a key slot (R373). -/
opaque randomKey : Nat → Nat

/-- The bytes of VKHASH, by offset from root offset 0x0100: the fused hash of the vendor's key (R394). -/
opaque fusedByte : Nat → Byte

/-- The fused seal scalar of P-384 (R375). -/
opaque sealScalar : Nat

/-- The fused identity scalar of P-384 (R394). -/
opaque identityScalar : Nat

/-- The unit class that a UNIT code of the state readback names (R397, R399), in the numbering of Machine/Readout.lean. -/
opaque unitClass : Nat → Nat

/-- The nonce of the `n`-th signature that the device makes (R386). -/
opaque signNonce : Nat → Nat

/-- The nonce of the signature that the vendor made of the seal point with the identity key (R394). -/
opaque certNonce : Nat

end Sys2Proof.Config
end

