-- ==== Sys2Proof/Machine/State.lean ====
section
/-!
DEFINITION. The state of the S12 as plain data, the reasons a step can stop, and the state right after power-on.
Every piece of state that spec/ names has a home here (INVENTORY.md lists them with their rules); the model's own
fields are the focus (frag, wave, sibs, wg), the unit being formed (iss), the agenda and the free-value counter.
-/

namespace Sys2Proof.Machine

/-- A predicate value: false, true or undecided (R134). -/
inductive Tri where
  | f | t | u
  deriving DecidableEq, Repr

/-- A side of a serialised branch that has not run yet (R42). -/
structure Side where
  pc : VAddr := 0
  mask : LaneMask := 0
  deriving DecidableEq, Repr

/-- An entry of a deferral stack (R42). -/
structure Deferral where
  token : Option VAddr := none
  done : LaneMask := 0
  pending : List Side := []
  /-- W + 4 of the rejoin that reached the entry (R169) -/
  resume : VAddr := 0
  deriving DecidableEq, Repr

/-- A record of a wave's token table (R40); `deadline` is the ACLK count at which its timeout expires (R194, R432);
in a saved wave it holds the count that is left. -/
structure Token where
  addr : VAddr := 0
  expected : LaneMask := 0
  arrived : LaneMask := 0
  parent : Nat := 0
  deadline : Option Nat := none
  deriving DecidableEq, Repr

/-- The scheduling state of a fragment (R61 Table 3). -/
inductive Status where
  | ready | blocked | pendingReady | waiting | evicted
  deriving DecidableEq, Repr

/-- A lane's cell of a wait on memory: the lane, its address and the value compared with (R200 to R202). -/
structure Cell where
  lane : Nat
  addr : VAddr
  val : Word := 0
  deriving DecidableEq, Repr

/-- How far a lane's shading-cache lookup has come (R331). -/
inductive TexelAt where
  /-- held: every way is in flight, or the shade queue is full -/
  | held
  /-- parked on the entry with this tag key -/
  | parked (tag : Nat)
  /-- answered: the texel's bits and its poison -/
  | got (v : Nat) (pois : Bool)
  deriving DecidableEq, Repr

/-- A lane's texel in an scq that is not complete (R331, R337): its key, the texel's byte in the payload, whether p15
has its first outcome, and how far it has come. -/
structure Texel where
  lane : Nat
  key : Nat
  sel : Nat := 0
  seen : Bool := false
  at_ : TexelAt := .held
  /-- the entry that it was read from, plus one (R486) -/
  entry : Nat := 0
  deriving DecidableEq, Repr

/-- What a waiting fragment waits for (R62). -/
inductive Wait where
  /-- parked at a rejoin on token record `k` (R41) -/
  | rejoin (k : Nat)
  /-- parked on phase `phase` of barrier `n` (R206) -/
  | bar (n phase : Nat)
  /-- waitf (R201) -/
  | cells (cs : List Cell)
  /-- waitv with its compare code (R202) -/
  | counters (c : Nat) (cs : List Cell)
  /-- ldf on cells that are not full (R280), with the destination's operand code -/
  | future (d : Nat) (cs : List Cell)
  /-- bwait k (R289): every batch below this number is waited for -/
  | batch (stop : Nat)
  /-- seal with sixteen sealed batches incomplete (R289): the number of the oldest of them; the unit issues again at its
  wake -/
  | oldest (n : Nat)
  /-- tbar.wait: the barrier address and the phase parity that has to end (R292) -/
  | tbar (addr : Nat) (phase : Bool)
  /-- sleep: the ACLK count at which it ends (R199) -/
  | sleep (stop : Nat)
  /-- fence.x p,q: waits for the before set (R110); fence.h is p = q = 7 with `whole` (R111) -/
  | fence (p q : Nat) (whole : Bool)
  /-- pending loads whose registers the unit reads (R62) -/
  | loads (ids : List Nat)
  /-- scq (R331, R337): the destination's operand code, the grant and the frame of its issue, and its lanes -/
  | texels (d grant frame : Nat) (ts : List Texel)
  /-- acc.swap of order number `id`, for earlier matrix entries of its tile (R310) -/
  | swap (id : Nat)
  /-- the unit parks before it takes effect and issues again at its wake (R197, R289, R330) -/
  | again
  /-- a PRI page request (R451) -/
  | pri (id : Nat)
  /-- halted by brk c (R218) -/
  | halt (c : Nat)
  deriving DecidableEq, Repr

/-- What the fragment's next unit has to be (R197, R429). -/
inductive Hold where
  /-- anything -/
  | free
  /-- an fpt -/
  | fpt
  /-- an fpt, or an unguarded br to one, after a division or a serialisation -/
  | fptOrBr
  /-- an fpt, at the target of such a br -/
  | atTarget
  /-- anything; an fpt that stands next is not cut off from the scq before it (R404) -/
  | fptIfNext
  /-- an fpt, where a breach traps again on its retry: the rewind is no longer held (R429, R474) -/
  | fptUnheld
  deriving DecidableEq, Repr

/-- A fragment of a wave (R34 Table 2, R61, R69). -/
structure Frag where
  slot : Nat := 0
  pc : VAddr := 0
  mask : LaneMask := 0
  mr : Word := 0
  fbPc : VAddr := 0
  fbEntry : Option Nat := none
  shadow : SMap Word := []
  defers : List Deferral := []
  armed : Option VAddr := none
  chain : List Nat := []
  status : Status := .pendingReady
  wait : Option Wait := none
  /-- address of the unit that it issued last (R425) -/
  unit : VAddr := 0
  /-- where it continues once its wait returns: W + 4 of R169 -/
  resume : VAddr := 0
  /-- ACLK count of its last issue, or of its forming (R63) -/
  lastIssue : Nat := 0
  /-- ACLK count at which it entered its present status -/
  since : Nat := 0
  /-- ACLK count of the latest periodic re-test of its wait (R203) -/
  retested : Nat := 0
  /-- the lines of its wait for which its wave has no watch entry (R203, R463) -/
  left : List Nat := []
  /-- ACLK spent ready or pending-ready since its last issue, before `since` (R63 rule 1) -/
  readyTime : Nat := 0
  /-- its rank has been raised to 7 (R63) -/
  aged : Bool := false
  /-- units issued since it entered the active set, and when it entered (R63 rule 3) -/
  issued : Nat := 0
  activeSince : Nat := 0
  hold : Hold := .free
  /-- words of the recipe that are left, while one runs (R71) -/
  recipe : Option Nat := none
  deriving DecidableEq, Repr

/-- The registers of a trap handler (R413 Table 2), with the slot of the trapping fragment and the address of the
trapped unit's instruction word. -/
structure Handler where
  slot : Nat := 0
  cause : Nat := 0
  swcode : Nat := 0
  pc : VAddr := 0
  exec : LaneMask := 0
  lanes : LaneMask := 0
  addr : VAddr := 0
  aux : Word := 0
  mr : Word := 0
  /-- W of R169, for a return that continues -/
  w : VAddr := 0
  /-- the rewind hold of the trapping fragment (R415, R429), and the unit that broke it, whose retry breaks it again
  (R474) -/
  hold : Hold := .free
  breachAt : Option VAddr := none
  /-- encoding version of the handler's words (R411) -/
  version : Nat := 3
  deriving DecidableEq, Repr

/-- A write time and a read lease (R108). -/
structure Lease where
  wts : Nat := 0
  rts : Nat := 0
  deriving DecidableEq, Repr

/-- A wave (R31, R34). -/
structure Wave where
  id : Nat := 0
  core : Nat := 0
  port : Nat := 0
  /-- resident wave index on its port (R75) -/
  idx : Nat := 0
  wgId : Nat := 0
  /-- $wave (R33) -/
  index : Nat := 0
  /-- lanes that exist (R32) and lanes that have not exited -/
  present : LaneMask := 0
  live : LaneMask := 0
  vregs : SMap Word := []
  vpois : SMap Bool := []
  preds : SMap Tri := []
  gens : SMap Word := []
  xregs : SMap Word := []
  lfsr : BitVec 16 := 0xACE1
  tokens : List (Nat × Token) := []
  /-- the number of the open batch, counted without end; an instruction sees it modulo 256 (R289) -/
  batch : Nat := 0
  hx : Option Handler := none
  tickHi : Word := 0
  ptsHi : Word := 0
  /-- the private store's bytes of the wave, by region offset below 4,096, their poison, and their lines' leases -/
  priv : SMap Byte := []
  privPois : SMap Bool := []
  pleases : SMap Lease := []
  /-- ACLK count since when every fragment waits so that the wave may be parked (R66) -/
  parkSince : Option Nat := none
  /-- the wave is in its save slot (R66); the order of its wake (R67) -/
  away : Bool := false
  wake : Option Nat := none
  /-- the place in that order of its latest restoration, until it issues (R67) -/
  place : Option Nat := none
  /-- registers declared, for residency (R19) -/
  nregs : Nat := 1
  deriving DecidableEq, Repr

/-- A workgroup barrier (R204): the open phase, the lanes of each wave that arrived in it, and for each lane of the
workgroup the latest phase it arrived in, plus one. -/
structure Barrier where
  phase : Nat := 0
  arrived : SMap LaneMask := []
  last : SMap Nat := []
  deriving DecidableEq, Repr

/-- Effective budget values of a launch (R53). -/
structure Budget where
  rect : Nat := 0
  scratch : Nat := 0
  accum : Nat := 0
  copyq : Nat := 0
  lqdepth : Nat := 0
  prio : Nat := 0
  ticks : Nat := 0
  deriving DecidableEq, Repr

/-- A workgroup (R31, R34), with the fields of its kernel's header (R180) and of its launch. -/
structure Workgroup where
  id : Nat := 0
  launch : Nat := 0
  launchAddr : VAddr := 0
  part : Nat := 0
  vf : Nat := 0
  ctx : Nat := 0
  core : Nat := 0
  wx : Nat := 0
  wy : Nat := 0
  wz : Nat := 0
  lanes : Nat := 32
  kbase : VAddr := 0
  version : Nat := 3
  vregsDecl : Nat := 1
  priv : Nat := 0
  localBytes : Nat := 0
  cluster : Nat := 0
  clusterBase : Nat := 0
  accum : Nat := 0
  tokens : Nat := 0
  fbOff : Nat := 0
  fbCount : Nat := 0
  rcpOff : Nat := 0
  rcpLen : Nat := 0
  entryOff : Nat := 0
  args : VAddr := 0
  /-- position in the cluster tuple and the tuple's members (R31, R50) -/
  tuplePos : Nat := 0
  tuple : List Nat := []
  budget : Budget := {}
  lmem : SMap Byte := []
  lpois : SMap Bool := []
  lleases : SMap Lease := []
  bars : SMap Barrier := []
  fsc : Nat := 0
  fscPois : Bool := false
  /-- slots freed whose count has not reached a loader (R112, R313): commands posted before the slot.free, and the count -/
  frees : List (Nat × Nat) := []
  /-- accumulators: element (bank·4 + tile)·16,384 + 128·row + column; bank 0 of a tile is the visible one -/
  accs : SMap Word := []
  accPois : SMap Bool := []
  /-- acc.swaps that wait for earlier entries of the matrix queue (R310): their order number and tile -/
  swaps : List (Nat × Nat) := []
  /-- the seal grant taken at dispatch (R377) -/
  sealed : Option Nat := none
  statOr : Nat := 0
  statMax : Nat := 0
  nzLanes : Nat := 0
  /-- the job block of a fill workgroup (R335) -/
  job : Option Nat := none
  /-- issue is stopped: by a slice end or by a confinement (R68, R423) -/
  frozen : Bool := false
  startedAt : Nat := 0
  /-- the number of its first wave; it is complete and waits for the rest of its tuple (R50) -/
  firstWave : Nat := 0
  finished : Bool := false
  deriving DecidableEq, Repr

/-- A wave that is not in focus, with its fragments. -/
structure WaveBox where
  wave : Wave
  frags : List Frag
  deriving DecidableEq, Repr

/-- The unit being formed (R464): how many lead-in words it has, what they say, and the first word that breaks their
order. `word` is the word of the step in progress, `w` its address. -/
structure Issue where
  n : Nat := 0
  guard : Option (Nat × Nat) := none
  lih : Option (BitVec 8) := none
  lit : Option (BitVec 24) := none
  bad : Option Word := none
  resv : Bool := false
  word : Word := 0
  deriving DecidableEq, Repr

/-- A copy of a line in a core's L1 (R88, R108): the physical line with its key id, its valid sectors and bytes, the
lease and the ACLK of the grant. -/
structure L1Copy where
  line : Nat
  sectors : Nat := 0
  data : List Byte := []
  pois : Nat := 0
  wts : Nat := 0
  rts : Nat := 0
  grant : Nat := 0
  deriving DecidableEq, Repr

/-- A line of an L2 bank (R89, R108): the physical line with its key id, its storage line, its way, the function
charged, the sectors it has and those that are dirty, its recency stamp and its lease. -/
structure L2Line where
  line : Nat
  place : Nat := 0
  way : Nat := 0
  vf : Nat := 0
  valid : Nat := 0
  dirty : Nat := 0
  stamp : Nat := 0
  lease : Lease := {}
  deriving DecidableEq, Repr

/-- What one level of storage holds of a 16 B sector: its bytes as they were written, the tag of their keys, the line
location that was their tweak plus one, the poison marker, and an error beyond correction. -/
structure Stored where
  bytes : List Byte := []
  tag : Nat := 0
  loc : Nat := 0
  pois : Bool := false
  uncorr : Bool := false
  deriving DecidableEq, Repr

/-- A translation held by a TLB (R97, R99): `base` and `size` are what it maps, `page` and `span` the page of stage 1
that it lies in. -/
structure TlbEntry where
  vf : Nat
  ctx : Nat
  base : Nat
  size : Nat
  pa : Nat
  key : Nat
  w : Bool
  x : Bool
  /-- the partition through which it was read -/
  part : Nat := 0
  page : Nat := base
  span : Nat := size
  deriving DecidableEq, Repr

/-- A watch in the future wait table (R116, R203): a wave's fragment, or a launch queue, and the line's place. -/
structure Watch where
  wave : Nat
  slot : Nat
  line : Nat
  woken : Bool := false
  deriving DecidableEq, Repr

/-- The kinds of engine command. -/
inductive CmdKind where
  | cpy | cpyCol | cpyMc | cpyThen | migrate | mma | mmaB | mmat | accZero | rast | ray | qpost
  deriving DecidableEq, Repr

/-- How far a command has come. -/
inductive CmdPhase where
  /-- posted, not started -/
  | posted
  /-- held by a guard word (R288) -/
  | guarded
  /-- a multicast that waits for free slots of its receivers (R286) -/
  | slotless
  /-- running -/
  | running
  /-- a copy whose bytes have all been written and whose follow-on block is in the matrix queue (R287) -/
  | landed
  /-- all of it has been performed, or it has been discarded; its completion has not been counted -/
  | done
  deriving DecidableEq, Repr

/-- An attention triple (R357, R358): m, s and acc as f32 encodings, its flags, D code and rows. -/
structure Triple where
  m : Nat := 0xFF800000
  s : Nat := 0
  nonfin : Bool := false
  scov : Bool := false
  ovf : Bool := false
  dc : Nat := 0
  nrows : Nat := 0
  acc : List Nat := []
  deriving DecidableEq, Repr

/-- What a bank attention unit has done of a command (R355): the first unit it has not considered, the units scanned
and its triple; what they were before its latest row read, and when that read leaves the bank (R361, R490); aborts of that
row; and whether it scans for the second time (R489). -/
structure BauScan where
  next : Nat := 0
  units : Nat := 0
  tri : Triple := {}
  prevNext : Nat := 0
  prevUnits : Nat := 0
  prevTri : Triple := {}
  ends : Nat := 0
  aborts : Nat := 0
  rescan : Bool := false
  deriving DecidableEq, Repr

/-- An engine command that is posted and not complete (R283, R288, R289, R306, R342, R355). -/
structure Command where
  id : Nat
  kind : CmdKind
  phase : CmdPhase := .posted
  /-- the descriptor or block as read at issue, byte by byte -/
  desc : List Byte := []
  /-- operands taken at issue: accumulator, block place, format word, modes (the engine's module says which) -/
  args : List Nat := []
  engine : Nat := 0
  wg : Nat := 0
  wave : Nat := 0
  batch : Nat := 0
  part : Nat := 0
  vf : Nat := 0
  ctx : Nat := 0
  core : Nat := 0
  pc : VAddr := 0
  launch : VAddr := 0
  /-- 16 B sectors written, chunks or K-steps done, records written (the engine's module says which) -/
  progress : Nat := 0
  total : Nat := 0
  /-- consecutive residue mismatches of the running chunk (R481) -/
  retries : Nat := 0
  /-- events of the arithmetic log met so far: cause and count (R417) -/
  events : List (Nat × Nat) := []
  /-- the follow-on block of cpy.then, byte by byte -/
  follow : List Byte := []
  /-- where it was posted: port and resident wave index, $wave, fragment slot (R417) -/
  wpos : Nat := 0
  windex : Nat := 0
  frag : Nat := 0
  /-- partial results held by the engine, as words -/
  acc : List Nat := []
  postedAt : Nat := 0
  /-- order number of its entry into the matrix queue (R306) -/
  entered : Nat := 0
  /-- an attention command's query, its scans by BAU, and the code that poisons its triple (R355, R488) -/
  query : List Nat := []
  scans : SMap BauScan := []
  broken : Option Nat := none
  deriving DecidableEq, Repr

/-- A command that is complete, of a workgroup that is not (R110, R112). -/
structure DoneCmd where
  cmd : Nat
  wg : Nat
  wave : Nat
  batch : Nat
  /-- its wave has observed the completion -/
  seen : Bool := false
  deriving DecidableEq, Repr

/-- What the work distributor keeps of a kernel's header (R180, R181). -/
structure Kernel where
  version : Nat := 3
  vregs : Nat := 1
  accum : Nat := 0
  priv : Nat := 0
  tokens : Nat := 0
  localBytes : Nat := 0
  cluster : Nat := 0
  fbOff : Nat := 0
  fbCount : Nat := 0
  rcpOff : Nat := 0
  rcpLen : Nat := 0
  entryOff : Nat := 0
  deriving DecidableEq, Repr

/-- A launch that is released, or taken, and not complete (R56, R59, R405). -/
structure Launch where
  id : Nat
  addr : VAddr
  vf : Nat
  ctx : Nat
  part : Nat
  /-- 4 host launch, 5 child launch -/
  kind : Nat := 4
  parent : VAddr := 0
  /-- the core of the posting wave (child launches) -/
  fromCore : Nat := 0
  budget : Budget := {}
  kernel : Kernel := {}
  kbase : VAddr := 0
  args : BitVec 64 := 0
  done : VAddr := 0
  /-- lanes of a workgroup and workgroups of a tuple (R52 SHAPE) -/
  lanes : Nat := 32
  size : Nat := 1
  stagger : Nat := 0
  /-- the fixed cores that the placement map gives, by linear index (R60, R183) -/
  map : List (Option Nat) := []
  /-- the next workgroup or tuple to dispatch; workgroups in the grid; workgroups that have been counted as complete -/
  next : Nat := 0
  total : Nat := 0
  complete : Nat := 0
  gx : Nat := 1
  gy : Nat := 1
  releasedAt : Nat := 0
  ageStep : Nat := 0
  /-- the latest workgroup start on each slice, plus one (STAGGER, R59) -/
  starts : SMap Nat := []
  faulted : Bool := false
  /-- the queue entry it came from, plus one -/
  entry : Nat := 0
  job : Option Nat := none
  fdom : Bool := false
  /-- no further workgroup is dispatched (R421, R441) -/
  closed : Bool := false
  /-- the order of the writes that precede the release or the post in the v order (R112) -/
  vseen : Nat := 0
  deriving DecidableEq, Repr

/-- A child launch that is posted and not taken (R58): in entry `entry` of the pending-launch queue of core `core`, or
in its parent's overflow list. -/
structure Pending where
  id : Nat := 0
  core : Nat
  entry : Nat := 0
  child : VAddr
  parent : VAddr
  vf : Nat
  ctx : Nat
  part : Nat
  /-- the core of the wave that posted it, and when -/
  fromCore : Nat := 0
  postedAt : Nat := 0
  ageStep : Nat := 0
  /-- the order of the writes that precede the post in the v order (R112) -/
  vseen : Nat := 0
  deriving DecidableEq, Repr

/-- A confinement's progress (R423). -/
inductive ConfPhase where
  | frozen | quiet | captured
  deriving DecidableEq, Repr

/-- A fault record before it is written (R425 Table 10). -/
structure FaultRec where
  level : Nat := 0
  source : Nat := 0
  code : Nat := 0
  swcode : Nat := 0
  lmask : LaneMask := 0
  pc : Nat := 0
  addr : Nat := 0
  core : Nat := 0xFFFF
  wpos : Nat := 0
  wave : Nat := 0
  frag : Nat := 0
  vf : Nat := 0
  ctx : Nat := 0
  part : Nat := 0
  wx : Nat := 0
  wy : Nat := 0
  wz : Nat := 0
  launch : Nat := 0
  /-- the seal slot under which it is written (R378, R424) -/
  slot : Option Nat := none
  /-- when it was detected: the count of the reference clock, and the order (R428) -/
  cyc : Nat := 0
  seq : Nat := 0
  /-- of a record that is owed: it is told to its context (R454) -/
  told : Bool := false
  deriving DecidableEq, Repr

/-- A confinement in progress (R420, R423). -/
structure Conf where
  id : Nat
  level : Nat
  /-- the scope: workgroups (level 1), context, function, partition, device -/
  wgs : List Nat := []
  part : Nat := 0
  vf : Nat := 0
  ctx : Nat := 0
  /-- the causes, in the order of their detection (R428) -/
  causes : List FaultRec := []
  phase : ConfPhase := .frozen
  /-- engines that have not signalled quiesce-complete -/
  waiting : List EngineClass := []
  /-- launches of a fault domain (R421) -/
  launches : List Nat := []
  /-- what is reset after the clear (R491, R498, R504): 3 and a function, 4 a partition, 5 the device, 6 its power -/
  resets : List (Nat × Nat) := []
  deriving DecidableEq, Repr

/-- A workgroup that is not resident because its context was pre-empted (R68, R69), with the bytes of its cluster
banks, by position·2^20 + offset, and their poisoned sectors. -/
structure SavedWg where
  wg : Workgroup
  bank : SMap Byte := []
  bpois : SMap Bool := []
  deriving DecidableEq, Repr

/-- The image of a pre-empted or captured workgroup's waves (R69, R423). -/
structure Image where
  wg : Nat
  boxes : List WaveBox
  /-- pre-empted (rewound to flashback points), and to be resumed -/
  preempted : Bool := true
  /-- of a captured workgroup: its local memory, accumulators and cluster bank, as R69 saves them (R423) -/
  kept : Option SavedWg := none
  deriving DecidableEq, Repr

/-- A tag of the shading cache (R326), in its fields; its place gives HIDX. -/
structure ScTag where
  st : Nat := 0
  ref : Bool := false
  doom : Bool := false
  ver : Nat := 0
  frame : Nat := 0
  act : Nat := 0
  key : Nat := 0
  deriving DecidableEq, Repr

/-- A shading job (R334 Table 6): the slice whose queue it entered, and when. -/
structure Job where
  slice : Nat
  key : Nat
  ver : Nat
  cls : Nat
  frame : Nat
  at_ : Nat := 0
  deriving DecidableEq, Repr

/-- A load or an atomic whose data has not arrived: from a peer window (R117). -/
structure PendLoad where
  id : Nat
  wave : Nat
  slot : Nat
  /-- operand code of the destination, registers it takes in each lane, bits it loads and whether they extend signed -/
  dest : Nat
  regs : Nat
  bits : Nat
  sgn : Bool := false
  /-- the lanes that wait: lane, and window·2^46 + offset of the peer location -/
  items : List (Nat × Nat)
  /-- the lanes whose data was at hand: lane, value and poison -/
  got : List (Nat × Nat × Bool) := []
  missed : Bool := false
  /-- it is the answer of a read-modify-write, which performs at the peer (R68); the held sectors of its source that it
  may not pass (R382) -/
  atomic : Bool := false
  behind : List Nat := []
  deriving DecidableEq, Repr

/-- A write that some path may not have observed yet (R107, R113): the place and the older bytes, the order of the
write, the path and the engine command that made it, and who is known to observe it: path·2^32 + wave + 1 for one
wave's accesses on a path, path·2^32 for every access on it; path 8 stands for the completion of the command. -/
structure Older where
  place : Nat
  old : List Byte
  seq : Nat
  path : Nat
  cmd : Nat := 0
  seen : List Nat := []
  deriving DecidableEq, Repr

/-- A memory-side cache index's sector (R84): V, TAG and the D bits of its 16 lines. -/
structure MscSector where
  v : Bool := false
  tag : Nat := 0
  dirty : Nat := 0
  /-- 16 B sectors of it beyond correction, and lines of which the metadata, or only D, does not decode (R455, R456) -/
  bad : Nat := 0
  lost : Nat := 0
  dLost : Nat := 0
  /-- a fill in progress: the tag being brought in (R86) -/
  filling : Option Nat := none
  /-- waiting requests: tier offset, sectors asked for, and a write's mask -/
  queue : List (Nat × Nat × Option (BitVec 8)) := []
  deriving DecidableEq, Repr

/-- A page request sent to the host (R451): the 4 KiB page of host memory, and the fragment that waits, or the command,
plus one. -/
structure PriReq where
  id : Nat
  wave : Nat
  slot : Nat
  sentAt : Nat := 0
  page : Nat := 0
  cmd : Nat := 0
  /-- the trap code of an answer that is no success, which the unit or the command has not met yet; 0 while it waits -/
  code : Nat := 0
  deriving DecidableEq, Repr

/-- A scrub run of a partition (R458): first granule, granules, granules done. -/
structure Scrub where
  part : Nat
  first : Nat
  count : Nat
  done : Nat := 0
  deriving DecidableEq, Repr

/-- A source at an egress meter (R382): a virtual function, a copy engine, or the port's own controller. -/
inductive Sender where
  | vf (f : Nat)
  | engine (e : Nat)
  | port
  deriving DecidableEq, Repr

/-- A sector held at an egress meter, or a meter's outstanding read (R382, R495). -/
structure Held where
  id : Nat
  meter : Nat
  src : Sender
  addr : Nat
  bytes : List Byte := []
  read : Bool := false
  /-- the wave that wrote the sector, plus one; the meter of the port it leaves by; whether it is sealed egress -/
  wave : Nat := 0
  port : Nat := 0
  charged : Bool := true
  /-- the microsecond at which it began to wait, and what the sector asks of its target (see `Sent`) -/
  since : Nat := 0
  op : Nat := 0
  /-- its flit carries poison (R478); the partition and the window whose links carry it, plus one (R500) -/
  pois : Bool := false
  window : Nat := 0
  deriving DecidableEq, Repr

/-- What has left the device at a port (R382, R391): the meter of the port, the address at the target, the bytes, and what
they are: 0 a write; else the operand of a read-modify-write, by its opcode plus 256 times the ET that it reads; and
whether its flit carries poison (R478). -/
structure Sent where
  port : Nat
  addr : Nat
  bytes : List Byte
  op : Nat := 0
  pois : Bool := false
  deriving DecidableEq, Repr

/-- What an external reader of the device has been given (R397, R399, R495). -/
inductive ReadEnd where
  | waiting | done | aborted
  deriving DecidableEq, Repr

/-- A read from outside the device: an incoming read of a host function or a link, or a readback (meters 67 and 68). -/
structure ExtRead where
  id : Nat
  src : Source
  meter : Nat
  bytes : List Byte := []
  result : ReadEnd := .done
  deriving DecidableEq, Repr

/-- A write that takes effect only after its entry stands in the access log (R384, R385 Table 9). -/
inductive Logged where
  /-- a register of partition block `part` or of function `vf` in it -/
  | part (part off : Nat) (val : Word)
  | vf (part vf off : Nat) (val : Word)
  /-- MODE of a key slot -/
  | key (slot mode : Nat)
  | unwrap
  | grant (part vf ctx : Nat) (val : Word)
  | meter (i off : Nat) (val : Word)
  /-- debug halt of a context on or off -/
  | halt (vf ctx : Nat) (on : Bool)
  /-- a readback of a sealed context's state, at the management port (67) or the test port (68) -/
  | readback (port unit index off vf ctx : Nat)
  /-- the acceptance of an image after a device reset -/
  | image
  | checkpoint
  /-- an address of RCBs: PT_RCB or VF_RCBf, and the halves that a write gives it, low and high -/
  | rcb (reg : RcbReg) (lo hi : Option Word)
  deriving DecidableEq, Repr

/-- A write of the S12's own in a context's space that a key slot's change of mode or a line's lock holds (R118, R460): its
path, the context, its seal grant, the address and the bytes. -/
structure HeldWrite where
  path : Nat := 0
  part : Nat
  vf : Nat
  ctx : Nat
  grant : Option Nat
  va : Nat
  bytes : List Byte
  deriving DecidableEq, Repr

/-- What befalls the device and is no operation of its own: errors in its arrays (R422, R452), in the state of its
coherence (R463), and a measurement of its sensors (R396). -/
inductive Chance where
  /-- an uncorrectable error in a register of a lane, or in a 16 B sector of a wave's private store (codes 0x01, 0x04) -/
  | reg (wave lane reg : Nat)
  | priv (wave sec : Nat)
  /-- in an accumulator element (code 0x02) -/
  | acc (wg elt : Nat)
  /-- in a sector of a workgroup's local memory, or of a cluster bank (code 0x03) -/
  | lmem (wg sec : Nat)
  | bank (sec : Nat)
  /-- in a core's L1 copy of a line (code 0x05), or in a sector that L2 has, by storage place (code 0x06) -/
  | l1 (core line : Nat)
  | l2 (sec : Nat)
  /-- in a sector of Steppe, HBM4E or LPDDR6, by storage place, shading heaps included (codes 0x07 to 0x09, 0x0C) -/
  | store (sec : Nat)
  /-- in a sector of a carve-out index (code 0x0A), and in the metadata, or only the D bit, of a line of one (R455) -/
  | carve (slc index sec : Nat)
  | carveTag (slc index line : Nat) (dOnly : Bool)
  /-- in a tag of the shading cache (code 0x0B) -/
  | tag (key : Nat)
  /-- a correctable error of array `code` of slice `slc` -/
  | corrected (slc code : Nat)
  /-- lost wts or rts: of an L1 copy, of a line at its L2 home -/
  | leaseL1 (core line : Nat)
  | leaseHome (slc line : Nat)
  /-- lost: a bank's E, one of the three copies of its TMAX, a core's pts, a watch entry -/
  | bankE (slc : Nat)
  | tmax (slc copy val : Nat)
  | pts (core : Nat)
  | watch (wave slot line : Nat)
  /-- an uncorrectable error in a wave's fragment, token, deferral or wait table (code 0x01, R505), in a partition's registers
  (code 0x0F), and in a key slot, a device register or firmware's memory of key id 0 (code 0x10) -/
  | table (wave : Nat)
  | partRegs (part : Nat)
  | device
  /-- in the home directory's entry of a line that a migration has locked (R457) -/
  | lockBit (cmd line : Nat)
  /-- the host lays `n` bytes of its memory at a location that R79 leaves without backing -/
  | hostMemory (base n : Nat)
  /-- slice power over the last millisecond, in 0.1 W -/
  | power (slc val : Nat)
  deriving DecidableEq, Repr

/-- One turn of the agenda: which agent moves next. -/
inductive Turn where
  /-- the port's selection of R63 and R64 issues one word -/
  | issue (core port : Nat)
  /-- `dt` ACLK and `us` microseconds pass, and then the event happens -/
  | event (dt us : Nat) (ev : Instr)
  /-- the same, for what befalls the device -/
  | chance (dt us : Nat) (c : Chance)
  deriving DecidableEq, Repr

/-- Memory: bytes by storage place, in the canonical form of a sparse map whose unlisted places read as zero (R512). -/
abbrev Memory := List Host.Cell

/-- The canonical form: addresses strictly rising, and no entry equal to what an unlisted address reads as. -/
def Memory.wf (m : Memory) : Bool := SMap.wf 0 m

/-- The state of the device. -/
structure State where
  -- the issuing fragment, its wave, the wave's other fragments and its workgroup
  focus : Bool := false
  frag : Frag := {}
  wave : Wave := {}
  sibs : List Frag := []
  wg : Workgroup := {}
  iss : Issue := {}
  -- the other resident waves and workgroups, and those that are saved
  others : List WaveBox := []
  wgs : List Workgroup := []
  images : List Image := []
  saved : List SavedWg := []
  -- what the waves and workgroups that have ended left in their places, until a workgroup starts on their core (R400, R401)
  gone : List WaveBox := []
  goneWgs : List Workgroup := []
  -- clocks: cycles of the fixed 1.4 GHz reference, what each slice's ACLK has fallen behind it in 1/1,400 of a cycle (R6,
  -- R26), and microseconds
  aclk : Nat := 0
  lag : SMap Nat := []
  us : Nat := 0
  pts : SMap Nat := []
  -- memory, by storage place, and what is known of its 16 B sectors: the latest value, whichever level holds it
  mem : Memory := []
  poison : SMap Bool := []
  uncorr : SMap Bool := []
  tags : SMap Nat := []
  -- the line location plus one under which a sector was enciphered (R87)
  locs : SMap Nat := []
  -- sectors of which the level below L2 (HBM4E, or the memory-side cache) holds something else, and those of which LPDDR6
  -- holds something else than the memory-side cache (R85, R89)
  below : SMap (Option Stored) := []
  tier : SMap (Option Stored) := []
  scrubbed : SMap Nat := []
  scrubs : List Scrub := []
  bootScrub : Nat := 0
  cmem : SMap Byte := []
  cpois : SMap Bool := []
  cleases : SMap Lease := []
  -- caches, translation, coherence
  l1 : SMap (List L1Copy) := []
  l2 : SMap (List L2Line) := []
  l2E : SMap Nat := []
  -- TMAX of a bank, by slice·4 + copy (R463)
  l2Tmax : SMap Nat := []
  l2Stamp : Nat := 0
  -- foreign-way hits of a function in a bank, by slice·64 + function (R91)
  l2Foreign : SMap Nat := []
  -- the lease of a context's FRAME word, by function·256 + context (R216)
  frameLeases : SMap Lease := []
  steppeLeases : SMap Lease := []
  -- the lock bits of the home directory, by storage line: the migration that has set it, plus one (R118)
  locks : SMap Nat := []
  msc : SMap MscSector := []
  tlb : List TlbEntry := []
  invs : List (Nat × Nat) := []
  older : List Older := []
  oseq : Nat := 0
  watches : List Watch := []
  deficits : SMap Int := []
  weights : SMap Nat := []
  pendLoads : List PendLoad := []
  -- registers
  regs : SMap Word := []
  dbell : SMap Word := []
  -- queues, launches and engines
  launches : List Launch := []
  pending : List Pending := []
  -- children posted into overflow lists, in post order; the lists themselves stand in the RCBs
  listed : List Pending := []
  cmds : List Command := []
  -- commands of pre-empted workgroups that were withdrawn, or stopped between K-steps (R290, R316)
  withdrawn : List Command := []
  doneCmds : List DoneCmd := []
  -- lines of completion records, the engine commands of the workgroups that were counted there, and the timestamp of the
  -- update (R110, R112)
  ended : List (Nat × Nat × Nat) := []
  matq : SMap (List Nat) := []
  sliceTime : SMap Nat := []
  -- the shading cache: tags by (slice·2^15 + set)·16 + way, queued jobs in their order, and the jobs of the job blocks that
  -- are held, by slice·64 + block
  scTags : SMap ScTag := []
  jobs : List Job := []
  jobBlocks : SMap (List Job) := []
  bauFailed : SMap Bool := []
  -- faults
  confs : List Conf := []
  -- records and confinements that a cache's own access has met and that are not made yet (R454, R455)
  owed : List FaultRec := []
  alogLast : SMap Nat := []
  alogKey : SMap Nat := []
  doneFlags : SMap Nat := []
  -- tenancy
  keyGen : SMap Nat := []
  keyBusy : SMap Nat := []
  meterTokens : SMap Int := []
  held : List Held := []
  logSeq : Nat := 0
  logHash : List Byte := []
  logPending : List Logged := []
  imageHash : List Byte := []
  extReads : List ExtRead := []
  -- the sector place of the error injection in progress, plus one (R507)
  injecting : Nat := 0
  -- incoming accesses that a key slot's change of mode holds (R460): source, address, length, and the data of a write
  heldIn : List (Source × Nat × Nat × Option (List Byte)) := []
  heldOut : List HeldWrite := []
  -- what has left the device, newest first
  sent : List Sent := []
  -- the device
  powered : Bool := true
  -- the microsecond at which the watchdog count restarted (R497)
  wdogStart : Nat := 0
  sliceMHz : SMap Nat := []
  sliceCeil : SMap Nat := []
  sliceHot : SMap Bool := []
  hotStacks : SMap Bool := []
  sliceOut : SMap Bool := []
  laneTaps : SMap Nat := []
  readEye : SMap Nat := []
  -- the microseconds of a Saddle link's replays in its latest millisecond, the links that train, and those that are down (R500)
  replays : SMap (List Nat) := []
  training : SMap Bool := []
  linkDown : SMap Bool := []
  -- the module id that a link's far end reported, plus one
  linkIds : SMap Nat := []
  -- the microseconds of a Col bridge's replays in its latest millisecond (R501)
  colReplays : SMap (List Nat) := []
  colSpares : SMap Nat := []
  pcieUp : Bool := true
  -- activations of a DRAM row by a function: (place of the row / 2048)·64 + function; throttled functions of a row, plus
  -- one; refreshes issued to stack·64 + pseudo-channel (R361, R362, R461)
  rowActs : SMap Nat := []
  throttled : SMap Nat := []
  -- row reads that wait in the side queue of a function at a pseudo-channel, by (stack·64 + pseudo-channel)·64 + function:
  -- command and BAU (R461)
  sideQ : SMap (List (Nat × Nat)) := []
  refreshes : SMap Nat := []
  -- host memory: where it lies among the locations (DESIGN CHOICE, log 19), and the 4 KiB pages whose translation the host
  -- has given through ATS (R451)
  hostMem : List (Nat × Nat) := []
  atc : SMap Bool := []
  pri : List PriReq := []
  halts : SMap Bool := []
  halted : List (Nat × Nat) := []
  -- the test port
  testIr : BitVec 8 := 0xFF
  rbacc : BitVec 96 := 0
  bsr : List Bool := []
  testBypass : Bool := false
  -- the model's own fields
  agenda : List Turn := []
  free : Nat := 0
  nextId : Nat := 1
  deriving DecidableEq, Repr

/-- Why a step stops with a fault. -/
inductive Fault where
  /-- Raised by `step` when the dies are unpowered (R504) and the next turn is no power-on: nothing on them can take a
  step. Safe: the hardware does nothing either. -/
  | unpowered
  deriving DecidableEq, Repr

/-- Why an instruction is refused. -/
inductive Refusal where
  /-- Raised by the dispatcher for an instruction whose meaning is not written. Safe: nothing is claimed of it. -/
  | notModelled (mnemonic : String)
  deriving DecidableEq, Repr

/-- The device right after power-on: every field at its reset value (00_scope R7), no work resident, memory with
nothing listed (it reads as zero, R512), every HBM4E and LPDDR6 granule pending its scrub (`scrubbed` empty). -/
def State.reset : State := {}

end Sys2Proof.Machine
end

