-- ==== Sys2Proof/Machine/Regs.lean ====
section
/-!
DEFINITION. The device register space (spec/16_host.md R390) and the doorbell pages (spec/03_scheduling.md R55), and
the reset values of their registers. A register is stored as its difference from its reset value.
-/

namespace Sys2Proof.Machine

/-- Offset of a register of partition block `i` in the device register space (R390). -/
def blockOff (i off : Nat) : Nat := 0x100000 * (i + 1) + off

/-- Fused ceilings of meter `i`: rate and burst (R381 Table 7). -/
def fusedCeiling (i : Nat) : Nat × Nat :=
  if i < 67 then (4096, 0xFFFFFF) else if i = 67 then (64, 0x100000) else (1, 0x10000)

/-- Reset values of the root block's registers. -/
def rootReset (off : Nat) : Nat :=
  if off = 0x1000 then 3
  else if 0x400 ≤ off ∧ off < 0x460 ∧ off % 8 = 4 then 1400 * 0x10000
  else if 0x2000 ≤ off ∧ off < 0x2000 + 16 * 69 then
    if off % 16 = 8 then (fusedCeiling ((off - 0x2000) / 16)).1
    else if off % 16 = 12 then (fusedCeiling ((off - 0x2000) / 16)).2
    else 0
  else 0

/-- Reset values of a partition block's registers. -/
def partReset (off : Nat) : Nat :=
  if off = 0 then 16 * 256
  else if off = 0x4004 then 40 * 0x10000 + 8
  else if off = 0x4034 then 1
  else if 0x9000 ≤ off ∧ off < 0x9C00 then 0xFFFF
  else 0

/-- Reset value of the register at an offset of the device register space. -/
def regReset (off : Nat) : Word :=
  BitVec.ofNat 32 (if off < 0x100000 then rootReset off else partReset (off % 0x100000))

/-- A register of the device register space. -/
def State.reg (s : State) (off : Nat) : Word := SMap.get 0 off s.regs ^^^ regReset off

/-- Writes a register of the device register space. -/
def State.setReg (s : State) (off : Nat) (w : Word) : State :=
  { s with regs := SMap.set 0 off (w ^^^ regReset off) s.regs }

/-- A register of partition block `i`. -/
def State.preg (s : State) (i off : Nat) : Nat := (s.reg (blockOff i off)).toNat

/-- Writes a register of partition block `i`. -/
def State.setPreg (s : State) (i off v : Nat) : State := s.setReg (blockOff i off) (BitVec.ofNat 32 v)

/-- A 64-bit register pair of the device register space, low word first. -/
def State.reg64 (s : State) (off : Nat) : Nat := (s.reg off).toNat + 2 ^ 32 * (s.reg (off + 4)).toNat

/-- Writes a 64-bit register pair. -/
def State.setReg64 (s : State) (off v : Nat) : State :=
  (s.setReg off (BitVec.ofNat 32 v)).setReg (off + 4) (BitVec.ofNat 32 (v / 2 ^ 32))

/-- Reset value of a doorbell page's register (R55 Table 2). -/
def dbellReset (off : Nat) : Word := if off = 0x008 then 6 else if off = 0x014 then 2 else 0

/-- Place of a register of the doorbell page of context `c` of function `f`. -/
def dbellAt (f c off : Nat) : Nat := (f * 256 + c) * 4096 + off

/-- A register of a doorbell page. -/
def State.bell (s : State) (f c off : Nat) : Nat := (SMap.get 0 (dbellAt f c off) s.dbell ^^^ dbellReset off).toNat

/-- Writes a register of a doorbell page. -/
def State.setBell (s : State) (f c off v : Nat) : State :=
  { s with dbell := SMap.set 0 (dbellAt f c off) (BitVec.ofNat 32 v ^^^ dbellReset off) s.dbell }

/-- PT_CFG.EN of partition block `i` (R368). -/
def State.partEn (s : State) (i : Nat) : Bool := bitAt (s.preg i 0x4000) 31

/-- PT_CFG.N of partition block `i`. -/
def State.partN (s : State) (i : Nat) : Nat := field (s.preg i 0x4000) 8 4

/-- The enabled partition that owns slice `sl`, by its first slice (R367). -/
def State.partOf (s : State) (sl : Nat) : Option Nat :=
  (List.range 12).find? (fun i => s.partEn i && decide (i ≤ sl) && decide (sl < i + s.partN i))

/-- Bit `k` of a 64-bit ownership register of partition `i` (R368). -/
def State.partBit (s : State) (i off k : Nat) : Bool :=
  bitAt (s.preg i (off + 4 * (k / 32))) (k % 32)

/-- The partition whose VF register holds function `f` (R372). -/
def State.partOfVf (s : State) (f : Nat) : Option Nat :=
  (List.range 12).find? (fun i => s.partEn i && s.partBit i 0x4020 f)

/-- VF_CTL.EN of function `f` in partition `i` (R372). -/
def State.vfEn (s : State) (i f : Nat) : Bool := bitAt (s.preg i (0x6000 + 16 * f)) 31

/-- The interleave depth J of partition `i`, in bytes (R80). -/
def State.partJ (s : State) (i : Nat) : Nat := field (s.preg i 0x4004) 16 6 * 2 ^ 30

/-- The carve-out size K of partition `i`, in bytes (R80). -/
def State.partK (s : State) (i : Nat) : Nat := field (s.preg i 0x4004) 0 6 * 2 ^ 30

/-- The usable depth U of a stack of partition `i`, in bytes (R80). -/
def State.partU (s : State) (i : Nat) : Nat := 2 ^ 36 - 2 ^ 28 - s.partK i

/-- The ACLK of a slice, in MHz (R26, R215). -/
def State.mhz (s : State) (slc : Nat) : Nat := SMap.get 1400 slc s.sliceMHz

/-- The ACLK cycles that a slice has counted (R6, R26): those of the 1.4 GHz reference, less what its loop took away. -/
def State.cyc (s : State) (slc : Nat) : Nat := s.aclk - (SMap.get 0 slc s.lag + 1399) / 1400

/-- The ACLK cycles that a core has counted. -/
def State.coreCyc (s : State) (core : Nat) : Nat := s.cyc (core / 16)

/-- `n` cycles of the 1.4 GHz reference pass: a slice at m MHz counts m/1,400 of them (R26, R395). -/
def State.pass (s : State) (n : Nat) : State :=
  { s with aclk := s.aclk + n, lag := s.sliceMHz.foldl (fun m e => SMap.set 0 e.1 (SMap.get 0 e.1 m + n * (1400 - e.2)) m) s.lag }

/-- The reference cycles until a slice has counted one more (R26). -/
def State.cycleLen (s : State) (slc : Nat) : Nat :=
  (1400 - (1400 * s.aclk - SMap.get 0 slc s.lag) % 1400 + (max 1 (s.mhz slc) - 1)) / max 1 (s.mhz slc)

/-- One ACLK of a core passes. -/
def State.cycle (s : State) (core : Nat) : State := s.pass (s.cycleLen (core / 16))

/-- The mode of key slot `k` (R373). -/
def State.keyMode (s : State) (k : Nat) : Nat := field (s.reg (0x1000 + 4 * k)).toNat 0 2

/-- KS_CTLk.BUSY (R373). -/
def State.keyBusyBit (s : State) (k : Nat) : Bool := bitAt (s.reg (0x1000 + 4 * k)).toNat 2

/-- BOOT_CTL.STATE (R393). -/
def State.bootState (s : State) : Nat := field (s.reg 0x0000).toNat 0 2

/-- Writes through BAR 0 reach their registers, and virtual functions answer: the device is booted (R393). -/
def State.openBar (s : State) : Bool := decide (s.bootState = 2)

end Sys2Proof.Machine
end

