-- ==== Sys2Proof/Machine/Place.lean ====
section
/-!
DEFINITION. The physical map (spec/04_memory.md R79 to R82, R511), the reach of a partition (spec/15_tenancy.md R371),
stored bytes under a key (R87, R459, R512), and the two-stage translation (R94 to R96, R448).
Storage places: HBM4E stack s byte q is s·2^36 + q; LPDDR6 channel c byte a is lpBase + c·2^36 + a; Steppe keeps its
physical location.
-/

namespace Sys2Proof.Machine

/-- First LPDDR6 location (R79). -/
def lpBase : Nat := 0x010000000000

/-- First Steppe location (R79). -/
def stBase : Nat := 0x030000000000

/-- First location of the device register space (R79). -/
def regBase : Nat := 0x038000000000

/-- First location of the peer windows (R79). -/
def peerBase : Nat := 0x200000000000

/-- What a location [45:0] names. Peer window 8 is host memory, at its location (R451, R500). -/
inductive Region where
  | mem (place : Nat)
  | steppe (place : Nat)
  | regs (off : Nat)
  | peer (w off : Nat)
  | nothing
  deriving DecidableEq, Repr

/-- The stack byte of an HBM4E location (R80, R511). -/
def State.hbmPlace (s : State) (loc : Nat) : Region :=
  match s.partOf (loc / 2 ^ 36) with
  | none => .mem loc
  | some s0 =>
    let n := s.partN s0
    let j := s.partJ s0
    let u := s.partU s0
    let o := loc - s0 * 2 ^ 36
    if o < n * j then .mem ((s0 + o / 2048 % n) * 2 ^ 36 + (o / (2048 * n) * 2048 + o % 2048))
    else if o < n * u then .mem ((s0 + (o - n * j) / (u - j)) * 2 ^ 36 + (j + (o - n * j) % (u - j)))
    else .nothing

/-- The channel byte of an LPDDR6 location (R82, R511). -/
def State.lpPlace (s : State) (loc : Nat) : Region :=
  let sl := (loc - lpBase) / 2 ^ 37
  let s0 := (s.partOf sl).getD sl
  let n := if s.partOf sl = none then 1 else s.partN s0
  let o := loc - lpBase - s0 * 2 ^ 37
  let slc := s0 + o / 2048 % n
  let t := o / (2048 * n) * 2048 + o % 2048
  .mem (lpBase + (2 * slc + t / 2048 % 2) * 2 ^ 36 + (t / 4096 * 2048 + t % 2048))

/-- Host memory lies at a location, one that R79 leaves without backing (DESIGN CHOICE, log 19). -/
def State.inHost (s : State) (loc : Nat) : Bool := s.hostMem.any (fun h => decide (h.1 ≤ loc) && decide (loc < h.1 + h.2))

/-- What a location names (R79). -/
def State.resolve (s : State) (loc : Nat) : Region :=
  if loc < 12 * 2 ^ 36 then s.hbmPlace loc
  else if lpBase ≤ loc ∧ loc < lpBase + 12 * 2 ^ 37 then s.lpPlace loc
  else if stBase ≤ loc ∧ loc < stBase + 12 * 2 ^ 22 then .steppe loc
  else if regBase ≤ loc ∧ loc < regBase + 2 ^ 39 then .regs (loc - regBase)
  else if peerBase ≤ loc ∧ loc < peerBase + 8 * 2 ^ 42 then .peer ((loc - peerBase) / 2 ^ 42) ((loc - peerBase) % 2 ^ 42)
  else if s.inHost loc then .peer 8 loc
  else .nothing

/-- The slice that homes a storage place (R15, R22). -/
def placeSlice (p : Nat) : Nat :=
  if p < lpBase then p / 2 ^ 36 else if p < stBase then (p - lpBase) / 2 ^ 36 / 2 else (p - stBase) / 2 ^ 22

/-- The array code of a storage place (R422 Table 8): Steppe 0x07, HBM4E 0x08, LPDDR6 0x09. -/
def placeArray (p : Nat) : Nat := if p < lpBase then 0x08 else if p < stBase then 0x09 else 0x07

/-- PEER_WINw of partition `i` is in use: EN reads 1, its links are owned, and no far end of one that is up reported another
module than PEER (R391); a link that retrained to another module is down, and leaves the window's count (R500). -/
def State.peerOk (s : State) (i w : Nat) : Bool :=
  let r := s.preg i (0x5000 + 8 * w)
  let links := field r 0 18
  bitAt r 31 && decide (links ≠ 0) &&
    (List.range 18).all (fun j => !bitAt links j || (bitAt (s.preg i 0x4010) j &&
      (SMap.get false j s.linkDown || [0, field r 18 8 + 1].contains (SMap.get 0 j s.linkIds))))

/-- The links that carry PEER_WINw of partition `i`: those of LINKS that are up (R391, R500), ascending. Host memory's is the
PCIe port. -/
def State.peerLinks (s : State) (i w : Nat) : List Nat :=
  if w = 8 then (if s.pcieUp then [0] else []) else
  (List.range 18).filter (fun j => bitAt (s.preg i (0x5000 + 8 * w)) j && !SMap.get false j s.linkDown)

/-- Whether a translated access of partition `i` may reach a physical address (R371, R374): an owned key that is not
off, and an own range, an own Steppe bank, a peer window over owned links, or host memory (log 19). -/
def State.reach (s : State) (i pa : Nat) : Bool :=
  let key := pa / 2 ^ 46 % 64
  let loc := pa % 2 ^ 46
  let n := s.partN i
  s.partBit i 0x4018 key && decide (key ≠ 0) && (s.keyBusyBit key || decide (s.keyMode key ≠ 0)) &&
  ((decide (i * 2 ^ 36 ≤ loc) && decide (loc < i * 2 ^ 36 + n * s.partU i)) ||
   (decide (lpBase + i * 2 ^ 37 ≤ loc) && decide (loc < lpBase + (i + n) * 2 ^ 37)) ||
   (decide (stBase + i * 2 ^ 22 ≤ loc) && decide (loc < stBase + (i + n) * 2 ^ 22)) ||
   (decide (peerBase ≤ loc) && decide (loc < peerBase + 8 * 2 ^ 42) &&
     decide ((loc - peerBase) % 2 ^ 42 < regBase) && s.peerOk i ((loc - peerBase) / 2 ^ 42)) ||
   (match s.resolve loc with
    | .peer 8 _ => true
    | _ => false))

/-- The tag that a write under key id `k` leaves on an HBM4E or LPDDR6 sector: 1 for plain storage, else 2 plus what
names the slot's keys: 2·n for the `n`-th fresh pair, 2·Km + 1 for an unwrapped one (R373, R376). A place never written, or
holding the zero marker, has tag 0. A Steppe line's tag is the key id of its last write (R78). -/
def State.keyTag (s : State) (k : Nat) : Nat :=
  if s.keyMode k = 3 then 1 else 2 + SMap.get 0 k s.keyGen

/-- The keys of a tag, 64 bytes: the data key and the tweak key (R373, R376). -/
def tagKeys (tag : Nat) : List Byte :=
  bytesOf 64 (if tag % 2 = 1 then (tag - 2) / 2 else Config.randomKey ((tag - 2) / 2))

/-- A storage place of an enabled partition's shading heap or carve-out, which has no location (R80). -/
def State.atTop (s : State) (p : Nat) : Bool :=
  match s.partOf (placeSlice p) with
  | some i => decide (p < lpBase) && decide (s.partU i ≤ p % 2 ^ 36)
  | none => false

/-- The location of a storage place of HBM4E or LPDDR6 (R80, R82), in the partition that owns its slice; a place of a
heap or a carve-out stands for itself (R325). -/
def State.placeLoc (s : State) (p : Nat) : Nat :=
  let sl := placeSlice p
  if s.atTop p then p else
  match s.partOf sl with
  | none => if p < lpBase then p else
      let t := ((p - lpBase) % 2 ^ 36 / 2048 * 2 + (p - lpBase) / 2 ^ 36 % 2) * 2048 + p % 2048
      lpBase + sl * 2 ^ 37 + t
  | some s0 =>
    let n := s.partN s0
    if p < lpBase then
      let q := p % 2 ^ 36
      let j := s.partJ s0
      s0 * 2 ^ 36 +
        (if q < j then (q / 2048 * n + (sl - s0)) * 2048 + q % 2048 else n * j + (sl - s0) * (s.partU s0 - j) + (q - j))
    else
      let t := ((p - lpBase) % 2 ^ 36 / 2048 * 2 + (p - lpBase) / 2 ^ 36 % 2) * 2048 + p % 2048
      lpBase + s0 * 2 ^ 37 + (t / 2048 * n + (sl - s0)) * 2048 + t % 2048

/-- A sector, the `b`-th of its line, written under tag `src` at line location `at_` and read under tag `dst` at line
location `loc` (R87, R460): its ciphertext deciphered. -/
def recipher (dst loc src at_ b : Nat) (bs : List Byte) : List Byte :=
  let stored := if src = 1 then bs else xtsEnc (tagKeys src) at_ b bs
  if dst = 1 then stored else xtsDec (tagKeys dst) loc b stored

/-- The 2 MiB granule that holds the location of a storage place (R458, R512). -/
def State.granuleOf (s : State) (p : Nat) : Nat := s.placeLoc p / 2 ^ 21

/-- Whether a granule's scrub-pending bit is set (R458, R512): `scrubbed` holds the granules whose state differs from
what the power-on scrub has reached, 1 for done ahead of it, 2 for pending in a run. -/
def State.granulePending (s : State) (g : Nat) : Bool :=
  let m := SMap.get 0 g s.scrubbed
  decide (m = 2) || (decide (s.bootScrub ≤ g) && decide (m ≠ 1))

/-- Whether the scrub-pending bit of a storage place's granule is set. -/
def State.scrubPending (s : State) (p : Nat) : Bool :=
  decide (p < stBase) && s.granulePending (s.granuleOf p) && !s.atTop p

/-- The 16 stored bytes of a sector as read under key id `k` (R87, R459, R460, R512); Steppe holds plaintext (R78). -/
def State.sectorBytes (s : State) (k sec : Nat) : List Byte :=
  if s.scrubPending (16 * sec) then List.replicate 16 0
  else
    let raw := SMap.getList 0 (16 * sec) 16 s.mem
    let tag := SMap.get 0 sec s.tags
    let loc := s.placeLoc (16 * sec) / 128
    if stBase ≤ 16 * sec ∨ tag = 0 ∨ (tag = s.keyTag k ∧ (tag = 1 ∨ SMap.get 0 sec s.locs = loc + 1)) then raw
    else recipher (s.keyTag k) loc tag (SMap.get 0 sec s.locs - 1) (sec % 8) raw

/-- A sector reads poisoned, or cannot be corrected (R453, R422). -/
def State.sectorBad (s : State) (sec : Nat) : Bool :=
  !s.scrubPending (16 * sec) && (SMap.get false sec s.poison || SMap.get false sec s.uncorr)

/-- `n` bytes from a storage place as read under key id `k`. -/
def State.placeBytes (s : State) (k p n : Nat) : List Byte :=
  let all := (List.range ((p % 16 + n + 15) / 16)).flatMap (fun i => s.sectorBytes k (p / 16 + i))
  (all.drop (p % 16)).take n

/-- Some sector of `n` bytes from a storage place is bad. -/
def State.placeBad (s : State) (p n : Nat) : Bool :=
  (List.range ((p % 16 + n + 15) / 16)).any (fun i => s.sectorBad (p / 16 + i))

/-- Bytes read at a physical address by the S12 itself (R513): unbacked locations read as poisoned zeros. The range
stays within one 2 KiB row. -/
def State.physBytes (s : State) (pa n : Nat) : List Byte × Bool :=
  match s.resolve (pa % 2 ^ 46) with
  | .mem p => (s.placeBytes (pa / 2 ^ 46 % 64) p n, s.placeBad p n)
  | .steppe p => (s.placeBytes (pa / 2 ^ 46 % 64) p n, s.placeBad p n)
  | _ => (List.replicate n 0, true)

/-- Why a translation fails: the trap code, the intermediate address of a stage-2 failure (R450), and the level and
array code of a table entry that cannot be corrected, with the entry's physical address (R422). -/
structure XFail where
  code : Nat
  ipa : Option Nat := none
  ue : Option (Nat × Nat × Nat) := none
  deriving DecidableEq, Repr

/-- What the highest level that has a sector holds of it. -/
def State.topStored (s : State) (sec : Nat) : Stored :=
  { bytes := SMap.getList 0 (16 * sec) 16 s.mem, tag := SMap.get 0 sec s.tags, loc := SMap.get 0 sec s.locs
    pois := SMap.get false sec s.poison, uncorr := SMap.get false sec s.uncorr }

/-- What HBM4E, or the memory-side cache, holds of a sector (R83, R89). -/
def State.belowStored (s : State) (sec : Nat) : Stored := (SMap.get none sec s.below).getD (s.topStored sec)

/-- What LPDDR6 holds of a sector of the tier (R83, R85). -/
def State.tierStored (s : State) (sec : Nat) : Stored := (SMap.get none sec s.tier).getD (s.belowStored sec)

/-- A walk's leaf: its entry, the entry's physical address and the page size. -/
structure XLeaf where
  entry : Nat
  at_ : Nat
  size : Nat
  deriving DecidableEq, Repr

/-- A translation: the physical address, the page size, the page size of stage 1, and the entries that its walk read,
in order, each with the A and D bits that the access sets in it. -/
structure XOk where
  pa : Nat
  size : Nat
  span : Nat := size
  w : Bool
  x : Bool
  marks : List (Nat × Nat) := []
  deriving DecidableEq, Repr

/-- Index shift and index width of a translation level (R94 Table 7). -/
def levelShape : Nat → Nat × Nat
  | 0 => (12, 9)
  | 1 => (21, 11)
  | 2 => (32, 12)
  | _ => (44, 12)

/-- Page size of a leaf (R94, R95), or size of the next table. -/
def levelSize (lvl e : Nat) : Nat :=
  if bitAt e 7 then
    (if lvl = 0 then (if bitAt e 8 then 2 ^ 16 else 2 ^ 12)
     else if lvl = 1 then (if bitAt e 8 then 2 ^ 28 else 2 ^ 21) else 2 ^ 32)
  else (if lvl = 3 then 2 ^ 15 else if lvl = 2 then 2 ^ 14 else 2 ^ 12)

/-- The ADDR field of an entry, in place. -/
def entryAddr (e : Nat) : Nat := field e 12 40 * 4096

/-- An entry is valid and well formed at its level and stage (R95, R448). -/
def entryOk (stage1 : Bool) (lvl e : Nat) : Bool :=
  bitAt e 0 && decide (field e 1 2 = 0) && decide (field e 9 3 = 0) && decide (field e 52 12 = 0) &&
  !(decide (lvl = 3) && bitAt e 7) && (bitAt e 7 || decide (lvl ≠ 0)) && !(decide (2 ≤ lvl) && bitAt e 8) &&
  !(stage1 && decide (field e 46 6 ≠ 0)) && decide (entryAddr e % levelSize lvl e = 0)

/-- Stage-2 walk of an intermediate address (R94): levels `n - 1` down to 0 from the table at physical `tab`. Gives the
leaf and, after `es`, the physical addresses of the entries read. -/
def State.walk2 (s : State) (ipa : Nat) : Nat → Nat → List Nat → Except XFail (XLeaf × List Nat)
  | 0, _, _ => .error { code := 0x08, ipa := some ipa }
  | n + 1, tab, es =>
    let sh := levelShape n
    let ea := tab + 8 * (ipa / 2 ^ sh.1 % 2 ^ sh.2)
    let r := s.physBytes ea 8
    let e := natOfBytes r.1
    if r.2 then .error { code := 0x08, ue := some (3, 0x0E, ea) }
    else if !entryOk false n e then .error { code := 0x08, ipa := some ipa }
    else if bitAt e 7 then .ok ({ entry := e, at_ := ea, size := levelSize n e }, es ++ [ea])
    else s.walk2 ipa n (entryAddr e) (es ++ [ea])

/-- The physical address that a leaf gives an address. -/
def XLeaf.addr (l : XLeaf) (a : Nat) : Nat := entryAddr l.entry / l.size * l.size + a % l.size

/-- The stage-2 root of function `f` in partition `i` (R372). -/
def State.s2root (s : State) (i f : Nat) : Nat :=
  s.preg i (0x6000 + 16 * f + 4) / 2 ^ 15 * 2 ^ 15 + field (s.preg i (0x6000 + 16 * f + 8)) 0 20 * 2 ^ 32

/-- The stage-1 root of a context (R98), an intermediate address. -/
def State.s1root (s : State) (f c : Nat) : Nat :=
  s.bell f c 0x100 / 2 ^ 15 * 2 ^ 15 + field (s.bell f c 0x104) 0 14 * 2 ^ 32

/-- The bits that an access sets in the entries it goes through (R95): A, and D when it writes. -/
def accessBits (acc : Access) : Nat := if acc == .write then 0x60 else 0x20

/-- Stage-1 walk of a virtual address: each table address goes through stage 2 (R94). Gives the leaf and the entries
read with their bits: an entry of stage 1 that takes a bit is itself written, through the entries of stage 2 before it
(R95). A table outside the partition's reach is a stage-2 translation that fails (R371, R448, R513). -/
def State.walk1 (s : State) (i f va bits : Nat) : Nat → Nat → List (Nat × Nat) → Except XFail (XLeaf × List (Nat × Nat))
  | 0, _, _ => .error { code := 0x08 }
  | n + 1, tab, marks =>
    let sh := levelShape n
    let eia := tab + 8 * (va / 2 ^ sh.1 % 2 ^ sh.2)
    match s.walk2 eia 4 (s.s2root i f) [] with
    | .error e => .error { e with code := 0x08 }
    | .ok (l2, es) =>
      let ea := l2.addr eia
      let r := s.physBytes ea 8
      let e := natOfBytes r.1
      let marks := marks ++ es.map (fun a => (a, if e ||| bits = e then 0x20 else 0x60)) ++ [(ea, bits)]
      if !s.reach i ea then .error { code := 0x08 }
      else if r.2 then .error { code := 0x08, ue := some (2, 0x0D, ea) }
      else if !entryOk true n e then .error { code := 0x08 }
      else if bitAt e 7 then .ok ({ entry := e, at_ := ea, size := levelSize n e }, marks)
      else s.walk1 i f va bits n (entryAddr e) marks

/-- The two-stage walk of a virtual address of context `c` of function `f` in partition `i` (R94, R95, R448), before
the reach of the partition is checked. -/
def State.walk (s : State) (i f c va : Nat) (acc : Access) : Except XFail XOk :=
  match s.walk1 i f va (accessBits acc) 4 (s.s1root f c) [] with
  | .error e => .error e
  | .ok (l1, marks) =>
    let ipa := l1.addr va
    match s.walk2 ipa 4 (s.s2root i f) [] with
    | .error e => .error e
    | .ok (l2, es) =>
      let refuse (e : Nat) : Bool := (acc == .write && !bitAt e 3) || (acc == .fetch && !bitAt e 4)
      if refuse l1.entry then .error { code := 0x09 }
      else if refuse l2.entry then .error { code := 0x09, ipa := some ipa }
      else .ok { pa := l2.addr ipa, size := min l1.size l2.size, span := l1.size, w := bitAt l1.entry 3 && bitAt l2.entry 3,
                 x := bitAt l1.entry 4 && bitAt l2.entry 4, marks := marks ++ es.map (fun a => (a, accessBits acc)) }

/-- A TLB's translation of a virtual address (R97, R99). -/
def State.tlbHit (s : State) (f c va : Nat) (acc : Access) : Option XOk :=
  (s.tlb.find? (fun t => t.vf == f && t.ctx == c && decide (t.base ≤ va) && decide (va < t.base + t.size) &&
    (acc != .write || t.w) && (acc != .fetch || t.x))).map
    (fun t => { pa := t.pa + (va - t.base), size := t.size, w := t.w, x := t.x })

/-- The translation of a virtual address, with the reach and key checks of R371 and R374. -/
def State.translate (s : State) (i f c va : Nat) (acc : Access) : Except XFail XOk :=
  let found : Except XFail XOk := match s.tlbHit f c va acc with
    | some x => .ok x
    | none => s.walk i f c va acc
  match found with
  | .error e => .error e
  | .ok x => if s.reach i x.pa then .ok x else .error { code := 0x09 }

end Sys2Proof.Machine
end

