-- ==== Sys2Proof/Machine/Mem.lean ====
section
/-!
DEFINITION. Stored bytes written on a path, older values that a path may still observe (spec/05_consistency.md R107,
R113), leases and logical clocks (R108), L1, L2 and the memory-side cache (spec/04_memory.md R83 to R91, R455, R456),
watches (R116). `mem` holds the latest value of every place; `below` and `tier` hold what the levels under L2 and under the
memory-side cache hold where it differs.
-/

namespace Sys2Proof.Machine

/-- A granule of a scrub run is done (R458): SDONE counts it, and BUSY clears with the last. -/
def State.scrubCount (s : State) (g : Nat) : State :=
  match s.scrubs.find? (fun r => decide (r.first ≤ g) && decide (g < r.first + r.count)) with
  | none => s
  | some r =>
    let n := r.done + 1
    let s := s.setPreg r.part 0x4038 n
    if n = r.count then
      State.setPreg { s with scrubs := s.scrubs.filter (fun x => x.part != r.part) } r.part 0x4034
        (s.preg r.part 0x4034 % 2 ^ 25)
    else { s with scrubs := s.scrubs.map (fun x => if x.part = r.part then { x with done := n } else x) }

/-- A granule is scrubbed (R458, R459): its sectors take the zero marker, no older value of them is left, and its pending
bit clears. -/
def State.scrubNow (s : State) (g : Nat) : State :=
  let keep (p : Nat) : Bool := decide (stBase ≤ p) || s.atTop p || decide (s.granuleOf p ≠ g)
  let run := decide (SMap.get 0 g s.scrubbed = 2)
  let s := { s with
    mem := s.mem.filter (fun e => keep e.1)
    poison := s.poison.filter (fun e => keep (16 * e.1))
    uncorr := s.uncorr.filter (fun e => keep (16 * e.1))
    tags := s.tags.filter (fun e => keep (16 * e.1))
    locs := s.locs.filter (fun e => keep (16 * e.1))
    below := s.below.filter (fun e => keep (16 * e.1))
    tier := s.tier.filter (fun e => keep (16 * e.1))
    older := s.older.filter (fun e => keep e.place)
    scrubbed := SMap.set 0 g (if g < s.bootScrub then 0 else 1) s.scrubbed }
  if run then s.scrubCount g else s

/-- The place of a physical address in memory or Steppe. -/
def State.placeOf (s : State) (pa : Nat) : Option Nat :=
  match s.resolve (pa % 2 ^ 46) with
  | .mem p => some p
  | .steppe p => some p
  | _ => none

/-- Writes bytes inside one 16 B sector under key id `k`, on path `path` by command `cmd` (R453): a write of the whole
sector clears its poison, a write of part merges and keeps it. -/
def State.putSector (s : State) (path cmd k sec off : Nat) (bs : List Byte) : State :=
  let old := s.sectorBytes k sec
  let new := old.take off ++ bs ++ old.drop (off + bs.length)
  let bad := s.sectorBad sec && decide (bs.length < 16)
  { s with
    mem := SMap.setList 0 (16 * sec) new s.mem
    tags := if stBase ≤ 16 * sec then SMap.set 0 (sec / 8 * 8) k s.tags else SMap.set 0 sec (s.keyTag k) s.tags
    locs := SMap.set 0 sec (if stBase ≤ 16 * sec ∨ s.keyTag k = 1 then 0 else s.placeLoc (16 * sec) / 128 + 1) s.locs
    poison := SMap.set false sec bad s.poison
    uncorr := SMap.set false sec false s.uncorr
    older := { place := 16 * sec + off, old := (old.drop off).take bs.length, seq := s.oseq, path := path, cmd := cmd } ::
      s.older
    oseq := s.oseq + 1 }

/-- Writes bytes at a storage place, sector by sector; `fuel` is one more than the number of sectors. -/
def State.putSectors (path cmd k : Nat) : Nat → State → Nat → List Byte → State
  | 0, s, _, _ => s
  | fuel + 1, s, p, bs =>
    if bs.isEmpty then s
    else
      let n := min bs.length (16 - p % 16)
      State.putSectors path cmd k fuel (s.putSector path cmd k (p / 16) (p % 16) (bs.take n)) (p + n) (bs.drop n)

/-- Wakes every watch on a line (R116). -/
def State.wakeLine (s : State) (line : Nat) : State :=
  { s with watches := s.watches.map (fun w => if w.line = line then { w with woken := true } else w) }

/-- Whether a write is known to be observed by accesses of wave `w` on path `q`. -/
def Older.known (e : Older) (q w : Nat) : Bool :=
  e.path == q || e.seen.contains (q * 2 ^ 32) || e.seen.contains (q * 2 ^ 32 + w + 1)

/-- A write overlaps `n` bytes from a place. -/
def Older.hits (e : Older) (p n : Nat) : Bool :=
  decide (e.place < p + n) && decide (p < e.place + e.old.length)

/-- The writes to a 16 B sector that some path may not have observed, newest first. -/
def State.sectorOlder (s : State) (sec : Nat) : List Older := s.older.filter (fun e => e.hits (16 * sec) 16)

/-- The newest writes of a sector, `es`, that path `q` does not observe under draw `draw`: every sector has a value of its
coherence order (R107, R113, R359). -/
def unseen (draw q w : Nat) (es : List Older) : List Older :=
  es.takeWhile (fun e => !e.known q w && Config.pickOlder draw e.seq)

/-- The byte at `p` before the writes `es`, newest first. -/
def undoByte (p : Nat) (b : Byte) (es : List Older) : Byte :=
  es.foldl (fun b e => if e.hits p 1 then e.old.getD (p - e.place) 0 else b) b

/-- The bytes at a place as wave `w` observes them on path `q`, given the stored ones. -/
def State.overlay (s : State) (q w p : Nat) (bs : List Byte) : List Byte :=
  bs.mapIdx (fun i b => undoByte (p + i) b (unseen s.free q w (s.sectorOlder ((p + i) / 16))))

/-- A write recorded at a place, sector by sector; `fuel` is the number of sectors. -/
def splitOlder : Nat → Older → List Older
  | 0, e => [e]
  | fuel + 1, e =>
    let n := 16 - e.place % 16
    if e.old.length ≤ n then [e]
    else { e with old := e.old.take n } :: splitOlder fuel { e with place := e.place + n, old := e.old.drop n }

/-- The logical clock of a core (R108): it gains one every 64 ACLK, and `pts` holds what its accesses added. -/
def State.ptsOf (s : State) (core : Nat) : Nat := s.coreCyc core / 64 + SMap.get 0 core s.pts

/-- Sets the logical clock of a core; a clock never falls below its ticks (R109). -/
def State.setPts (s : State) (core t : Nat) : State :=
  { s with pts := SMap.set 0 core (t - s.coreCyc core / 64) s.pts }

/-- A core's clock moves up to a timestamp. -/
def State.raisePts (s : State) (core t : Nat) : State := s.setPts core (max (s.ptsOf core) t)

/-- The lease that the home grants a load at clock `pts` (R108). -/
def Lease.load (l : Lease) (pts : Nat) : Lease := { l with rts := max l.rts (max pts l.wts + 8) }

/-- The timestamp of a store at clock `pts` (R108). -/
def Lease.storeTs (l : Lease) (pts : Nat) : Nat := max pts (l.rts + 1)

/-- A line whose write takes timestamp `ts`. -/
def Lease.at_ (ts : Nat) : Lease := { wts := ts, rts := ts }

/-- A lease one past every load granted before (R108): where a write of another path enters the v order. -/
def Lease.next (l : Lease) : Lease := Lease.at_ (l.rts + 1)

/-- The key of an L2 set: bank and set of a location (R89). -/
def l2Set (slc loc : Nat) : Nat :=
  slc * 8192 + (field loc 7 13 ^^^ field loc 20 13 ^^^ field loc 33 13)

/-- The ways that function `f` may allocate into in the bank of slice `slc` (R90); 64 stands for no function. -/
def State.l2Mask (s : State) (f slc : Nat) : Nat :=
  match s.partOf slc with
  | some i => if f < 64 ∧ s.partBit i 0x4020 f then s.preg i (0x9000 + 0x100 * (slc - i) + 4 * f) % 65536 else 0xFFFF
  | none => 0xFFFF

/-- The lines of an L2 set. -/
def State.l2Lines (s : State) (key : Nat) : List L2Line := SMap.get [] key s.l2

/-- The L2 line of a physical line, if its bank holds it. -/
def State.l2Find (s : State) (slc pa : Nat) : Option L2Line :=
  (s.l2Lines (l2Set slc (pa % 2 ^ 46))).find? (fun l => l.line == pa / 128)

/-- Changes the L2 line of a physical line. -/
def State.l2Mod (s : State) (slc pa : Nat) (f : L2Line → L2Line) : State :=
  let key := l2Set slc (pa % 2 ^ 46)
  { s with l2 := SMap.set [] key ((s.l2Lines key).map (fun l => if l.line == pa / 128 then f l else l)) s.l2 }

/-- The L2 line that holds a storage line, under whichever key id (R121). -/
def State.l2At (s : State) (p : Nat) : Option L2Line :=
  if stBase ≤ p then none
  else (s.l2Lines (l2Set (placeSlice p) (s.placeLoc p))).find? (fun l => l.place == p / 128)

/-- L2 has a sector. -/
def State.l2Has (s : State) (sec : Nat) : Bool :=
  match s.l2At (16 * sec) with
  | some l => bitAt l.valid (sec % 8)
  | none => false

/-- The home lease of a physical line in an L2 bank: its own, or that of a line just filled from memory (R108). -/
def State.l2Lease (s : State) (slc pa : Nat) : Lease :=
  match s.l2Find slc pa with
  | some l => l.lease
  | none => Lease.at_ (SMap.get 0 slc s.l2E)

/-- Puts a stored sector at the highest level that has it. -/
def State.putTop (s : State) (sec : Nat) (x : Stored) : State :=
  { s with
    mem := SMap.setList 0 (16 * sec) x.bytes s.mem
    tags := SMap.set 0 sec x.tag s.tags
    locs := SMap.set 0 sec x.loc s.locs
    poison := SMap.set false sec x.pois s.poison
    uncorr := SMap.set false sec x.uncorr s.uncorr }

/-- Changes what the level below L2 holds of a sector. -/
def State.setBelow (s : State) (sec : Nat) (x : Stored) : State :=
  if (SMap.get none sec s.below).isSome || s.l2Has sec then { s with below := SMap.set none sec (some x) s.below } else s.putTop sec x

/-- The level below L2 holds what L2 holds of a sector. -/
def State.sameBelow (s : State) (sec : Nat) : State := { s with below := SMap.erase sec s.below }

/-- The sectors of the line at `p` that a mask names. -/
def maskSectors (p m : Nat) : List Nat := ((List.range 8).filter (bitAt m)).map (p / 128 * 8 + ·)

/-- The slice and the tier offset of an LPDDR6 storage place (R82). -/
def tierSpot (p : Nat) : Nat × Nat :=
  ((p - lpBase) / 2 ^ 36 / 2, ((p - lpBase) % 2 ^ 36 / 2048 * 2 + (p - lpBase) / 2 ^ 36 % 2) * 2048 + p % 2048)

/-- The storage place of slice `sl`'s tier offset `t` (R82). -/
def tierPlace (sl t : Nat) : Nat :=
  lpBase + (2 * sl + t / 2048 % 2) * 2 ^ 36 + (t / 4096 * 2048 + t % 2048)

/-- The key of a memory-side cache index. -/
def mscKey (sl index : Nat) : Nat := sl * 2 ^ 24 + index

/-- N = K / 2,048 of a slice's carve-out, and its first stack byte (R80, R83); a slice in no enabled partition has none
(R511). -/
def State.mscShape (s : State) (sl : Nat) : Nat × Nat :=
  match s.partOf sl with
  | some i => (s.partK i / 2048, sl * 2 ^ 36 + s.partU i)
  | none => (0, sl * 2 ^ 36 + 2 ^ 36)

/-- A memory-side cache index's metadata and sector. -/
def State.mscOf (s : State) (sl index : Nat) : MscSector := SMap.get {} (mscKey sl index) s.msc

/-- Replaces an index's metadata. -/
def State.setMsc (s : State) (sl index : Nat) (m : MscSector) : State :=
  { s with msc := SMap.set {} (mscKey sl index) m s.msc }

/-- The first 16 B sector of tier sector `tag` of an index. -/
def mscFirst (sl index n tag : Nat) : Nat := tierPlace sl ((tag * n + index) * 2048) / 16

/-- ECC_CE of an array of a slice counts an uncorrectable error (R452, R454). -/
def State.countUE (s : State) (slc code : Nat) : State :=
  let off := 0x600 + 0x40 * slc + 4 * (code - 1)
  let w := (s.reg off).toNat
  s.setReg off (BitVec.ofNat 32 (setField w 24 8 (min (field w 24 8 + 1) 0xFF)))

/-- ECC_CE of an array of a slice counts a corrected error (R452, R463). -/
def State.countCE (s : State) (slc code : Nat) : State :=
  let off := 0x600 + 0x40 * slc + 4 * (code - 1)
  let w := (s.reg off).toNat
  s.setReg off (BitVec.ofNat 32 (setField w 0 16 (min (field w 0 16 + 1) 0xFFFF)))

/-- A cache's own access has met an error beyond correction: its array counts, and its record is owed (R454). -/
def State.owe (s : State) (slc code sec : Nat) : State :=
  let s := s.countUE slc code
  { s with owed := s.owed ++ [{ source := 1, code := code, addr := s.placeLoc (16 * sec) }] }

/-- What the level below L2 holds of a sector is poisoned, and no longer uncorrectable (R456). -/
def State.poisonBelow (s : State) (sec : Nat) : State :=
  s.setBelow sec { s.belowStored sec with pois := true, uncorr := false }

/-- LPDDR6 keeps what it holds of a sector while the memory-side cache's copy changes (R85). -/
def State.keepTier (s : State) (sec : Nat) : State := { s with tier := SMap.set none sec (some (s.tierStored sec)) s.tier }

/-- An uncorrectable sector of the carve-out is poisoned there (R422, R456). -/
def State.poisonMsc (s : State) (sl sec : Nat) : State := ((s.keepTier sec).owe sl 0x0A sec).poisonBelow sec

/-- The lines of a held sector that are written back at its replacement: those with D = 1, and those whose D does not
decode (R85, R455). -/
def MscSector.writesBack (m : MscSector) (line : Nat) : Bool :=
  bitAt m.dirty line || bitAt m.dLost line || bitAt m.lost line

/-- The carve-out no longer holds a sector: it is written back, or LPDDR6's own stands again (R85). -/
def State.tierLeaves (s : State) (sec : Nat) (back : Bool) : State :=
  if back then { s with tier := SMap.erase sec s.tier }
  else { s with tier := SMap.erase sec s.tier }.setBelow sec (s.tierStored sec)

/-- The sectors from `first` on whose carve-out copy is uncorrectable and is to be written back. -/
def MscSector.badSectors (m : MscSector) (first : Nat) : List Nat :=
  ((List.range 128).filter (fun x => bitAt m.bad x && m.writesBack (x / 8))).map (first + ·)

/-- The sectors of a held tier sector of which LPDDR6 keeps another copy. -/
def State.tierSectors (s : State) (first : Nat) : List Nat :=
  (s.tier.filter (fun e => decide (first ≤ e.1) && decide (e.1 < first + 128))).map (·.1)

/-- Each of those sectors is written back or falls back to LPDDR6's own. -/
def State.tierAllLeave (s : State) (first : Nat) (m : MscSector) : State :=
  (s.tierSectors first).foldl (fun s sec => s.tierLeaves sec (m.writesBack ((sec - first) / 8))) s

/-- The held sector whose place is from `first` on leaves the cache. -/
def State.mscFree (s : State) (sl first : Nat) (m : MscSector) : State :=
  ((m.badSectors first).foldl (fun s x => s.poisonMsc sl x) s).tierAllLeave first m

/-- The held sector leaves the cache (R85, R456): LPDDR6 takes the lines to be written back, with their poison; of any
other line it keeps what it holds. -/
def State.mscDrop (s : State) (sl index n : Nat) (m : MscSector) : State :=
  if m.v then s.mscFree sl (mscFirst sl index n m.tag) m else s

/-- No line of an index decodes (R455): what it held is never written back, and the partition's confinement is owed. -/
def State.mscLose (s : State) (sl index n : Nat) (m : MscSector) : State :=
  let s := (s.mscDrop sl index n { m with dirty := 0, dLost := 0, lost := 0, bad := 0 }).setMsc sl index {}
  let i := (s.partOf sl).getD sl
  { s with owed := s.owed ++ [{ level := 4, source := 1, code := 0x11, part := i, addr := (s.mscShape sl).2 + 2048 * index }] }

/-- The line at a storage place has been written back: L2 keeps it clean in the sectors of a mask. -/
def State.l2Clean (s : State) (p mask : Nat) : State :=
  match s.l2At p with
  | some l => s.l2Mod (placeSlice p) (l.line * 128) (fun l => { l with dirty := l.dirty - (l.dirty &&& mask) })
  | none => s

/-- One request on the sector that is held (R85): a read meets the sectors it asks for; a write takes the L2's sectors of
its mask and sets D. -/
def State.mscHit (s : State) (sl t need : Nat) (wr : Option (BitVec 8)) (m : MscSector) : MscSector × State :=
  let line := t / 128 % 16
  let sec := tierPlace sl t / 128 * 8
  match wr with
  | none =>
    let met := (List.range 8).filter (fun x => bitAt need x && bitAt m.bad (8 * line + x))
    (met.foldl (fun m x => { m with bad := setField m.bad (8 * line + x) 1 0 }) m,
      met.foldl (fun s x => s.poisonMsc sl (sec + x)) s)
  | some mask =>
    let xs := (List.range 8).filter (fun x => mask.getLsbD x)
    ({ m with
        dirty := setField m.dirty line 1 1, lost := setField m.lost line 1 0, dLost := setField m.dLost line 1 0
        bad := xs.foldl (fun b x => setField b (8 * line + x) 1 0) m.bad },
      (xs.foldl (fun s x => (s.keepTier (sec + x)).sameBelow (sec + x)) s).l2Clean (tierPlace sl t) mask.toNat)

/-- Serves the requests of an index in arrival order until one misses (R85, R86): a hit ends, and a miss writes the victim
back and starts its fill. A request is its tier offset, the sectors it asks for and a write's mask. -/
def State.mscServe (sl index n : Nat) : List (Nat × Nat × Option (BitVec 8)) → MscSector → State → State
  | [], m, s => s.setMsc sl index { m with filling := none, queue := [] }
  | r :: q, m, s =>
    let tag := r.1 / 2048 / n
    if m.v ∧ m.tag = tag then
      let x := s.mscHit sl r.1 r.2.1 r.2.2 m
      State.mscServe sl index n q x.1 x.2
    else
      (s.mscDrop sl index n m).setMsc sl index { filling := some tag, queue := r :: q }

/-- A request reaches its index (R83 to R86, R455): one that finds a fill in progress waits. -/
def State.mscAsk (s : State) (sl t need : Nat) (wr : Option (BitVec 8)) : State :=
  let n := (s.mscShape sl).1
  let index := t / 2048 % n
  let m := s.mscOf sl index
  if m.lost = 0xFFFF then State.mscServe sl index n [(t, need, wr)] {} (s.mscLose sl index n m)
  else if m.filling.isSome then s.setMsc sl index { m with queue := m.queue ++ [(t, need, wr)] }
  else State.mscServe sl index n [(t, need, wr)] m s

/-- A fill ends (R85, R86, R456): the new sector is in with every D = 0, and the requests that waited are served. A sector
of LPDDR6 beyond correction enters with the poison marker; LPDDR6 keeps it as it is. What L2 holds is no part of it. -/
def State.mscFilled (s : State) (sl index : Nat) : State :=
  let n := (s.mscShape sl).1
  let m := s.mscOf sl index
  match m.filling with
  | none => s
  | some tag =>
    let first := mscFirst sl index n tag
    let mine (x : Nat) : Bool := decide (first ≤ x) && decide (x < first + 128)
    let lost := (((s.uncorr.map (·.1)) ++ (s.below.map (·.1))).eraseDups).filter (fun x => mine x && (s.belowStored x).uncorr)
    let s := lost.foldl (fun s x => ((s.keepTier x).owe sl 0x09 x).poisonBelow x) s
    State.mscServe sl index n m.queue { v := true, tag := tag } s

/-- Ends the fills of an index until no request waits; `fuel` is one more than the requests. -/
def State.mscDrain (sl index : Nat) : Nat → State → State
  | 0, s => s
  | fuel + 1, s => if (s.mscOf sl index).filling.isSome then State.mscDrain sl index fuel (s.mscFilled sl index) else s

/-- Ends the fills of an index. -/
def State.mscDrainAll (s : State) (sl index : Nat) : State :=
  State.mscDrain sl index ((s.mscOf sl index).queue.length + 1) s

/-- A request of the slice at the tier's place `t` (R83). -/
def State.mscTouchAt (s : State) (sl t need : Nat) (wr : Option (BitVec 8)) : State :=
  if (s.mscShape sl).1 = 0 then s else (s.mscAsk sl (t / 128 * 128) need wr).mscDrainAll sl (t / 2048 % (s.mscShape sl).1)

/-- An L2 fill (`wr` none) or write-back of the line at an LPDDR6 storage place, served before the L2 goes on (R83). With no
carve-out there is no cache. -/
def State.mscTouch (s : State) (p need : Nat) (wr : Option (BitVec 8)) : State :=
  s.mscTouchAt (tierSpot p).1 (tierSpot p).2 need wr

/-- A storage place of the LPDDR6 tier. -/
def inTier (p : Nat) : Bool := decide (lpBase ≤ p) && decide (p < stBase)

/-- The memory-side cache holds a sector of the tier. -/
def State.mscHas (s : State) (sec : Nat) : Bool :=
  let x := tierSpot (16 * sec)
  let n := (s.mscShape x.1).1
  let m := s.mscOf x.1 (x.2 / 2048 % n)
  inTier (16 * sec) && decide (n ≠ 0) && m.v && m.tag == x.2 / 2048 / n

/-- Changes what the array of HBM4E, LPDDR6 or Steppe holds of a sector. -/
def State.setArray (s : State) (sec : Nat) (x : Stored) : State :=
  if s.mscHas sec then { s with tier := SMap.set none sec (some x) s.tier } else s.setBelow sec x

/-- L2 writes back sectors of the line at a storage place (R85, R89): one that L2 itself finds beyond correction goes poisoned,
and its record is owed (R422, R454). -/
def State.writeBack (s : State) (p mask : Nat) : State :=
  if mask = 0 then s
  else
    let bad := (maskSectors p mask).filter (fun sec => SMap.get false sec s.uncorr)
    let s := bad.foldl (fun s sec => State.owe { s with
      uncorr := SMap.set false sec false s.uncorr, poison := SMap.set false sec true s.poison } (placeSlice p) 0x06 sec) s
    let s := if inTier p then s.mscTouch p 0 (some (BitVec.ofNat 8 mask)) else s
    (maskSectors p mask).foldl State.sameBelow s

/-- An L2 line leaves its bank (R89): its dirty sectors are written back, and of the others the level below is what is
left. -/
def State.l2Leave (s : State) (l : L2Line) : State :=
  let s := s.writeBack (l.place * 128) l.dirty
  (maskSectors (l.place * 128) (l.valid - (l.valid &&& l.dirty))).foldl (fun s sec =>
    match SMap.get none sec s.below with
    | some x => (s.sameBelow sec).putTop sec x
    | none => s) s

/-- Lines leave an L2 bank: E rises over them (R108), and each is written back. `s.l2` is the caller's to change. -/
def State.l2Evict (s : State) (slc : Nat) (ls : List L2Line) : State :=
  let s := { s with l2E := SMap.set 0 slc (ls.foldl (fun e l => max e (max l.lease.wts l.lease.rts)) (SMap.get 0 slc s.l2E)) s.l2E }
  ls.foldl State.l2Leave s

/-- The victim way of a set for a mask of enabled ways (R89): the lowest invalid one, else the least recently used. -/
def l2Victim (ls : List L2Line) (mask : Nat) : Option Nat :=
  let ways := (List.range 16).filter (fun w => bitAt mask w)
  match ways.find? (fun w => !ls.any (fun l => l.way == w)) with
  | some w => some w
  | none => (bestOf (fun a b => decide (a.stamp < b.stamp)) (ls.filter (fun l => ways.contains l.way))).map (·.way)

/-- Drops the L2 lines and L1 copies that `p` picks by their physical line, L2 lines after write-back. -/
def State.dropPhys (s : State) (p : Nat → Bool) : State :=
  let banks := (s.l2.map (fun (x : Nat × List L2Line) => (x.1 / 8192, x.2.filter (fun l => p l.line)))).filter
    (fun x => !x.2.isEmpty)
  let s := banks.foldl (fun s b => s.l2Evict b.1 b.2) s
  { s with
    l1 := (s.l1.map (fun (x : Nat × List L1Copy) => (x.1, x.2.filter (fun c => !p c.line)))).filter (fun x => !x.2.isEmpty)
    l2 := (s.l2.map (fun (x : Nat × List L2Line) => (x.1, x.2.filter (fun l => !p l.line)))).filter (fun x => !x.2.isEmpty) }

/-- What L1 and L2 hold of a location under another key id leaves them (R121). -/
def State.dropOther (s : State) (slc pa : Nat) : State :=
  let other (line : Nat) : Bool := line % 2 ^ 39 == pa / 128 % 2 ^ 39 && line != pa / 128
  if (s.l2Lines (l2Set slc (pa % 2 ^ 46))).any (fun l => other l.line) ||
      s.l1.any (fun x => x.2.any (fun c => other c.line)) then s.dropPhys other
  else s

/-- An L2 fill of the sectors `need` of a line (R83, R89); a granule that waits for its scrub is not read (R459). -/
def State.l2Fill (s : State) (p need : Nat) : State :=
  if inTier p ∧ need ≠ 0 ∧ !s.scrubPending p then s.mscTouch p need none else s

/-- A sector of HBM4E, LPDDR6 or Steppe whose next read finds it beyond correction. -/
def State.unread (s : State) (sec : Nat) : Bool := SMap.get false sec s.uncorr && !s.scrubPending (16 * sec)

/-- The sectors of a mask that can be read without an error beyond correction. -/
def State.goodMask (s : State) (p m : Nat) : Nat :=
  ((List.range 8).filter (fun x => bitAt m x && !s.unread (p / 128 * 8 + x))).foldl (fun a x => a + 2 ^ x) 0

/-- A line comes into its L2 bank for function `f` (R89 to R91): a hit in a way of the function's mask makes it most
recently used, a hit in another counts as a foreign-way hit; a miss allocates a way of the mask and evicts its victim; with
no way enabled the line is not held. The sectors `need` that L2 does not have are filled: that L2 keeps valid bits by
sector is the model's choice (log entry 10). Heaps and Steppe are not cached there. -/
def State.l2Touch (s : State) (f pa p need : Nat) : State :=
  if stBase ≤ p ∨ s.atTop p then s
  else
    let slc := placeSlice p
    let s := s.dropOther slc pa
    let mask := s.l2Mask f slc
    match s.l2Find slc pa with
    | some l =>
      let s := s.l2Fill p (need - (need &&& l.valid))
      let s := if bitAt mask l.way then s else
        { s with l2Foreign := SMap.set 0 (64 * slc + f) (SMap.get 0 (64 * slc + f) s.l2Foreign + 1) s.l2Foreign }
      let good := s.goodMask p need
      State.l2Mod { s with l2Stamp := s.l2Stamp + 1 } slc pa (fun l => { l with
        valid := l.valid ||| good, stamp := if bitAt mask l.way then s.l2Stamp + 1 else l.stamp })
    | none =>
      let key := l2Set slc (pa % 2 ^ 46)
      match l2Victim (s.l2Lines key) mask with
      | none => s.l2Fill p need
      | some w =>
        let gone := (s.l2Lines key).filter (fun l => l.way == w)
        let s := s.l2Evict slc gone
        let s := State.l2Fill { s with
          l2 := SMap.set [] key ((s.l2Lines key).filter (fun l => l.way != w)) s.l2, l2Stamp := s.l2Stamp + 1 } p need
        let l : L2Line := { line := pa / 128, place := p / 128, way := w, vf := f, valid := s.goodMask p need,
                            stamp := s.l2Stamp, lease := Lease.at_ (SMap.get 0 slc s.l2E) }
        { s with l2 := SMap.set [] key (l :: s.l2Lines key) s.l2 }

/-- TMAX of a bank: the majority of its three copies (R463). -/
def State.tmax (s : State) (slc : Nat) : Nat :=
  let a := SMap.get 0 (4 * slc) s.l2Tmax
  let b := SMap.get 0 (4 * slc + 1) s.l2Tmax
  if a = b then a else SMap.get 0 (4 * slc + 2) s.l2Tmax

/-- TMAX of a bank rises to a timestamp, in all three copies (R463). -/
def State.raiseTmax (s : State) (slc t : Nat) : State :=
  let v := max (s.tmax slc) t
  { s with l2Tmax := [0, 1, 2].foldl (fun m i => SMap.set 0 (4 * slc + i) v m) s.l2Tmax }

/-- The home in an L2 bank takes a lease (R108): TMAX follows (R463), and a line that is not held leaves at once (R89). -/
def State.l2Grant (s : State) (slc pa : Nat) (le : Lease) : State :=
  let s := s.raiseTmax slc (max le.wts le.rts)
  match s.l2Find slc pa with
  | some _ => s.l2Mod slc pa (fun l => { l with lease := le })
  | none => { s with l2E := SMap.set 0 slc (max (SMap.get 0 slc s.l2E) (max le.wts le.rts)) s.l2E }

/-- The mask of the 16 B sectors that `n` bytes from `a` touch within their line. -/
def sectorMask (a n : Nat) : Nat :=
  ((List.range 8).filter (fun i => decide (16 * i < a % 128 + n) && decide (a % 128 < 16 * i + 16))).foldl
    (fun m i => m + 2 ^ i) 0

/-- A copy serves a load at clock `pts` (R108): its lease holds, fewer than 448 ACLK have passed, and it has the
sectors. -/
def L1Copy.serves (c : L1Copy) (cyc pts line need : Nat) : Bool :=
  c.line == line && decide (pts ≤ c.rts) && decide (cyc < c.grant + 448) && (c.sectors &&& need == need)

/-- Puts a copy into a core's L1: 256 sets of 8 ways (R88). Sectors that the core already has of an unchanged line stay.
The set is the physical line number, key id included, modulo 256, and the oldest grant of a full set leaves: the spec
gives neither, and both are the model's choice (log entry 82). -/
def State.l1Put (s : State) (core : Nat) (c : L1Copy) : State :=
  let all := SMap.get [] core s.l1
  let c := match all.find? (fun x => x.line == c.line && x.wts == c.wts) with
    | some o =>
      let keep (i : Nat) : Bool := bitAt o.sectors i && !bitAt c.sectors i
      { c with
        sectors := c.sectors ||| o.sectors
        data := (List.range 8).flatMap (fun i => ((if keep i then o.data else c.data).drop (16 * i)).take 16)
        pois := c.pois ||| (o.pois - (o.pois &&& c.sectors)) }
    | none => c
  let ls := all.filter (fun x => x.line != c.line)
  let same := ls.filter (fun x => x.line % 256 == c.line % 256)
  let gone := if same.length < 8 then none else (bestOf (fun a b => decide (a.grant < b.grant)) same).map (·.line)
  { s with l1 := SMap.set [] core (c :: ls.filter (fun x => some x.line != gone)) s.l1 }

/-- The copies of a core's L1 whose lines have been written at their home since the grant are dropped: a workgroup that
starts there observes every event that precedes its launch's release or post (R112), and the next load asks the home. -/
def State.dropStale (s : State) (core : Nat) : State :=
  let keep (c : L1Copy) : Bool :=
    match s.resolve (c.line * 128 % 2 ^ 46) with
    | .mem p => decide ((s.l2Lease (placeSlice p) (c.line * 128)).wts ≤ c.wts)
    | _ => false
  { s with l1 := SMap.set [] core ((SMap.get [] core s.l1).filter keep) s.l1 }

/-- Places of a workgroup's local memory and of a cluster bank, among the places that writes are recorded at. -/
def scratchPlace (wg off : Nat) : Nat := 2 ^ 60 + wg * 2 ^ 20 + off
def bankPlace (key : Nat) : Nat := 2 ^ 59 + key

/-- The lease of a workgroup's line of local memory changes. -/
def Workgroup.modLease (g : Workgroup) (line : Nat) (f : Lease → Lease) : Workgroup :=
  { g with lleases := SMap.set {} line (f (SMap.get {} line g.lleases)) g.lleases }

/-- The home of the line at a recorded place moves past every lease it has granted (R107, R108): a write of another path
enters the v order there. -/
def State.nextLease (s : State) (p : Nat) : State :=
  if 2 ^ 60 ≤ p then
    let id := (p - 2 ^ 60) / 2 ^ 20
    let on (g : Workgroup) : Workgroup := if g.id = id then g.modLease (p % 2 ^ 20 / 128) Lease.next else g
    { s with wg := if s.focus then on s.wg else s.wg, wgs := s.wgs.map on }
  else if 2 ^ 59 ≤ p then
    let line := (p - 2 ^ 59) / 128
    { s with cleases := SMap.set {} line (SMap.get {} line s.cleases).next s.cleases }
  else if stBase ≤ p then { s with steppeLeases := SMap.set {} (p / 128) (SMap.get {} (p / 128) s.steppeLeases).next s.steppeLeases }
  else
    match s.l2At p with
    | some l => s.l2Grant (placeSlice p) (l.line * 128) l.lease.next
    | none =>
      let e := SMap.get 0 (placeSlice p) s.l2E + 1
      State.raiseTmax { s with l2E := SMap.set 0 (placeSlice p) e s.l2E } (placeSlice p) e

/-- The write time of the home of the line at a recorded place. -/
def State.homeWts (s : State) (p : Nat) : Nat :=
  if 2 ^ 60 ≤ p then
    let id := (p - 2 ^ 60) / 2 ^ 20
    ((s.wg :: s.wgs).find? (fun g => g.id == id)).elim 0 (fun g => (SMap.get {} (p % 2 ^ 20 / 128) g.lleases).wts)
  else if 2 ^ 59 ≤ p then (SMap.get {} ((p - 2 ^ 59) / 128) s.cleases).wts
  else if stBase ≤ p then (SMap.get {} (p / 128) s.steppeLeases).wts
  else match s.l2At p with
    | some l => l.lease.wts
    | none => SMap.get 0 (placeSlice p) s.l2E

/-- Writes become observed by path `q`, by every access or by those of wave `w` (R107, R110); those that path v did not
observe yet enter the v order now. -/
def State.markSeen (s : State) (sel : Older → Bool) (q : Nat) (w : Option Nat) : State :=
  let tag := match w with
    | none => q * 2 ^ 32
    | some w => q * 2 ^ 32 + w + 1
  let fresh := s.older.filter (fun e => sel e && e.path != q && !e.seen.contains tag)
  let s := { s with older := s.older.map (fun e => if sel e && !e.seen.contains tag then { e with seen := tag :: e.seen } else e) }
  if q = 0 then ((fresh.map (fun e => e.place / 128)).eraseDups).foldl (fun s l => s.nextLease (l * 128)) s else s

/-- Writes that an ordering brings before path-v events of a core (R110, R112): they are in the v order, and the core's
clock is past them. -/
def State.orderV (s : State) (core : Nat) (sel : Older → Bool) : State :=
  let s := s.markSeen sel 0 none
  (s.older.filter sel).foldl (fun s e => s.raisePts core (s.homeWts e.place)) s

/-- An access of path `q` to the sectors of `n` bytes at `p` observes a write under draw `d`. -/
def State.observes (s : State) (d q w p n : Nat) (e : Older) : Bool :=
  (List.range ((p % 16 + n + 15) / 16)).any (fun i =>
    e.hits (16 * (p / 16 + i)) 16 && !(unseen d q w (s.sectorOlder (p / 16 + i))).contains e)

/-- The writes that an access of path `q` to `n` bytes at `p` has observed under draw `d` stay observed, by every access of
the path (R107). -/
def State.observeAt (s : State) (d q w p n : Nat) : State :=
  let news (e : Older) : Bool := e.path != q && !e.seen.contains (q * 2 ^ 32)
  if s.older.any news then s.markSeen (fun e => news e && s.observes d q w p n e) q none else s

/-- The next draws of free values differ from those before, if a write is left that some path may not observe. -/
def State.nextDraw (s : State) : State := if s.older.isEmpty then s else { s with free := s.free + 1 }

/-- The writes that an access of path `q` to `n` bytes at `p` has now observed stay observed (R107). -/
def State.observe (s : State) (q w p n : Nat) : State := (s.observeAt s.free q w p n).nextDraw

/-- An access that acts on the latest bytes has observed every write to them (R106, R107). -/
def State.observeAll (s : State) (q p n : Nat) : State :=
  if s.older.any (fun e => e.hits p n && e.path != q) then s.markSeen (fun e => e.hits p n && e.path != q) q none else s

/-- A write within one line at a storage place, whose line its L2 bank has been asked for: the level below keeps what it
holds, the sectors are dirty in L2, or written back where L2 does not hold the line (R89), and the line's watches wake. -/
def State.putLine (s : State) (path cmd k p : Nat) (bs : List Byte) : State :=
  let put (s : State) : State := (State.putSectors path cmd k (bs.length / 16 + 3) s p bs).wakeLine (p / 128)
  if stBase ≤ p ∨ s.atTop p then put s
  else
    let slc := placeSlice p
    let pa := k * 2 ^ 46 + s.placeLoc p
    let m := sectorMask p bs.length
    let kept := s.below
    let s1 := put { s with below := (maskSectors p m).foldl (fun b sec => SMap.set none sec (some (s.belowStored sec)) b) kept }
    match s1.l2Find slc pa with
    | some _ => s1.l2Mod slc pa (fun l => { l with valid := l.valid ||| m, dirty := l.dirty ||| m })
    | none => s1.writeBack p m

/-- The sectors that a write of `n` bytes covers only in part: its merge reads them (R453). -/
def partMask (a n : Nat) : Nat :=
  ((List.range 8).filter (fun i => decide (16 * i < a % 128 + n) && decide (a % 128 < 16 * i + 16) &&
    !(decide (a % 128 ≤ 16 * i) && decide (16 * i + 16 ≤ a % 128 + n)))).foldl (fun m i => m + 2 ^ i) 0

/-- A granule that a write reaches is scrubbed first (R459). -/
def State.scrubFirst (s : State) (p : Nat) : State := if s.scrubPending p then s.scrubNow (s.granuleOf p) else s

/-- Writes bytes within one line at a storage place under key id `k` for function `f`, on path `path` by command `cmd`. -/
def State.putPlace (s : State) (path cmd f k p : Nat) (bs : List Byte) : State :=
  let s := s.scrubFirst p
  (s.l2Touch f (k * 2 ^ 46 + s.placeLoc p) p (partMask p bs.length)).putLine path cmd k p bs

/-- Who makes an access: core, partition, function and wave. -/
structure Who where
  core : Nat := 0
  part : Nat := 0
  vf : Nat := 0
  ctx : Nat := 0
  wave : Nat := 0
  deriving DecidableEq, Repr

/-- The writes that a read of the sectors `m` of the line at `p` has now observed on path v. -/
def State.observeMask (s : State) (w p m : Nat) : State :=
  ((maskSectors p m).foldl (fun t x => t.observeAt s.free 0 w (16 * x) 16) s).nextDraw

/-- The data of the sectors `need` of a line as path v observes them, and their poison. -/
def State.lineData (s : State) (wave k line need : Nat) : List Byte × Nat :=
  ((List.range 8).flatMap (fun i =>
      if bitAt need i then s.overlay 0 wave (line + 16 * i) (s.sectorBytes k (line / 16 + i)) else List.replicate 16 0),
   ((List.range 8).filter (fun i => bitAt need i && s.sectorBad (line / 16 + i))).foldl (fun m i => m + 2 ^ i) 0)

/-- A core's L1 serves a load (R88, R108). -/
def State.l1Serves (s : State) (core pa n : Nat) : Option L1Copy :=
  (SMap.get [] core s.l1).find? (fun c => c.serves (s.coreCyc core) (s.ptsOf core) (pa / 128) (sectorMask pa n))

/-- The lease of the home of a physical line of memory or Steppe. -/
def State.homeLease (s : State) (pa : Nat) : Lease :=
  match s.placeOf pa with
  | some p => if stBase ≤ p then SMap.get {} (p / 128) s.steppeLeases else s.l2Lease (placeSlice p) pa
  | none => {}

/-- The home of a physical line of memory or Steppe takes a lease. -/
def State.setHome (s : State) (pa : Nat) (le : Lease) : State :=
  match s.placeOf pa with
  | some p =>
    if stBase ≤ p then { s with steppeLeases := SMap.set {} (p / 128) le s.steppeLeases } else s.l2Grant (placeSlice p) pa le
  | none => s

/-- A load that the home of a line serves at a clock (R108): the lease it grants, and the state with it. -/
def State.homeLoad (s : State) (pa clock : Nat) : Lease × State :=
  let le := (s.homeLease pa).load clock
  (le, s.setHome pa le)

/-- A path-v load of bytes within one line of memory or Steppe (R103, R108): the bytes, whether a sector of them is
poisoned, and the state with the clocks and leases moved. `need` is the sector mask of the request it is part of (R92).
A peer's bytes are free values (R117), poisoned when no link of the window is up (R500). -/
def State.vloadIn (s : State) (who : Who) (pa n need : Nat) : (List Byte × Bool) × State :=
  let k := pa / 2 ^ 46 % 64
  let pts := s.ptsOf who.core
  match s.resolve (pa % 2 ^ 46) with
  | .mem p =>
    match s.l1Serves who.core pa n with
    | some c =>
      ((slice c.data (pa % 128) n, c.pois &&& sectorMask pa n != 0), s.setPts who.core (max pts c.wts))
    | none =>
      let m := need ||| sectorMask p n
      let s := s.l2Touch who.vf pa p m
      let d := s.lineData who.wave k (p / 128 * 128) m
      let h := (s.observeMask who.wave p m).homeLoad pa pts
      let c : L1Copy := { line := pa / 128, sectors := m, data := d.1, pois := d.2, wts := h.1.wts, rts := h.1.rts,
                          grant := h.2.coreCyc who.core }
      ((slice d.1 (p % 128) n, s.placeBad p n), (h.2.l1Put who.core c).setPts who.core (max pts h.1.wts))
  | .steppe p =>
    let h := (s.observe 0 who.wave p n).homeLoad pa pts
    ((s.overlay 0 who.wave p (s.placeBytes k p n), s.placeBad p n), h.2.setPts who.core (max pts h.1.wts))
  | .peer w _ =>
    if (s.peerLinks who.part w).isEmpty then ((List.replicate n 0, true), s)
    else (((List.range n).map (Config.freeByte s.free), false), { s with free := s.free + 1 })
  | _ => (((List.range n).map (Config.freeByte s.free), false), { s with free := s.free + 1 })

/-- A path-v load of bytes within one line. -/
def State.vload (s : State) (who : Who) (pa n : Nat) : (List Byte × Bool) × State := s.vloadIn who pa n 0

/-- A path-v load at the home at clock `clock`, which no other line's timestamp moves (R114), with what path v has observed of
it: the bytes, their poison, and the state with the lease that covers the clock. The caller moves on the draw of a peer's
bytes. -/
def State.vloadAt (s : State) (who : Who) (pa n clock : Nat) : (List Byte × Bool) × State :=
  match s.placeOf pa with
  | some p =>
    let h := s.homeLoad pa clock
    ((s.overlay 0 who.wave p (s.placeBytes (pa / 2 ^ 46 % 64) p n), s.placeBad p n), h.2.raisePts who.core (max clock h.1.wts))
  | none =>
    match s.resolve (pa % 2 ^ 46) with
    | .peer w off =>
      if (s.peerLinks who.part w).isEmpty then ((List.replicate n 0, true), s)
      else (((List.range n).map (fun i => Config.freeByte s.free (off + i)), false), s)
    | _ => (((List.range n).map (Config.freeByte s.free), false), s)

/-- Updates the sectors of a line that a core's own L1 finds present (R88). -/
def State.l1Update (s : State) (core pa : Nat) (bs : List Byte) : State :=
  if (SMap.get [] core s.l1).any (fun c => c.line == pa / 128) then
    { s with l1 := SMap.set [] core ((SMap.get [] core s.l1).map (fun c =>
        if c.line = pa / 128 then
          { c with data := c.data.take (pa % 128) ++ bs ++ c.data.drop (pa % 128 + bs.length) } else c)) s.l1 }
  else s

/-- The L2 bank is asked for the line of a write of `n` bytes (R89). -/
def State.askFor (s : State) (f pa n : Nat) : State :=
  match s.placeOf pa with
  | some p => (s.scrubFirst p).l2Touch f pa p (partMask p n)
  | none => s

/-- A path-v write of bytes within one line, whose home has been asked for it (R108): at timestamp `ts`, which several lines may share (R114), or, with
none, at the one that its home gives. The home's lease and the core's clock move to it. -/
def State.vstoreAt (s : State) (who : Who) (pa : Nat) (ts : Option Nat) (bs : List Byte) : State :=
  match s.placeOf pa with
  | some p =>
    let ts := ts.getD ((s.homeLease pa).storeTs (s.ptsOf who.core))
    (((s.putLine 0 0 (pa / 2 ^ 46 % 64) p bs).l1Update who.core pa bs).setHome pa (Lease.at_ ts)).raisePts who.core ts
  | none => s

/-- A path-v store of bytes within one line (R108). -/
def State.vstore (s : State) (who : Who) (pa : Nat) (bs : List Byte) : State :=
  (s.askFor who.vf pa bs.length).vstoreAt who pa none bs

/-- A read-modify-write that leaves its bytes (R106, R108): it takes its timestamp at the home, which has been asked for the
line, as any atomic does. -/
def State.vtouch (s : State) (who : Who) (pa n : Nat) : State :=
  match s.placeOf pa with
  | some p =>
    let s := s.observeAll 0 p n
    let ts := (s.homeLease pa).storeTs (s.ptsOf who.core)
    (s.setHome pa (Lease.at_ ts)).raisePts who.core ts
  | none => s

/-- The bytes at the home of a physical place, as an atomic reads them (R106): the latest of the coherence order; a
peer's bytes are free values (R117). -/
def State.homeBytes (s : State) (pa n : Nat) : List Byte × Bool :=
  match s.resolve (pa % 2 ^ 46) with
  | .peer _ _ => ((List.range n).map (Config.freeByte s.free), false)
  | _ => s.physBytes pa n

/-- The reads of a walk and the A and D bits that it sets (R95, R97): each entry read is a path-v read at its home, which
has every write made there (log entry 6), and a bit is set by a compare-and-swap of the entry. -/
def State.mark (s : State) (who : Who) : List (Nat × Nat) → State
  | [] => s
  | (ea, bits) :: ms =>
    let e := natOfBytes (s.physBytes ea 8).1
    let s := match s.placeOf ea with
      | some p =>
        let h := ((s.l2Touch who.vf ea p (sectorMask p 8)).observeAll 0 p 8).homeLoad ea (s.ptsOf who.core)
        let s := h.2.raisePts who.core h.1.wts
        if e ||| bits = e then s else s.vstore who ea (bytesOf 8 (e ||| bits))
      | none => s
    s.mark who ms

/-- Splits an access into its lines: (address, offset in the access, bytes), ascending (R105). -/
def linePieces : Nat → Nat → Nat → Nat → List (Nat × Nat × Nat)
  | 0, _, _, _ => []
  | fuel + 1, a, off, n =>
    if n = 0 then []
    else
      let m := min n (128 - a % 128)
      (a, off, m) :: linePieces fuel (a + m) (off + m) (n - m)

/-- The lines of an access of `n` bytes. -/
def pieces (a n : Nat) : List (Nat × Nat × Nat) := linePieces (n / 128 + 2) a 0 n

/-- Bytes that the S12 writes at a physical address, line by line, for function `f` (64 for none); an unbacked write is
dropped (R513). -/
def State.physWrite (s : State) (path f pa : Nat) (bs : List Byte) : State :=
  (pieces pa bs.length).foldl (fun s x => match s.placeOf x.1 with
    | some p => s.putPlace path 0 f (x.1 / 2 ^ 46 % 64) p ((bs.drop x.2.1).take x.2.2)
    | none => s) s

/-- Bytes that the S12 reads at a physical address come through their L2 banks (R89). -/
def State.physTouch (s : State) (f pa n : Nat) : State :=
  (pieces pa n).foldl (fun s x => match s.placeOf x.1 with
    | some p => s.l2Touch f x.1 p (sectorMask p x.2.2)
    | none => s) s

/-- A physical address has backing (R79, R513). -/
def State.backed (s : State) (pa : Nat) : Bool :=
  match s.resolve (pa % 2 ^ 46) with
  | .mem _ => true
  | .steppe _ => true
  | _ => false

end Sys2Proof.Machine
end

