-- ==== Sys2Proof/Machine/Ops.lean ====
section
/-!
DEFINITION. The shared operations of the machine: the focus, accesses in a context's space, fault records
(spec/20_faults.md R424 to R427), confinement (R420 to R423, R428), taking a precise trap and the trap handler
(R408 to R415), and the return from one.
-/

namespace Sys2Proof.Machine

/-- Inserts a wave with its fragments, by wave number. -/
def insertBox (b : WaveBox) : List WaveBox → List WaveBox
  | [] => [b]
  | x :: xs => if b.wave.id < x.wave.id then b :: x :: xs else x :: insertBox b xs

/-- Inserts a fragment, by slot. -/
def insertFrag (f : Frag) : List Frag → List Frag
  | [] => [f]
  | x :: xs => if f.slot < x.slot then f :: x :: xs else x :: insertFrag f xs

/-- Inserts a workgroup, by number. -/
def insertWg (g : Workgroup) : List Workgroup → List Workgroup
  | [] => [g]
  | x :: xs => if g.id < x.id then g :: x :: xs else x :: insertWg g xs

/-- No fragment in focus: the focused wave and workgroup go back among the others. -/
def State.unfocus (s : State) : State :=
  if s.focus then
    { s with
      others := insertBox { wave := s.wave, frags := insertFrag s.frag s.sibs } s.others
      wgs := insertWg s.wg s.wgs
      focus := false, frag := {}, wave := {}, sibs := [], wg := {}, iss := {} }
  else s

/-- Puts the fragment in slot `slot` of wave `id` in focus, if it exists. -/
def State.focusOn (s : State) (id slot : Nat) : Option State :=
  if s.focus && s.wave.id == id && s.frag.slot == slot then some s
  else
    let s := s.unfocus
    match s.others.find? (fun b => b.wave.id == id) with
    | none => none
    | some b =>
      match b.frags.find? (fun f => f.slot == slot), s.wgs.find? (fun g => g.id == b.wave.wgId) with
      | some f, some g =>
        some { s with
          focus := true, frag := f, wave := b.wave, sibs := b.frags.filter (fun x => x.slot != slot), wg := g
          others := s.others.filter (fun x => x.wave.id != id), wgs := s.wgs.filter (fun x => x.id != g.id) }
      | _, _ => none

/-- Every resident wave with its fragments. -/
def State.boxes (s : State) : List WaveBox :=
  if s.focus then insertBox { wave := s.wave, frags := insertFrag s.frag s.sibs } s.others else s.others

/-- Every resident workgroup. -/
def State.groups (s : State) : List Workgroup := if s.focus then insertWg s.wg s.wgs else s.wgs

/-- The resident workgroup of number `id`. -/
def State.group (s : State) (id : Nat) : Option Workgroup := s.groups.find? (fun g => g.id == id)

/-- Changes the resident workgroup of number `id`. -/
def State.modGroup (s : State) (id : Nat) (f : Workgroup → Workgroup) : State :=
  if s.focus && s.wg.id == id then { s with wg := f s.wg }
  else { s with wgs := s.wgs.map (fun g => if g.id == id then f g else g) }

/-- The wave of number `id`, with its fragments. -/
def State.box (s : State) (id : Nat) : Option WaveBox := s.boxes.find? (fun b => b.wave.id == id)

/-- Changes the wave of number `id`. -/
def State.modWave (s : State) (id : Nat) (f : Wave → Wave) : State :=
  if s.focus && s.wave.id == id then { s with wave := f s.wave }
  else { s with others := s.others.map (fun b => if b.wave.id == id then { b with wave := f b.wave } else b) }

/-- Changes every fragment of the machine: `f` is given its wave. -/
def State.modFrags (s : State) (f : Wave → Frag → Frag) : State :=
  let s := if s.focus then { s with frag := f s.wave s.frag, sibs := s.sibs.map (f s.wave) } else s
  { s with others := s.others.map (fun b => { b with frags := b.frags.map (f b.wave) }) }

/-- Who the focused fragment's accesses are made by. -/
def State.who (s : State) : Who :=
  { core := s.wave.core, part := s.wg.part, vf := s.wg.vf, ctx := s.wg.ctx, wave := s.wave.id }

/-- Who a workgroup's accesses are made by, outside any wave. -/
def Workgroup.who (g : Workgroup) : Who := { core := g.core, part := g.part, vf := g.vf, ctx := g.ctx }

/-- The S12 itself as it acts in a partition: it has a logical clock of its own, beside those of the cores (DESIGN CHOICE, log
103). -/
def Who.s12 (w : Who) : Who := { w with core := 256 + w.part }

/-- Who the S12 acts for when it acts for a context. -/
def ctxWho (part vf ctx : Nat) : Who := Who.s12 { part := part, vf := vf, ctx := ctx }

/-- The write address under a seal grant (R378): writes to this device's memory go out under the grant's slot. -/
def sealAddr (grant : Option Nat) (pa : Nat) : Nat :=
  match grant with
  | some k => if pa % 2 ^ 46 < regBase then k * 2 ^ 46 + pa % 2 ^ 46 else pa
  | none => pa

/-- The seal slot under which a workgroup writes (R377, R378). -/
def State.grantOf (s : State) (g : Workgroup) : Option Nat :=
  match g.sealed with
  | some k => if s.keyMode k = 2 then some k else none
  | none => none

/-- The grant in force that SEAL_GRANT gives a context now (R377). -/
def State.grantNow (s : State) (who : Who) : Option Nat :=
  let w := s.preg who.part (0x20000 + 4 * (256 * who.vf + who.ctx))
  if bitAt w 31 ∧ s.keyMode (w % 64) = 2 then some (w % 64) else none

/-- The seal slot of a context's workgroups, under which what the S12 writes for them goes out (R378, R418, R424); with none
there, that of its register. -/
def State.ctxGrant (s : State) (who : Who) : Option Nat :=
  let mine := (s.groups ++ s.saved.map (·.wg)).filter (fun g => g.part == who.part && g.vf == who.vf && g.ctx == who.ctx)
  if mine.isEmpty then s.grantNow who else mine.findSome? s.grantOf

/-- Translates every line of an access in a context's space; the first failure answers. -/
def State.xlateAll (s : State) (who : Who) (acc : Access) : List (Nat × Nat × Nat) → Except XFail (List (XOk × Nat × Nat))
  | [] => .ok []
  | (a, off, n) :: ps =>
    match s.translate who.part who.vf who.ctx (a % 2 ^ 56) acc with
    | .error e => .error e
    | .ok x =>
      match s.xlateAll who acc ps with
      | .error e => .error e
      | .ok xs => .ok ((x, off, n) :: xs)

/-- Bytes at `va` with those that held writes have there. -/
def patched (va : Nat) (bs : List Byte) (ws : List HeldWrite) : List Byte :=
  ws.foldl (fun bs w => bs.mapIdx (fun i b =>
    if w.va ≤ va + i ∧ va + i < w.va + w.bytes.length then w.bytes.getD (va + i - w.va) 0 else b)) bs

/-- The S12's held writes in a context's space. -/
def State.heldOf (s : State) (who : Who) : List HeldWrite :=
  s.heldOut.filter (fun w => w.part == who.part && w.vf == who.vf && w.ctx == who.ctx)

/-- Reads `n` bytes in a context's space as path `q` observes them, with no timestamps: the S12's own reads of queue
entries, RCBs, headers, descriptors and tables, after its own held writes. A peer's bytes are free values (R117), and poisoned
with no link up (R500); so is what has no backing (R513). -/
def State.ctxRead (s : State) (who : Who) (q va n : Nat) (acc : Access) : Except XFail (List Byte × Bool) :=
  match s.xlateAll who acc (pieces va n) with
  | .error e => .error e
  | .ok xs => .ok ((fun (r : List Byte × Bool) => (patched va r.1 (s.heldOf who), r.2)) <| xs.foldl (fun r x =>
      let k := x.1.pa / 2 ^ 46 % 64
      match s.resolve (x.1.pa % 2 ^ 46) with
      | .mem p => (r.1 ++ s.overlay q who.wave p (s.placeBytes k p x.2.2), r.2 || s.placeBad p x.2.2)
      | .steppe p => (r.1 ++ s.overlay q who.wave p (s.placeBytes k p x.2.2), r.2 || s.placeBad p x.2.2)
      | .peer w _ =>
        if (s.peerLinks who.part w).isEmpty then (r.1 ++ List.replicate x.2.2 0, true)
        else (r.1 ++ (List.range x.2.2).map (Config.freeByte s.free), r.2)
      | _ => (r.1 ++ List.replicate x.2.2 0, true)) ([], false))

/-- An access of the S12's own in a context's space is held: a key slot under which it reads changes its mode (R460). -/
def State.ctxHeld (s : State) (who : Who) (va n : Nat) (acc : Access) : Bool :=
  match s.xlateAll who acc (pieces va n) with
  | .error _ => false
  | .ok xs => xs.any (fun x => s.keyBusyBit (x.1.pa / 2 ^ 46 % 64))

/-- The reads and bits of an access's walks (R97). -/
def State.markAll (s : State) (who : Who) (xs : List (XOk × Nat × Nat)) : State := s.mark who (xs.flatMap (·.1.marks))

/-- The array code of what a sector is read from (R422 Table 8): L2 where L2 has it, a shading heap, or its memory. -/
def State.sectorArray (s : State) (sec : Nat) : Nat :=
  if s.l2Has sec then 0x06
  else if 16 * sec < lpBase ∧ 0xFF0000000 ≤ 16 * sec % 2 ^ 36 then 0x0C
  else placeArray (16 * sec)

/-- A sector cannot be corrected: it takes the poison marker, and its array counts (R422, R452). -/
def State.poisonUE (s : State) (sec : Nat) : State :=
  State.countUE { s with uncorr := SMap.set false sec false s.uncorr, poison := SMap.set false sec true s.poison }
    (placeSlice (16 * sec)) (s.sectorArray sec)

/-- Some of the sectors `secs` of a line at `p` are beyond correction (R422, R453, R454, R456): each is poisoned and its array
counts, and `on` makes its record of `r`. A line of the tier comes through the memory-side cache, whose own errors on the
sectors asked for are the request's too. -/
def State.meetBy (s : State) (on : State → FaultRec → State) (r : FaultRec) (pa p : Nat) (secs : List Nat) : State :=
  let at_ (sec : Nat) : Nat := pa - p % 16 + 16 * sec - 16 * (p / 16)
  let known := s.owed.length
  let s := if inTier p && secs.any (fun x => !s.l2Has x) then s.l2Fill p (secs.foldl (fun m x => m ||| 2 ^ (x % 8)) 0) else s
  let mine (o : FaultRec) : Option Nat := if o.level = 0 then secs.find? (fun x => s.placeLoc (16 * x) == o.addr) else none
  let new := s.owed.drop known
  let s := { s with owed := s.owed.take known ++ new.filter (fun o => (mine o).isNone) }
  let s := new.foldl (fun s o => match mine o with
    | some sec => on s { r with code := o.code, addr := at_ sec }
    | none => s) s
  secs.foldl (fun s sec =>
    if s.unread sec then on (s.poisonUE sec) { r with code := s.sectorArray sec, addr := at_ sec } else s) s

/-- A record is owed: it is written once the step is over. -/
def State.oweRec (s : State) (r : FaultRec) : State := { s with owed := s.owed ++ [r] }

/-- An access of the S12's own for a context meets sectors beyond correction: their records are owed to the context (R453,
R454). -/
def State.oweMet (s : State) (who : Who) (grant : Option Nat) (pa p : Nat) (secs : List Nat) : State :=
  s.meetBy State.oweRec { source := 1, slot := grant, vf := who.vf, ctx := who.ctx, part := who.part, told := true } pa p secs

/-- A confinement of level 2 or above covers a context. -/
def Conf.coversCtx (c : Conf) (i f x : Nat) : Bool :=
  match c.level with
  | 0 => false
  | 1 => false
  | 2 => i == c.part && f == c.vf && x == c.ctx
  | 3 => i == c.part && f == c.vf
  | 4 => i == c.part
  | _ => true

/-- A structure of a context that the S12 cannot have confines its owner (R422, R513): the confinement is owed, once. -/
def State.oweConf (s : State) (r : FaultRec) : State :=
  let known (d : FaultRec) : Bool := d.source == 1 && d.code == r.code && d.addr == r.addr
  if s.owed.any known || s.confs.any (fun c => c.coversCtx r.part r.vf r.ctx && decide (r.level ≤ c.level) && c.causes.any known)
  then s else s.oweRec r

/-- Captures a stage-2 fault of function `f` (R450): S2CNT counts, and the first one is captured. -/
def State.captureS2 (s : State) (i f : Nat) (ipa : Nat) : State :=
  let off := 0x7000 + 16 * f
  let w := s.preg i off
  let s1 := s.setPreg i off (setField w 0 16 (min (w % 65536 + 1) 0xFFFF))
  if bitAt w 31 then s1
  else ((s1.setPreg i off (setField (setField w 0 16 (min (w % 65536 + 1) 0xFFFF)) 31 1 1)).setPreg i (off + 4)
    (field ipa 12 20 * 4096)).setPreg i (off + 8) (field ipa 32 14)

/-- A walk of the S12's own for a context fails: stage 2's refusals are reported (R450), and a table entry beyond correction
confines its owner (R422). -/
def State.oweFail (s : State) (who : Who) (e : XFail) : State :=
  let s := e.ipa.toList.foldl (fun s i => s.captureS2 who.part who.vf i) s
  match e.ue with
  | some u => s.oweConf { level := u.1, source := 1, code := u.2.1, addr := u.2.2, vf := who.vf, ctx := who.ctx, part := who.part }
  | none => s

/-- A line at a storage place holds its writes and atomics: a migration has locked it (R118). -/
def State.lockedLine (s : State) (pa : Nat) : Bool :=
  match s.placeOf pa with
  | some p => decide (SMap.get 0 (p / 128) s.locks ≠ 0)
  | none => false

/-- A write under a seal grant is held at a translated place (R118, R460). -/
def State.writeHeld (s : State) (grant : Option Nat) (pa : Nat) : Bool :=
  s.keyBusyBit (sealAddr grant pa / 2 ^ 46 % 64) || s.lockedLine pa

/-- Bytes that the S12 writes at a translated place on a path: on path v they take timestamps of its own clock. -/
def State.s12Write (s : State) (q : Nat) (who : Who) (pa : Nat) (bs : List Byte) : State :=
  if q = 0 then s.vstore who.s12 pa bs
  else match s.placeOf pa with
    | some p => s.putPlace q 0 who.vf (pa / 2 ^ 46 % 64) p bs
    | none => s

/-- Writes bytes in a context's space on path `q`, each line under the seal grant: why a line does not translate, and the state
after. What a key slot's change of mode or a line's lock holds, or comes after such a write of the context, waits (R118,
R460). -/
def State.ctxPutOn (s : State) (q : Nat) (who : Who) (grant : Option Nat) (va : Nat) (bs : List Byte) : Option XFail × State :=
  match s.xlateAll who .write (pieces va bs.length) with
  | .error e => (some e, s.oweFail who e)
  | .ok xs =>
    if !(s.heldOf who).isEmpty || xs.any (fun x => s.writeHeld grant x.1.pa) then
      (none, { s with heldOut := s.heldOut ++ [{ path := q, part := who.part, vf := who.vf, ctx := who.ctx, grant := grant, va := va, bytes := bs }] })
    else (none, xs.foldl (fun s x =>
      let s := match s.placeOf x.1.pa with
        | some p => s.oweMet who grant x.1.pa p (maskSectors p (partMask p x.2.2))
        | none => s
      s.s12Write q who (sealAddr grant x.1.pa) ((bs.drop x.2.1).take x.2.2)) (s.mark who.s12 (xs.flatMap (·.1.marks))))

/-- Writes bytes in a context's space on path v. -/
def State.ctxPut (s : State) (who : Who) (grant : Option Nat) (va : Nat) (bs : List Byte) : Option XFail × State :=
  s.ctxPutOn 0 who grant va bs

/-- The writes that were held are made again, in their order (R118, R460); one that its page no longer takes is dropped. -/
def State.releaseHeld (s : State) : State :=
  s.heldOut.foldl (fun s w =>
    (s.ctxPutOn w.path { part := w.part, vf := w.vf, ctx := w.ctx } w.grant w.va w.bytes).2) { s with heldOut := [] }

/-- The S12's own read of a few bytes of a context's space on path v (R89, R95, R107): its walks, its L2 fills, what it observes
and the home's lease, for which it has no clock (log 94). -/
def State.look (s : State) (who : Who) (va n : Nat) : State :=
  match s.xlateAll who .read (pieces va n) with
  | .error e => s.oweFail who e
  | .ok xs =>
    let d := s.free
    (xs.foldl (fun s x => match s.placeOf x.1.pa with
      | some p =>
        let s := (s.mark who.s12 x.1.marks).oweMet who (s.ctxGrant who) x.1.pa p (maskSectors p (sectorMask p x.2.2))
        let s := (s.l2Touch who.vf x.1.pa p (sectorMask p x.2.2)).observeAt d 0 who.wave p x.2.2
        s.setHome x.1.pa ((s.homeLease x.1.pa).load 0)
      | none => s) s).nextDraw

/-- The physical address of the context RCB bound to page `c` of function `f` (R72). -/
def State.ctxRcb (s : State) (i f c : Nat) : Option Nat :=
  let w := s.reg64 (blockOff i (0x30000 + 8 * (256 * f + c)))
  if bitAt w 63 then some (field w 8 44 * 256) else none

/-- A field of the context RCB; zero when none is bound. -/
def State.ctxField (s : State) (i f c off n : Nat) : Nat :=
  match s.ctxRcb i f c with
  | some pa => natOfBytes (s.physBytes (pa + off) n).1
  | none => 0

/-- The physical address of a field of the context RCB that cannot be had: its location has no backing, or its sector is
poisoned (R513, R422). -/
def State.ctxBad (s : State) (i f c off n : Nat) : Option Nat :=
  match s.ctxRcb i f c with
  | some pa => if (s.physBytes (pa + off) n).2 then some (pa + off) else none
  | none => none

/-- A confinement covers a context at level 2 or above. -/
def State.ctxConfined (s : State) (who : Who) : Bool := s.confs.any (fun c => c.coversCtx who.part who.vf who.ctx)

/-- The S12 used a field of the context RCB that cannot be had: the context's confinement is owed (R422, R513). -/
def State.oweCtx (s : State) (who : Who) (off n : Nat) : State :=
  match s.ctxBad who.part who.vf who.ctx off n with
  | some a =>
    if s.ctxConfined who then s
    else s.oweConf { level := 2, source := 1, code := 0x0D, addr := a, vf := who.vf, ctx := who.ctx, part := who.part }
  | none => s

/-- The S12 uses a field of the context RCB: its sectors come through their L2 bank (R89), and the context's confinement is owed
where it cannot be had. -/
def State.useCtx (s : State) (who : Who) (off n : Nat) : State :=
  match s.ctxRcb who.part who.vf who.ctx with
  | some pa => (s.oweCtx who off n).physTouch who.vf (pa + off) n
  | none => s

/-- DUMP of a context (R52 bytes 64 to 71). -/
def State.dumpBase (s : State) (i f c : Nat) : Nat := s.ctxField i f c 64 8

/-- A 32-bit word of a context's dump buffer; zero when it cannot be read. -/
def State.dumpWord (s : State) (who : Who) (base off : Nat) : Nat :=
  match s.ctxRead who 0 (base + off) 4 .read with
  | .ok r => natOfBytes r.1
  | .error _ => 0

/-- The 64 bytes of a fault record (R425 Table 10). -/
def FaultRec.bytes (r : FaultRec) (seq us : Nat) : List Byte :=
  bytesOf 8 seq ++ bytesOf 1 r.level ++ bytesOf 1 r.source ++ bytesOf 1 r.code ++ bytesOf 1 r.swcode ++
  bytesOf 4 r.lmask.toNat ++ bytesOf 8 r.pc ++ bytesOf 8 r.addr ++ bytesOf 2 r.core ++ bytesOf 1 r.wpos ++
  bytesOf 1 r.wave ++ bytesOf 1 r.frag ++ bytesOf 1 r.vf ++ bytesOf 1 r.ctx ++ bytesOf 1 r.part ++
  bytesOf 2 r.wx ++ bytesOf 2 r.wy ++ bytesOf 2 r.wz ++ bytesOf 2 0 ++ bytesOf 8 r.launch ++ bytesOf 8 us

/-- Counts a fault record that is not written (R425): FREC_LOST, saturating. -/
def State.lostRec (s : State) (who : Who) (grant : Option Nat) (base : Nat) : State :=
  let n := s.dumpWord who base 0xC
  ((s.look who (base + 0xC) 4).ctxPut who grant (base + 0xC) (bytesOf 4 (min (n + 1) 0xFFFFFFFF))).2

/-- Writes a fault record to a context's ring (R425). -/
def State.writeRec (s : State) (who : Who) (grant : Option Nat) (r : FaultRec) : State :=
  let s := s.useCtx who 64 8
  let base := s.dumpBase who.part who.vf who.ctx
  if base = 0 then s
  else
    let wr := s.dumpWord who base 4
    let rd := s.dumpWord who base 8
    let s := s.look who (base + 4) 8
    if (wr + 2 ^ 32 - rd) % 2 ^ 32 < 512 then
      match s.ctxPut who grant (base + 0x11000 + 64 * (wr % 512)) (r.bytes wr s.us) with
      | (some _, t) => t.lostRec who grant base
      | (none, t) => (t.ctxPut who grant (base + 4) (bytesOf 4 (wr + 1))).2
    else s.lostRec who grant base

/-- Writes a fault record to the firmware ring (R427). -/
def State.writeFwRec (s : State) (r : FaultRec) : State :=
  let base := s.reg 0x3400 |>.toNat
  let base := base / 2 ^ 16 * 2 ^ 16 + field (s.reg 0x3404).toNat 0 14 * 2 ^ 32
  let wr := (s.reg 0x3408).toNat
  let rd := (s.reg 0x340C).toNat
  if base = 0 ∨ !s.backed base ∨ (wr + 2 ^ 32 - rd) % 2 ^ 32 = 1024 then
    s.setReg 0x3410 (BitVec.ofNat 32 (min ((s.reg 0x3410).toNat + 1) 0xFFFFFFFF))
  else (s.physWrite 0 64 (base + 64 * (wr % 1024)) (r.bytes wr s.us)).setReg 0x3408 (BitVec.ofNat 32 (wr + 1))

/-- A structure that the S12 reads at a physical location cannot be had (R513, R419, R452, R454): a location without
backing goes to the firmware ring; a sector beyond correction is poisoned and counted. -/
def State.noteLost (s : State) (pa : Nat) : State :=
  if !s.backed pa then s.writeFwRec { level := 0, source := 1, code := 0x12, addr := pa }
  else
    match s.placeOf pa with
    | none => s
    | some p => if s.unread (p / 16) then s.poisonUE (p / 16) else s

/-- A fault record of a context, and of the firmware ring where R427 asks for it. -/
def State.report (s : State) (who : Who) (grant : Option Nat) (r : FaultRec) : State :=
  let s := s.writeRec who grant r
  if 3 ≤ r.level ∨ r.source = 1 then s.writeFwRec r else s

/-- A record of a level-0 error goes to the requesting context, or, with none, to the firmware ring (R454). -/
def State.tell (s : State) (who : Option Who) (grant : Option Nat) (r : FaultRec) : State :=
  match who with
  | some w => s.report w grant { r with level := 0, source := 1 }
  | none => s.writeFwRec { r with level := 0, source := 1 }

/-- A request meets sectors of memory beyond correction (R422, R453, R454): the requesting context is told. -/
def State.meetUE (s : State) (who : Option Who) (grant : Option Nat) (r : FaultRec) (pa p n : Nat) : State :=
  s.meetBy (fun s r => s.tell who grant r) r pa p ((List.range ((p % 16 + n + 15) / 16)).map (p / 16 + ·))

/-- The S12's own read of `n` bytes of a context's space on path `q` (R95, R97, R107, R450, R454), whose bytes `ctxRead`
gives in the state before: its walks, its L2 fills, what it observes, the lease of a read on path v, which has no core and so
no clock of its own (log 94), and the sectors it meets. -/
def State.seen (s : State) (who : Who) (q va n : Nat) (acc : Access) : State :=
  match s.xlateAll who acc (pieces va n) with
  | .error e => e.ipa.toList.foldl (fun s i => s.captureS2 who.part who.vf i) s
  | .ok xs =>
    let d := s.free
    (xs.foldl (fun s x => match s.placeOf x.1.pa with
      | some p =>
        let s := (s.mark who x.1.marks).meetUE (some who) (s.ctxGrant who) { vf := who.vf, ctx := who.ctx, part := who.part }
          x.1.pa p x.2.2
        let s := (s.l2Touch who.vf x.1.pa p (sectorMask p x.2.2)).observeAt d q who.wave p x.2.2
        if q = 0 then s.setHome x.1.pa ((s.homeLease x.1.pa).load 0) else s
      | none => { s with free := s.free + 1 }) s).nextDraw

/-- The fields of a fault record that name the focused unit (R425). -/
def State.unitRec (s : State) : FaultRec :=
  { slot := s.grantOf s.wg, pc := s.frag.pc.toNat, core := s.wave.core, wpos := 16 * s.wave.port + s.wave.idx, wave := s.wave.index,
    frag := s.frag.slot, vf := s.wg.vf, ctx := s.wg.ctx, part := s.wg.part, wx := s.wg.wx, wy := s.wg.wy, wz := s.wg.wz,
    launch := s.wg.launchAddr.toNat }

/-- The same for the unit that the focused fragment issued last. -/
def State.doneRec (s : State) : FaultRec := { s.unitRec with pc := s.frag.unit.toNat }

/-- The fields of a fault record that name a workgroup. -/
def State.groupRec (s : State) (g : Workgroup) : FaultRec :=
  { slot := s.grantOf g, core := g.core, vf := g.vf, ctx := g.ctx, part := g.part, wx := g.wx, wy := g.wy, wz := g.wz, launch := g.launchAddr.toNat }

/-- A confinement covers a workgroup. -/
def Conf.covers (c : Conf) (g : Workgroup) : Bool :=
  match c.level with
  | 0 => false
  | 1 => c.wgs.contains g.id
  | 2 => g.part == c.part && g.vf == c.vf && g.ctx == c.ctx
  | 3 => g.part == c.part && g.vf == c.vf
  | 4 => g.part == c.part
  | _ => true

/-- The scope of `c` lies inside the scope of `d` (R428). -/
def Conf.within (c d : Conf) : Bool :=
  match c.level, d.level with
  | 1, 1 => c.wgs.all d.wgs.contains
  | 1, _ => d.coversCtx c.part c.vf c.ctx
  | 2, 1 => false
  | _, 1 => false
  | 2, _ => d.coversCtx c.part c.vf c.ctx
  | 3, 2 => false
  | 3, 3 => c.part == d.part && c.vf == d.vf
  | 3, 4 => c.part == d.part
  | 4, 4 => c.part == d.part
  | _, 5 => true
  | _, _ => false

/-- A workgroup's issue is stopped by a confinement (R423 step 1). -/
def State.confined (s : State) (g : Workgroup) : Bool := s.confs.any (fun c => c.covers g)

/-- The launch that has an RCB address in a context. -/
def State.launchAt (s : State) (f c : Nat) (a : VAddr) : Option Launch :=
  s.launches.find? (fun l => l.vf == f && l.ctx == c && l.addr == a)

/-- The nearest launch with FDOM set, from launch `l` toward the context (R421); `fuel` bounds the walk. -/
def State.fdomOf (s : State) : Nat → Launch → Option Launch
  | 0, _ => none
  | fuel + 1, l =>
    if l.fdom then some l
    else if l.kind = 5 then
      match s.launchAt l.vf l.ctx l.parent with
      | some p => s.fdomOf fuel p
      | none => none
    else none

/-- Whether launch `l` is `top` or lies below it (R421). -/
def State.launchBelow (s : State) (top : Launch) : Nat → Launch → Bool
  | 0, l => l.id == top.id
  | fuel + 1, l =>
    l.id == top.id ||
      (l.kind == 5 && match s.launchAt l.vf l.ctx l.parent with
        | some p => s.launchBelow top fuel p
        | none => false)

/-- The workgroups and launches of a level-1 confinement of a workgroup: its tuple (R434), and its fault domain (R421). -/
def State.scope1 (s : State) (g : Workgroup) : List Nat × List Nat :=
  let n := s.launches.length
  match (s.launches.find? (fun l => l.id == g.launch)).bind (s.fdomOf (n + 1)) with
  | none => ((g.id :: g.tuple).eraseDups, [])
  | some top =>
    let ls := (s.launches.filter (s.launchBelow top n)).map (·.id)
    let ws := (s.groups ++ s.saved.map (·.wg)).filter (fun x => ls.contains x.launch)
    (((g.id :: g.tuple) ++ ws.map (·.id) ++ ws.flatMap (·.tuple)).eraseDups, ls)

/-- The contexts to which a context RCB is bound (R72). -/
def State.boundCtxs (s : State) : List Who :=
  s.regs.filterMap (fun e =>
    let off := e.1 % 0x100000
    if 0x100000 ≤ e.1 ∧ 0x30000 ≤ off ∧ off < 0x50000 ∧ off % 8 = 4 ∧ bitAt e.2.toNat 31 then
      some (ctxWho (e.1 / 0x100000 - 1) ((off - 0x30000) / 8 / 256) ((off - 0x30000) / 8 % 256))
    else none)

/-- The contexts of a confinement's scope: the cause's own at levels 1 and 2, else those that are bound and those of the
resident workgroups (R423, R427). -/
def State.scopeCtxs (s : State) (c : Conf) : List Who :=
  if c.level ≤ 2 then [ctxWho c.part c.vf c.ctx]
  else ((s.boundCtxs.filter (fun w => c.coversCtx w.part w.vf w.ctx)) ++
    (s.groups.filter c.covers).map (fun g => ctxWho g.part g.vf g.ctx)).eraseDups

/-- Sets the STATE byte of a context's dump header (R423, R424), under a seal grant (R378, R418). -/
def State.setDumpState (s : State) (who : Who) (grant : Option Nat) (v : Nat) : State :=
  let s := s.useCtx who 64 8
  let base := s.dumpBase who.part who.vf who.ctx
  if base = 0 then s else (s.ctxPut who grant (base + 0x10) (bytesOf 1 v)).2

/-- The order of two fault records (R428): that of their detection, and within one count of the clock the lower level
first. -/
def FaultRec.before (a b : FaultRec) : Bool :=
  if a.cyc = b.cyc then decide (a.level < b.level) || (decide (a.level = b.level) && decide (a.seq ≤ b.seq))
  else decide (a.cyc < b.cyc)

/-- Writes a record of a confinement (R425, R427), by its own LEVEL: below 3 in its own context's ring, else in the ring
of every context of its scope and in the firmware ring; each under its writer's seal slot (R378, R424). -/
def State.confRecord (s : State) (r : FaultRec) : State :=
  let own := ctxWho r.part r.vf r.ctx
  let ws := s.scopeCtxs { id := 0, level := r.level, part := r.part, vf := r.vf, ctx := r.ctx }
  let s := if r.level < 3 then s.writeRec own (r.slot <|> s.ctxGrant own) r
    else ws.foldl (fun s w => s.writeRec w (s.ctxGrant w) r) s
  if 3 ≤ r.level ∨ r.source = 1 then s.writeFwRec r else s

/-- Begins a confinement (R420, R423 step 1, R426, R428): its scope is frozen, and the queues of its contexts halt. A cause
inside a scope that is already frozen joins that confinement, and is recorded at once where the capture has ended; a wider scope
takes over the confinements inside it. -/
def State.confine (s : State) (level : Nat) (who : Who) (g : Option Workgroup) (r : FaultRec) : State :=
  let sc := match g with
    | some g => if level = 1 then s.scope1 g else ([], [])
    | none => ([], [])
  let c : Conf := { id := s.nextId, level := level, wgs := sc.1, part := who.part, vf := who.vf, ctx := who.ctx,
                    causes := [{ r with level := level, cyc := s.aclk, seq := s.nextId }], launches := sc.2,
                    waiting := [.copy, .matrix, .sight, .attention] }
  let s := { s with nextId := s.nextId + 1 }
  if s.confs.any (fun d => c.within d) then
    let t := { s with confs := s.confs.map (fun d => if c.within d then
        { d with causes := sortBy FaultRec.before (d.causes ++ c.causes) } else d) }
    if s.confs.any (fun d => c.within d && d.phase == .captured) then c.causes.foldl State.confRecord t else t
  else
    let inner : List Conf := s.confs.filter (fun d => d.within c)
    let whole : Conf := { c with
      causes := sortBy FaultRec.before (inner.flatMap (fun d => d.causes) ++ c.causes), resets := inner.flatMap (fun d => d.resets) }
    let s := { s with confs := (s.confs.filter (fun d : Conf => !d.within c)) ++ [whole] }
    let ws := s.scopeCtxs whole
    let s := if level < 2 then s else ws.foldl (fun s w =>
      (s.setBell w.vf w.ctx 0x014 (s.bell w.vf w.ctx 0x014 ||| 1)).setBell w.vf w.ctx 0x304 0) s
    ws.foldl (fun s w => s.setDumpState w (s.ctxGrant w) 1) s

/-- A trap condition of a unit (R408, R409): its code, the lanes in which it holds, the address and the auxiliary
value it reports, the intermediate addresses that stage 2 refused (R450), and a table entry that cannot be corrected. -/
structure Cond where
  code : Nat
  lanes : LaneMask := 0
  addr : Nat := 0
  aux : Nat := 0
  sw : Nat := 0
  ipas : List Nat := []
  ue : Option (Nat × Nat × Nat) := none
  /-- it stands where an fpt has to (R429) -/
  breach : Bool := false
  deriving DecidableEq, Repr

/-- The condition that the unit raises: the lowest code among those that hold (R409), in every lane in which it holds,
with what it reports of the lowest of them (R413). From 0x07 on its accesses have been translated, and every page that stage
2 refused is reported, once for a merged walk (R97, R450). -/
def raised (cs : List Cond) : Option Cond :=
  match bestOf (fun a b => decide (a.code < b.code)) cs with
  | none => none
  | some c =>
    let same := cs.filter (fun x => x.code == c.code)
    let lanes := same.foldl (fun m x => m ||| x.lanes) 0
    let first := (same.find? (fun x => match lowest lanes with
      | some l => x.lanes.getLsbD l
      | none => true)).getD c
    let walks := (cs.flatMap (·.ipas)).foldl (fun l a => if l.any (fun b => b / 4096 == a / 4096) then l else l ++ [a]) []
    some { first with
      lanes := lanes, ipas := if c.code < 0x07 then [] else walks, breach := cs.any (fun x => x.breach) }

/-- Codes whose trap reports an address (R413). -/
def reportsAddr (c : Nat) : Bool := c == 0x07 || c == 0x08 || c == 0x09 || c == 0x0B || c == 0x11

/-- Codes whose trap reports an auxiliary value (R413). -/
def reportsAux (c : Nat) : Bool := decide (c ≤ 3) || c == 0x0A

/-- The fault record of a trap of the focused unit. -/
def State.trapRec (s : State) (source : Nat) (c : Cond) : FaultRec :=
  { s.unitRec with source := source, code := c.code, swcode := c.sw, lmask := c.lanes,
                   addr := if reportsAddr c.code then c.addr else 0 }

/-- Confines the focused fragment's workgroup at level 1 (R420). -/
def State.confineWg (s : State) (source : Nat) (c : Cond) : State :=
  State.confine { s with iss := {} } 1 s.who (some s.wg) (s.trapRec source c)

/-- The handler's header cannot be used (R469): a nested trap, with the lanes of the original one and the header's
address. -/
def State.confineEntry (s : State) (code : Nat) (lanes : LaneMask) (header : Nat) : State :=
  State.confine { s with iss := {} } 1 s.who (some s.wg)
    { s.trapRec 5 { code := code, lanes := lanes } with addr := header }

/-- A table entry or a context RCB beyond correction confines its owner (R422, R513). -/
def State.confineOwner (s : State) (c : Cond) (u : Nat × Nat × Nat) : State :=
  (State.noteLost { s with iss := {} } u.2.2).confine u.1 s.who none { s.trapRec 1 c with code := u.2.1, addr := u.2.2 }

/-- HANDLER of a context (R411). -/
def State.handlerOf (s : State) (i f c : Nat) : Nat := s.ctxField i f c 80 8

/-- The read of a handler's header for a trap is held by a key slot that changes its mode (R460). -/
def State.headerHeld (s : State) (c : Cond) : Bool :=
  c.ue.isNone && s.frag.recipe.isNone && s.wave.hx.isNone && (s.ctxBad s.wg.part s.wg.vf s.wg.ctx 80 8).isNone &&
  decide (s.handlerOf s.wg.part s.wg.vf s.wg.ctx ≠ 0) && s.ctxHeld s.who (s.handlerOf s.wg.part s.wg.vf s.wg.ctx) 64 .fetch

/-- Enters the trap handler (R412): fills the handler registers, zeroes mr and sends the fragment to ENTRY_OFF. An answer of the
host that the unit has met is done with (R451). -/
def State.enterHandler (s : State) (exec : LaneMask) (c : Cond) (header ver entry : Nat) : State :=
  { s with
    wave := { s.wave with hx := some {
        slot := s.frag.slot, cause := c.code, swcode := c.sw, pc := s.frag.pc, exec := exec, lanes := c.lanes,
        addr := BitVec.ofNat 56 (if reportsAddr c.code then c.addr else 0),
        aux := BitVec.ofNat 32 (if reportsAux c.code then c.aux else 0),
        mr := s.frag.mr &&& 0x1FFFFF, w := s.frag.pc + BitVec.ofNat 56 (4 * s.iss.n), version := ver,
        hold := if c.breach then .free else s.frag.hold, breachAt := if c.breach then some s.frag.pc else none } }
    frag := { s.frag with mr := 0, pc := BitVec.ofNat 56 (header + entry) }
    pri := s.pri.filter (fun p => p.wave != s.wave.id || p.slot != s.frag.slot || p.cmd != 0)
    iss := {} }

/-- The ACLK count of the focused wave's core (R26). -/
def State.now (s : State) : Nat := s.coreCyc s.wave.core

/-- An issue restarts the count of the ready time and counts as an instruction (R63). -/
def Frag.issuedAt (f : Frag) (now : Nat) : Frag :=
  { f with unit := f.pc, lastIssue := now, since := now, readyTime := 0, aged := false, issued := f.issued + 1 }

/-- The unit parks before it takes effect (R197, R330, R460): it issues again when it is woken. -/
def State.parkAgain (s : State) : State :=
  State.cycle { s with frag := { s.frag.issuedAt s.now with status := .waiting, wait := some .again }, iss := {} } s.wave.core

/-- Takes a precise trap (R410 to R415, R420, R436, R469): a nested trap and a trap in a recipe confine the workgroup,
and so does one without a handler; a translation that met a table entry beyond correction confines the entry's owner
(R422); otherwise the handler is entered, its header read on path i, once no key slot holds that read (R460). -/
def State.takeTrap (s : State) (exec : LaneMask) (c : Cond) : State :=
  if s.headerHeld c then s.parkAgain else
  let s := c.ipas.foldl (fun s ipa => s.captureS2 s.wg.part s.wg.vf ipa) s
  match c.ue with
  | some u => s.confineOwner c u
  | none =>
    if s.frag.recipe.isSome then s.confineWg 0 c
    else if s.wave.hx.isSome then s.confineWg 5 c
    else
      match s.ctxBad s.wg.part s.wg.vf s.wg.ctx 80 8 with
      | some a => s.confineOwner c (2, 0x0D, a)
      | none =>
        let h := s.handlerOf s.wg.part s.wg.vf s.wg.ctx
        let s := s.useCtx s.who 80 8
        if h = 0 then s.confineWg 0 c
        else
          let r := s.ctxRead s.who 1 h 64 .fetch
          let s := s.seen s.who 1 h 64 .fetch
          match r with
          | .error { ue := some u, .. } => s.confineOwner c u
          | .error e => s.confineEntry e.code c.lanes h
          | .ok r =>
            if r.2 ∨ natAt r.1 0 4 ≠ 0x314B4D45 ∨ natAt r.1 4 2 = 0 ∨ 3 < natAt r.1 4 2 then
              s.confineEntry 0x03 c.lanes h
            else s.enterHandler exec c h (natAt r.1 4 2) (natAt r.1 44 4)

/-- Returns from the handler (R414): HX_MR comes back, the wave's other fragments may issue again, and the fragment
goes to `pc`. A unit that broke a rewind hold breaks it again when it is retried, and the rewind is no longer held elsewhere
(R429, R474). -/
def State.leaveHandler (s : State) (h : Handler) (pc : VAddr) : State :=
  { s with
    wave := { s.wave with hx := none }
    frag := { s.frag with mr := h.mr &&& 0x1FFFFF, pc := pc, hold := if h.breachAt = some pc then .fptUnheld else h.hold }
    iss := {} }

/-- Ends the workgroup from its handler (R414, R420): the record is that of the handled trap. -/
def State.endInHandler (s : State) (h : Handler) : State :=
  let c : Cond := { code := h.cause, lanes := h.lanes, addr := h.addr.toNat, sw := h.swcode }
  State.confine { s with iss := {} } 1 s.who (some s.wg) { s.trapRec 0 c with pc := h.pc.toNat }

end Sys2Proof.Machine
end

