-- ==== Sys2Proof/Machine/Unit.lean ====
section
/-!
DEFINITION. A unit of the focused fragment (spec/07_encoding.md R169, spec/23_faults_instructions.md R464 to R470):
its execution mask, the conditions that every unit is judged by, its retirement, and the shared form of a meaning.
-/

namespace Sys2Proof.Machine

/-- The mode register's fields (R171 Table 10). -/
def mrField (mr : Word) (lo w : Nat) : Nat := field mr.toNat lo w

def State.et (s : State) : Nat := mrField s.frag.mr 7 5
def State.rnd (s : State) : Nat := mrField s.frag.mr 12 3
def State.satBit (s : State) : Bool := s.frag.mr.getLsbD 15
def State.flushBit (s : State) : Bool := s.frag.mr.getLsbD 16
def State.und (s : State) : Nat := mrField s.frag.mr 17 2
def State.emptyTraps (s : State) : Bool := s.frag.mr.getLsbD 19
def State.nanp (s : State) : Bool := s.frag.mr.getLsbD 20

/-- The value of predicate `p` in lane `l` of the focused wave. -/
def State.pred (s : State) (p l : Nat) : Tri := SMap.get .f (32 * p + l) s.wave.preds

/-- The guard of the unit: sense and predicate, from a guard word or from mr (R170, R36). -/
def State.guardOf (s : State) : Nat × Nat :=
  match s.iss.guard with
  | some g => g
  | none => (mrField s.frag.mr 4 3, mrField s.frag.mr 0 4)

/-- A guard sense selects a predicate value (R135 Table 7). -/
def senseSelects (sense : Nat) (v : Tri) : Bool :=
  match sense with
  | 0 => true
  | 1 => v == .t
  | 2 => v == .f
  | 3 => v == .u
  | 4 => v != .f
  | 5 => v != .t
  | 6 => v != .u
  | _ => false

/-- The execution mask of the unit (R36); guard sense 7 is none, and the unit traps (R465). -/
def State.exec (s : State) : LaneMask :=
  let g := s.guardOf
  if g.1 = 0 ∨ g.1 = 7 then s.frag.mask else lanesWhere s.frag.mask (fun l => senseSelects g.1 (s.pred g.2 l))

/-- The address W of the unit's instruction word (R169). -/
def State.wAddr (s : State) : VAddr := s.frag.pc + BitVec.ofNat 56 (4 * s.iss.n)

/-- The kinds of unit that the rules of flashback tell apart (R197, R429). -/
inductive UnitKind where
  | plain
  /-- an fpt -/
  | fpt
  /-- a br without a guard word, under guard sense always (R190) -/
  | br
  deriving DecidableEq, Repr

/-- A word that may stand in a recipe (R436). -/
def recipeWord (w : Word) : Bool :=
  let op := opByte w
  decide (op = 0x00) || (decide (0x20 ≤ op) && decide (op ≤ 0x4E)) ||
  (decide (0x50 ≤ op) && decide (op ≤ 0x78) && decide (op ≠ 0x6F) && decide (op ≠ 0x70)) || decide (op = 0x7B) ||
  (decide (0x80 ≤ op) && decide (op ≤ 0x84)) || decide (op = 0x8A) || decide (op = 0x8C) ||
  decide (op = 0x15) || decide (op = 0xF0) || decide (op = 0xF1)

/-- The unit is the next one after an event that asks for an fpt, and it is none (R429). -/
def State.breaksHold (s : State) (k : UnitKind) : Bool :=
  decide (1 ≤ s.wg.fbCount) && s.wave.hx.isNone &&
    (match s.frag.hold with
      | .free => false
      | .fpt => k != .fpt
      | .atTarget => k != .fpt
      | .fptOrBr => k == .plain
      | .fptIfNext => false
      | .fptUnheld => k != .fpt)

/-- The conditions that every unit is judged by: the order of its words (R464), reserved fields (R468), guard sense 7
(R135), the fpt that R429 asks for, and the words that a recipe may hold (R436). -/
def State.unitConds (s : State) (k : UnitKind) : List Cond :=
  let e := s.exec
  (match s.iss.bad with
    | some w => [{ code := 0x01, lanes := e, aux := w.toNat }]
    | none => []) ++
  (if s.iss.lih.isSome && s.iss.lit.isNone then [{ code := 0x01, lanes := e, aux := s.iss.word.toNat }] else []) ++
  (if s.iss.resv then [{ code := 0x02, lanes := e, aux := s.iss.word.toNat }] else []) ++
  (if s.guardOf.1 = 7 then [{ code := 0x01, lanes := e, aux := s.iss.word.toNat }] else []) ++
  (if s.breaksHold k then [{ code := 0x0C, lanes := e, breach := true }] else []) ++
  (if s.frag.recipe.isSome && !recipeWord s.iss.word then [{ code := 0x0C, lanes := e }] else [])

/-- A condition on the encoding: trap `code` in every lane of the execution mask, reporting the word (R465). -/
def State.encCond (s : State) (b : Bool) (code : Nat) : List Cond :=
  if b then [{ code := code, lanes := s.exec, aux := s.iss.word.toNat }] else []

/-- A condition that holds in the lanes of `m`, when there is one. -/
def laneCond (code : Nat) (m : LaneMask) (addr : Nat := 0) (aux : Nat := 0) : List Cond :=
  if m = 0 then [] else [{ code := code, lanes := m, addr := addr, aux := aux }]

/-- An instruction after which the fragment's next unit is an fpt (R70, R197, R268, R290, R341, R342, R429). -/
def lastBeforeFpt (w : Word) : Bool :=
  let op := opByte w
  [0x0E, 0x0F, 0x11, 0x12, 0x14, 0x6F, 0x79, 0x7A, 0x9B, 0xB0, 0xB1, 0xB2, 0xB3, 0xD1, 0xD2, 0xD3, 0xD4, 0xD5, 0xE0,
    0xE9].contains op ||
  (decide (0x8F ≤ op) && decide (op ≤ 0x99)) || (decide (0x9C ≤ op) && decide (op ≤ 0xA0)) ||
  (decide (0xA2 ≤ op) && decide (op ≤ 0xA5))

/-- The hold on the fragment's rewind after a unit of a kind has issued (R197, R429); after an scq it is that of R404. -/
def holdAfter (h : Hold) (k : UnitKind) (w : Word) : Hold :=
  match h, k with
  | .fptOrBr, .br => .atTarget
  | _, _ => if lastBeforeFpt w then .fpt else if opByte w = 0xD0 then .fptIfNext else .free

/-- The lease of a context's FRAME word (R216). -/
def State.frameLease (s : State) (f c : Nat) : Lease := SMap.get {} (256 * f + c) s.frameLeases

/-- The home of a FRAME word takes a lease. -/
def State.setFrameLease (s : State) (f c : Nat) (le : Lease) : State :=
  { s with frameLeases := SMap.set {} (256 * f + c) le s.frameLeases }

/-- A read of a context's FRAME word by a core is a path-v load (R103, R216). -/
def State.frameLoad (s : State) (f c core : Nat) : State :=
  let le := (s.frameLease f c).load (s.ptsOf core)
  (s.setFrameLease f c le).raisePts core le.wts

/-- A write of a context's FRAME word by a core is a path-v store (R103, R216). -/
def State.frameStore (s : State) (f c core v : Nat) : State :=
  let ts := (s.frameLease f c).storeTs (s.ptsOf core)
  ((s.setBell f c 0x200 v).setFrameLease f c (Lease.at_ ts)).raisePts core ts

/-- A host access to a context's FRAME word is a path-v event on it, of no core (R216): a read (`v` none), or a write. -/
def State.frameHost (s : State) (f c : Nat) (v : Option Nat) : State :=
  match v with
  | none => s.setFrameLease f c ((s.frameLease f c).load 0)
  | some v => (s.setBell f c 0x200 v).setFrameLease f c (Lease.at_ ((s.frameLease f c).storeTs 0))

/-- The opcodes, from the first to the last of each range, whose word has an operand code in byte `i`: 0 for d, 1 for a, 2
for b (R189, R220, R243, R271, R298, R336, R352). -/
def operandOps : Nat → List (Nat × Nat)
  | 0 => [(0x11, 0x11), (0x13, 0x13), (0x20, 0x3C), (0x3E, 0x4E), (0x50, 0x57), (0x59, 0x6E), (0x70, 0x7B), (0x80, 0x8D),
          (0x8F, 0x9B), (0xA0, 0xA0), (0xA5, 0xA5), (0xA9, 0xAA), (0xB5, 0xBB), (0xD0, 0xD3), (0xE1, 0xE2), (0xF3, 0xF4)]
  | 1 => [(0x03, 0x03), (0x08, 0x08), (0x0A, 0x0B), (0x11, 0x11), (0x14, 0x14), (0x20, 0x3F), (0x41, 0x4E), (0x50, 0x6F),
          (0x71, 0x7B), (0x9C, 0x9F), (0xA2, 0xA6), (0xA9, 0xAA), (0xB0, 0xB2), (0xB5, 0xB6), (0xBA, 0xBB), (0xD0, 0xD5),
          (0xE0, 0xE2), (0xE8, 0xE9)]
  | _ => [(0x0B, 0x0B), (0x20, 0x29), (0x2C, 0x30), (0x32, 0x38), (0x3D, 0x3E), (0x41, 0x45), (0x4A, 0x4C), (0x50, 0x53),
          (0x56, 0x58), (0x5D, 0x5D), (0x64, 0x64), (0x6C, 0x6E), (0x71, 0x71), (0x76, 0x7B), (0x80, 0x9B), (0x9F, 0x9F),
          (0xA3, 0xA4), (0xA6, 0xA6), (0xA9, 0xAA), (0xB0, 0xB1), (0xB7, 0xB9), (0xD0, 0xD1), (0xD3, 0xD3), (0xD5, 0xD5),
          (0xE1, 0xE1), (0xE8, 0xE8)]

/-- A word has $frame (R165) among its operands. -/
def readsFrame (w : Word) : Bool :=
  [0, 1, 2].any (fun i => decide (field w.toNat (16 - 8 * i) 8 = 0xD9) &&
    (operandOps i).any (fun r => decide (r.1 ≤ opByte w) && decide (opByte w ≤ r.2)))

/-- The unit's read of $frame, if it has one (R216) and a lane to read it (R219). -/
def State.frameRead (s : State) : State :=
  if readsFrame s.iss.word ∧ s.exec ≠ 0 then s.frameLoad s.wg.vf s.wg.ctx s.wave.core else s

/-- The unit has issued: the fragment goes to W + 4 (R169), its issue time and hold move on, a recipe has one unit
less, $frame has been read, and the port has spent an ACLK (R35, R63). -/
def State.retire (s : State) (k : UnitKind) : State :=
  let s := s.frameRead
  let left := s.frag.recipe.map (fun n => n - (s.iss.n + 1))
  let next := s.wAddr + 4
  State.cycle { s with
    frag := { s.frag.issuedAt s.now with
      pc := if left = some 0 then s.frag.fbPc else next
      recipe := if left = some 0 then none else left
      hold := holdAfter s.frag.hold k s.iss.word }
    wave := { s.wave with place := none }
    iss := {} } s.wave.core

/-- The conditions of a unit judged together, and its effect when none holds (R409, R410, R465). -/
def State.judged (s : State) (k : UnitKind) (conds : List Cond) : Option Cond := raised (s.unitConds k ++ conds)

/-- The shared form of a meaning: the unit traps, or it retires and has its effect. -/
def State.issueK (s : State) (k : UnitKind) (conds : List Cond) (eff : State → State) :
    Host.Outcome State Fault Refusal :=
  match s.judged k conds with
  | some c => .next (s.takeTrap s.exec c)
  | none => .next (eff (s.retire k))

/-- The shared form of a meaning that is no fpt and no br. -/
def State.issue (s : State) (conds : List Cond) (eff : State → State) : Host.Outcome State Fault Refusal :=
  s.issueK .plain conds eff

/-- A meaning that acts only while its execution mask is not empty (R219, R470). -/
def State.issueLive (s : State) (conds : List Cond) (eff : State → State) : Host.Outcome State Fault Refusal :=
  s.issue conds (fun t => if s.exec = 0 then t else eff t)

/-- The focused fragment waits (R62): it keeps the unit's address, and continues at W + 4 when its wait returns. -/
def State.park (s : State) (unit : VAddr) (w : Wait) : State :=
  { s with frag := { s.frag with status := .waiting, wait := some w, since := s.now, pc := unit, resume := s.frag.pc } }

/-- The unit parks before it takes effect until batch `n` of its wave is complete (R289). -/
def State.parkOldest (s : State) (n : Nat) : State :=
  let t := s.parkAgain
  { t with frag := { t.frag with wait := some (.oldest n) } }

/-- The unit is blocked before it takes effect (R306, R310): it issues again when it is woken. -/
def State.blockAgain (s : State) : State :=
  State.cycle { s with frag := { s.frag.issuedAt s.now with status := .blocked, wait := some .again }, iss := {} } s.wave.core

/-- The focused fragment is blocked on a short dependence (R61, R294). -/
def State.block (s : State) (unit : VAddr) (w : Wait) : State :=
  { s with frag := { s.frag with status := .blocked, wait := some w, since := s.now, pc := unit, resume := s.frag.pc } }

/-- A fragment's wait returns (R61, R67): it goes on after its unit, or issues the unit again. One that is pending-ready goes on
counting its time there (R63). -/
def Frag.wakeAt (now : Nat) (f : Frag) : Frag :=
  { f with
    status := match f.status with
      | .blocked => .ready
      | .evicted => .evicted
      | _ => .pendingReady
    wait := none
    left := []
    since := if f.status = .pendingReady then f.since else now
    pc := if (match f.wait with
      | some .again => true
      | some (.oldest _) => true
      | some (.pri _) => true
      | _ => false) then f.pc else f.resume }

/-- Wakes the waiting fragments that `p` selects; `g` is applied to each. A wave that is away keeps its wake pending, in
the order of the wakes (R67). -/
def State.wakeIf (s : State) (p : Wave → Frag → Bool) (g : Frag → Frag := id) : State :=
  let hit (w : Wave) (f : Frag) : Bool := f.wait.isSome && p w f
  let on (w : Wave) (f : Frag) : Frag := if hit w f then g (f.wakeAt (s.coreCyc w.core)) else f
  let order (w : Wave) (fs : List Frag) : Wave :=
    if w.away && w.wake.isNone && fs.any (hit w) then { w with wake := some (w.place.getD s.nextId) } else w
  let some_ := s.boxes.any (fun b => b.frags.any (hit b.wave))
  let s := if s.focus then
      { s with wave := order s.wave (s.frag :: s.sibs), frag := on s.wave s.frag, sibs := s.sibs.map (on s.wave) }
    else s
  { s with
    others := s.others.map (fun b => { wave := order b.wave b.frags, frags := b.frags.map (on b.wave) })
    nextId := if some_ then s.nextId + 1 else s.nextId }

end Sys2Proof.Machine
end

