-- ==== Sys2Proof/Machine/Operands.lean ====
section
/-!
DEFINITION. Operand forms (spec/07_encoding.md R162 to R168): reading a source in its class and width, the checks of
its encoding, poison, and writing a destination.
-/

namespace Sys2Proof

/-- Kinds of operand that a position admits. -/
def Operand.isV : Operand → Bool
  | .v _ => true
  | _ => false

def Operand.isX : Operand → Bool
  | .x _ => true
  | _ => false

def Operand.isP : Operand → Bool
  | .p _ => true
  | _ => false

/-- A vector or scalar register: what a destination may name (R162). -/
def Operand.isReg (o : Operand) : Bool := o.isV || o.isX

/-- The number of the register or predicate that an operand names; 0 otherwise. -/
def Operand.num : Operand → Nat
  | .v n => n.val
  | .x n => n.val
  | .p n => n.val
  | .sp n => n.val
  | .k n => n.val
  | .lit => 0

/-- A register operand is aligned to its `n` registers (R127, R163). -/
def Operand.aligned (n : Nat) (o : Operand) : Bool := !o.isReg || decide (o.num % n = 0)

/-- The operand names an even scalar pair or an even vector pair (R200). -/
def Operand.isPair (o : Operand) : Bool := o.isReg && o.aligned 2

end Sys2Proof

namespace Sys2Proof.Machine

/-- How an operand's class and type lay its value out (R163, R166, R167, R168). -/
inductive Shape where
  /-- integer class, 32 or 64 bits; `sgn` says how a 64-bit literal widens -/
  | int32
  | int64 (sgn : Bool)
  /-- floating class -/
  | f32
  | f64
  | pair16 (bf : Bool)
  | if32
  | if64
  deriving DecidableEq, Repr

/-- Registers that an operand of a shape takes (R126, R163). -/
def Shape.regs : Shape → Nat
  | .int32 => 1
  | .f32 => 1
  | .pair16 _ => 1
  | .int64 _ => 2
  | .f64 => 2
  | .if32 => 2
  | .if64 => 4

/-- The element type is one that R126 Table 2 lists. -/
def etOk (et : Nat) : Bool := decide (et < 10)

/-- The floating shape of an element type; none for integer types. -/
def floatShape : Nat → Option Shape
  | 4 => some .f32
  | 5 => some .f64
  | 6 => some .if32
  | 7 => some .if64
  | 8 => some (.pair16 false)
  | 9 => some (.pair16 true)
  | _ => none

/-- The integer view of an element type (R221 Table 2): the shape and its signedness. -/
def intView : Nat → Option (Shape × Bool)
  | 0 => some (.int32, false)
  | 1 => some (.int32, true)
  | 2 => some (.int64 false, false)
  | 3 => some (.int64 true, true)
  | 4 => some (.int32, false)
  | 5 => some (.int64 false, false)
  | 8 => some (.int32, false)
  | 9 => some (.int32, false)
  | _ => none

/-- The shape of a moved operand (R221 Table 2): its class follows the element type. -/
def moveShape (et : Nat) : Option Shape :=
  match floatShape et with
  | some sh => some sh
  | none => (intView et).map (·.1)

/-- The integer value of constant code `k` (R167 Table 8). -/
def constInt (k : Nat) : Int :=
  if k < 16 then k
  else if k < 24 then -((k : Int) - 15)
  else if k = 24 then 16
  else if k = 25 then 32
  else if k = 26 then 64
  else if k = 27 then 128
  else if k = 28 then 256
  else if k = 29 then 2 ^ 31 - 1
  else -(2 ^ 31 : Int)

/-- The exact floating value of constant code `k` below 29 (R167 Table 8). -/
def constNum (k : Nat) : Num :=
  if k < 16 then .fin false k 0
  else if k < 24 then .fin true (k - 15) 0
  else if k = 24 then .fin false 1 (-1)
  else if k = 25 then .fin true 1 (-1)
  else if k = 26 then .fin false 1 (-2)
  else if k = 27 then .inf false
  else .inf true

/-- The bits of a constant in a floating format: the value rounded under RNE (R167). -/
def constBits (f : FFmt) (k : Nat) : Nat :=
  let v := if k = 29 then FFmt.f64.decode 0x3FF71547652B82FE
    else if k = 30 then FFmt.f64.decode 0x3FE62E42FEFA39EF else constNum k
  (f.round 0 0 false false v).bits

/-- The bits of a constant under a shape (R167); an interval has its lower bound in the low half. -/
def constShape (sh : Shape) (k : Nat) : Nat :=
  match sh with
  | .int32 => unsigned 32 (constInt k)
  | .int64 _ => unsigned 64 (constInt k)
  | .f32 => if k = 29 then 0x3FB8AA3B else if k = 30 then 0x3F317218 else constBits .f32 k
  | .f64 => constBits .f64 k
  | .pair16 bf => let h := constBits (if bf then .bf16 else .f16) k; h + 2 ^ 16 * h
  | .if32 =>
    if k = 29 then 0x3FB8AA3B + 2 ^ 32 * 0x3FB8AA3C
    else if k = 30 then 0x3F317217 + 2 ^ 32 * 0x3F317218
    else let h := constBits .f32 k; h + 2 ^ 32 * h
  | .if64 =>
    if k = 29 then 0x3FF71547652B82FE + 2 ^ 64 * 0x3FF71547652B82FF
    else if k = 30 then 0x3FE62E42FEFA39EF + 2 ^ 64 * 0x3FE62E42FEFA39F0
    else let h := constBits .f64 k; h + 2 ^ 64 * h

/-- An f32 encoding as an f64 encoding, exactly (R168). A NaN keeps its bits at the high end. -/
def f32ToF64 (b : Nat) : Nat := (FFmt.f64.round 0 0 false true (FFmt.f32.decode b)).bits

/-- The literal of the unit in the integer class (R168 Table 9). -/
def Issue.litInt (i : Issue) : Nat :=
  match i.lit, i.lih with
  | some l, some h => h.toNat * 2 ^ 24 + l.toNat
  | some l, none => unsigned 32 (signed 24 l.toNat)
  | none, _ => 0

/-- The literal of the unit in the floating class, as f32 bits (R168 Table 9). -/
def Issue.litFloat (i : Issue) : Nat :=
  match i.lit, i.lih with
  | some l, some h => h.toNat * 2 ^ 24 + l.toNat
  | some l, none => l.toNat * 256
  | none, _ => 0

/-- The literal's bits under a shape (R168). -/
def Issue.litShape (i : Issue) (sh : Shape) : Nat :=
  match sh with
  | .int32 => i.litInt
  | .int64 sgn => if sgn then unsigned 64 (signed 32 i.litInt) else i.litInt
  | .f32 => i.litFloat
  | .f64 => f32ToF64 i.litFloat
  | .pair16 _ => i.litFloat
  | .if32 => i.litFloat + 2 ^ 32 * i.litFloat
  | .if64 => f32ToF64 i.litFloat + 2 ^ 64 * f32ToF64 i.litFloat

/-- Register `r` of lane `l` of the focused wave. -/
def State.vreg (s : State) (r l : Nat) : Word := SMap.get 0 (32 * r + l) s.wave.vregs

/-- The poison bit of register `r` of lane `l` (R34, R419). -/
def State.vpoison (s : State) (r l : Nat) : Bool := SMap.get false (32 * r + l) s.wave.vpois

/-- Scalar register `r` of the focused wave. -/
def State.xreg (s : State) (r : Nat) : Word := SMap.get 0 r s.wave.xregs

/-- `n` successive registers as one number, the lowest register first (R163). -/
def regsNat (f : Nat → Word) (r : Nat) : Nat → Nat
  | 0 => 0
  | n + 1 => (f r).toNat + 2 ^ 32 * regsNat f (r + 1) n

/-- $frame of a context (R165, R216). -/
def State.frameOf (s : State) (g : Workgroup) : Nat := s.bell g.vf g.ctx 0x200

/-- The value of special `k` in lane `l` (R165 Table 7). -/
def State.special (s : State) (k l : Nat) : Nat :=
  match k with
  | 0 => l
  | 1 => s.wave.index
  | 2 => s.frag.slot
  | 3 => s.wg.wx
  | 4 => s.wg.wy
  | 5 => s.wg.wz
  | 6 => s.wave.core
  | 7 => s.wave.core / 16
  | 8 => s.coreCyc s.wave.core % 2 ^ 32
  | 9 => s.frameOf s.wg
  | 10 => s.wg.ctx
  | 11 => s.wg.vf
  | 12 => s.wg.lanes
  | 13 => (s.wg.lanes + 31) / 32
  | 14 => 2 * (s.wave.core % 16 / 4 % 2) + s.wave.core % 2
  | _ => s.wave.port

/-- The raw bits that a source gives lane `l` under a shape (R163 to R168). A predicate gives 0, 1 or 2 (R233). -/
def State.src (s : State) (sh : Shape) (o : Operand) (l : Nat) : Nat :=
  match o with
  | .v n => regsNat (fun r => s.vreg r l) n.val sh.regs
  | .x n => regsNat s.xreg n.val sh.regs
  | .p n => match s.pred n.val l with
    | .f => 0
    | .t => 1
    | .u => 2
  | .sp k =>
    match sh with
    | .if32 => s.special k.val l + 2 ^ 32 * s.special k.val l
    | .if64 => s.special k.val l + 2 ^ 64 * s.special k.val l
    | _ => s.special k.val l
  | .k c => constShape sh c.val
  | .lit => s.iss.litShape sh

/-- A 32-bit integer-class source (an address part, a count, a shift, an index: R166). -/
def State.int (s : State) (o : Operand) (l : Nat) : Nat := s.src .int32 o l

/-- The poison that a source brings to lane `l` (R222): that of any register it names. -/
def State.srcPois (s : State) (n : Nat) (o : Operand) (l : Nat) : Bool :=
  match o with
  | .v r => (List.range n).any (fun i => s.vpoison (r.val + i) l)
  | _ => false

/-- The literal that an operand names is missing from the unit (R466). -/
def State.noLit (s : State) (o : Operand) : Bool := o == .lit && s.iss.lit.isNone

/-- Encoding conditions of a source: no predicate, aligned, its literal present (R162, R163, R466). -/
def State.srcBad (s : State) (n : Nat) (o : Operand) : Bool := o.isP || !o.aligned n || s.noLit o

/-- Encoding conditions of a destination register. -/
def dstBad (n : Nat) (o : Operand) : Bool := !o.isReg || !o.aligned n

/-- The lanes in which an instruction with destination `d` is computed (R164): a scalar's once, in the lowest lane. -/
def runLanes (d : Operand) (e : LaneMask) : List Nat :=
  match d with
  | .x _ => (lanesOf e).take 1
  | _ => lanesOf e

/-- Writes `n` registers of lane `l` with a number's words, and their poison bits. -/
def State.setV (s : State) (r l n v : Nat) (pois : Bool) : State :=
  (List.range n).foldl (fun s i =>
    { s with wave := { s.wave with
        vregs := SMap.set 0 (32 * (r + i) + l) (BitVec.ofNat 32 (v / 2 ^ (32 * i))) s.wave.vregs
        vpois := SMap.set false (32 * (r + i) + l) pois s.wave.vpois } }) s

/-- Writes `n` scalar registers with a number's words. -/
def State.setX (s : State) (r n v : Nat) : State :=
  (List.range n).foldl (fun s i =>
    { s with wave := { s.wave with xregs := SMap.set 0 (r + i) (BitVec.ofNat 32 (v / 2 ^ (32 * i))) s.wave.xregs } }) s

/-- Writes a predicate of lane `l`. -/
def State.setP (s : State) (p l : Nat) (v : Tri) : State :=
  { s with wave := { s.wave with preds := SMap.set .f (32 * p + l) v s.wave.preds } }

/-- The predicate value of two bits; 0b11 becomes U (R134). -/
def triOf (v : Nat) : Tri := if v % 4 = 0 then .f else if v % 4 = 1 then .t else .u

/-- Writes a destination in lane `l`: `n` registers of a vector or scalar, or a predicate. -/
def State.setD (s : State) (d : Operand) (l n v : Nat) (pois : Bool) : State :=
  match d with
  | .v r => s.setV r.val l n v pois
  | .x r => s.setX r.val n v
  | .p r => s.setP r.val l (triOf v)
  | _ => s

/-- What an instruction computes in one lane: the bits, the poison, the causes it logs (one per element) and the
generator it leaves. -/
structure LaneOut where
  v : Nat := 0
  pois : Bool := false
  ev : List Nat := []
  gen : Option Word := none
  deriving DecidableEq, Repr

/-- Writes the results of an instruction lane by lane, with the generators that its roundings stepped (R132). -/
def State.writeLanes (s : State) (d : Operand) (n : Nat) (outs : List (Nat × LaneOut)) : State :=
  outs.foldl (fun s o =>
    let s := s.setD d o.1 n o.2.v o.2.pois
    match o.2.gen with
    | some g => { s with wave := { s.wave with gens := SMap.set 0 o.1 g s.wave.gens } }
    | none => s) s

/-- The stochastic generator of lane `l`. -/
def State.gen (s : State) (l : Nat) : Word := SMap.get 0 l s.wave.gens

/-- Poison in sources in the lanes `ls`: the lanes, with the operand that carries it (R474). -/
def State.poisonAt (s : State) (ls : List Nat) (srcs : List (Nat × Operand)) : List Cond :=
  srcs.flatMap (fun a => laneCond 0x0A (maskOf (ls.filter (s.srcPois a.1 a.2))) 0 a.2.code)

/-- Poison that would reach a scalar or a predicate destination (R222). -/
def State.poisonCond (s : State) (d : Operand) (srcs : List (Nat × Operand)) : List Cond :=
  if d.isV then [] else s.poisonAt (runLanes d s.exec) srcs

/-- Poison in a source whose every lane of the execution mask must be clean (R419): a store's data, an address, an
index, a predicate, an operand of an engine command. -/
def State.cleanCond (s : State) (srcs : List (Nat × Operand)) : List Cond :=
  srcs.flatMap (fun a => laneCond 0x0A (lanesWhere s.exec (s.srcPois a.1 a.2)) 0 a.2.code)

/-- The 56-bit address in a register pair (R174, R200): its low 56 bits. -/
def State.addr56 (s : State) (o : Operand) (l : Nat) : Nat := s.src (.int64 false) o l % 2 ^ 56

end Sys2Proof.Machine
end

