-- ==== Sys2Proof/Machine/Flags.lean ====
section
/-!
DEFINITION. The arithmetic log (spec/20_faults.md R416 to R418): the S12 has no arithmetic flags; each overflow,
underflow, invalid, divide by zero, scale overflow and residue mismatch writes or merges into a record in memory.
-/

namespace Sys2Proof.Machine

/-- An arithmetic event record (R417 Table 6), with the wave that writes it. -/
structure AlogRec where
  cause : Nat
  src : Nat := 0
  count : Nat
  lmask : LaneMask := 0
  pc : Nat := 0
  core : Nat := 0
  wpos : Nat := 0
  wave : Nat := 0
  frag : Nat := 0
  wx : Nat := 0
  wy : Nat := 0
  wz : Nat := 0
  writer : Nat := 0
  deriving DecidableEq, Repr

/-- The 32 bytes of a record (R417). -/
def AlogRec.bytes (r : AlogRec) : List Byte :=
  bytesOf 1 r.cause ++ bytesOf 1 r.src ++ bytesOf 2 (min r.count 0xFFFF) ++ bytesOf 4 r.lmask.toNat ++ bytesOf 8 r.pc ++
  bytesOf 2 r.core ++ bytesOf 1 r.wpos ++ bytesOf 1 r.wave ++ bytesOf 1 r.frag ++ bytesOf 3 0 ++ bytesOf 2 r.wx ++
  bytesOf 2 r.wy ++ bytesOf 2 r.wz ++ bytesOf 2 0

/-- The newest record merges with `r` (R418): same wave, CAUSE, SRC, PC and FRAG, and a COUNT below 0xFFFF. -/
def AlogRec.merges (r : AlogRec) (lastWriter : Nat) (old : List Byte) : Bool :=
  lastWriter == r.writer + 1 && natAt old 0 1 == r.cause && natAt old 1 1 == r.src && natAt old 8 8 == r.pc &&
  natAt old 20 1 == r.frag && decide (natAt old 2 2 < 0xFFFF)

/-- Writes or merges an arithmetic record in a context's log (R416 to R418). -/
def State.alog (s : State) (who : Who) (grant : Option Nat) (r : AlogRec) : State :=
  let s := s.useCtx who 64 8
  let base := s.dumpBase who.part who.vf who.ctx
  if base = 0 then s
  else
    let key := 256 * who.vf + who.ctx
    let wr := s.dumpWord who base 0
    let slot (n : Nat) : Nat := base + 0x1000 + 32 * (n % 2048)
    let s := (s.look who base 4).look who (slot (wr + 2 ^ 32 - 1)) 32
    let old := match s.ctxRead who 0 (slot (wr + 2 ^ 32 - 1)) 32 .read with
      | .ok x => x.1
      | .error _ => []
    if r.merges (SMap.get 0 key s.alogLast) old then
      let m := { r with count := min (natAt old 2 2 + r.count) 0xFFFF,
                        lmask := r.lmask ||| BitVec.ofNat 32 (natAt old 4 4) }
      (s.ctxPut who grant (slot (wr + 2 ^ 32 - 1)) m.bytes).2
    else
      match s.ctxPut who grant (slot wr) r.bytes with
      | (some _, t) => t
      | (none, t) =>
        let s' := (t.ctxPut who grant base (bytesOf 4 (wr + 1))).2
        { s' with alogLast := SMap.set 0 key (r.writer + 1) s'.alogLast }

/-- The record of an event of the focused wave's unit at `pc`. -/
def State.unitAlog (s : State) (pc : VAddr) (cause count : Nat) (lanes : LaneMask) : AlogRec :=
  { cause := cause, count := count, lmask := lanes, pc := pc.toNat, core := s.wave.core,
    wpos := 16 * s.wave.port + s.wave.idx, wave := s.wave.index, frag := s.frag.slot, wx := s.wg.wx, wy := s.wg.wy,
    wz := s.wg.wz, writer := s.wave.id }

/-- Logs the causes that an instruction's lanes met (R416): one record per cause, in ascending order. -/
def State.logLanes (s : State) (pc : VAddr) (outs : List (Nat × LaneOut)) : State :=
  [1, 2, 3, 4, 5, 6].foldl (fun s c =>
    let hit := outs.filter (fun o => o.2.ev.contains c)
    if hit.isEmpty then s
    else s.alog s.who (s.grantOf s.wg) (s.unitAlog pc c (hit.foldl (fun n o => n + o.2.ev.count c) 0) (maskOf (hit.map (·.1))))) s

/-- Writes the results of an instruction and logs the causes it met. -/
def State.finish (s : State) (pc : VAddr) (d : Operand) (n : Nat) (outs : List (Nat × LaneOut)) : State :=
  (s.writeLanes d n outs).logLanes pc outs

end Sys2Proof.Machine
end

