-- ==== Sys2Proof/Machine/Arith.lean ====
section
/-!
DEFINITION. The floating and interval arithmetic of one element or one operand (spec/06_numbers.md R123, R126 to R133,
R137 to R140, R148, R158), under the mode fields of the issuing unit. Shared by the integer chapter's reductions, the
floating instructions and the engines.
-/

namespace Sys2Proof.Machine

/-- The mode fields that arithmetic reads (R171). -/
structure Mode where
  rnd : Nat := 0
  sat : Bool := false
  flush : Bool := false
  nanp : Bool := false
  deriving DecidableEq, Repr

/-- The unit's mode fields. -/
def State.mode (s : State) : Mode := { rnd := s.rnd, sat := s.satBit, flush := s.flushBit, nanp := s.nanp }

/-- A rounded element: bits, causes and the generator it leaves. -/
structure Elem where
  bits : Nat
  ev : List Nat := []
  gen : Word := 0
  deriving DecidableEq, Repr

/-- The value of an operand's encoding, flushed as the mode asks (R133). -/
def Mode.read (m : Mode) (f : FFmt) (b : Nat) : Num :=
  let v := f.decode b
  if m.flush then v.flushed (f == .f64) else v

/-- A result of round_to as flushing leaves it (R133). -/
def Mode.flushOut (m : Mode) (f : FFmt) (r : Rounded) : Rounded :=
  let v := f.decode r.bits
  if m.flush && v.below (if f = .f64 then -1022 else -126) then
    { bits := f.signed v.neg 0, ev := if r.ev.contains evUnderflow then r.ev else r.ev ++ [evUnderflow] }
  else r

/-- Rounds an exact value to a format under the mode (R130, R132, R133); `g` is the lane's generator, stepped once
under STO. -/
def Mode.roundTo (m : Mode) (f : FFmt) (g : Word) (x : Exact) : Elem :=
  let st := stoStep g
  let r := m.flushOut f (f.round m.rnd (if m.rnd = 5 then st.2 else 0) m.sat m.nanp x.v)
  { bits := r.bits, ev := (x.ev ++ r.ev).eraseDups, gen := if m.rnd = 5 then st.1 else g }

/-- Rounds under a fixed mode with no saturation and no generator. -/
def Mode.roundFixed (m : Mode) (f : FFmt) (rnd : Nat) (x : Exact) : Elem :=
  let r := m.flushOut f (f.round rnd 0 false m.nanp x.v)
  { bits := r.bits, ev := (x.ev ++ r.ev).eraseDups }

/-- The bounds of an interval: formats' encodings of its lower and upper bound (R127). -/
structure Ivl where
  lo : Nat
  hi : Nat
  deriving DecidableEq, Repr

/-- An interval's bounds as values. -/
def Ivl.nums (f : FFmt) (i : Ivl) : Num × Num := (f.decode i.lo, f.decode i.hi)

/-- An interval is empty (R136): a NaN bound, or lo above hi. -/
def Ivl.empty (f : FFmt) (i : Ivl) : Bool :=
  let b := i.nums f
  b.1.isNan || b.2.isNan || decide (0 < cmpNum b.1 b.2)

/-- The canonical empty interval (R136). -/
def FFmt.emptyIvl (f : FFmt) : Ivl :=
  { lo := (2 ^ f.eb - 1) * 2 ^ f.fb, hi := f.signed true ((2 ^ f.eb - 1) * 2 ^ f.fb) }

/-- A bound flushed outward (R133): `up` for an upper bound. -/
def flushBound (f : FFmt) (up : Bool) (b : Nat) : Nat :=
  let v := f.decode b
  if v.below (1 - (f.bias : Int)) then
    if up then (if v.neg then f.signed true 0 else 2 ^ f.fb) else (if v.neg then f.signed true (2 ^ f.fb) else 0)
  else b

/-- An interval in registers (R127). -/
def Ivl.ofRaw (f : FFmt) (raw : Nat) : Ivl := { lo := raw % 2 ^ f.width, hi := raw / 2 ^ f.width % 2 ^ f.width }

/-- An interval operand, flushed as the mode asks (R133); an empty one stays as it is. -/
def Mode.readIvl (m : Mode) (f : FFmt) (raw : Nat) : Ivl :=
  let i := Ivl.ofRaw f raw
  if m.flush && !i.empty f then { lo := flushBound f false i.lo, hi := flushBound f true i.hi } else i

/-- The bits of an interval in registers (R127). -/
def Ivl.raw (f : FFmt) (i : Ivl) : Nat := i.lo + 2 ^ f.width * i.hi

/-- A bound rounded outward (R130, R137), flushed outward under the mode. -/
def Mode.bound (m : Mode) (f : FFmt) (up : Bool) (v : Num) : Rounded :=
  let r := f.round (if up then 3 else 2) 0 false false v
  if m.flush then { r with bits := flushBound f up r.bits } else r

/-- An interval with the causes that it logs, each once. -/
structure IvlOut where
  i : Ivl
  ev : List Nat := []
  deriving DecidableEq, Repr

/-- Both bounds rounded outward. -/
def Mode.bounds (m : Mode) (f : FFmt) (b : Num × Num) : IvlOut :=
  let lo := m.bound f false b.1
  let hi := m.bound f true b.2
  { i := { lo := lo.bits, hi := hi.bits }, ev := (lo.ev ++ hi.ev).eraseDups }

/-- A product inside a bound formula: 0 times infinity is 0 (R138), whose sign is the exclusive or of the two (DESIGN
CHOICE, log 87). -/
def bmul (a b : Num) : Num :=
  if a.isZero || b.isZero then .fin (xor a.neg b.neg) 0 0 else (mulExact a b).v

/-- A sum inside a bound formula: infinity minus infinity is the outward infinity (R138). -/
def badd (up : Bool) (a b : Num) : Num :=
  match a, b with
  | .inf n, .inf n' => if n = n' then a else .inf (!up)
  | .inf _, _ => a
  | _, .inf _ => b
  | _, _ => sumNums (if up then 3 else 2) [a, b]

/-- A quotient inside a bound formula (R138): of two infinities, the lesser of a zero and an infinity of the quotient's
sign in a lower bound, the greater in an upper one. -/
def bdiv (up : Bool) (a b : Num) : Num :=
  let n := xor a.neg b.neg
  match a, b with
  | .inf _, .inf _ => if up = n then .fin n 0 0 else .inf n
  | _, _ => (divExact a b).v

/-- A value lies below another, -0 below +0. -/
def ltNum (a b : Num) : Bool := decide (cmpNum a b < 0) || (decide (cmpNum a b = 0) && a.isZero && a.neg && !b.neg)

/-- The lesser of two values. -/
def minNum (a b : Num) : Num := if ltNum b a then b else a

/-- The greater of two values. -/
def maxNum (a b : Num) : Num := if ltNum a b then b else a

/-- The least and the greatest of four values. -/
def min4 (a b c d : Num) : Num := minNum (minNum a b) (minNum c d)
def max4 (a b c d : Num) : Num := maxNum (maxNum a b) (maxNum c d)

/-- An interval contains zero. -/
def hasZero (b : Num × Num) : Bool := decide (cmpNum b.1 (.fin false 0 0) ≤ 0) && decide (0 ≤ cmpNum b.2 (.fin false 0 0))

/-- The kinds of binary and unary interval operation of R137 Table 8. -/
inductive IvlOp where
  | add | sub | mul | div | min | max | sqrt | abs | neg
  deriving DecidableEq, Repr

/-- The bounds of an operation's result before rounding; none for an empty one (R137, R138). The lower bound of a square
root of an interval that begins at −0 is −0 (DESIGN CHOICE, log 86). -/
def ivlBounds (op : IvlOp) (a b : Num × Num) : Option (Num × Num) :=
  let z : Num := .fin false 0 0
  match op with
  | .add => some (badd false a.1 b.1, badd true a.2 b.2)
  | .sub => some (badd false a.1 (b.2.withSign (!b.2.neg)), badd true a.2 (b.1.withSign (!b.1.neg)))
  | .mul => some (min4 (bmul a.1 b.1) (bmul a.1 b.2) (bmul a.2 b.1) (bmul a.2 b.2),
      max4 (bmul a.1 b.1) (bmul a.1 b.2) (bmul a.2 b.1) (bmul a.2 b.2))
  | .div =>
    if b.1.isZero && b.2.isZero then none
    else if hasZero b then some (.inf true, .inf false)
    else some (min4 (bdiv false a.1 b.1) (bdiv false a.1 b.2) (bdiv false a.2 b.1) (bdiv false a.2 b.2),
      max4 (bdiv true a.1 b.1) (bdiv true a.1 b.2) (bdiv true a.2 b.1) (bdiv true a.2 b.2))
  | .min => some (minNum a.1 b.1, minNum a.2 b.2)
  | .max => some (maxNum a.1 b.1, maxNum a.2 b.2)
  | .sqrt =>
    if cmpNum a.2 z < 0 then none
    else some ((sqrtExact (if cmpNum a.1 z < 0 then z else a.1)).v, (sqrtExact a.2).v)
  | .abs =>
    let m1 := a.1.withSign false
    let m2 := a.2.withSign false
    some (if hasZero a then z else minNum m1 m2, maxNum m1 m2)
  | .neg => some (a.2.withSign (!a.2.neg), a.1.withSign (!a.1.neg))

/-- An interval operation on two operands (R137, R138, R140): the result, empty for an empty operand. -/
def Mode.ivl (m : Mode) (f : FFmt) (op : IvlOp) (a b : Ivl) : IvlOut :=
  if a.empty f || b.empty f then { i := f.emptyIvl }
  else match ivlBounds op (a.nums f) (b.nums f) with
    | none => { i := f.emptyIvl }
    | some r => m.bounds f r

/-- a·b + c on intervals (R137). -/
def Mode.ivlFma (m : Mode) (f : FFmt) (a b c : Ivl) : IvlOut :=
  if a.empty f || b.empty f || c.empty f then { i := f.emptyIvl }
  else match ivlBounds .mul (a.nums f) (b.nums f) with
    | none => { i := f.emptyIvl }
    | some p => m.bounds f (badd false p.1 (c.nums f).1, badd true p.2 (c.nums f).2)

/-- The lesser or greater of two floating operands (R247 names it: fmin and fmax): a number beats a NaN, -0 lies below
+0. `f` is the operands' format; the result is one of them. -/
def Mode.minmax (m : Mode) (f : FFmt) (mx : Bool) (a b : Nat) : Elem :=
  let va := m.read f a
  let vb := m.read f b
  let ev := if va.isSig || vb.isSig then [evInvalid] else []
  let enc (v : Num) : Nat := (f.round 0 0 false true v).bits
  if va.isNan && vb.isNan then { bits := f.nanBits m.nanp va, ev := ev }
  else if va.isNan then { bits := enc vb, ev := ev }
  else if vb.isNan then { bits := enc va, ev := ev }
  else
    let c := cmpNum va vb
    let aLess : Bool := decide (c < 0) || (decide (c = 0) && va.neg && !vb.neg)
    let bLess : Bool := decide (0 < c) || (decide (c = 0) && vb.neg && !va.neg)
    { bits := enc (if (if mx then aLess else bLess) then vb else va), ev := ev }

/-- The elements of a lane's value under a point shape: (format, bits), element 0 first (R126). -/
def pointElems (sh : Shape) (v : Nat) : List (FFmt × Nat) :=
  match sh with
  | .f64 => [(.f64, v % 2 ^ 64)]
  | .pair16 bf => let f : FFmt := if bf then .bf16 else .f16; [(f, v % 2 ^ 16), (f, v / 2 ^ 16 % 2 ^ 16)]
  | _ => [(.f32, v % 2 ^ 32)]

/-- The bound format of an interval shape. -/
def ivlFmt (sh : Shape) : FFmt := if sh = .if64 then .f64 else .f32

/-- A shape is an interval. -/
def Shape.isIvl : Shape → Bool
  | .if32 => true
  | .if64 => true
  | _ => false

/-- Applies an element operation to the elements of two or three operands, ascending, threading the generator; the
results are packed as the operands were (R126, R132). -/
def elemWise (f : FFmt → Word → List Nat → Elem) (g : Word) : List (FFmt × Nat) → List (List Nat) → Nat → Elem
  | [], _, _ => { bits := 0, gen := g }
  | (ft, x) :: xs, rest, sh =>
    let e := f ft g (x :: rest.map (fun r => r.headD 0))
    let r := elemWise f e.gen xs (rest.map List.tail) (sh + 16)
    { bits := e.bits * 2 ^ sh + r.bits, ev := e.ev ++ r.ev, gen := r.gen }

/-- An element operation over whole lane values of a point shape. -/
def pointOp (sh : Shape) (f : FFmt → Word → List Nat → Elem) (g : Word) (vs : List Nat) : Elem :=
  match vs with
  | [] => { bits := 0, gen := g }
  | v :: rest => elemWise f g (pointElems sh v) (rest.map (fun r => (pointElems sh r).map (·.2))) 0

end Sys2Proof.Machine
end

