-- ==== Sys2Proof/Machine/Integer.lean ====
section
/-!
DEFINITION. Integer arithmetic, logic, shifts, bit fields, compare, select and move (spec/09_isa_integer.md R221 to
R234, R242).
-/

namespace Sys2Proof.Machine

/-- The width of an integer view. -/
def Shape.bits : Shape → Nat
  | .int64 _ => 64
  | _ => 32

/-- The integer view of the unit's element type; z32 where it has none (the unit then traps). -/
def State.view (s : State) : Shape × Bool := (intView s.et).getD (.int32, false)

/-- The shared form of an instruction on the integer view (R221, R222, R242): `f` gives the value and the causes of a
lane; `srcs` are its sources, and `readsD` says whether it reads its destination too. -/
def State.intUnit (s : State) (d : Operand) (srcs : List Operand) (readsD : Bool) (f : Nat → Nat × List Nat) :
    Host.Outcome State Fault Refusal :=
  let n := s.view.1.regs
  let conds := s.encCond (intView s.et).isNone 0x01 ++ s.encCond (dstBad n d) 0x01 ++
    s.encCond (srcs.any (s.srcBad n)) 0x01 ++
    s.poisonCond d ((if readsD then [(n, d)] else []) ++ srcs.map (fun o => (n, o)))
  let pois (l : Nat) : Bool := (readsD && s.srcPois n d l) || srcs.any (fun o => s.srcPois n o l)
  let outs := (runLanes d s.exec).map (fun l => (l, { v := (f l).1, pois := pois l, ev := (f l).2 : LaneOut }))
  s.issue conds (fun t => t.finish s.frag.pc d n outs)

/-- A source in the unit's integer view, unsigned. -/
def State.viewU (s : State) (o : Operand) (l : Nat) : Nat := s.src s.view.1 o l

/-- A source in the unit's integer view, read by the view's signedness (R221). -/
def State.viewI (s : State) (o : Operand) (l : Nat) : Int :=
  if s.view.2 then signed s.view.1.bits (s.viewU o l) else s.viewU o l

/-- An exact integer in the view: clamped under SAT, else wrapped (R221). -/
def narrow (w : Nat) (sgn sat : Bool) (i : Int) : Nat :=
  let lo : Int := if sgn then -(2 ^ (w - 1) : Nat) else 0
  let hi : Int := if sgn then (2 ^ (w - 1) : Nat) - 1 else (2 ^ w : Nat) - 1
  unsigned w (if sat then (if i < lo then lo else if hi < i then hi else i) else i)

/-- An exact integer in the unit's view, under the unit's SAT. -/
def State.narrowView (s : State) (i : Int) : Nat := narrow s.view.1.bits s.view.2 s.satBit i

def execAdd (d a b : Operand) (s : State) : Host.Outcome State Fault Refusal :=
  s.intUnit d [a, b] false (fun l => (s.narrowView (s.viewI a l + s.viewI b l), []))

def execSub (d a b : Operand) (s : State) : Host.Outcome State Fault Refusal :=
  s.intUnit d [a, b] false (fun l => (s.narrowView (s.viewI a l - s.viewI b l), []))

/-- addc and subb (R224): the carry is p15, T counting as 1, and p15 takes the carry out, in each lane that they compute
(R164). -/
def State.carryUnit (s : State) (d a b : Operand) (f : Nat → Nat → Nat → Nat × Bool) :
    Host.Outcome State Fault Refusal :=
  let n := s.view.1.regs
  let conds := s.encCond (intView s.et).isNone 0x01 ++ s.encCond (dstBad n d) 0x01 ++
    s.encCond ([a, b].any (s.srcBad n)) 0x01 ++ s.poisonAt (runLanes d s.exec) [(n, a), (n, b)]
  let r (l : Nat) : Nat × Bool := f (s.viewU a l) (s.viewU b l) (if s.pred 15 l = .t then 1 else 0)
  let ls := runLanes d s.exec
  s.issue conds (fun t =>
    ls.foldl (fun t l => t.setP 15 l (if (r l).2 then .t else .f)) (t.writeLanes d n (ls.map (fun l => (l, { v := (r l).1 })))))

def execAddc (d a b : Operand) (s : State) : Host.Outcome State Fault Refusal :=
  s.carryUnit d a b (fun x y c => ((x + y + c) % 2 ^ s.view.1.bits, decide (2 ^ s.view.1.bits ≤ x + y + c)))

def execSubb (d a b : Operand) (s : State) : Host.Outcome State Fault Refusal :=
  s.carryUnit d a b (fun x y c => ((x + 2 ^ s.view.1.bits * 2 - y - c) % 2 ^ s.view.1.bits, decide (x < y + c)))

def execMul (d a b : Operand) (s : State) : Host.Outcome State Fault Refusal :=
  s.intUnit d [a, b] false (fun l => (s.narrowView (s.viewI a l * s.viewI b l), []))

/-- The high half of the exact product (R225). -/
def State.highProduct (s : State) (a b : Operand) (l : Nat) : Int :=
  (s.viewI a l * s.viewI b l) / (2 ^ s.view.1.bits : Nat)

def execMulh (d a b : Operand) (s : State) : Host.Outcome State Fault Refusal :=
  s.intUnit d [a, b] false (fun l => (unsigned s.view.1.bits (s.highProduct a b l), []))

def execMad (d a b : Operand) (s : State) : Host.Outcome State Fault Refusal :=
  s.intUnit d [a, b] true (fun l => (s.narrowView (s.viewI d l + s.viewI a l * s.viewI b l), []))

def execMadh (d a b : Operand) (s : State) : Host.Outcome State Fault Refusal :=
  s.intUnit d [a, b] true (fun l => (s.narrowView (s.viewI d l + s.highProduct a b l), []))

/-- The quotient of div (R226): all ones for a zero divisor; the one signed overflow clamps under SAT. -/
def execDiv (d a b : Operand) (s : State) : Host.Outcome State Fault Refusal :=
  s.intUnit d [a, b] false (fun l =>
    if s.viewI b l = 0 then (2 ^ s.view.1.bits - 1, [evDivZero])
    else (s.narrowView ((s.viewI a l).tdiv (s.viewI b l)), []))

def execRem (d a b : Operand) (s : State) : Host.Outcome State Fault Refusal :=
  s.intUnit d [a, b] false (fun l =>
    if s.viewI b l = 0 then (s.viewU a l, [evDivZero])
    else (unsigned s.view.1.bits ((s.viewI a l).tmod (s.viewI b l)), []))

def execNeg (d a : Operand) (s : State) : Host.Outcome State Fault Refusal :=
  s.intUnit d [a] false (fun l => (s.narrowView (0 - s.viewI a l), []))

def execAbs (d a : Operand) (s : State) : Host.Outcome State Fault Refusal :=
  s.intUnit d [a] false (fun l => (s.narrowView (s.viewI a l).natAbs, []))

def execMin (d a b : Operand) (s : State) : Host.Outcome State Fault Refusal :=
  s.intUnit d [a, b] false (fun l => (unsigned s.view.1.bits (min (s.viewI a l) (s.viewI b l)), []))

def execMax (d a b : Operand) (s : State) : Host.Outcome State Fault Refusal :=
  s.intUnit d [a, b] false (fun l => (unsigned s.view.1.bits (max (s.viewI a l) (s.viewI b l)), []))

def execAnd (d a b : Operand) (s : State) : Host.Outcome State Fault Refusal :=
  s.intUnit d [a, b] false (fun l => (s.viewU a l &&& s.viewU b l, []))

def execOr (d a b : Operand) (s : State) : Host.Outcome State Fault Refusal :=
  s.intUnit d [a, b] false (fun l => (s.viewU a l ||| s.viewU b l, []))

def execXor (d a b : Operand) (s : State) : Host.Outcome State Fault Refusal :=
  s.intUnit d [a, b] false (fun l => (s.viewU a l ^^^ s.viewU b l, []))

/-- Bitwise not over `w` bits. -/
def notW (w v : Nat) : Nat := 2 ^ w - 1 - v % 2 ^ w

def execNot (d a : Operand) (s : State) : Host.Outcome State Fault Refusal :=
  s.intUnit d [a] false (fun l => (notW s.view.1.bits (s.viewU a l), []))

def execAndn (d a b : Operand) (s : State) : Host.Outcome State Fault Refusal :=
  s.intUnit d [a, b] false (fun l => (s.viewU a l &&& notW s.view.1.bits (s.viewU b l), []))

/-- The shift count of a lane (R228): b[7:0]. -/
def State.shiftCount (s : State) (b : Operand) (l : Nat) : Nat := s.viewU b l % 256

def execShl (d a b : Operand) (s : State) : Host.Outcome State Fault Refusal :=
  s.intUnit d [a, b] false (fun l => (s.viewU a l * 2 ^ s.shiftCount b l % 2 ^ s.view.1.bits, []))

def execShr (d a b : Operand) (s : State) : Host.Outcome State Fault Refusal :=
  s.intUnit d [a, b] false (fun l => (s.viewU a l / 2 ^ s.shiftCount b l, []))

def execSar (d a b : Operand) (s : State) : Host.Outcome State Fault Refusal :=
  s.intUnit d [a, b] false (fun l =>
    (unsigned s.view.1.bits (signed s.view.1.bits (s.viewU a l) / (2 ^ s.shiftCount b l : Nat)), []))

def execRol (d a b : Operand) (s : State) : Host.Outcome State Fault Refusal :=
  s.intUnit d [a, b] false (fun l =>
    let w := s.view.1.bits
    let n := s.shiftCount b l % w
    ((s.viewU a l * 2 ^ n + s.viewU a l / 2 ^ (w - n)) % 2 ^ w, []))

/-- A bit field's position and length (R229). -/
def State.fieldPos (s : State) (b : Operand) (l : Nat) : Nat × Nat := (s.viewU b l % 256, s.viewU b l / 256 % 256)

def execBfx (d a b : Operand) (s : State) : Host.Outcome State Fault Refusal :=
  s.intUnit d [a, b] false (fun l =>
    let p := s.fieldPos b l
    let f := s.viewU a l / 2 ^ p.1 % 2 ^ p.2
    (if s.view.2 && decide (0 < p.2) && bitAt f (p.2 - 1) then unsigned s.view.1.bits ((f : Int) - (2 ^ p.2 : Nat))
     else f % 2 ^ s.view.1.bits, []))

def execBfi (d a b : Operand) (s : State) : Host.Outcome State Fault Refusal :=
  s.intUnit d [a, b] true (fun l =>
    let w := s.view.1.bits
    let p := s.fieldPos b l
    let m := (2 ^ p.2 - 1) * 2 ^ p.1 % 2 ^ w
    ((s.viewU d l &&& notW w m) ||| (s.viewU a l * 2 ^ p.1 % 2 ^ w &&& m), []))

/-- The number of set bits below bit `w`. -/
def popCount (w v : Nat) : Nat := ((List.range w).filter (bitAt v)).length

def execPopc (d a : Operand) (s : State) : Host.Outcome State Fault Refusal :=
  s.intUnit d [a] false (fun l => (popCount s.view.1.bits (s.viewU a l), []))

def execClz (d a : Operand) (s : State) : Host.Outcome State Fault Refusal :=
  s.intUnit d [a] false (fun l =>
    (if s.viewU a l = 0 then s.view.1.bits else s.view.1.bits - 1 - Nat.log2 (s.viewU a l), []))

def execCtz (d a : Operand) (s : State) : Host.Outcome State Fault Refusal :=
  s.intUnit d [a] false (fun l => (((List.range s.view.1.bits).find? (bitAt (s.viewU a l))).getD s.view.1.bits, []))

/-- The bits of a `w`-bit value in reverse order. -/
def revBits (w v : Nat) : Nat := (List.range w).foldl (fun r i => 2 * r + (if bitAt v i then 1 else 0)) 0

def execBrev (d a : Operand) (s : State) : Host.Outcome State Fault Refusal :=
  s.intUnit d [a] false (fun l => (revBits s.view.1.bits (s.viewU a l), []))

/-- The relation of cmp (R231 Table 4). -/
def cmpHolds (r : Nat) (a b : Int) : Bool :=
  match r with
  | 0 => decide (a = b)
  | 1 => decide (a ≠ b)
  | 2 => decide (a < b)
  | 3 => decide (a ≤ b)
  | 4 => decide (b < a)
  | _ => decide (b ≤ a)

/-- cmp (R231): T or F to a predicate, never U. -/
def execCmp (r p : Fin 16) (a b : Operand) (s : State) : Host.Outcome State Fault Refusal :=
  let n := s.view.1.regs
  s.issue (s.encCond (intView s.et).isNone 0x01 ++ s.encCond (decide (6 ≤ r.val)) 0x01 ++
      s.encCond ([a, b].any (s.srcBad n)) 0x01 ++ s.poisonCond (.p p) [(n, a), (n, b)])
    (fun t => (lanesOf s.exec).foldl
      (fun t l => t.setP p.val l (if cmpHolds r.val (s.viewI a l) (s.viewI b l) then .t else .f)) t)

/-- The move shape of the unit's element type (R221 Table 2); z32's where the type is reserved. -/
def State.moveSh (s : State) : Shape := (moveShape s.et).getD .int32

/-- sel (R232): a to d where the predicate is T. -/
def execSel (d a b : Operand) (s : State) : Host.Outcome State Fault Refusal :=
  let n := s.moveSh.regs
  let ls := (runLanes d s.exec).filter (fun l => s.pred b.num l == .t)
  let conds := s.encCond (!etOk s.et) 0x01 ++ s.encCond (dstBad n d) 0x01 ++ s.encCond (s.srcBad n a) 0x01 ++
    s.encCond (!b.isP) 0x01 ++
    (if d.isV then [] else laneCond 0x0A (maskOf (ls.filter (s.srcPois n a))) 0 a.code)
  s.issue conds (fun t =>
    t.writeLanes d n (ls.map (fun l => (l, { v := s.src s.moveSh a l, pois := s.srcPois n a l }))))

/-- mov (R233), with its predicate forms. -/
def execMov (d a : Operand) (s : State) : Host.Outcome State Fault Refusal :=
  let n := s.moveSh.regs
  let conds := s.encCond (!etOk s.et) 0x01 ++ s.encCond (!(d.isReg || d.isP)) 0x01 ++
    s.encCond (!d.aligned n || !a.aligned n) 0x01 ++ s.encCond (s.noLit a) 0x01 ++ s.poisonCond d [(n, a)]
  s.issue conds (fun t =>
    t.writeLanes d n ((runLanes d s.exec).map (fun l => (l, { v := s.src s.moveSh a l, pois := s.srcPois n a l }))))

/-- The immediate of movi under an element type (R234). -/
def moviBits (et : Nat) (i : BitVec 16) : Nat :=
  let f := i.toNat * 2 ^ 16
  match moveShape et with
  | some .int32 => unsigned 32 (signed 16 i.toNat)
  | some (.int64 _) => unsigned 64 (signed 16 i.toNat)
  | some .f32 => f
  | some .f64 => f32ToF64 f
  | some .if32 => f + 2 ^ 32 * f
  | some .if64 => f32ToF64 f + 2 ^ 64 * f32ToF64 f
  | some (.pair16 _) => i.toNat + 2 ^ 16 * i.toNat
  | none => 0

def execMovi (d : Operand) (i : BitVec 16) (s : State) : Host.Outcome State Fault Refusal :=
  let n := s.moveSh.regs
  s.issue (s.encCond (!etOk s.et) 0x01 ++ s.encCond (dstBad n d) 0x01)
    (fun t => t.writeLanes d n ((runLanes d s.exec).map (fun l => (l, { v := moviBits s.et i }))))

end Sys2Proof.Machine
end

