-- ==== Sys2Proof/Machine/Lanes.lean ====
section
/-!
DEFINITION. Lane exchange, votes, reductions, scans and predicate logic (spec/09_isa_integer.md R223, R234 to R240,
spec/06_numbers.md R134, R150).
-/

namespace Sys2Proof.Machine

/-- A vector source as lane `l` reads the register of lane `k` (R223): an absent lane reads zero, without poison. -/
def State.laneSrc (s : State) (sh : Shape) (a : Operand) (k : Nat) : Nat × Bool :=
  if s.wave.present.getLsbD k then (s.src sh a k, s.srcPois sh.regs a k) else (0, false)

/-- Encoding conditions of movs and shfl: a vector source at the move width, a 32-bit index. -/
def State.exchangeConds (s : State) (d a b : Operand) : List Cond :=
  let n := s.moveSh.regs
  s.encCond (!etOk s.et) 0x01 ++ s.encCond (dstBad n d) 0x01 ++ s.encCond (!a.isV || !a.aligned n) 0x01 ++
  s.encCond (s.srcBad 1 b) 0x01

/-- The shared form of movs and shfl (R223, R234, R235): `from_` gives the source lane of a lane. With a vector d the poison of the
index joins that of the value, also where shfl keeps its own lane's (DESIGN CHOICE, log 113). -/
def State.exchange (s : State) (d a b : Operand) (from_ : Nat → Nat) (idx : Nat → Nat) :
    Host.Outcome State Fault Refusal :=
  let sh := s.moveSh
  let out (l : Nat) : LaneOut :=
    let r := s.laneSrc sh a (from_ l)
    { v := r.1, pois := r.2 || s.srcPois 1 b (idx l) }
  let ls := runLanes d s.exec
  let badA := ls.filter (fun l => (s.laneSrc sh a (from_ l)).2)
  let badB := ls.filter (fun l => s.srcPois 1 b (idx l))
  s.issue (s.exchangeConds d a b ++
      (if d.isV then [] else laneCond 0x0A (maskOf badA) 0 a.code ++ laneCond 0x0A (maskOf badB) 0 b.code))
    (fun t => t.writeLanes d sh.regs (ls.map (fun l => (l, out l))))

/-- movs (R234): the lane index comes from the lowest lane of the execution mask. -/
def execMovs (d a b : Operand) (s : State) : Host.Outcome State Fault Refusal :=
  let low := (lowest s.exec).getD 0
  s.exchange d a b (fun _ => s.int b low % 32) (fun _ => low)

def execShflIdx (d a b : Operand) (s : State) : Host.Outcome State Fault Refusal :=
  s.exchange d a b (fun l => s.int b l % 32) id

def execShflXor (d a b : Operand) (s : State) : Host.Outcome State Fault Refusal :=
  s.exchange d a b (fun l => l ^^^ s.int b l % 32) id

def execShflUp (d a b : Operand) (s : State) : Host.Outcome State Fault Refusal :=
  s.exchange d a b (fun l => if s.int b l ≤ l then l - s.int b l else l) id

def execShflDown (d a b : Operand) (s : State) : Host.Outcome State Fault Refusal :=
  s.exchange d a b (fun l => if l + s.int b l < 32 then l + s.int b l else l) id

/-- The two bits of a predicate value (R134). -/
def Tri.toNat : Tri → Nat
  | .f => 0
  | .t => 1
  | .u => 2

/-- vote's result over the values of the execution mask (R236). -/
def voteOf (k : Nat) (vs : List Tri) : Tri :=
  match k with
  | 0 => if vs.all (· == .t) then .t else if vs.any (· == .f) then .f else .u
  | 1 => if vs.any (· == .t) then .t else if vs.all (· == .f) then .f else .u
  | _ => if vs.all (fun v => some v == vs.head?) then .t else .f

/-- vote (R236). -/
def execVote (d a : Operand) (k : BitVec 8) (s : State) : Host.Outcome State Fault Refusal :=
  let r := voteOf k.toNat ((lanesOf s.exec).map (s.pred a.num))
  s.issue (s.encCond (!(d.isReg || d.isP)) 0x01 ++ s.encCond (!a.isP) 0x01 ++ s.encCond (decide (3 ≤ k.toNat)) 0x02)
    (fun t => t.writeLanes d 1 ((runLanes d s.exec).map (fun l => (l, { v := r.toNat }))))

/-- A predicate value lies in the set of ballot and pcnt (R237). -/
def inSet (k : Nat) (v : Tri) : Bool :=
  match k with
  | 0 => v == .t
  | 1 => v == .f
  | 2 => v == .u
  | _ => v != .f

/-- Registers that ballot and pcnt write (R237): a pair under z64, s64 and f64. -/
def State.countRegs (s : State) : Nat := if s.et = 2 ∨ s.et = 3 ∨ s.et = 5 then 2 else 1

/-- The shared form of ballot and pcnt (R237). -/
def State.countUnit (s : State) (d a : Operand) (k : Nat) (f : LaneMask → Nat) : Host.Outcome State Fault Refusal :=
  let n := s.countRegs
  let m := lanesWhere s.exec (fun l => inSet k (s.pred a.num l))
  s.issue (s.encCond (!etOk s.et) 0x01 ++ s.encCond (dstBad n d) 0x01 ++ s.encCond (!a.isP) 0x01)
    (fun t => t.writeLanes d n ((runLanes d s.exec).map (fun l => (l, { v := f m }))))

def execBallot (d a : Operand) (k : Fin 4) (s : State) : Host.Outcome State Fault Refusal :=
  s.countUnit d a k.val BitVec.toNat

def execPcnt (d a : Operand) (k : Fin 4) (s : State) : Host.Outcome State Fault Refusal :=
  s.countUnit d a k.val laneCount

/-- The shape in which redux and scan compute: the integer view, or the element type itself for a floating operation
(R221, R238). -/
def State.redShape (s : State) (op : Nat) : Shape :=
  if op < 6 then s.view.1 else (floatShape s.et).getD .f32

/-- One node of a reduction (R238 Table 7): `x` from the lower lane. A floating operation does not read SAT (R241
Table 8). -/
def State.combine (s : State) (op : Nat) (g : Word) (x y : Nat) : Elem :=
  let w := s.view.1.bits
  let i (v : Nat) : Int := if s.view.2 then signed w v else v
  let sh := s.redShape op
  let m := { s.mode with sat := false }
  let ivl (o : IvlOp) : Elem :=
    let f := ivlFmt sh
    let r := m.ivl f o (m.readIvl f x) (m.readIvl f y)
    { bits := r.i.raw f, ev := r.ev, gen := g }
  match op with
  | 0 => { bits := s.narrowView (i x + i y), gen := g }
  | 1 => { bits := unsigned w (min (i x) (i y)), gen := g }
  | 2 => { bits := unsigned w (max (i x) (i y)), gen := g }
  | 3 => { bits := x &&& y, gen := g }
  | 4 => { bits := x ||| y, gen := g }
  | 5 => { bits := x ^^^ y, gen := g }
  | 6 =>
    if sh.isIvl then ivl .add
    else pointOp sh (fun f g vs => m.roundTo f g (sumExact m.rnd (vs.map (m.read f)))) g [x, y]
  | 7 =>
    if sh.isIvl then ivl .min
    else pointOp sh (fun f g vs => { m.minmax f false (vs.getD 0 0) (vs.getD 1 0) with gen := g }) g [x, y]
  | _ =>
    if sh.isIvl then ivl .max
    else pointOp sh (fun f g vs => { m.minmax f true (vs.getD 0 0) (vs.getD 1 0) with gen := g }) g [x, y]

/-- A value in a reduction: the lane whose generator its node uses, and its bits. -/
structure Part where
  lane : Nat
  v : Nat
  deriving DecidableEq, Repr

/-- The running state of a reduction: the lanes' generators and the causes met. -/
structure RedState where
  gens : SMap Word
  logs : List (Nat × LaneOut) := []
  deriving DecidableEq, Repr

/-- Combines two optional values (R150, R239): one alone passes unrounded. `lane` names the generator. -/
def State.node (s : State) (op : Nat) (r : RedState) (lane : Nat) (x y : Option Part) : Option Part × RedState :=
  match x, y with
  | none, _ => (y, r)
  | _, none => (x, r)
  | some x, some y =>
    let e := s.combine op (SMap.get 0 lane r.gens) x.v y.v
    (some { lane := x.lane, v := e.bits },
      { gens := SMap.set 0 lane e.gen r.gens, logs := if e.ev.isEmpty then r.logs else r.logs ++ [(lane, { ev := e.ev })] })

/-- One level of redux's tree (R150). -/
def State.redLevel (s : State) (op : Nat) : RedState → List (Option Part) → List (Option Part) × RedState
  | r, x :: y :: rest =>
    let n := s.node op r ((x.orElse (fun _ => y)).map (·.lane) |>.getD 0) x y
    let t := s.redLevel op n.2 rest
    (n.1 :: t.1, t.2)
  | r, xs => (xs, r)

/-- The levels of redux's tree (R150). -/
def State.redTree (s : State) (op : Nat) : Nat → RedState → List (Option Part) → List (Option Part) × RedState
  | 0, r, xs => (xs, r)
  | n + 1, r, xs => let l := s.redLevel op r xs; s.redTree op n l.2 l.1

/-- One round of scan (R239): every lane from `k` up takes in the lane `k` below it, all at once. -/
def State.scanRound (s : State) (op k : Nat) (r : RedState) (xs : List (Option Part)) : List (Option Part) × RedState :=
  (List.range 32).foldl (fun a l =>
    if l < k then (a.1 ++ [xs.getD l none], a.2)
    else
      let n := s.node op a.2 l (xs.getD (l - k) none) (xs.getD l none)
      (a.1 ++ [n.1], n.2)) ([], r)

/-- The identity of a reduction operation (R239). -/
def State.redIdent (s : State) (op : Nat) : Nat :=
  let w := s.view.1.bits
  let sh := s.redShape op
  let pt (f : FFmt) (v : Num) : Nat := (f.round 0 0 false false v).bits
  let fl (v : Num) : Nat :=
    match sh with
    | .f32 => pt .f32 v
    | .f64 => pt .f64 v
    | .pair16 bf => let h := pt (if bf then .bf16 else .f16) v; h + 2 ^ 16 * h
    | .if32 => pt .f32 v + 2 ^ 32 * pt .f32 v
    | .if64 => pt .f64 v + 2 ^ 64 * pt .f64 v
    | _ => 0
  match op with
  | 1 => if s.view.2 then 2 ^ (w - 1) - 1 else 2 ^ w - 1
  | 2 => if s.view.2 then 2 ^ (w - 1) else 0
  | 3 => 2 ^ w - 1
  | 7 => fl (.inf false)
  | 8 => fl (.inf true)
  | _ => 0

/-- Encoding conditions of redux and scan (R242). -/
def State.redConds (s : State) (d a : Operand) (op : Nat) : List Cond :=
  let n := (s.redShape op).regs
  s.encCond (!etOk s.et) 0x01 ++ s.encCond (decide (9 ≤ op)) 0x01 ++
  s.encCond (decide (op < 6) && (floatShape s.et).isSome) 0x01 ++
  s.encCond (decide (6 ≤ op) && (floatShape s.et).isNone) 0x01 ++
  s.encCond (op == 6 && !(s.redShape op).isIvl && decide (6 ≤ s.rnd)) 0x01 ++
  s.encCond (dstBad n d) 0x01 ++ s.encCond (!a.isV || !a.aligned n) 0x01

/-- Lanes of the execution mask whose interval operand is empty, under EMPTY = 1 (R140, R473). -/
def State.emptyIn (s : State) (sh : Shape) (os : List Operand) : LaneMask :=
  if s.emptyTraps && sh.isIvl then
    lanesWhere s.exec (fun l => os.any (fun o => (s.mode.readIvl (ivlFmt sh) (s.src sh o l)).empty (ivlFmt sh)))
  else 0

/-- The contributions of the execution mask's lanes to a reduction. -/
def State.redParts (s : State) (op : Nat) (a : Operand) : List (Option Part) :=
  (List.range 32).map (fun l =>
    if s.exec.getLsbD l then some { lane := l, v := s.src (s.redShape op) a l } else none)

/-- Lanes whose written interval result is empty (R473). -/
def State.emptyOut (s : State) (sh : Shape) (outs : List (Nat × LaneOut)) : LaneMask :=
  if s.emptyTraps && sh.isIvl then
    maskOf ((outs.filter (fun o =>
      (Ivl.mk (o.2.v % 2 ^ (ivlFmt sh).width) (o.2.v / 2 ^ (ivlFmt sh).width)).empty (ivlFmt sh))).map (·.1))
  else 0

/-- Puts a reduction's generators and results in place and logs its causes. -/
def State.finishRed (t : State) (pc : VAddr) (d : Operand) (n : Nat) (outs : List (Nat × LaneOut)) (r : RedState) : State :=
  let t := t.writeLanes d n outs
  State.logLanes { t with wave := { t.wave with gens := r.gens } } pc r.logs

/-- redux (R238). -/
def execRedux (d a : Operand) (o : BitVec 5) (s : State) : Host.Outcome State Fault Refusal :=
  let op := o.toNat % 16
  let sh := s.redShape op
  let res := s.redTree op 5 { gens := s.wave.gens } (s.redParts op a)
  let v := match res.1.head? with
    | some (some p) => p.v
    | _ => 0
  let pois := (lanesOf s.exec).any (s.srcPois sh.regs a)
  let outs := (runLanes d s.exec).map (fun l => (l, { v := v, pois := pois : LaneOut }))
  let bad := if d.isV then [] else laneCond 0x0A (lanesWhere s.exec (s.srcPois sh.regs a)) 0 a.code
  s.issue (s.redConds d a op ++ s.encCond (decide (16 ≤ o.toNat)) 0x02 ++ bad ++
      laneCond 0x06 (s.emptyIn sh [a] ||| s.emptyOut sh outs))
    (fun t => t.finishRed s.frag.pc d sh.regs outs res.2)

/-- scan (R239). -/
def execScan (d a : Operand) (e : Bool) (o : Fin 16) (s : State) : Host.Outcome State Fault Refusal :=
  let op := o.val
  let sh := s.redShape op
  let res := [1, 2, 4, 8, 16].foldl (fun x k => s.scanRound op k x.2 x.1) (s.redParts op a, { gens := s.wave.gens })
  let upTo (l : Nat) : Option Nat := (res.1.getD l none).map (·.v)
  let val (l : Nat) : Nat :=
    if e then (if l = 0 then s.redIdent op else (upTo (l - 1)).getD (s.redIdent op)) else (upTo l).getD 0
  let from_ (l : Nat) : List Nat := (lanesOf s.exec).filter (fun k => if e then decide (k < l) else decide (k ≤ l))
  let outs := (runLanes d s.exec).map (fun l =>
    (l, { v := val l, pois := (from_ l).any (s.srcPois sh.regs a) : LaneOut }))
  let bad := if d.isV then [] else laneCond 0x0A (maskOf ((outs.filter (·.2.pois)).map (·.1))) 0 a.code
  s.issue (s.redConds d a op ++ bad ++ laneCond 0x06 (s.emptyIn sh [a] ||| s.emptyOut sh outs))
    (fun t => t.finishRed s.frag.pc d sh.regs outs res.2)

/-- Three-valued logic (R134 Table 6). -/
def triAnd : Tri → Tri → Tri
  | .f, _ => .f
  | _, .f => .f
  | .t, b => b
  | a, .t => a
  | .u, .u => .u

def triNot : Tri → Tri
  | .f => .t
  | .t => .f
  | .u => .u

def triOr (a b : Tri) : Tri := triNot (triAnd (triNot a) (triNot b))

def triXor : Tri → Tri → Tri
  | .u, _ => .u
  | _, .u => .u
  | a, b => if a = b then .f else .t

/-- The shared form of predicate logic (R240). -/
def State.predUnit (s : State) (d : Operand) (srcs : List Operand) (f : Nat → Tri) : Host.Outcome State Fault Refusal :=
  s.issue (s.encCond (!(d :: srcs).all Operand.isP) 0x01)
    (fun t => (lanesOf s.exec).foldl (fun t l => t.setP d.num l (f l)) t)

def execPand (d a b : Operand) (s : State) : Host.Outcome State Fault Refusal :=
  s.predUnit d [a, b] (fun l => triAnd (s.pred a.num l) (s.pred b.num l))

def execPor (d a b : Operand) (s : State) : Host.Outcome State Fault Refusal :=
  s.predUnit d [a, b] (fun l => triOr (s.pred a.num l) (s.pred b.num l))

def execPxor (d a b : Operand) (s : State) : Host.Outcome State Fault Refusal :=
  s.predUnit d [a, b] (fun l => triXor (s.pred a.num l) (s.pred b.num l))

def execPnot (d a : Operand) (s : State) : Host.Outcome State Fault Refusal :=
  s.predUnit d [a] (fun l => triNot (s.pred a.num l))

end Sys2Proof.Machine
end

