-- ==== Sys2Proof/Machine/Special.lean ====
section
/-!
DEFINITION. The special functions (spec/06_numbers.md R152 to R157): tables fixed by the spec's formulas, the
algorithms on exact integers, and their interval forms.
-/

namespace Sys2Proof.Machine

/-- Part 0 of the table below. -/
def expTable0 : List Int :=
  [4611686018427387904, 4661903986662671290, 4712668792719003884, 4763986391269842979,
   4815862801830788490, 4868304109465667592, 4921316465500308116, 4974906088244084429,
   5029079263719320435, 5083842346398635251, 5139201759950318048, 5195163997991819502,
   5251735624851448219, 5308923276338361494, 5366733660520940721, 5425173558513642752]

/-- Part 1 of the table below. -/
def expTable1 : List Int :=
  [5484249825272419512, 5543969390398799154, 5604339258952723100, 5665366512274234280,
   5727058308814112983, 5789421884973557729, 5852464555953009676, 5916193716610220111,
   5980616842327661685, 6045741489889385141, 6111575298367424380, 6178125990017853852,
   6245401371186603363, 6313409333225136570, 6382157853416100552, 6451654995909055045]

/-- Part 2 of the table below. -/
def expTable2 : List Int :=
  [6521908912666391106, 6592927844419550153, 6664720121635655541, 6737294165494670078,
   6810658488877194079, 6884821697363019841, 6959792490240559659, 7035579661527265796,
   7112192101001162095, 7189638795243608238, 7267928828693418961, 7347071384712461870,
   7427075746662858866, 7507951298995917514, 7589707528352920109, 7672354024677899536]

/-- Part 3 of the table below. -/
def expTable3 : List Int :=
  [7755900482342532474, 7840356701283281883, 7925732588150922155, 8012038157472581778,
   8099283532826439817, 8187478948029213993, 8276634748336579668, 8366761391656660532,
   8457869449776733335, 8549969609603290562, 8643072674415606502, 8737189565132953757,
   8832331321595618838, 8928509103859867100, 9025734193507008925, 9124017994966720698]

/-- nearest(2^62 · 2^(j/64)) for j in 0 to 63 (R153). -/
def expTable : List Int := expTable0 ++ expTable1 ++ expTable2 ++ expTable3

/-- Ek = nearest(2^62 · (ln 2)^k / k!) for k from 1 to 4 (R153). -/
def expCoef : List Int := [3196577161300663915, 1107849223398934356, 255967521894832113, 44355791529079737]

/-- Part 0 of the table below. -/
def logTable0 : List Int :=
  [-1879460183139267544, -1845076351837975151, -1810869301941189503, -1776837224931603046,
   -1742978339903099690, -1709290893001534770, -1675773156879601334, -1642423430165359107,
   -1609240036944017259, -1576221326252576324, -1543365671586948253, -1510671470421186681,
   -1478137143738472106, -1445761135573508750, -1413541912566001535, -1381477963524892774]

/-- Part 1 of the table below. -/
def logTable1 : List Int :=
  [-1349567799003048944, -1317809950882098253, -1286202971967129654, -1254745435590973554,
   -1223435935227793672, -1192273084115728364, -1161255514888328286, -1130381879214545480,
   -1099650847447036895, -1069061108278552959, -1038611368406189209, -1008300352203286019,
   -978126801398768326, -948089474763723808, -918187147805024323, -888418612465801523]

/-- Part 2 of the table below. -/
def logTable2 : List Int :=
  [-858782676832593460, -829278164848984671, -799903916035567749, -770658785216059654,
   -741541642249411165, -712551371767752785, -683686872920025165, -654947059121146729,
   -626330857806575586, -597837210192127126, -569465071038912826, -541213408423269785,
   -513081203511554367, -485067450339677076, -457171155597259387, -429391338416296730]

/-- Part 3 of the table below. -/
def logTable3 : List Int :=
  [-401727030164215213, -374177274241212932, -346741125881779832, -319417651960293187,
   -292205930800588648, -265105051989409729, -238114116193641300, -211232234981235372,
   -184458530645740005, -157792136034344709, -131232194379358090, -104777859133035875,
   -78428293805679697, -52182671806929211, -26040176290172283, 0]

/-- Part 4 of the table below. -/
def logTable4 : List Int :=
  [0, 25938654877364701, 51776576860734092, 77514545317785797,
   103153330606121625, 128693694211618918, 154136388884136542, 179482158770635972,
   204731739545776358, 229885858540040844, 254945234865449951, 279910579538916340,
   304782595603293869, 329561978246172450, 354249414916468918, 378845585438862773]

/-- Part 5 of the table below. -/
def logTable5 : List Int :=
  [403351162126124447, 427766809889382479, 452093186346374828, 476330941927728379,
   500480719981309593, 524543156874688147, 548518882095754375, 572408518351530276,
   596212681665212875, 619931981471487744, 643567020710149551, 667118395918065607,
   690586697319517456, 713972508914954744, 737276408568194713, 760498968092099876]

/-- Part 6 of the table below. -/
def logTable6 : List Int :=
  [783640753332765648, 806702324252248894, 829684235009867669, 852587034042101625,
   875411264141121919, 898157462531978715, 920826160948473729, 943417885707744613,
   965933157783587320, 988372492878542006, 1010736401494767392, 1033025389003727947,
   1055239955714717668, 1077380596942243697, 1099447803072292452, 1121442059627500452]

/-- Part 7 of the table below. -/
def logTable7 : List Int :=
  [1143363847331251474, 1165213642170721211, 1186991915458890095, 1208699133895544485,
   1230335759627285963, 1251902250306568025, 1273399059149779027, 1294826634994389804,
   1316185422355184002, 1337475861479588707, 1358698388402122607, 1379853434997978523,
   1400941429035756762, 1421962794229365398, 1442917950289103222, 1463807312971940757]

/-- Part 8 of the table below. -/
def logTable8 : List Int :=
  [1484631294131014398, 1505390301764348412, 1526084740062819198, 1546715009457375921,
   1567281506665531296, 1587784624737136023, 1608224753099450085, 1628602277601523817,
   1648917580557901400, 1669171040791659156, 1689363033676790756, 1709493931179951191,
   1729564101901571123, 1749573911116352968, 1769523720813159845, 1789413889734308267]

/-- Part 9 of the table below. -/
def logTable9 : List Int :=
  [1809244773414275253, 1829016724217830285, 1848730091377602357, 1868385221031092105,
   1887982456257138845, 1907522137111852115, 1927004600664017122, 1946430181029983334,
   1965799209408045220, 1985112014112323991, 2004368920606159019, 2023570251535017408,
   2042716326758930046, 2061807463384462291, 2080843975796227273, 2099826175687949650]

/-- Part 10 of the table below. -/
def logTable10 : List Int :=
  [2118754372093087486, 2137628871415019777, 2156449977456806991, 2175217991450531854,
   2193933212086227468, 2212595935540399700, 2231206455504150653, 2249765063210909905,
   2268272047463780046, 2286727694662502948, 2305132288830053050, 2323486111638863844,
   2341789442436693607, 2360042558272136317, 2378245733919783589, 2396399241905043328]

/-- Part 11 of the table below. -/
def logTable11 : List Int :=
  [2414503352528620721, 2432558333890667047, 2450564451914601718, 2468521970370612827,
   2486431150898841404, 2504292253032254479, 2522105534219211933, 2539871249845732067,
   2557589653257460679, 2575260995781348401, 2592885526747040901, 2610463493507986531,
   2627995141462265872, 2645480714073147565, 2662920452889374731, 2680314597565186212]

/-- nearest(2^62 · log2 c_j) for j in 0 to 191 (R154). -/
def logTable : List Int := logTable0 ++ logTable1 ++ logTable2 ++ logTable3 ++ logTable4 ++ logTable5 ++ logTable6 ++ logTable7 ++ logTable8 ++ logTable9 ++ logTable10 ++ logTable11

/-- Gk = nearest(2^62 · (-1)^(k+1) / (k · ln 2)) for k from 1 to 4 (R154). -/
def logCoef : List Int := [6653256548922161246, -3326628274461080623, 2217752182974053749, -1663314137230540311]

/-- floor(2^192 · 2 / pi) (R156). -/
def twoOverPi : Nat := 3996127077910018526225134062870466775254619754852358787137

/-- nearest(2^62 · pi / 2) (R156). -/
def halfPi : Int := 7244019458077122842

/-- mul(a, b) = floor(a·b / 2^62) (R152). -/
def mulFix (a b : Int) : Int := a * b / 2 ^ 62

/-- The integer nearest to a / b. -/
def nearestDiv (a b : Nat) : Nat := (2 * a + b) / (2 * b)

/-- The 62 fraction bits of the mantissa of m·2^e, and its exponent: 1 ≤ mantissa < 2. -/
def mantissa (m : Nat) (e : Int) : Int × Int := ((m * 2 ^ (62 - Nat.log2 m) : Nat), e + Nat.log2 m)

/-- The value y·2^k; a zero is +0. -/
def fixNum (y k : Int) : Num := if y = 0 then .fin false 0 0 else .fin (decide (y < 0)) y.natAbs k

/-- The fex2 algorithm (R153) on m·2^e of a sign: floor(x·2^62) splits into n and F. -/
def ex2Alg (neg : Bool) (m : Nat) (e : Int) : Num :=
  let k : Int := if neg then -(m : Int) else m
  let fixed : Int := if -62 ≤ e then k * 2 ^ (e + 62).toNat else k / 2 ^ (-62 - e).toNat
  let n := fixed / 2 ^ 62
  let f := (fixed % 2 ^ 62).toNat
  let t : Int := ((f % 2 ^ 56 : Nat) : Int)
  let c (i : Nat) : Int := expCoef.getD i 0
  let p := mulFix t (c 0 + mulFix t (c 1 + mulFix t (c 2 + mulFix t (c 3))))
  let tj := expTable.getD (f / 2 ^ 56) 0
  fixNum (tj + mulFix tj p) (n - 62)

/-- The flg2 algorithm (R154) on m·2^e. -/
def lg2Alg (m : Nat) (e : Int) : Num :=
  let r := mantissa m e
  let big : Bool := decide (3 * 2 ^ 61 ≤ r.1)
  let mi := if big then r.1 / 2 else r.1
  let ex := if big then r.2 + 1 else r.2
  let j := ((mi - 3 * 2 ^ 60) * 256 / 2 ^ 62).toNat
  let t : Int := nearestDiv (2 ^ 70) (if 64 ≤ j then 192 + j else 193 + j)
  let z := mulFix mi t - 2 ^ 62
  let c (i : Nat) : Int := logCoef.getD i 0
  let q := mulFix z (c 0 + mulFix z (c 1 + mulFix z (c 2 + mulFix z (c 3))))
  fixNum (ex * 2 ^ 62 + logTable.getD j 0 + q) (-62)

/-- The frcp algorithm (R155) on m·2^e. -/
def rcpAlg (m : Nat) (e : Int) : Num :=
  let r := mantissa m e
  let j := ((r.1 - 2 ^ 62) * 128 / 2 ^ 62).toNat
  let t : Int := nearestDiv (2 ^ 70) (257 + 2 * j)
  let d := mulFix r.1 t - 2 ^ 62
  fixNum (t - mulFix t (d - mulFix d (d - mulFix d (d - mulFix d d)))) (-62 - r.2)

/-- The frsq algorithm (R155) on m·2^e. -/
def rsqAlg (m : Nat) (e : Int) : Num :=
  let r := mantissa m e
  let odd : Bool := decide (r.2 % 2 ≠ 0)
  let mi := if odd then 2 * r.1 else r.1
  let ex := if odd then r.2 - 1 else r.2
  let j := ((mi - 2 ^ 62) * 64 / 2 ^ 62).toNat
  let t : Int := ((isqrt (4 * 2 ^ 131 / (129 + 2 * j)) + 1) / 2 : Nat)
  let d := mulFix (mulFix mi t) t - 2 ^ 62
  let y := t + mulFix t (mulFix d (-(2 ^ 61 : Int) + mulFix d (3 * 2 ^ 59 + mulFix d (-5 * 2 ^ 58 + mulFix d (35 * 2 ^ 55)))))
  fixNum y (-62 - ex / 2)

/-- The coefficient nearest(2^62 / k!) with a sign (R156). -/
def trigCoef (neg : Bool) (k : Nat) : Int := let c : Int := nearestDiv (2 ^ 62) k.factorial; if neg then -c else c

/-- The fsin and fcos algorithm (R156) on m·2^e of a sign, with the factor 2^(E - 64) (DEDUCED, log 88: the rule prints
2^(E + 64), with which no result lies within the last place that R152 allows): `cosine` says which. -/
def trigAlg (cosine neg : Bool) (m : Nat) (e : Int) : Num :=
  let y : Nat := if 64 ≤ e then m * twoOverPi * 2 ^ (e - 64).toNat else m * twoOverPi / 2 ^ (64 - e).toNat
  let g0 : Nat := y % 2 ^ 128
  let n := if 2 ^ 127 ≤ g0 then y / 2 ^ 128 + 1 else y / 2 ^ 128
  let g : Int := if 2 ^ 127 ≤ g0 then (g0 : Int) - 2 ^ 128 else g0
  let w := mulFix (g / 2 ^ 66) halfPi
  let w2 := mulFix w w
  let one : Int := 2 ^ 62
  let sn := mulFix w (one + mulFix w2 (trigCoef true 3 + mulFix w2 (trigCoef false 5 + mulFix w2 (trigCoef true 7 +
    mulFix w2 (trigCoef false 9 + mulFix w2 (trigCoef true 11))))))
  let cs := one + mulFix w2 (trigCoef true 2 + mulFix w2 (trigCoef false 4 + mulFix w2 (trigCoef true 6 +
    mulFix w2 (trigCoef false 8 + mulFix w2 (trigCoef true 10 + mulFix w2 (trigCoef false 12))))))
  let v := if cosine then [cs, -sn, -cs, sn].getD (n % 4) 0 else [sn, cs, -sn, -cs].getD (n % 4) 0
  fixNum (if neg && !cosine then -v else v) (-62)

/-- The special functions. -/
inductive SpecFn where
  | rcp | rsq | ex2 | lg2 | sin | cos
  deriving DecidableEq, Repr

/-- A special function's value before its rounding, with the causes of Table 12 (R152). -/
def specValue (k : SpecFn) (x : Num) : Exact :=
  match x with
  | .nan _ sg _ => { v := x, ev := if sg then [evInvalid] else [] }
  | .inf n =>
    match k with
    | .ex2 => { v := if n then .fin false 0 0 else .inf false }
    | .rcp => { v := .fin n 0 0 }
    | .lg2 => if n then { v := .qnan, ev := [evInvalid] } else { v := .inf false }
    | .rsq => if n then { v := .qnan, ev := [evInvalid] } else { v := .fin false 0 0 }
    | _ => { v := .qnan, ev := [evInvalid] }
  | .fin n m e =>
    if m = 0 then
      match k with
      | .ex2 => { v := .fin false 1 0 }
      | .lg2 => { v := .inf true, ev := [evDivZero] }
      | .sin => { v := x }
      | .cos => { v := .fin false 1 0 }
      | _ => { v := .inf n, ev := [evDivZero] }
    else
      let tiny := x.below (-12)
      match k with
      | .ex2 =>
        if 0 ≤ cmpNum x (.fin false 128 0) then { v := .inf false, ev := [evOverflow] }
        else if cmpNum x (.fin true 151 0) ≤ 0 then { v := .fin false 0 0, ev := [evUnderflow] }
        else { v := ex2Alg n m e }
      | .lg2 => if n then { v := .qnan, ev := [evInvalid] } else { v := lg2Alg m e }
      | .rcp => { v := (rcpAlg m e).withSign n }
      | .rsq => if n then { v := .qnan, ev := [evInvalid] } else { v := rsqAlg m e }
      | .sin => { v := if tiny then x else trigAlg false n m e }
      | .cos => { v := if tiny then .fin false 1 0 else trigAlg true n m e }

/-- A special function on f32 bits (R152): rounded RNE, with no saturation. -/
def Mode.special (m : Mode) (k : SpecFn) (b : Nat) : Elem :=
  { m with rnd := 0, sat := false : Mode }.roundTo .f32 0 (specValue k (m.read .f32 b))

/-- The f32 step toward +infinity. -/
def f32Up (b : Nat) : Nat :=
  if b = 0x7F800000 then b
  else if b = 0x80000000 then 1
  else if 2 ^ 31 ≤ b then b - 1
  else b + 1

/-- The f32 step toward -infinity. -/
def f32Down (b : Nat) : Nat :=
  if b = 0xFF800000 then b
  else if b = 0 then 0x80000001
  else if 2 ^ 31 ≤ b then b + 1
  else b - 1

/-- floor(x · 2 / pi) of a finite value, or its ceiling; the quotient is no integer unless it is zero. -/
def quarterTurns (up : Bool) (x : Num) : Int :=
  match x with
  | .fin n m e =>
    let y : Int := ((if 192 ≤ e then m * twoOverPi * 2 ^ (e - 192).toNat else m * twoOverPi / 2 ^ (192 - e).toNat : Nat) : Int)
    if m = 0 then 0 else if n then (if up then -y else -y - 1) else (if up then y + 1 else y)
  | _ => 0

/-- The multiples n of pi / 2, rounded outward to f32, that meet [a1, a2]: the first and the last n (R157). -/
def turnRange (a1 a2 : Nat) : Int × Int :=
  (quarterTurns false (FFmt.f32.decode (f32Down a1)) + 1, quarterTurns true (FFmt.f32.decode (f32Up a2)) - 1)

/-- A multiple n·pi/2 with n mod 4 = r lies in a range. -/
def hasTurn (r : Int) (x : Int × Int) : Bool := (List.range 4).any (fun i => decide (x.1 + i ≤ x.2) && decide ((x.1 + i) % 4 = r))

/-- Moves a lower or an upper bound one step outward, and bounds it (R157). -/
def stepOut (up : Bool) (b : Nat) : Num := FFmt.f32.decode (if up then f32Up b else f32Down b)

/-- The hull of fsin or fcos over an interval of finite bounds (R157). -/
def Mode.trigIvl (m : Mode) (k : SpecFn) (a : Ivl) : (Num × Num) × List Nat :=
  let r1 := m.special k a.lo
  let r2 := m.special k a.hi
  let t := turnRange a.lo a.hi
  let one : Num := .fin false 1 0
  let top := if k = .sin then hasTurn 1 t else hasTurn 0 t
  let bottom := if k = .sin then hasTurn 3 t else hasTurn 2 t
  let lo := if bottom then .fin true 1 0 else maxNum (.fin true 1 0) (minNum (stepOut false r1.bits) (stepOut false r2.bits))
  let hi := if top then one else minNum one (maxNum (stepOut true r1.bits) (stepOut true r2.bits))
  ((lo, hi), r1.ev ++ r2.ev)

/-- The width of an interval of finite bounds is 2·pi or more. -/
def wideTurn (a : Num × Num) : Bool :=
  match sumNums 0 [a.2, a.1.withSign (!a.1.neg)] with
  | .fin _ m e => decide (4 * 2 ^ 192 ≤ (if 0 ≤ e then m * 2 ^ e.toNat * twoOverPi else m * twoOverPi / 2 ^ (-e).toNat))
  | _ => true

/-- A special function on an if32 interval (R157): the bounds, none for an empty result, and the causes met. That the algorithm's own
result is flushed before its outward step, and that fsin and fcos of an interval of one infinity give [-1, 1] and log nothing, is the
model's choice (DESIGN CHOICE, log 111). -/
def Mode.specialBounds (m : Mode) (k : SpecFn) (a : Ivl) : Option (Num × Num) × List Nat :=
  let n := a.nums .f32
  let z : Num := .fin false 0 0
  let low (b : Nat) : Num × List Nat := let r := m.special k b; (stepOut false r.bits, r.ev)
  let high (b : Nat) : Num × List Nat := let r := m.special k b; (stepOut true r.bits, r.ev)
  match k with
  | .ex2 => let l := low a.lo; let h := high a.hi; (some (maxNum z l.1, h.1), l.2 ++ h.2)
  | .lg2 =>
    if cmpNum n.2 z ≤ 0 then (none, [])
    else
      let h := high a.hi
      if cmpNum n.1 z ≤ 0 then (some (.inf true, h.1), h.2) else let l := low a.lo; (some (l.1, h.1), l.2 ++ h.2)
  | .rsq =>
    if cmpNum n.2 z ≤ 0 then (none, [])
    else
      let l := low a.hi
      if cmpNum n.1 z ≤ 0 then (some (l.1, .inf false), l.2) else let h := high a.lo; (some (l.1, h.1), l.2 ++ h.2)
  | .rcp =>
    if n.1.isZero && n.2.isZero then (none, [])
    else if hasZero n then (some (.inf true, .inf false), [])
    else
      let r1 := m.special k a.lo
      let r2 := m.special k a.hi
      (some (minNum (stepOut false r1.bits) (stepOut false r2.bits), maxNum (stepOut true r1.bits) (stepOut true r2.bits)),
        r1.ev ++ r2.ev)
  | _ =>
    if n.1.isInf || n.2.isInf || wideTurn n then (some (.fin true 1 0, .fin false 1 0), [])
    else let r := m.trigIvl k a; (some r.1, r.2)

/-- A special function on an interval operand: empty for an empty one. -/
def Mode.specialIvl (m : Mode) (k : SpecFn) (a : Ivl) : IvlOut :=
  if a.empty .f32 then { i := FFmt.f32.emptyIvl }
  else
    let r := m.specialBounds k a
    match r.1 with
    | none => { i := FFmt.f32.emptyIvl, ev := r.2.eraseDups }
    | some b => let o := m.bounds .f32 b; { o with ev := (r.2 ++ o.ev).eraseDups }

end Sys2Proof.Machine
end

