-- ==== Sys2Proof/Machine/Float.lean ====
section
/-!
DEFINITION. Floating point, conversion, narrow formats, packed dots and generators (spec/10_isa_float.md R243 to R259,
R269, R270, R473).
-/

namespace Sys2Proof.Machine

/-- The floating shape of the unit's element type; f32's where it has none (the unit then traps). -/
def State.fsh (s : State) : Shape := (floatShape s.et).getD .f32

/-- The float format of the unit's element type: f64's, or f32's. -/
def State.ptFmt (s : State) : FFmt := if s.et = 5 then .f64 else ivlFmt s.fsh

/-- Element types of a row of R244 Table 2: every floating one; the point types f32 and f64 with their intervals. -/
def fltOk (et : Nat) : Bool := (floatShape et).isSome
def wideOk (et : Nat) : Bool := decide (4 ≤ et) && decide (et ≤ 7)

/-- The lanes in which an interval instruction reads an empty operand or writes an empty result (R140, R473), while
EMPTY is set; `read` and `out` say which lanes do. -/
def State.emptyCond (s : State) (d : Operand) (read out : Nat → Bool) : List Cond :=
  if s.emptyTraps then laneCond 0x06 (maskOf ((runLanes d s.exec).filter (fun l => read l || out l))) else []

/-- The shared form of this chapter's register instructions (R244, R245, R270): the element type is accepted, the
rounding mode is none of the reserved ones where `rounds`, the operands are legal, poison is carried, and the lanes of
`empties` trap. -/
def State.floatUnit (s : State) (ok rounds : Bool) (d : Operand) (nd : Nat) (srcs : List (Nat × Operand))
    (more : List Cond) (f : Nat → LaneOut) : Host.Outcome State Fault Refusal :=
  let conds := s.encCond (!ok) 0x01 ++ s.encCond (rounds && decide (6 ≤ s.rnd)) 0x01 ++ s.encCond (dstBad nd d) 0x01 ++
    s.encCond (srcs.any (fun x => s.srcBad x.1 x.2)) 0x01 ++ s.poisonCond d srcs ++ more
  let out (l : Nat) : LaneOut := { f l with pois := srcs.any (fun x => s.srcPois x.1 x.2 l) }
  s.issue conds (fun t => t.finish s.frag.pc d nd ((runLanes d s.exec).map (fun l => (l, out l))))

/-- What an element operation leaves in a lane; a rounding one leaves its generator too. -/
def Elem.out (e : Elem) (rounds : Bool) : LaneOut := { v := e.bits, ev := e.ev, gen := if rounds then some e.gen else none }

/-- What an interval operation leaves in a lane. -/
def IvlOut.out (f : FFmt) (r : IvlOut) : LaneOut := { v := r.i.raw f, ev := r.ev }

/-- The shared form of an operation on point elements or on intervals (R126, R137, R244): `srcs` are the operands in
operand order. -/
def State.arithUnit (s : State) (d : Operand) (srcs : List Operand) (rounds flushes : Bool)
    (pt : Mode → FFmt → Word → List Nat → Elem) (iv : Mode → FFmt → List Ivl → IvlOut) : Host.Outcome State Fault Refusal :=
  let sh := s.fsh
  let f := ivlFmt sh
  let m := if flushes then s.mode else { s.mode with flush := false }
  let ivs (l : Nat) : List Ivl := srcs.map (fun o => m.readIvl f (s.src sh o l))
  let out (l : Nat) : LaneOut :=
    if sh.isIvl then (iv m f (ivs l)).out f
    else (pointOp sh (pt m) (s.gen l) (srcs.map (fun o => s.src sh o l))).out rounds
  s.floatUnit (fltOk s.et) (rounds && !sh.isIvl) d sh.regs (srcs.map (fun o => (sh.regs, o)))
    (if sh.isIvl then s.emptyCond d (fun l => (ivs l).any (Ivl.empty f)) (fun l => (Ivl.ofRaw f (out l).v).empty f) else []) out

/-- Operand `i` of an element operation, as a number. -/
def Mode.arg (m : Mode) (f : FFmt) (vs : List Nat) (i : Nat) : Num := m.read f (vs.getD i 0)

/-- Operand `i` of an interval operation. -/
def ivArg (is : List Ivl) (i : Nat) : Ivl := is.getD i { lo := 0, hi := 0 }

/-- A value with its sign inverted, a NaN unchanged (R246: fsub adds -b, and a NaN operand keeps its own sign). -/
def Num.negated (v : Num) : Num := if v.isNan then v else v.withSign (!v.neg)

/-- fadd, fsub, fmul and fdiv (R246). -/
def State.binary (s : State) (d a b : Operand) (op : IvlOp) (x : Mode → Num → Num → Exact) :
    Host.Outcome State Fault Refusal :=
  s.arithUnit d [a, b] true true (fun m f g vs => m.roundTo f g (x m (m.arg f vs 0) (m.arg f vs 1)))
    (fun m f is => m.ivl f op (ivArg is 0) (ivArg is 1))

def execFadd (d a b : Operand) (s : State) : Host.Outcome State Fault Refusal :=
  s.binary d a b .add (fun m x y => sumExact m.rnd [x, y])

def execFsub (d a b : Operand) (s : State) : Host.Outcome State Fault Refusal :=
  s.binary d a b .sub (fun m x y => sumExact m.rnd [x, y.negated])

def execFmul (d a b : Operand) (s : State) : Host.Outcome State Fault Refusal :=
  s.binary d a b .mul (fun _ x y => mulExact x y)

def execFdiv (d a b : Operand) (s : State) : Host.Outcome State Fault Refusal :=
  s.binary d a b .div (fun _ x y => divExact x y)

/-- a·b + c, exactly (R246): the first NaN of a, b and c, else the product's own NaN, else the sum. That c, which d holds, comes
after a and b in the order of R123 is the model's choice (DESIGN CHOICE, log 110). -/
def fmaExact (mode : Nat) (a b c : Num) : Exact :=
  match nanOf [a, b, c] with
  | some e => e
  | none =>
    let p := mulExact a b
    if p.v.isNan then p else sumExact mode [p.v, c]

/-- ffma (R246): d is the addend. -/
def execFfma (d a b : Operand) (s : State) : Host.Outcome State Fault Refusal :=
  s.arithUnit d [a, b, d] true true
    (fun m f g vs => m.roundTo f g (fmaExact m.rnd (m.arg f vs 0) (m.arg f vs 1) (m.arg f vs 2)))
    (fun m f is => m.ivlFma f (ivArg is 0) (ivArg is 1) (ivArg is 2))

def execFsqrt (d a : Operand) (s : State) : Host.Outcome State Fault Refusal :=
  s.arithUnit d [a] true true (fun m f g vs => m.roundTo f g (sqrtExact (m.arg f vs 0)))
    (fun m f is => m.ivl f .sqrt (ivArg is 0) (ivArg is 0))

/-- fmin and fmax (R247). -/
def State.minmaxUnit (s : State) (d a b : Operand) (mx : Bool) (op : IvlOp) : Host.Outcome State Fault Refusal :=
  s.arithUnit d [a, b] false true (fun m f _ vs => m.minmax f mx (vs.getD 0 0) (vs.getD 1 0))
    (fun m f is => m.ivl f op (ivArg is 0) (ivArg is 1))

def execFmin (d a b : Operand) (s : State) : Host.Outcome State Fault Refusal := s.minmaxUnit d a b false .min

def execFmax (d a b : Operand) (s : State) : Host.Outcome State Fault Refusal := s.minmaxUnit d a b true .max

/-- The sign bit's weight. -/
def FFmt.signBit (f : FFmt) : Nat := 2 ^ (f.eb + f.fb)

/-- fabs (R247): raw bits, nothing logged, never flushed. -/
def execFabs (d a : Operand) (s : State) : Host.Outcome State Fault Refusal :=
  s.arithUnit d [a] false false (fun _ f _ vs => { bits := vs.getD 0 0 % f.signBit })
    (fun m f is => m.ivl f .abs (ivArg is 0) (ivArg is 0))

def execFneg (d a : Operand) (s : State) : Host.Outcome State Fault Refusal :=
  s.arithUnit d [a] false false (fun _ f _ vs => { bits := (vs.getD 0 0 + f.signBit) % (2 * f.signBit) })
    (fun m f is => m.ivl f .neg (ivArg is 0) (ivArg is 0))

/-- A value rounded to an integral one (R248, R252); the sign stays on a zero. -/
def Num.integral (mode draw : Nat) (v : Num) : Num :=
  match v with
  | .fin n m e => if 0 ≤ e then v else .fin n (roundShift mode draw n m (-e).toNat) 0
  | _ => v

/-- A value exact in a format, put back in it: no rounding, no saturation. -/
def Mode.put (m : Mode) (f : FFmt) (v : Num) (ev : List Nat := []) : Elem :=
  let e := { m with rnd := 0, sat := false : Mode }.roundTo f 0 { v := v, ev := ev }
  { e with gen := 0 }

/-- The causes that reading a NaN logs (R123). -/
def sigEv (v : Num) : List Nat := if v.isSig then [evInvalid] else []

/-- fround of one element (R248). -/
def Mode.froundElem (m : Mode) (f : FFmt) (g : Word) (b : Nat) : Elem :=
  let v := m.read f b
  let st := stoStep g
  { m.put f (v.integral m.rnd (if m.rnd = 5 then st.2 else 0)) (sigEv v) with gen := if m.rnd = 5 then st.1 else g }

def execFround (d a : Operand) (s : State) : Host.Outcome State Fault Refusal :=
  s.arithUnit d [a] true true (fun m f g vs => m.froundElem f g (vs.getD 0 0))
    (fun m f is =>
      let i := ivArg is 0
      if i.empty f then { i := f.emptyIvl }
      else m.bounds f ((i.nums f).1.integral 2 0, (i.nums f).2.integral 3 0))

/-- x - trunc(x) (R248): exact, with the sign of x; NaN for an infinity. -/
def fracExact (v : Num) : Exact :=
  match v with
  | .fin n m e => if 0 ≤ e then { v := .fin n 0 0 } else { v := .fin n (m % 2 ^ (-e).toNat) e }
  | .inf _ => { v := .qnan, ev := [evInvalid] }
  | .nan _ _ _ => { v := v, ev := sigEv v }

/-- ffrac's bounds (R248). -/
def fracBounds (b : Num × Num) : Num × Num :=
  let z : Num := .fin false 0 0
  let same : Bool := !b.1.isInf && !b.2.isInf && decide (cmpNum (b.1.integral 1 0) (b.2.integral 1 0) = 0)
  if same then ((fracExact b.1).v, (fracExact b.2).v)
  else (if cmpNum b.1 z < 0 then .fin true 1 0 else z, if cmpNum z b.2 < 0 then .fin false 1 0 else z)

def execFfrac (d a : Operand) (s : State) : Host.Outcome State Fault Refusal :=
  s.arithUnit d [a] false false
    (fun m f _ vs => let x := fracExact (m.arg f vs 0); m.put f x.v x.ev)
    (fun m f is => let i := ivArg is 0; if i.empty f then { i := f.emptyIvl } else m.bounds f (fracBounds (i.nums f)))

/-- A value times 2^k; beyond 4096 either way no result changes. -/
def Num.shifted (k : Int) (v : Num) : Num :=
  match v with
  | .fin n m e => .fin n m (e + max (-4096) (min 4096 k))
  | _ => v

/-- fscale of one element (R248): a zero, an infinity and a NaN give themselves, and take no step of the rounding generator
(DESIGN CHOICE, log 85). -/
def Mode.fscaleElem (m : Mode) (f : FFmt) (g : Word) (b : Nat) (k : Int) : Elem :=
  let v := m.read f b
  match v with
  | .fin _ x _ => if x = 0 then { m.put f v with gen := g } else m.roundTo f g { v := v.shifted k }
  | _ => { m.put f v (sigEv v) with gen := g }

/-- fscale (R248): b is a 32-bit signed integer of one register. -/
def execFscale (d a b : Operand) (s : State) : Host.Outcome State Fault Refusal :=
  let sh := s.fsh
  let f := ivlFmt sh
  let m := s.mode
  let k (l : Nat) : Int := signed 32 (s.int b l)
  let iv (l : Nat) : Ivl := m.readIvl f (s.src sh a l)
  let out (l : Nat) : LaneOut :=
    if sh.isIvl then
      (if (iv l).empty f then { i := f.emptyIvl : IvlOut }
       else m.bounds f (((iv l).nums f).1.shifted (k l), ((iv l).nums f).2.shifted (k l))).out f
    else (pointOp sh (fun f g vs => m.fscaleElem f g (vs.getD 0 0) (k l)) (s.gen l) [s.src sh a l]).out true
  s.floatUnit (fltOk s.et) (!sh.isIvl) d sh.regs [(sh.regs, a), (1, b)]
    (if sh.isIvl then s.emptyCond d (fun l => (iv l).empty f) (fun _ => false) else []) out

/-- A point comparison (R249 Table 3). -/
def fcmpPoint (r : Nat) (a b : Num) : Bool :=
  if a.isNan || b.isNan then r == 1 || r == 6
  else
    let c := cmpNum a b
    match r with
    | 0 => decide (c = 0)
    | 1 => decide (c ≠ 0)
    | 2 => decide (c < 0)
    | 3 => decide (c ≤ 0)
    | 4 => decide (0 < c)
    | 5 => decide (0 ≤ c)
    | _ => false

/-- a < b, a ≤ b and a = b on nonempty intervals (R139 Table 9). -/
def ivLt (a b : Num × Num) : Tri := if cmpNum a.2 b.1 < 0 then .t else if 0 ≤ cmpNum a.1 b.2 then .f else .u
def ivLe (a b : Num × Num) : Tri := if cmpNum a.2 b.1 ≤ 0 then .t else if 0 < cmpNum a.1 b.2 then .f else .u
def ivEq (a b : Num × Num) : Tri :=
  if cmpNum a.1 a.2 = 0 ∧ cmpNum a.2 b.1 = 0 ∧ cmpNum b.1 b.2 = 0 then .t
  else if cmpNum a.2 b.1 < 0 ∨ cmpNum b.2 a.1 < 0 then .f else .u

/-- An interval comparison (R139, R249); `e` says that an operand is empty. -/
def fcmpIvl (r : Nat) (e : Bool) (a b : Num × Num) : Tri :=
  if r = 6 then (if e then .t else .f)
  else if e then .u
  else match r with
    | 0 => ivEq a b
    | 1 => triNot (ivEq a b)
    | 2 => ivLt a b
    | 3 => ivLe a b
    | 4 => ivLt b a
    | _ => ivLe b a

/-- The causes of a point comparison (R249). -/
def fcmpEv (r : Nat) (a b : Num) : List Nat :=
  if a.isSig || b.isSig || (decide (2 ≤ r) && decide (r ≤ 5) && (a.isNan || b.isNan)) then [evInvalid] else []

/-- fcmp (R249). -/
def execFcmp (r p : Fin 16) (a b : Operand) (s : State) : Host.Outcome State Fault Refusal :=
  let sh := s.fsh
  let n := sh.regs
  let f := s.ptFmt
  let iv (o : Operand) (l : Nat) : Ivl := s.mode.readIvl f (s.src sh o l)
  let pt (o : Operand) (l : Nat) : Num := s.mode.read f (s.src sh o l)
  let em (l : Nat) : Bool := (iv a l).empty f || (iv b l).empty f
  let res (l : Nat) : Tri :=
    if sh.isIvl then fcmpIvl r.val (em l) ((iv a l).nums f) ((iv b l).nums f)
    else if fcmpPoint r.val (pt a l) (pt b l) then .t else .f
  let ev (l : Nat) : List Nat := if sh.isIvl then [] else fcmpEv r.val (pt a l) (pt b l)
  s.issue (s.encCond (!wideOk s.et) 0x01 ++ s.encCond (decide (7 ≤ r.val)) 0x01 ++ s.encCond ([a, b].any (s.srcBad n)) 0x01 ++
      s.poisonCond (.p p) [(n, a), (n, b)] ++ (if sh.isIvl then s.emptyCond (.p p) em (fun _ => false) else []))
    (fun t => ((lanesOf s.exec).foldl (fun t l => t.setP p.val l (res l)) t).logLanes s.frag.pc
      ((lanesOf s.exec).map (fun l => (l, { ev := ev l }))))

/-- The class mask of an encoding (R250 Table 4). -/
def classBits (f : FFmt) (b : Nat) : Nat :=
  let v := f.decode b
  let low : Bool := decide (field b f.fb f.eb = 0)
  match v with
  | .nan _ sg _ => if sg then 2 ^ 8 else 2 ^ 9
  | .inf n => if n then 1 else 2 ^ 7
  | .fin n m _ => if m = 0 then (if n then 2 ^ 3 else 2 ^ 4) else if low then (if n then 2 ^ 2 else 2 ^ 5) else (if n then 2 else 2 ^ 6)

/-- fcls (R250). -/
def execFcls (d a : Operand) (s : State) : Host.Outcome State Fault Refusal :=
  let sh := s.fsh
  let cls (l : Nat) : Nat :=
    let v := s.src sh a l
    if sh.isIvl then
      let i := Ivl.ofRaw (ivlFmt sh) v
      classBits (ivlFmt sh) i.lo + 2 ^ 16 * classBits (ivlFmt sh) i.hi + (if i.empty (ivlFmt sh) then 2 ^ 31 else 0)
    else (pointOp sh (fun f _ vs => { bits := classBits f (vs.getD 0 0) }) 0 [v]).bits
  s.floatUnit (fltOk s.et) false d (if sh = .f64 ∨ sh = .if64 then 2 else 1) [(sh.regs, a)] [] (fun l => { v := cls l })

/-- The special functions (R251). -/
def State.specialUnit (s : State) (d a : Operand) (k : SpecFn) : Host.Outcome State Fault Refusal :=
  let sh := s.fsh
  let m := s.mode
  let iv (l : Nat) : Ivl := m.readIvl .f32 (s.src sh a l)
  let out (l : Nat) : LaneOut :=
    if sh.isIvl then (m.specialIvl k (iv l)).out .f32 else (m.special k (s.src sh a l)).out false
  s.floatUnit (s.et == 4 || s.et == 6) false d sh.regs [(sh.regs, a)]
    (if sh.isIvl then s.emptyCond d (fun l => (iv l).empty .f32) (fun l => (Ivl.ofRaw .f32 (out l).v).empty .f32) else []) out

def execFrcp (d a : Operand) (s : State) : Host.Outcome State Fault Refusal := s.specialUnit d a .rcp

def execFrsq (d a : Operand) (s : State) : Host.Outcome State Fault Refusal := s.specialUnit d a .rsq

def execFex2 (d a : Operand) (s : State) : Host.Outcome State Fault Refusal := s.specialUnit d a .ex2

def execFlg2 (d a : Operand) (s : State) : Host.Outcome State Fault Refusal := s.specialUnit d a .lg2

def execFsin (d a : Operand) (s : State) : Host.Outcome State Fault Refusal := s.specialUnit d a .sin

def execFcos (d a : Operand) (s : State) : Host.Outcome State Fault Refusal := s.specialUnit d a .cos

/-- An integer type of R253 Table 5: its width and signedness. -/
def intCode (c : Nat) : Nat × Bool :=
  match c with
  | 0 => (32, false)
  | 1 => (32, true)
  | 2 => (64, false)
  | 3 => (64, true)
  | 4 => (16, false)
  | 5 => (16, true)
  | 6 => (8, false)
  | _ => (8, true)

/-- The registers of an integer type. -/
def intRegs (c : Nat) : Nat := if (intCode c).1 = 64 then 2 else 1

/-- The bits of a narrow integer extended to 32 (R252, R256). -/
def extend32 (w : Nat) (sgn : Bool) (v : Nat) : Nat := if sgn then unsigned 32 (signed w v) else v % 2 ^ w

/-- cvt.fi (R252). -/
def execCvtFi (d a : Operand) (c : Fin 16) (s : State) : Host.Outcome State Fault Refusal :=
  let w := intCode c.val
  let out (l : Nat) : LaneOut :=
    let st := stoStep (s.gen l)
    let v := s.mode.read s.ptFmt (s.src s.fsh a l)
    let r := roundInt w.1 w.2 s.rnd (if s.rnd = 5 then st.2 else 0) s.satBit v
    { v := if w.1 = 64 then r.bits else extend32 w.1 w.2 r.bits, ev := r.ev
      gen := some (if s.rnd = 5 then st.1 else s.gen l) }
  s.floatUnit ((s.et == 4 || s.et == 5) && decide (c.val < 8)) true d (intRegs c.val) [(s.fsh.regs, a)] [] out

/-- A value rounded into the unit's element type, or outward to an interval of it (R253, R254, R256). -/
def State.intoType (s : State) (l : Nat) (v : Num) (ev : List Nat) : LaneOut :=
  if s.fsh.isIvl then
    if v.isNan then { v := s.ptFmt.emptyIvl.raw s.ptFmt, ev := ev }
    else let r := s.mode.bounds s.ptFmt (v, v); { r.out s.ptFmt with ev := (ev ++ r.ev).eraseDups }
  else (s.mode.roundTo s.ptFmt (s.gen l) { v := v, ev := ev }).out true

/-- cvt.if (R253). -/
def execCvtIf (d a : Operand) (c : Fin 16) (s : State) : Host.Outcome State Fault Refusal :=
  let w := intCode c.val
  let sh : Shape := if w.1 = 64 then .int64 w.2 else .int32
  let val (l : Nat) : Num :=
    let v := s.src sh a l % 2 ^ w.1
    .ofInt (if w.2 then signed w.1 v else v)
  s.floatUnit (wideOk s.et && decide (c.val < 8)) (!s.fsh.isIvl) d s.fsh.regs [(intRegs c.val, a)] []
    (fun l => s.intoType l (val l) [])

/-- A partner format of R254 Table 6. -/
def partner (p : Nat) : FFmt :=
  match p with
  | 0 => .f32
  | 1 => .f64
  | 2 => .f16
  | 3 => .bf16
  | _ => .f19

/-- How a partner's operand is read: its shape, and where its encoding lies in the register (R122, R254). -/
def partnerShape (p : Nat) : Shape := if p = 1 then .f64 else .f32

/-- The partner's encoding in a register, and back. -/
def partnerBits (p v : Nat) : Nat :=
  match p with
  | 0 => v
  | 1 => v
  | 4 => v / 2 ^ 13
  | _ => v % 2 ^ 16
def partnerReg (p v : Nat) : Nat := if p = 4 then v * 2 ^ 13 else v

/-- An operand as the mode reads it, its flush test that of the unit's element type (R133). -/
def State.readAs (s : State) (f : FFmt) (b : Nat) : Num :=
  let v := f.decode b
  if s.flushBit then v.flushed (s.et == 5 || s.et == 7) else v

/-- cvt.ff.from (R254). -/
def execCvtFfFrom (d a : Operand) (p : Fin 16) (s : State) : Host.Outcome State Fault Refusal :=
  let val (l : Nat) : Num := s.readAs (partner p.val) (partnerBits p.val (s.src (partnerShape p.val) a l))
  s.floatUnit (wideOk s.et && decide (p.val < 5)) (!s.fsh.isIvl) d s.fsh.regs [((partnerShape p.val).regs, a)]
    (if s.fsh.isIvl then s.emptyCond d (fun _ => false) (fun l => (val l).isNan) else [])
    (fun l => s.intoType l (val l) (sigEv (val l)))

/-- A result as flushing leaves it, its test that of the unit's element type (R133). -/
def State.flushAs (s : State) (f : FFmt) (e : Elem) : Elem :=
  let v := f.decode e.bits
  if s.flushBit && v.below (if s.et = 5 ∨ s.et = 7 then -1022 else -126) then
    { e with bits := f.signed v.neg 0, ev := (e.ev ++ [evUnderflow]).eraseDups }
  else e

/-- cvt.ff.to (R254). -/
def execCvtFfTo (d a : Operand) (p : Fin 16) (s : State) : Host.Outcome State Fault Refusal :=
  let f := partner p.val
  let out (l : Nat) : LaneOut :=
    let v := s.mode.read s.ptFmt (s.src s.fsh a l)
    let e := s.flushAs f ({ s.mode with flush := false }.roundTo f (s.gen l) { v := v, ev := sigEv v })
    { e.out true with v := partnerReg p.val e.bits }
  s.floatUnit ((s.et == 4 || s.et == 5) && decide (p.val < 5)) true d (partnerShape p.val).regs [(s.fsh.regs, a)] [] out

/-- The floating element format of a format code, a q-format's base included (R128 Table 3). -/
def codeFloat (c : Nat) : Option FFmt :=
  match c with
  | 0 => some .f64
  | 1 => some .f32
  | 2 => some .f19
  | 3 => some .bf16
  | 4 => some .f16
  | 5 => some .e5m2
  | 6 => some .e4m3
  | 7 => some .e3m4
  | 8 => some .e3m2
  | 9 => some .e2m3
  | 10 => some .e2m1
  | 19 => some .e5m2
  | 20 => some .e4m3
  | 21 => some .e3m4
  | 22 => some .e3m2
  | 23 => some .e2m3
  | 24 => some .e2m1
  | 27 => some .f32
  | _ => none

/-- The integer element format of a format code: its width and signedness (R128 Table 3); q-formats' bases included. -/
def codeInt (c : Nat) : Option (Nat × Bool) :=
  match c with
  | 11 => some (16, true)
  | 12 => some (16, false)
  | 13 => some (8, true)
  | 14 => some (8, false)
  | 15 => some (4, true)
  | 16 => some (4, false)
  | 25 => some (8, true)
  | 26 => some (4, true)
  | _ => none

/-- The width of a format that pack and unpack name. -/
def codeWidth (c : Nat) : Nat :=
  match codeFloat c, codeInt c with
  | some f, _ => f.width
  | _, some w => w.1
  | _, _ => 0

/-- Formats and positions of R255 Table 7. -/
def pack8Codes : List Nat := [5, 6, 7, 13, 14]
def pack6Codes : List Nat := [8, 9]
def pack4Codes : List Nat := [10, 15, 16]
def packPlace (c k : Nat) : Bool := decide (k < if pack4Codes.contains c then 8 else 4)

/-- A value in a narrow format, with the step that stochastic rounding takes (R255). -/
def Mode.narrowTo (m : Mode) (c : Nat) (g : Word) (v : Num) : Elem :=
  match codeFloat c, codeInt c with
  | some f, _ => m.roundTo f g { v := v, ev := sigEv v }
  | _, some w =>
    let st := stoStep g
    let r := roundInt w.1 w.2 m.rnd (if m.rnd = 5 then st.2 else 0) m.sat v
    { bits := r.bits, ev := r.ev, gen := if m.rnd = 5 then st.1 else g }
  | _, _ => { bits := 0, gen := g }

/-- pack8, pack6 and pack4 (R255). -/
def State.packUnit (s : State) (codes : List Nat) (d a : Operand) (k f : Nat) : Host.Outcome State Fault Refusal :=
  let w := codeWidth f
  let isInt : Bool := s.et == 0 || s.et == 1
  let ok : Bool := (s.et == 4 || (isInt && (codeInt f).isSome)) && codes.contains f && packPlace f k
  let val (l : Nat) : Num :=
    if isInt then .ofInt (if s.et = 1 then signed 32 (s.int a l) else s.int a l) else s.mode.read .f32 (s.src .f32 a l)
  let out (l : Nat) : LaneOut :=
    let e := s.mode.narrowTo f (s.gen l) (val l)
    { e.out true with v := setField (s.int d l) (w * k) w e.bits }
  s.floatUnit ok true d 1 [(1, a), (1, d)] [] out

def execPack8 (d a : Operand) (k : Fin 8) (f : Fin 32) (s : State) : Host.Outcome State Fault Refusal :=
  s.packUnit pack8Codes d a k.val f.val

def execPack6 (d a : Operand) (k : Fin 8) (f : Fin 32) (s : State) : Host.Outcome State Fault Refusal :=
  s.packUnit pack6Codes d a k.val f.val

def execPack4 (d a : Operand) (k : Fin 8) (f : Fin 32) (s : State) : Host.Outcome State Fault Refusal :=
  s.packUnit pack4Codes d a k.val f.val

/-- unpack (R256): `a` is of floating class under every type (R244). -/
def execUnpack (d a : Operand) (k : Fin 8) (f : Fin 32) (s : State) : Host.Outcome State Fault Refusal :=
  let w := codeWidth f.val
  let isInt : Bool := s.et == 0 || s.et == 1
  let ok : Bool := (wideOk s.et || (isInt && (codeInt f.val).isSome)) &&
    (pack8Codes ++ pack6Codes ++ pack4Codes).contains f.val && packPlace f.val k.val
  let bits (l : Nat) : Nat := field (s.src .f32 a l) (w * k.val) w
  let val (l : Nat) : Num :=
    match codeFloat f.val, codeInt f.val with
    | some ff, _ => ff.decode (bits l)
    | _, some i => .ofInt (if i.2 then signed i.1 (bits l) else bits l)
    | _, _ => .fin false 0 0
  let out (l : Nat) : LaneOut :=
    if isInt then { v := extend32 w ((codeInt f.val).map (·.2) == some true) (bits l) }
    else if s.fsh.isIvl then s.intoType l (val l) (sigEv (val l))
    else (s.mode.put s.ptFmt (val l) (sigEv (val l))).out false
  s.floatUnit ok false d (if isInt then 1 else s.fsh.regs) [(1, a)]
    (if !isInt && s.fsh.isIvl then s.emptyCond d (fun _ => false) (fun l => (val l).isNan) else []) out

/-- A dot's lane descriptor is legal (R257 Table 9). -/
def dotWordOk (codes : List Nat) (w : Nat) : Bool :=
  decide (w < 2 ^ 16) && decide (field w 5 3 = 0) && codes.contains (w % 32)

/-- A scaled element (R133, R146): the value times 2^(S - 127), flushed as the mode asks; NaN under S = 0xFF. -/
def Mode.scaledElem (m : Mode) (f : FFmt) (e : Int) (all : Bool) (b : Nat) : Num :=
  if all then .qnan
  else
    let v : Num := match f.decode b with
      | .fin n x y => .fin n x (y + e)
      | v => v
    if m.flush then v.flushed (f == .f64) else v

/-- A product of two scaled elements (R146). -/
def scaledProduct (a b : Num) : Exact :=
  let p := mulExact a b
  match p.v with
  | .fin n m e => if m ≠ 0 ∧ 128 ≤ (Nat.log2 m : Int) + e then { v := .inf n, ev := [evScale] } else p
  | _ => p

/-- The sum of a dot's products and its addend (R258): a NaN or opposite infinities log invalid. The first NaN of all of a's elements,
then of b's, then of d counts (DESIGN CHOICE, log 110). -/
def dotSum (mode : Nat) (xs ys : List Num) (d : Num) : Exact :=
  let ps := (xs.zip ys).map (fun p => scaledProduct p.1 p.2)
  let terms := ps.map (·.v) ++ [d]
  let ev := ps.flatMap (·.ev)
  let bad : Bool := terms.any Num.isNan ||
    (terms.any (fun t => t.isInf && t.neg) && terms.any (fun t => t.isInf && !t.neg))
  if bad then { v := ((xs ++ ys ++ [d]).find? Num.isNan).getD .qnan, ev := (ev ++ [evInvalid]).eraseDups }
  else { v := sumNums mode terms, ev := ev }

/-- The elements of a packed register, element 0 first (R125, R257). -/
def packedElems (w n v : Nat) : List Nat := (List.range n).map (fun i => field v (w * i) w)

/-- dot2, dot4 and dot8 (R257, R258): `n` elements of `w` bits, in the formats of `codes`. -/
def State.dotUnit (s : State) (codes : List Nat) (n w : Nat) (d a b : Operand) : Host.Outcome State Fault Refusal :=
  let pair (o : Operand) (l : Nat) : Nat := s.src (.int64 false) o l
  let word (o : Operand) (l : Nat) : Nat := pair o l / 2 ^ 32
  let code (o : Operand) (l : Nat) : Nat := word o l % 32
  let isF (o : Operand) (l : Nat) : Bool := (codeFloat (code o l)).isSome
  let legal (l : Nat) : Bool := dotWordOk codes (word a l) && dotWordOk codes (word b l) && isF a l == isF b l &&
    isF a l == (s.et == 4)
  let elems (o : Operand) (l : Nat) : List Nat := packedElems w n (pair o l % 2 ^ 32)
  let fl (o : Operand) (l : Nat) : List Num :=
    let sc := field (word o l) 8 8
    (elems o l).map (s.mode.scaledElem ((codeFloat (code o l)).getD .f16) ((sc : Int) - 127) (sc == 255))
  let ints (o : Operand) (l : Nat) : List Int :=
    (elems o l).map (fun x => if (codeInt (code o l)).map (·.2) = some true then signed w x else x)
  let out (l : Nat) : LaneOut :=
    if s.et = 4 then
      (s.mode.roundTo .f32 (s.gen l) (dotSum s.rnd (fl a l) (fl b l) (s.mode.read .f32 (s.src .f32 d l)))).out true
    else
      let d0 : Int := if s.et = 1 then signed 32 (s.int d l) else s.int d l
      let r := roundInt 32 (s.et == 1) 0 0 s.satBit (.ofInt (((ints a l).zip (ints b l)).foldl (fun t p => t + p.1 * p.2) d0))
      { v := r.bits, ev := r.ev }
  let conds := s.encCond (!(s.et == 0 || s.et == 1 || s.et == 4)) 0x01 ++ s.encCond (!a.isPair || !b.isPair) 0x01 ++
    laneCond 0x01 (lanesWhere s.exec (fun l => !legal l)) 0 s.iss.word.toNat
  s.floatUnit true (s.et == 4) d 1 [(2, a), (2, b), (1, d)] conds out

def execDot2 (d a b : Operand) (s : State) : Host.Outcome State Fault Refusal := s.dotUnit [3, 4, 11, 12] 2 16 d a b

def execDot4 (d a b : Operand) (s : State) : Host.Outcome State Fault Refusal := s.dotUnit [5, 6, 7, 13, 14] 4 8 d a b

def execDot8 (d a b : Operand) (s : State) : Host.Outcome State Fault Refusal := s.dotUnit [10, 15, 16] 8 4 d a b

/-- Sets the generators of lanes. -/
def State.setGens (s : State) (ls : List Nat) (f : Nat → Word) : State :=
  { s with wave := { s.wave with gens := ls.foldl (fun m l => SMap.set 0 l (f l) m) s.wave.gens } }

/-- rseed (R259). -/
def execRseed (a : Operand) (s : State) : Host.Outcome State Fault Refusal :=
  s.issue (s.encCond (s.srcBad 1 a) 0x01 ++ s.cleanCond [(1, a)])
    (fun t => t.setGens (lanesOf s.exec) (fun l => BitVec.ofNat 32 (s.int a l)))

/-- rnext and rnext.h (R259): every lane of the execution mask steps; `f` gives what a step writes. -/
def State.rnextUnit (s : State) (d : Operand) (f : Word × Nat → Nat) : Host.Outcome State Fault Refusal :=
  s.issue (s.encCond (dstBad 1 d) 0x01)
    (fun t => (t.writeLanes d 1 ((runLanes d s.exec).map (fun l => (l, { v := f (stoStep (s.gen l)) })))).setGens
      (lanesOf s.exec) (fun l => (stoStep (s.gen l)).1))

def execRnext (d : Operand) (s : State) : Host.Outcome State Fault Refusal := s.rnextUnit d (fun r => r.1.toNat)

def execRnextH (d : Operand) (s : State) : Host.Outcome State Fault Refusal := s.rnextUnit d (fun r => r.2)

end Sys2Proof.Machine
end

