-- ==== Sys2Proof/Machine/Egress.lean ====
section
/-!
DEFINITION. What leaves the device: peer windows over the Saddle links (spec/16_host.md R391) and the egress meters
(spec/15_tenancy.md R379 to R382).
-/

namespace Sys2Proof.Machine

/-- The Saddle link on which a line of a peer window travels (R391, R500): the link of index (A div 128) mod k. -/
def State.linkOf (s : State) (part w off : Nat) : Nat :=
  let ls := s.peerLinks part w
  ls.getD (off / 128 % max 1 ls.length) 0

/-- The meter of the port by which a line of a peer window, or of host memory, leaves (R380, R391). -/
def State.meterOf (s : State) (part w off : Nat) : Nat := if w = 8 then 0 else 1 + s.linkOf part w off

/-- A window of a partition, as an entry held at a meter names it, plus one (R500). -/
def windowTag (part w : Nat) : Nat := 16 * part + w + 1

/-- The code of a write into a peer window that has no link up, or into host memory with its link down (R500). -/
def downCode (w : Nat) : Nat := if w = 8 then 0x91 else 0x90

/-- The workgroup whose waves the number `id` is among, exited ones included. -/
def State.waveGroup (s : State) (id : Nat) : Option Workgroup :=
  s.groups.find? (fun g => decide (g.firstWave ≤ id) && decide (id < g.firstWave + ceilDiv g.lanes 32))

/-- The workgroup that a sector held at a meter comes from. -/
def State.heldGroup (s : State) (h : Held) : Option Workgroup := if h.wave = 0 then none else s.waveGroup (h.wave - 1)

/-- The source that an incoming access counts as at its port (R382, R388, R392). -/
def senderOf : Source → Sender
  | .host 0 => .port
  | .host (f + 1) => .vf f
  | .link _ => .port

/-- TOK of a meter (R382). -/
def State.tok (s : State) (m : Nat) : Int := SMap.get 0 m s.meterTokens

/-- SENT of a meter gains `n` bytes (R380). -/
def State.addSent (s : State) (m n : Nat) : State := s.setReg64 (0x3000 + 8 * m) (s.reg64 (0x3000 + 8 * m) + n)

/-- Charges one sealed sector to a meter (R382). -/
def State.charge (s : State) (m : Nat) : State :=
  { s with meterTokens := SMap.set 0 m (s.tok m - 16) s.meterTokens }.addSent m 16

/-- WAITS of EG_TRIPi counts a sealed sector that found TOK below 16 (R494). -/
def State.trip (s : State) (m : Nat) : State :=
  s.setReg (0x3600 + 4 * m) (BitVec.ofNat 32 (min ((s.reg (0x3600 + 4 * m)).toNat % 2 ^ 31 + 1) (2 ^ 31 - 1)))

/-- A link that trains holds the traffic at its port's meter (R500). -/
def State.trains (s : State) (m : Nat) : Bool := decide (1 ≤ m) && decide (m ≤ 18) && SMap.get false (m - 1) s.training

/-- A sector or request of source `q` waits at meter `m` (R382, R500): behind an earlier one, for a link that trains, or, sealed,
for tokens. -/
def State.mustWait (s : State) (m : Nat) (q : Sender) (sealed_ : Bool) : Bool :=
  s.held.any (fun h => h.meter == m && h.src == q) || s.trains m || (sealed_ && decide (s.tok m < 16))

/-- Puts a sector or a request behind a meter. -/
def State.hold (s : State) (h : Held) : State :=
  let s := if h.charged && decide (s.tok h.meter < 16) then s.trip h.meter else s
  { s with held := s.held ++ [{ h with since := s.us }] }

/-- Sends bytes out at a port (R382), a write or the operand of an operation: sealed bytes pass the meters `ms` in turn or
wait at the first that holds them back, and nothing of the same source passes a waiting sector. -/
def State.sendOut (q : Sender) (sealed_ : Bool) (wave window : Nat) (x : Sent) : List Nat → State → State
  | [], s => { s with sent := x :: s.sent }
  | m :: ms, s =>
    if s.mustWait m q sealed_ then
      State.hold { s with nextId := s.nextId + 1 } {
        id := s.nextId, meter := m, src := q, addr := x.addr, bytes := x.bytes, wave := wave, port := x.port, charged := sealed_
        op := x.op, pois := x.pois, window := window }
    else State.sendOut q sealed_ wave window x ms (if sealed_ then s.charge m else s)

/-- The first held entry that may pass its meter: the head of its source there, its tokens are there (R382), and its link does not
train (R500). -/
def State.passer (s : State) : List Held → List Held → Option Held
  | _, [] => none
  | before, h :: hs =>
    if !before.any (fun x => x.meter == h.meter && x.src == h.src) && !s.trains h.meter &&
        (!h.charged || decide (16 ≤ s.tok h.meter)) then some h
    else s.passer (h :: before) hs

/-- An entry passes its meter: a sector goes on to its port's meter or leaves; an incoming read is answered when all of
its sectors have passed (R382, R495). -/
def State.passOn (s : State) (h : Held) : State :=
  let s := if h.charged then s.charge h.meter else s
  let s := { s with held := s.held.erase h }
  if h.read then
    if s.held.any (fun x => x.read && x.id == h.id) then s
    else { s with extReads := s.extReads.map (fun r => if r.id = h.id ∧ r.result = .waiting then { r with result := .done } else r) }
  else State.sendOut h.src h.charged h.wave h.window
    { port := h.port, addr := h.addr, bytes := h.bytes, op := h.op, pois := h.pois } (if h.meter = h.port then [] else [h.port]) s

/-- Lets what may pass the meters pass. -/
def State.letPass : Nat → State → State
  | 0, s => s
  | fuel + 1, s =>
    match s.passer [] s.held with
    | some h => State.letPass fuel (s.passOn h)
    | none => s

/-- TOK of every meter after `k` microseconds of the reference clock (R382, R495). -/
def State.fillTokens (s : State) (k : Nat) : State :=
  { s with meterTokens := (List.range 69).foldl (fun t i =>
      let r (off : Nat) : Nat := (s.reg (0x2000 + 16 * i + off)).toNat
      let rate := min (r 0) (r 8)
      let cap := min (r 4) (r 12)
      SMap.set 0 i (min (SMap.get 0 i t + ((k * rate : Nat) : Int)) ((cap : Nat) : Int)) t) s.meterTokens }

/-- One microsecond passes (R382). -/
def State.oneUs (s : State) : State :=
  let s := State.fillTokens { s with us := s.us + 1 } 1
  State.letPass (2 * s.held.length) s

/-- Microseconds pass: one by one while something waits at a meter. -/
def State.passUs : Nat → State → State
  | 0, s => s
  | k + 1, s => if s.held.isEmpty then State.fillTokens { s with us := s.us + (k + 1) } (k + 1) else State.passUs k s.oneUs

/-- The 16 B sectors of `n` bytes from an address: address, offset and length. -/
def sectorsOf : Nat → Nat → Nat → Nat → List (Nat × Nat × Nat)
  | 0, _, _, _ => []
  | fuel + 1, a, off, n =>
    if n = 0 then []
    else
      let m := min n (16 - a % 16)
      (a, off, m) :: sectorsOf fuel (a + m) (off + m) (n - m)

/-- A path-h write into a peer window or host memory (R117, R379, R391), sector by sector through the meter of its link; `first`
names a copy engine's own meter, and `bad` says that its flit carries poison (R478). -/
def State.peerWrite (s : State) (part : Nat) (q : Sender) (sealed_ : Bool) (wave : Nat) (first : List Nat) (w off : Nat)
    (bs : List Byte) (bad : Bool := false) : State :=
  (sectorsOf (bs.length / 16 + 2) off 0 bs.length).foldl (fun s x =>
    let m := s.meterOf part w x.1
    State.sendOut q sealed_ wave (windowTag part w)
      { port := m, addr := x.1, bytes := (bs.drop x.2.1).take x.2.2, pois := bad } (first ++ [m]) s) s

/-- No link of a held sector's window is up (R500). -/
def State.stranded (s : State) (h : Held) : Bool :=
  h.window != 0 && !h.read && (s.peerLinks ((h.window - 1) / 16) ((h.window - 1) % 16)).isEmpty

/-- A held sector of a window whose link is down goes on by another (R500). -/
def State.reroute (s : State) (h : Held) : Held :=
  if h.window = 0 ∨ h.read then h
  else
    let i := (h.window - 1) / 16
    let w := (h.window - 1) % 16
    let ls := s.peerLinks i w
    if w = 8 ∨ h.port = 0 ∨ ls.contains (h.port - 1) ∨ ls.isEmpty then h
    else
      let m := s.meterOf i w h.addr
      { h with port := m, meter := if h.meter = h.port then m else h.meter }

end Sys2Proof.Machine
end

