-- ==== Sys2Proof/Machine/Access.lean ====
section
/-!
DEFINITION. A lane's accesses (spec/04_memory.md R73 to R78, spec/11_isa_memory.md R272, R273): where each lands, the
conditions that judge it, and reads, writes and read-modify-writes of it on path v.
-/

namespace Sys2Proof.Machine

/-- The address spaces of R73. -/
inductive Space where
  | g | l | c | s | p
  deriving DecidableEq, Repr

/-- Where an access lands. -/
inductive Spot where
  /-- translated: the physical address and the entries its walk marks -/
  | phys (x : XOk)
  /-- a byte of the workgroup's local memory -/
  | scratch (off : Nat)
  /-- a byte of a cluster bank: core·2^20 + bank offset -/
  | bank (key : Nat)
  /-- a byte of the wave's private store, by region offset -/
  | own (off : Nat)
  deriving DecidableEq, Repr

/-- A request that a unit makes of L2 (R92): the line with its key id, the mask of its sectors, the wave's identifier, and its
group's tag among those of the unit and count of sectors. -/
structure Request where
  line : Nat
  mask : Nat
  core : Nat
  port : Nat
  idx : Nat
  group : Nat
  count : Nat
  deriving DecidableEq, Repr

/-- One access of one lane: its address as the lane names it, its bytes and where it lands. -/
structure Item where
  lane : Nat
  addr : Nat
  n : Nat
  spot : Spot
  /-- it is a write, or a read-modify-write; its address comes from the context RCB (R75) -/
  write : Bool := false
  save : Bool := false
  /-- the lanes of the unit whose accesses touch its sectors (R425, R454), and the request that it is part of (R92) -/
  lanes : LaneMask := BitVec.twoPow 32 lane
  req : Option Request := none
  deriving DecidableEq, Repr

/-- The core at position `q` of the cluster of core `n` (R16). -/
def clusterCore (n q : Nat) : Nat :=
  let c := n % 16
  16 * (n / 16) + 4 * (c / 4 / 2 * 2 + q / 2) + (c % 4 / 2 * 2 + q % 2)

/-- A core's position within its cluster (R16). -/
def clusterPos (core : Nat) : Nat := core % 16 / 4 % 2 * 2 + core % 2

/-- The cluster bank byte of cluster address `a` of a workgroup (R17, R76). -/
def Workgroup.bankOf (g : Workgroup) (a : Nat) : Nat :=
  clusterCore g.core (a / 256 % 4) * 2 ^ 20 + (g.clusterBase + 256 * (a / 1024) + a % 256)

/-- A read that a seal forbids (R378): under a sealed id that is not the workgroup's own, or of a Steppe line that such
an id wrote. -/
def State.sealBars (s : State) (grant : Option Nat) (pa : Nat) : Bool :=
  let bars (k : Nat) : Bool := decide (s.keyMode k = 2) && grant != some k
  bars (pa / 2 ^ 46 % 64) ||
    (match s.resolve (pa % 2 ^ 46) with
      | .steppe p =>
        bars (SMap.get 0 (p / 128 * 8) s.tags)
      | _ => false)

/-- The private region offset of lane `l`'s private byte `a` (R74). -/
def privOffset (l a : Nat) : Nat := 512 * (a / 16) + 16 * l + a % 16

/-- The save-area slot of a wave (R66, R75). -/
def State.saveSlot (s : State) (w : Wave) (g : Workgroup) : Nat :=
  s.ctxField g.part g.vf g.ctx 56 8 + 327680 * (64 * w.core + 16 * w.port + w.idx)

/-- The virtual address of a private byte beyond the private store (R74, R75). -/
def State.privAddr (s : State) (l a : Nat) : Nat := s.saveSlot s.wave s.wg + 65536 + privOffset l a

/-- The page of host memory at a physical address. -/
def State.hostPage (s : State) (pa : Nat) : Option Nat :=
  match s.resolve (pa % 2 ^ 46) with
  | .peer w loc => if w = 8 then some (loc / 4096) else none
  | _ => none

/-- The trap code that the host's answer to the focused fragment's request for a page gives (R451). -/
def State.priFailed (s : State) (pa : Nat) : Option Nat :=
  (s.hostPage pa).bind (fun page => (s.pri.find? (fun p =>
    p.wave == s.wave.id && p.slot == s.frag.slot && p.cmd == 0 && p.page == page && p.code != 0)).map (·.code))

/-- The translated place of a lane's access, judged (R94, R95, R371, R378, R451): `steppe` asks for a Steppe-backed page. Under
a key slot that changes its mode no seal is judged: the access is held, and checked against the new mode (R460). -/
def State.judgeVa (s : State) (steppe : Bool) (acc : Access) (lane va a : Nat) : Except Cond Spot :=
  let bad (code : Nat) : Except Cond Spot := .error { code := code, lanes := BitVec.twoPow 32 lane, addr := a }
  match s.translate s.wg.part s.wg.vf s.wg.ctx va acc with
  | .error e => .error { code := e.code, lanes := BitVec.twoPow 32 lane, addr := a, ipas := e.ipa.toList, ue := e.ue }
  | .ok x =>
    let onSteppe := match s.resolve (x.pa % 2 ^ 46) with
      | .steppe _ => true
      | _ => false
    if steppe && !onSteppe then bad 0x09
    else if (s.priFailed x.pa).isSome then bad ((s.priFailed x.pa).getD 0)
    else if acc == .read && !s.keyBusyBit (x.pa / 2 ^ 46 % 64) && s.sealBars (s.grantOf s.wg) x.pa then bad 0x11
    else .ok (.phys x)

/-- Judges one access of lane `lane` at address `a`, of `n` bytes aligned to `al` (R272, R297). -/
def State.judgeLane (s : State) (sp : Space) (acc : Access) (al lane a n : Nat) : Except Cond Item :=
  let bad (code : Nat) : Except Cond Item := .error { code := code, lanes := BitVec.twoPow 32 lane, addr := a }
  let item (sp : Spot) : Item := { lane := lane, addr := a, n := n, spot := sp, write := acc == .write }
  if a % al ≠ 0 then bad 0x07
  else
    match sp with
    | .g => (s.judgeVa false acc lane a a).map item
    | .s => (s.judgeVa true acc lane a a).map item
    | .l => if a + n ≤ s.wg.localBytes then .ok (item (.scratch a)) else bad 0x0B
    | .c => if a + n ≤ 4 * s.wg.cluster then .ok (item (.bank (s.wg.bankOf a))) else bad 0x0B
    | .p =>
      if s.wg.priv < a + n then bad 0x0B
      else if a < 128 then .ok (item (.own (privOffset lane a)))
      else
        match s.ctxBad s.wg.part s.wg.vf s.wg.ctx 56 8 with
        | some u => .error { code := 0x08, lanes := BitVec.twoPow 32 lane, addr := a, ue := some (2, 0x0D, u) }
        | none => (s.judgeVa false acc lane (s.privAddr lane a) a).map (fun sp => { item sp with save := true })

/-- Judges accesses in ascending lane order: the conditions met, one for each code, and the accesses that are in order. -/
def judgeAll : List (Except Cond Item) → List Cond × List Item
  | [] => ([], [])
  | .error c :: xs => let r := judgeAll xs; ((if r.1.any (fun d => d.code == c.code) then
      r.1.map (fun d => if d.code = c.code then
        { c with lanes := d.lanes ||| c.lanes, ipas := c.ipas ++ d.ipas, ue := c.ue.orElse (fun _ => d.ue) } else d)
      else c :: r.1), r.2)
  | .ok i :: xs => let r := judgeAll xs; (r.1, i :: r.2)

/-- A walk would set a bit in an entry of a line that a migration has locked (R118). -/
def State.marksHeld (s : State) (ms : List (Nat × Nat)) : Bool :=
  ms.any (fun m => s.lockedLine m.1 && decide (natOfBytes (s.physBytes m.1 8).1 ||| m.2 ≠ natOfBytes (s.physBytes m.1 8).1))

/-- An access of host memory whose page's translation ATS has not given yet (R451). -/
def State.hostMiss (s : State) (i : Item) : Option Nat :=
  match i.spot with
  | .phys x => (s.hostPage x.pa).filter (fun page => !SMap.get false page s.atc)
  | _ => none

/-- An access is held: under a key slot whose mode is changing (R460), by the lock of a line that it writes (R118), or for a
translation of host memory (R451). -/
def State.heldItem (s : State) (i : Item) : Bool :=
  match i.spot with
  | .phys x =>
    s.keyBusyBit (x.pa / 2 ^ 46 % 64) || (i.write && s.writeHeld (s.grantOf s.wg) x.pa) || s.marksHeld x.marks || (s.hostMiss i).isSome
  | _ => false

/-- A unit whose accesses are held parks before it takes effect; for a translation of host memory with a page request
(R451). -/
def State.parkHeld (s : State) (is : List Item) : State :=
  let t := s.parkAgain
  match is.findSome? s.hostMiss with
  | none => t
  | some page =>
    { t with
      frag := { t.frag with wait := some (.pri t.nextId) }, nextId := t.nextId + 1
      pri := t.pri ++ [{ id := t.nextId, wave := t.wave.id, slot := t.frag.slot, sentAt := t.us, page := page }] }

/-- An access lands in a peer window: its window and offset (R391). -/
def State.peerSpot (s : State) (i : Item) : Option (Nat × Nat) :=
  match i.spot with
  | .phys x => match s.resolve (x.pa % 2 ^ 46) with
    | .peer w off => some (w, off)
    | _ => none
  | _ => none

/-- An access that a peer answers: some link of its window is up (R500). -/
def State.peerOf (s : State) (i : Item) : Option (Nat × Nat) :=
  (s.peerSpot i).filter (fun p => !(s.peerLinks s.wg.part p.1).isEmpty)

/-- A write inside one 16 B sector of an on-core memory (R453). -/
def coreSector (sec off : Nat) (bs : List Byte) (m : SMap Byte × SMap Bool) : SMap Byte × SMap Bool :=
  (SMap.setList 0 (16 * sec + off) bs m.1,
   SMap.set false sec (SMap.get false sec m.2 && decide (bs.length < 16)) m.2)

/-- Writes bytes of an on-core memory, sector by sector. -/
def coreWrite : Nat → Nat → List Byte → SMap Byte × SMap Bool → SMap Byte × SMap Bool
  | 0, _, _, m => m
  | fuel + 1, p, bs, m =>
    if bs.isEmpty then m
    else
      let n := min bs.length (16 - p % 16)
      coreWrite fuel (p + n) (bs.drop n) (coreSector (p / 16) (p % 16) (bs.take n) m)

/-- Some 16 B sector of `n` bytes from `p` is poisoned. -/
def corePois (m : SMap Bool) (p n : Nat) : Bool :=
  (List.range ((p % 16 + n + 15) / 16)).any (fun i => SMap.get false (p / 16 + i) m)

/-- Bytes of a workgroup's local memory as path `q` observes them, and whether they carry poison. -/
def State.localBytes (s : State) (g : Workgroup) (q w off n : Nat) : List Byte × Bool :=
  (s.overlay q w (scratchPlace g.id off) (SMap.getList 0 off n g.lmem), corePois g.lpois off n)

/-- Writes bytes of the local memory of workgroup `id`, on a path. -/
def State.putLocal (s : State) (path cmd id off : Nat) (bs : List Byte) : State :=
  match s.group id with
  | none => s
  | some g =>
    let old := SMap.getList 0 off bs.length g.lmem
    let m := coreWrite (bs.length / 16 + 3) off bs (g.lmem, g.lpois)
    let s := s.modGroup id (fun g => { g with lmem := m.1, lpois := m.2 })
    let e : Older := { place := scratchPlace id off, old := old, seq := s.oseq, path := path, cmd := cmd }
    { s with older := splitOlder (bs.length / 16 + 2) e ++ s.older, oseq := s.oseq + 1 }.wakeLine (scratchPlace id off / 128)

/-- Bytes of a cluster bank as path `q` observes them; the bytes lie in one 256 B piece. -/
def State.bankBytes (s : State) (q w key n : Nat) : List Byte × Bool :=
  (s.overlay q w (bankPlace key) (SMap.getList 0 key n s.cmem), corePois s.cpois key n)

/-- Writes bytes of a cluster bank, on a path. -/
def State.putBank (s : State) (path cmd key : Nat) (bs : List Byte) : State :=
  let old := SMap.getList 0 key bs.length s.cmem
  let m := coreWrite (bs.length / 16 + 3) key bs (s.cmem, s.cpois)
  let e : Older := { place := bankPlace key, old := old, seq := s.oseq, path := path, cmd := cmd }
  State.wakeLine { s with cmem := m.1, cpois := m.2, older := splitOlder (bs.length / 16 + 2) e ++ s.older, oseq := s.oseq + 1 } (bankPlace key / 128)

/-- The focused unit meets uncorrectable sectors at a physical address (R454). -/
def State.unitUE (s : State) (lanes : LaneMask) (pa n : Nat) : State :=
  match s.placeOf pa with
  | some p => s.meetUE (some s.who) (s.grantOf s.wg) { s.doneRec with lmask := lanes } pa p n
  | none => s

/-- The lease of the home of an access's line (R108). -/
def State.itemLease (s : State) (i : Item) : Lease :=
  match i.spot with
  | .phys x => s.homeLease x.pa
  | .scratch off => SMap.get {} (off / 128) s.wg.lleases
  | .bank key => SMap.get {} (key / 128) s.cleases
  | .own off => SMap.get {} (off / 128) s.wave.pleases

/-- The home of an access's line takes a lease. -/
def State.setItemLease (s : State) (i : Item) (le : Lease) : State :=
  match i.spot with
  | .phys x => s.setHome x.pa le
  | .scratch off => { s with wg := s.wg.modLease (off / 128) (fun _ => le) }
  | .bank key => { s with cleases := SMap.set {} (key / 128) le s.cleases }
  | .own off => { s with wave := { s.wave with pleases := SMap.set {} (off / 128) le s.wave.pleases } }

/-- The place at which an access's writes are recorded. -/
def State.itemPlace (s : State) (i : Item) : Nat :=
  match i.spot with
  | .phys x => (s.placeOf x.pa).getD x.pa
  | .scratch off => scratchPlace s.wg.id off
  | .bank key => bankPlace key
  | .own off => off

/-- Bytes of an access in on-core memory as path v observes them, and their poison. -/
def State.coreBytes (s : State) (i : Item) : List Byte × Bool :=
  match i.spot with
  | .scratch off => s.localBytes s.wg 0 s.wave.id off i.n
  | .bank key => s.bankBytes 0 s.wave.id key i.n
  | .own off => (SMap.getList 0 off i.n s.wave.priv, corePois s.wave.privPois off i.n)
  | .phys _ => ([], false)

/-- A load of on-core memory by its home at a clock (R108), with what path v has observed of it: the core's clock moves to
`max clock wts`. -/
def State.coreLoadAt (s : State) (i : Item) (clock : Nat) : (List Byte × Bool) × State :=
  let le := (s.itemLease i).load clock
  (s.coreBytes i, (s.setItemLease i le).raisePts s.wave.core (max clock le.wts))

/-- Path v has observed the bytes of an access under draw `d`. -/
def State.observeItem (s : State) (d : Nat) (i : Item) : State :=
  match i.spot with
  | .own _ => s
  | .phys x => match s.placeOf x.pa with
    | some p => s.observeAt d 0 s.wave.id p i.n
    | none => s
  | _ => s.observeAt d 0 s.wave.id (s.itemPlace i) i.n

/-- A load of on-core memory by its home (R108). -/
def State.coreLoad (s : State) (i : Item) : (List Byte × Bool) × State :=
  let t := s.observeItem s.free i
  let r := t.coreLoadAt i (t.ptsOf t.wave.core)
  (r.1, match i.spot with
    | .own _ => r.2
    | _ => r.2.nextDraw)

/-- Reads one access on path v (R103, R108): the bytes and their poison. What L1 serves meets no error below it. -/
def State.readItem (s : State) (i : Item) : (List Byte × Bool) × State :=
  match i.spot with
  | .phys x =>
    let s := s.mark s.who x.marks
    let s := if (s.l1Serves s.wave.core x.pa i.n).isSome then s else s.unitUE i.lanes x.pa i.n
    s.vloadIn s.who x.pa i.n (i.req.elim 0 (·.mask))
  | _ => s.coreLoad i

/-- Reads one access, whose bytes path v has observed, at the common timestamp of a unit (R114). -/
def State.readItemAt (s : State) (clock : Nat) (i : Item) : (List Byte × Bool) × State :=
  match i.spot with
  | .phys x => s.vloadAt s.who x.pa i.n clock
  | _ => s.coreLoadAt i clock

/-- The physical address at which an access acts: a write goes out under the workgroup's seal grant (R378). -/
def State.actPa (s : State) (i : Item) : Option Nat :=
  match i.spot with
  | .phys x => some (if i.write then sealAddr (s.grantOf s.wg) x.pa else x.pa)
  | _ => none

/-- The lines of a unit's accesses with their key ids, ascending (R92). -/
def State.unitLines (s : State) (is : List Item) : List Nat :=
  (sortBy (fun a b => decide (a ≤ b)) (is.filterMap (fun i => (s.actPa i).map (· / 128)))).eraseDups

/-- The sectors of a line that a unit's accesses ask for: `need` gives those of one access, by its address and bytes. -/
def State.lineMask (s : State) (need : Nat → Nat → Nat) (is : List Item) (line : Nat) : Nat :=
  is.foldl (fun m i => match s.actPa i with
    | some pa => if pa / 128 = line then m ||| need pa i.n else m
    | none => m) 0

/-- Each home is asked once for each line of a unit's accesses, in ascending physical address (R92, R114). -/
def State.askUnit (s : State) (need : Nat → Nat → Nat) (is : List Item) : State :=
  (s.unitLines is).foldl (fun t line => match t.placeOf (line * 128) with
    | some p => (t.scrubFirst p).l2Touch s.wg.vf (line * 128) p (s.lineMask need is line)
    | none => t) s

/-- The timestamp at which a unit reads all its lines, max(pts, each line's wts), and that at which it writes all of them,
max(pts, each line's rts + 1) (R114). -/
def State.readTs (s : State) (is : List Item) : Nat :=
  is.foldl (fun t i => max t (s.itemLease i).wts) (s.ptsOf s.wave.core)

def State.writeTs (s : State) (is : List Item) : Nat :=
  is.foldl (fun t i => max t ((s.itemLease i).rts + 1)) (s.ptsOf s.wave.core)

/-- Writes one access on path v (R103, R108, R378), at timestamp `ts` or, with none, at the one its home gives; into a peer
window with no link up it confines the workgroup (R500). The home of an access that is part of a request has been asked. -/
def State.writeItemAt (s : State) (ts : Option Nat) (i : Item) (bs : List Byte) : State :=
  let core := s.wave.core
  match i.spot with
  | .phys x =>
    let grant := s.grantOf s.wg
    match s.peerSpot i with
    | some (w, off) =>
      if (s.peerLinks s.wg.part w).isEmpty then
        if s.confined s.wg then s
        else s.confine 1 s.who (some s.wg) { s.doneRec with source := 4, code := downCode w, addr := i.addr }
      else (s.mark s.who x.marks).peerWrite s.wg.part (.vf s.wg.vf) grant.isSome (s.wave.id + 1) [] w off bs
    | none =>
      let pa := sealAddr grant x.pa
      let s := s.mark s.who x.marks
      let s := if x.pa % 16 = 0 ∧ bs.length % 16 = 0 then s else s.unitUE i.lanes x.pa bs.length
      (if i.req.isSome then s else s.askFor s.wg.vf pa bs.length).vstoreAt s.who pa ts bs
  | _ =>
    let ts := ts.getD ((s.itemLease i).storeTs (s.ptsOf core))
    let s := match i.spot with
      | .scratch off => s.putLocal 0 0 s.wg.id off bs
      | .bank key => s.putBank 0 0 key bs
      | .own off =>
        let m := coreWrite (bs.length / 16 + 3) off bs (s.wave.priv, s.wave.privPois)
        { s with wave := { s.wave with priv := m.1, privPois := m.2 } }
      | .phys _ => s
    (s.setItemLease i (Lease.at_ ts)).raisePts core ts

/-- Writes one access on path v. -/
def State.writeItem (s : State) (i : Item) (bs : List Byte) : State := s.writeItemAt none i bs

/-- The bytes that a read-modify-write finds (R106), the latest in coherence order, with their poison. -/
def State.homeItem (s : State) (i : Item) : List Byte × Bool :=
  match i.spot with
  | .phys x => s.homeBytes x.pa i.n
  | .scratch off => (SMap.getList 0 off i.n s.wg.lmem, corePois s.wg.lpois off i.n)
  | .bank key => (SMap.getList 0 key i.n s.cmem, corePois s.cpois key i.n)
  | .own off => (SMap.getList 0 off i.n s.wave.priv, corePois s.wave.privPois off i.n)

/-- The line of an access, as watches name it (R116). -/
def State.itemLine (s : State) (i : Item) : Nat := s.itemPlace i / 128

/-- Reads a list of accesses in order, and puts their bytes together by lane. -/
def readItems : List Item → State → List (Nat × List Byte × Bool) × State
  | [], s => ([], s)
  | i :: is, s =>
    let r := s.readItem i
    let t := readItems is r.2
    ((i.lane, r.1.1, r.1.2) :: t.1, t.2)

/-- Reads a list of accesses at one timestamp (R114, R318, R363): every line's lease covers it. -/
def readItemsAt (clock : Nat) : List Item → State → List (Nat × List Byte × Bool) × State
  | [], s => ([], s)
  | i :: is, s =>
    let r := s.readItemAt clock i
    let t := readItemsAt clock is r.2
    ((i.lane, r.1.1, r.1.2) :: t.1, t.2)

/-- The walks of accesses, the sectors beyond correction that they meet, and their homes, asked for them (R92, R114). -/
def State.askReads (s : State) (is : List Item) : State :=
  let s := is.foldl (fun s i => match i.spot with
    | .phys x => (s.mark s.who x.marks).unitUE i.lanes x.pa i.n
    | _ => s) s
  s.askUnit sectorMask is

/-- Reads accesses at one timestamp, that of their homes after path v has observed what they read (R107, R114). -/
def readTogether (is : List Item) (s : State) : List (Nat × List Byte × Bool) × State :=
  let s := s.askReads is
  let t := is.foldl (fun t i => t.observeItem s.free i) s
  let r := readItemsAt (t.readTs is) is t
  (r.1, State.nextDraw { r.2 with free := if is.any (fun i => (s.peerSpot i).isSome) then r.2.free + 1 else r.2.free })

/-- Writes accesses with their bytes at one timestamp (R114). -/
def State.writeTogether (s : State) (ws : List (Item × List Byte)) : State :=
  let s := s.askUnit partMask (ws.map (·.1))
  let ts := s.writeTs (ws.map (·.1))
  ws.foldl (fun s w => s.writeItemAt (some ts) w.1 w.2) s

/-- The bytes that `readItems` found for one lane, in order. -/
def laneBytes (rs : List (Nat × List Byte × Bool)) (l : Nat) : List Byte × Bool :=
  (rs.filter (fun r => r.1 == l)).foldl (fun a r => (a.1 ++ r.2.1, a.2 || r.2.2)) ([], false)

/-- Two accesses touch a sector of memory in common. -/
def Item.meets (a b : Item) : Bool :=
  match a.spot, b.spot with
  | .phys x, .phys y => decide (x.pa / 16 ≤ (y.pa + b.n - 1) / 16) && decide (y.pa / 16 ≤ (x.pa + a.n - 1) / 16)
  | _, _ => false

/-- Sectors in a mask. -/
def sectorCount (m : Nat) : Nat := ((List.range 8).filter (bitAt m)).length

/-- Closes groups of lines with their masks, ascending (R92): a group ends where the next request would carry its count of
sectors past 32. `tag` is the open group, `n` its count. -/
def groupLines : Nat → Nat → List (Nat × Nat) → List (Nat × Nat × Nat)
  | _, _, [] => []
  | tag, n, (line, m) :: xs =>
    let c := sectorCount m
    if n + c ≤ 32 then (line, m, tag) :: groupLines tag (n + c) xs else (line, m, tag + 1) :: groupLines (tag + 1) c xs

/-- The requests of a unit's accesses (R92): one for each distinct line with its key id, in groups. -/
def State.requestsOf (s : State) (is : List Item) : List Request :=
  let ls := groupLines 0 0 ((s.unitLines is).map (fun line => (line, s.lineMask sectorMask is line)))
  ls.map (fun x => { line := x.1, mask := x.2.1, core := s.wave.core, port := s.wave.port, idx := s.wave.idx, group := x.2.2
                     count := ((ls.filter (fun y => y.2.2 == x.2.2)).map (fun y => sectorCount y.2.1)).foldl (· + ·) 0 })

/-- The accesses of a unit, each with the lanes that share its sectors and with its request. -/
def State.sharedItems (s : State) (is : List Item) : List Item :=
  let rs := s.requestsOf is
  is.map (fun i => { i with
    lanes := maskOf (i.lane :: (is.filter i.meets).map (·.lane))
    req := (s.actPa i).bind (fun pa => rs.find? (fun r => r.line == pa / 128)) })

/-- The uncorrectable sectors that a unit's reads at issue meet are reported, although the unit traps on what it read
(R419, R454). -/
def State.meetItems (s : State) (met : List Item) : State :=
  let s := { s with frag := { s.frag with unit := s.frag.pc } }
  met.foldl (fun s i => match i.spot with
    | .phys x => s.unitUE i.lanes x.pa i.n
    | _ => s) s

/-- A unit that accesses memory retires; an address beyond the private store has used a field of the context RCB (R75, R89). -/
def State.begun (s : State) (is : List Item) : State :=
  let t := s.retire .plain
  if is.any (·.save) then t.useCtx t.who 56 8 else t

/-- The loads of a unit that L1 does not serve meet the sectors beyond correction that they ask for (R92, R454). -/
def State.meetLoads (s : State) (is : List Item) : State :=
  is.foldl (fun t i => match i.spot with
    | .phys x => if (s.l1Serves s.wave.core x.pa i.n).isSome then t else (t.mark t.who x.marks).unitUE i.lanes x.pa i.n
    | _ => t) s

/-- The shared form of an instruction that accesses memory: it traps, or waits for what holds an access, or has
its effect on the accesses judged. `met` holds the reads whose poison its conditions judge. -/
def State.issueMet (s : State) (met : List Item) (conds : List Cond) (rs : List (Except Cond Item))
    (eff : List Item → State → State) : Host.Outcome State Fault Refusal :=
  let j := judgeAll rs
  match s.judged .plain (conds ++ j.1) with
  | some c => .next ((if c.code = 0x0A then s.meetItems met else s).takeTrap s.exec c)
  | none =>
    if j.2.any s.heldItem then .next (s.parkHeld j.2)
    else .next (eff (s.sharedItems j.2) (s.begun j.2))

/-- The same for an instruction whose conditions judge no memory. -/
def State.issueItems (s : State) (conds : List Cond) (rs : List (Except Cond Item)) (eff : List Item → State → State) :
    Host.Outcome State Fault Refusal :=
  s.issueMet [] conds rs eff

end Sys2Proof.Machine
end

