-- ==== Sys2Proof/Machine/Frags.lean ====
section
/-!
DEFINITION. Fragments: division at a branch, tokens and merges, deferral entries, the end of lanes and waves, barriers
(spec/02_execution_model.md R37 to R47, spec/08_isa_control.md R193 to R206, spec/21_faults_execution.md R429 to R433).
-/

namespace Sys2Proof.Machine

/-- One step of the path LFSR (R39). -/
def lfsrStep (x : BitVec 16) : BitVec 16 :=
  let v := if x = 0 then 0xACE1#16 else x
  let b := v.getLsbD 15 ^^ v.getLsbD 13 ^^ v.getLsbD 12 ^^ v.getLsbD 10
  (v <<< 1) ||| (if b then 1 else 0)

/-- pick(k) of R39: steps the wave's LFSR and gives an index below `k`. -/
def State.pick (s : State) (k : Nat) : Nat × State :=
  let x := lfsrStep s.wave.lfsr
  (x.toNat % k, { s with wave := { s.wave with lfsr := x } })

/-- The focused wave's fragments, by slot. -/
def State.waveFrags (s : State) : List Frag := insertFrag s.frag s.sibs

/-- The lowest slot of the focused fragment's port that no fragment holds, from `n` down (R38). -/
def State.freeSlots (s : State) : List Nat :=
  let used := (s.boxes.filter (fun b => b.wave.core == s.wave.core && b.wave.port == s.wave.port && !b.wave.away)).flatMap
    (fun b => b.frags.map (·.slot))
  (List.range 64).filter (fun i => !used.contains i)

/-- Gives the focused wave these fragments. The focus stays where it is, or moves to the lowest slot; the wave leaves
the machine with its last fragment (R45), and its registers keep what they hold (R400). -/
def State.setFrags (s : State) (fs : List Frag) : State :=
  match fs.find? (fun f => f.slot == s.frag.slot) with
  | some f => { s with frag := f, sibs := fs.filter (fun x => x.slot != f.slot) }
  | none =>
    match fs with
    | f :: rest => { s with frag := f, sibs := rest, iss := {} }
    | [] =>
      { s with
        wgs := insertWg s.wg s.wgs, watches := s.watches.filter (fun w => w.wave != s.wave.id)
        pendLoads := s.pendLoads.filter (fun p => p.wave != s.wave.id)
        gone := { wave := s.wave, frags := [s.frag] } :: s.gone
        focus := false, frag := {}, wave := {}, sibs := [], wg := {}, iss := {} }

/-- Detaches a fragment at a divergent branch (R38, R40): the side at index `keep` stays, every other side becomes a
fragment of its own. -/
def State.detach (s : State) (sides : List Side) (keep : Nat) : State :=
  let key := s.nextId
  let rec_ : Option Token := s.frag.armed.map (fun a => { addr := a, expected := s.frag.mask, parent := s.frag.slot })
  let chain := if rec_.isSome then key :: s.frag.chain else s.frag.chain
  let kept := sides.getD keep {}
  let f : Frag := { s.frag with pc := kept.pc, mask := kept.mask, armed := none, chain := chain, hold := .fptOrBr }
  let rest := (sides.zipIdx).filter (fun x => x.2 != keep)
  let new (x : (Side × Nat) × Nat) : Frag :=
    { slot := x.2, pc := x.1.1.pc, mask := x.1.1.mask, mr := f.mr, fbPc := f.fbPc, fbEntry := f.fbEntry, shadow := f.shadow,
      chain := chain, status := .pendingReady, lastIssue := s.now, since := s.now, hold := .fptOrBr }
  let frags := (rest.zip s.freeSlots).map new
  { s with
    frag := f, sibs := frags.foldl (fun fs x => insertFrag x fs) s.sibs
    wave := { s.wave with tokens := match rec_ with
      | some r => s.wave.tokens ++ [(key, r)]
      | none => s.wave.tokens }
    nextId := s.nextId + 1 }

/-- Serialises a branch (R42): the side at index `first` runs, the others wait in a deferral entry. -/
def State.serialise (s : State) (sides : List Side) (first : Nat) : State :=
  let side := sides.getD first {}
  let pending := ((sides.zipIdx).filter (fun x => x.2 != first)).map (·.1)
  { s with frag := { s.frag with
      pc := side.pc, mask := side.mask, armed := none, hold := .fptOrBr
      defers := { token := s.frag.armed, pending := pending } :: s.frag.defers } }

/-- A branch with several sides can detach (R38, R415). -/
def State.canDetach (s : State) (k : Nat) : Bool :=
  s.wave.hx.isNone && decide (k - 1 ≤ s.freeSlots.length) && decide (s.sibs.length + 1 + k ≤ 9) &&
  (s.frag.armed.isNone || decide (s.wave.tokens.length < 8))

/-- A branch (R37, R38, R42, R44): `serial` holds where it serialises whatever is free. -/
def State.divide (s : State) (sides : List Side) (serial : Bool) : State :=
  let sides := sides.filter (fun x => x.mask ≠ 0)
  match sides with
  | [] => { s with frag := { s.frag with armed := none } }
  | [x] => { s with frag := { s.frag with pc := x.pc, armed := none } }
  | _ =>
    if !serial && s.canDetach sides.length then
      let most := sides.foldl (fun n x => max n (laneCount x.mask)) 0
      let tied := ((sides.zipIdx).filter (fun x => laneCount x.1.mask == most)).map (·.2)
      match tied with
      | [i] => s.detach sides i
      | _ => let p := s.pick tied.length; p.2.detach sides (tied.getD p.1 0)
    else let p := s.pick sides.length; p.2.serialise sides p.1

/-- A branch would hold a ninth deferral entry (R42, R219). -/
def State.overflows (s : State) (sides : List Side) (serial : Bool) : Bool :=
  let k := (sides.filter (fun x => x.mask ≠ 0)).length
  decide (2 ≤ k) && (serial || !s.canDetach k) && decide (8 ≤ s.frag.defers.length)

/-- A fragment at the rejoin of its top deferral entry, or with an empty mask, goes on (R42): the next pending side
that has lanes left, or past the entry, or past the entries below while nothing is left of it. None when the fragment
is empty and holds no entry. A side taken up holds its rewind as a side that runs first does (R190, R197). Past an entry the
fragment goes on after a rejoin, where R47 puts an fpt; that it holds its rewind there as after a merge is the model's
reading (log entry 83). -/
def Frag.advance (live : LaneMask) (f : Frag) : List Deferral → Option Frag
  | [] => if f.mask = 0 then none else some { f with defers := [] }
  | e :: es =>
    let done := (e.done ||| f.mask) &&& live
    match e.pending.dropWhile (fun x => x.mask &&& live = 0) with
    | x :: rest =>
      some { f with pc := x.pc, mask := x.mask &&& live, hold := .fptOrBr,
                    defers := { e with done := done, pending := rest } :: es }
    | [] =>
      if done ≠ 0 then some { f with pc := e.resume, mask := done, hold := .fpt, defers := es }
      else Frag.advance live { f with mask := 0 } es

/-- Frees a token record: every chain that has it loses it (R41). -/
def dropToken (k : Nat) (fs : List Frag) : List Frag :=
  fs.map (fun f => { f with chain := f.chain.filter (fun c => c != k) })

/-- The fragments that are parked at token record `k`. -/
def State.parkedAt (s : State) (k : Nat) : List Frag := s.waveFrags.filter (fun f => f.wait == some (.rejoin k) && f.mask != 0)

/-- The lanes of some fragments. -/
def fragLanes (fs : List Frag) : LaneMask := fs.foldl (fun m f => m ||| f.mask) 0

/-- A record's merge is due (R41): every expected lane has arrived, and its fragment is parked there. One that was rewound after
it arrived keeps its lanes in the arrived mask (R195), and the merge waits until it has parked again (DESIGN CHOICE, log
104). -/
def State.tokenFull (s : State) (k : Nat) (t : Token) : Bool :=
  t.arrived == t.expected && t.arrived &&& ~~~fragLanes (s.parkedAt k) == 0

/-- Merges the fragments parked at token record `k` (R41): the parent survives if it arrived, else the lowest slot. A fragment
that arrived and was rewound since is not parked there: when the timeout expires it has not arrived, and loses the record
with its lanes (DESIGN CHOICE, log 104). -/
def State.mergeToken (s : State) (k : Nat) : State :=
  match (s.wave.tokens.find? (fun t => t.1 == k)) with
  | none => s
  | some (_, t) =>
    let fs := s.waveFrags
    let here := s.parkedAt k
    let s := { s with wave := { s.wave with tokens := s.wave.tokens.filter (fun x => x.1 != k) } }
    match (here.find? (fun f => f.slot == t.parent)).orElse (fun _ => here.head?) with
    | none => s.setFrags (dropToken k fs)
    | some f =>
      let merged : Frag := { f.wakeAt s.now with mask := t.arrived &&& fragLanes here &&& s.wave.live, hold := .fpt }
      let gone := here.map (·.slot)
      s.setFrags (dropToken k (insertFrag merged (fs.filter (fun x => !gone.contains x.slot))))

/-- Merges every token record that is complete, and frees those that expect no lane (R41, R45, R431). -/
def State.mergeReady (s : State) : State :=
  (s.wave.tokens.map (·.1)).foldl (fun s k =>
    match s.wave.tokens.find? (fun t => t.1 == k) with
    | none => s
    | some (_, t) => if s.tokenFull k t then s.mergeToken k else s) s

/-- The waves of a workgroup, in focus or not. -/
def State.wavesOf (s : State) (wg : Nat) : List Wave := (s.boxes.filter (fun b => b.wave.wgId == wg)).map (·.wave)

/-- Completes the open phase of barrier `n` of workgroup `id` when every wave with a live lane has arrived (R46, R204,
R205), and wakes the fragments parked on it. -/
def State.barCheck (s : State) (id n : Nat) : State :=
  match s.group id with
  | none => s
  | some g =>
    let b := SMap.get {} n g.bars
    let ws := (s.wavesOf id).filter (fun w => w.live ≠ 0)
    if ws.isEmpty || !ws.all (fun w => decide (w.live &&& ~~~(SMap.get 0 w.index b.arrived) = 0)) then s
    else
      let s := s.modGroup id (fun g => { g with bars := SMap.set {} n { b with phase := b.phase + 1, arrived := [] } g.bars })
      s.wakeIf (fun w f => w.wgId == id && f.wait == some (.bar n b.phase)) (fun f => { f with hold := .fpt })

/-- Lanes of the focused wave arrive at barrier `n` (R205). -/
def State.barArrive (s : State) (n : Nat) (lanes : LaneMask) : State :=
  let b := SMap.get {} n s.wg.bars
  let had := SMap.get 0 s.wave.index b.arrived
  let new := lanes &&& s.wave.live &&& ~~~had
  let last := (lanesOf new).foldl (fun m l => SMap.set 0 (32 * s.wave.index + l) (b.phase + 1) m) b.last
  let b := { b with arrived := SMap.set 0 s.wave.index (had ||| new) b.arrived, last := last }
  let s := { s with wg := { s.wg with bars := SMap.set {} n b s.wg.bars } }
  s.barCheck s.wg.id n

/-- The latest phase in which a lane of the focused fragment arrived at barrier `n`, plus one; 0 for none (R206). -/
def State.lastPhase (s : State) (n : Nat) : Nat :=
  let b := SMap.get {} n s.wg.bars
  (lanesOf s.frag.mask).foldl (fun m l => max m (SMap.get 0 (32 * s.wave.index + l) b.last)) 0

/-- The focused fragment waits for its latest phase at barrier `n`, unless that has completed (R206). -/
def State.barWait (s : State) (unit : VAddr) (n : Nat) : State :=
  let p := s.lastPhase n
  if p = 0 ∨ p - 1 < (SMap.get {} n s.wg.bars).phase then s
  else s.park unit (.bar n (p - 1))

/-- Ends lanes of the focused wave with their statuses (R45, R198, R433): they leave every mask, records complete or
are freed, empty fragments go on or are freed, barriers are counted again, and the wave ends with its last lane. -/
def State.endLanes (s : State) (lanes : LaneMask) (status : Nat → Nat) : State :=
  let lanes := lanes &&& s.wave.live
  let ls := (lanesOf lanes).map (fun l => status l % 65536)
  let keep := ~~~lanes
  let cut (f : Frag) : Frag :=
    { f with
      mask := f.mask &&& keep
      defers := f.defers.map (fun e =>
        { e with done := e.done &&& keep, pending := e.pending.map (fun x => { x with mask := x.mask &&& keep }) }) }
  let hadLanes := (s.waveFrags.filter (fun f => f.mask ≠ 0)).map (·.slot)
  let s := { s with
    wg := { s.wg with
      statOr := ls.foldl (fun a x => a ||| x) s.wg.statOr, statMax := ls.foldl max s.wg.statMax
      nzLanes := s.wg.nzLanes + (ls.filter (fun x => x != 0)).length }
    wave := { s.wave with
      live := s.wave.live &&& keep
      tokens := s.wave.tokens.map (fun (t : Nat × Token) =>
        (t.1, { t.2 with expected := t.2.expected &&& keep, arrived := t.2.arrived &&& keep })) } }
  let s := (s.setFrags (s.waveFrags.map cut)).mergeReady
  let settle (f : Frag) : Option Frag :=
    if f.mask ≠ 0 ∨ !hadLanes.contains f.slot then some f
    else match f.wait with
      | some (.rejoin _) => none
      | _ => (f.advance s.wave.live f.defers).map (fun g => if f.wait.isSome then
          { g with status := (f.wakeAt s.now).status, wait := none, since := s.now } else g)
  let id := s.wg.id
  let s := if s.focus then s.setFrags (if s.wave.live = 0 then [] else s.waveFrags.filterMap settle) else s
  [0, 1, 2, 3].foldl (fun s n => s.barCheck id n) s

end Sys2Proof.Machine
end

