-- ==== Sys2Proof/Machine/Wait.lean ====
section
/-!
DEFINITION. Waits on memory: the test of a wait, the watches of the future wait table, the return of a wait
(spec/05_consistency.md R116, spec/08_isa_control.md R200 to R203, spec/11_isa_memory.md R280, R289, R292).
-/

namespace Sys2Proof.Machine

/-- A path-v read at the home of a line, past any copy of the core's own (R116). -/
def State.homeRead (s : State) (i : Item) : (List Byte × Bool) × State :=
  match i.spot with
  | .phys x => State.readItem { s with
      l1 := SMap.set [] s.wave.core ((SMap.get [] s.wave.core s.l1).filter (fun c => c.line != x.pa / 128)) s.l1 } i
  | _ => s.readItem i

/-- What became of a test of a wait. -/
inductive Tested where
  /-- the condition holds, with the lanes' values and poison, in the state after the reads -/
  | holds (vals : List (Nat × Nat × Bool)) (s : State)
  /-- it does not; the lines still waited on, ascending by address, in the state after the reads -/
  | stays (lines : List Nat) (s : State)
  /-- an access of it no longer translates, or its barrier is poisoned (R480): the unit has to be issued again -/
  | broken

/-- Reads every cell of a wait and tests it (R201, R202, R280): path-v loads at the home, whichever way the test goes
(R116). -/
def State.testCells (s : State) (n : Nat) (ok : Cell → Nat → Bool) (cs : List Cell) : Tested :=
  let rs := cs.map (fun c => (c, s.judgeLane .g .read 1 c.lane c.addr.toNat n))
  if rs.any (fun r => match r.2 with
      | .ok _ => false
      | .error _ => true) then .broken
  else
    let items := rs.filterMap (fun r => match r.2 with
      | .ok i => some (r.1, i)
      | .error _ => none)
    let z := items.foldl (fun (a : List (Cell × Item × Nat × Bool) × State) r =>
      let x := a.2.homeRead r.2
      (a.1 ++ [(r.1, r.2, natOfBytes x.1.1, x.1.2)], x.2)) ([], s)
    let open_ := z.1.filter (fun r => !ok r.1 r.2.2.1)
    if open_.isEmpty then .holds (z.1.map (fun r => (r.1.lane, r.2.2))) z.2
    else
      let sorted := sortBy (fun a b => decide (a.1 ≤ b.1)) (open_.map (fun r => (r.2.1.addr, s.itemLine r.2.1)))
      .stays (sorted.map (·.2)).eraseDups z.2

/-- The comparison of waitv (R202 Table 3). -/
def waitvHolds (c v b : Nat) : Bool :=
  match c with
  | 0 => decide (b ≤ v)
  | 1 => decide (v = b)
  | 2 => decide (v ≠ b)
  | _ => decide (signed 32 b ≤ signed 32 v)

/-- The item of the 8 B barrier at a barrier address (R291). -/
def State.tbarItem (s : State) (addr : Nat) : Item :=
  let off := addr % 2 ^ 19
  { lane := 0, addr := addr, n := 8, spot := if bitAt addr 31 then .bank (s.wg.bankOf off) else .scratch off }

/-- The batches of a wave that are not complete (R289). -/
def State.openBatches (s : State) (wave : Nat) : List Nat :=
  (((s.cmds ++ s.withdrawn).filter (fun c => c.wave == wave && c.kind != .accZero)).map (·.batch)).eraseDups

/-- Every batch of a wave below number `stop` is complete (R289). -/
def State.batchesDone (s : State) (wave stop : Nat) : Bool := (s.openBatches wave).all (fun b => decide (stop ≤ b))

/-- Tests a wait of the focused fragment. -/
def State.testWait (s : State) : Wait → Tested
  | .cells cs => s.testCells 8 (fun _ v => bitAt v 63) cs
  | .counters c cs => s.testCells 4 (fun x v => waitvHolds c v x.val.toNat) cs
  | .future _ cs => s.testCells 8 (fun _ v => bitAt v 63) cs
  | .tbar a ph =>
    let r := s.readItem (s.tbarItem a)
    if r.1.2 then .broken
    else if bitAt (natOfBytes r.1.1) 63 = ph then .stays [s.itemLine (s.tbarItem a)] r.2 else .holds [] r.2
  | .batch stop => if s.batchesDone s.wave.id stop then .holds [] s else .stays [] s
  | .sleep stop => if stop ≤ s.now then .holds [] s else .stays [] s
  | _ => .stays [] s

/-- Releases the watches of the focused fragment (R68). -/
def State.unwatch (s : State) : State :=
  { s with
    watches := s.watches.filter (fun w => w.wave != s.wave.id || w.slot != s.frag.slot), frag := { s.frag with left := [] } }

/-- Registers watches of the focused fragment on the lines that fit its wave's four entries; the others are left without one
(R203). -/
def State.watchLines (s : State) (lines : List Nat) : State :=
  let free := 4 - (s.watches.filter (fun w => w.wave == s.wave.id)).length
  { s with
    watches := s.watches ++ (lines.take free).map (fun l => { wave := s.wave.id, slot := s.frag.slot, line := l })
    frag := { s.frag with left := lines.drop free } }

/-- The focused fragment goes on waiting: it keeps its watches on `lines`, not woken, lets its others go, and registers
those that its wave's four entries still have room for (R203). -/
def State.rewatch (s : State) (lines : List Nat) : State :=
  let mine (w : Watch) : Bool := w.wave == s.wave.id && w.slot == s.frag.slot
  let ws := (s.watches.filter (fun w => !mine w || lines.contains w.line)).map
    (fun w => if mine w then { w with woken := false } else w)
  let had := (ws.filter mine).map (·.line)
  State.watchLines { s with watches := ws } (lines.filter (fun l => !had.contains l))

/-- The wave has observed the completion of its commands of the batches below number `stop` (R110). -/
def State.sawBatches (s : State) (wave stop : Nat) : State :=
  let seen := s.doneCmds.filter (fun c => c.wave == wave && !c.seen && decide (c.batch < stop))
  { s.markSeen (fun e => seen.any (fun c => c.cmd == e.cmd)) 8 (some wave) with
    doneCmds := s.doneCmds.map (fun c => if seen.contains c then { c with seen := true } else c) }

/-- What a returning wait does: ldf writes its cells (R280), and bwait has observed its batches (R110). A completion record
brings its workgroups' accesses into the v order before it (R112), so a wait on one needs nothing more. -/
def State.waitEffect (s : State) (w : Wait) (vals : List (Nat × Nat × Bool)) : State :=
  match w with
  | .batch stop => s.sawBatches s.wave.id stop
  | .future d _ => s.writeLanes (.ofCode d) 2 (vals.map (fun v => (v.1, { v := v.2.1, pois := v.2.2 : LaneOut })))
  | _ => s

/-- A unit waits (R62, R201): it goes on at once when its condition holds, else it parks with its watches. -/
def State.beginWait (s : State) (unit : VAddr) (w : Wait) : State :=
  match s.testWait w with
  | .holds vals t => t.waitEffect w vals
  | .stays lines t => (t.park unit w).watchLines lines
  | .broken => s.park unit w

/-- The focused fragment. -/
def State.isFocus (s : State) (v : Wave) (f : Frag) : Bool := v.id == s.wave.id && f.slot == s.frag.slot

/-- The focused fragment issues its unit again. -/
def State.wakeAgain (s : State) : State :=
  (s.wakeIf s.isFocus).modFrags (fun v f => if s.isFocus v f then { f with pc := s.frag.pc } else f)

/-- Tests again the wait of the focused fragment (R116, R203); one that parks again begins to wait anew (R66, R406). -/
def State.retest (s : State) : State :=
  let s := s.unwatch
  match s.frag.wait with
  | none => s
  | some .again => s.wakeIf s.isFocus
  | some (.oldest _) => s.wakeIf s.isFocus
  | some w =>
    match s.testWait w with
    | .holds vals t => (t.waitEffect w vals).wakeIf s.isFocus
    | .stays lines t => State.watchLines { t with frag := { t.frag with since := t.now } } lines
    | .broken => s.wakeAgain

/-- The part of a wait whose cells `p` keeps. -/
def Wait.narrow (p : Cell → Bool) : Wait → Wait
  | .cells cs => .cells (cs.filter p)
  | .counters c cs => .counters c (cs.filter p)
  | .future d cs => .future d (cs.filter p)
  | w => w

/-- The cells of a wait that lie in the lines without a watch entry. -/
def State.onLeft (s : State) (c : Cell) : Bool :=
  match s.judgeLane .g .read 1 c.lane c.addr.toNat 1 with
  | .ok i => s.frag.left.contains (s.itemLine i)
  | .error _ => true

/-- Tests again the lines of the focused fragment's wait that have no watch entry (R203): while they stay, or the watched ones
have not woken it, it waits on; those that are passed leave the wait's lines, and with the last of all its lines the whole wait
is tested. A wave that is evicted is woken for it (R67). -/
def State.retestLeft (s : State) : State :=
  match s.frag.wait with
  | none => s
  | some w =>
    let whole (t : State) : State :=
      if t.wave.away then
        (if t.wave.wake.isSome then t
         else { t with wave := { t.wave with wake := some (t.wave.place.getD t.nextId) }, nextId := t.nextId + 1 })
      else t.retest
    match s.testWait (w.narrow s.onLeft) with
    | .stays lines t => { t with frag := { t.frag with left := lines } }
    | .holds _ t =>
      let t := { t with frag := { t.frag with left := [] } }
      if t.watches.any (fun x => x.wave == t.wave.id && x.slot == t.frag.slot) then t else whole t
    | .broken => whole s

end Sys2Proof.Machine
end

