-- ==== Sys2Proof/Machine/Rcb.lean ====
section
/-!
DEFINITION. Launch region control blocks as the S12 reads and updates them (spec/03_scheduling.md R52, R57, R58), and
the post of a child launch (R213, R214, spec/21_faults_execution.md R514).
-/

namespace Sys2Proof.Machine

/-- `n` bytes in a context's space on path v as a number; none where they cannot be read, or are poisoned. What the read itself
does is `State.look`. -/
def State.vaNat (s : State) (who : Who) (va n : Nat) : Option Nat :=
  match s.ctxRead who 0 va n .read with
  | .ok (bs, false) => some (natOfBytes bs)
  | _ => none

/-- Confines a context at level 2 with a SOURCE 2 code (R420, R514). -/
def State.confineCtx (s : State) (who : Who) (code : Nat) (addr launch : Nat := 0) : State :=
  s.confine 2 who none
    { source := 2, code := code, vf := who.vf, ctx := who.ctx, part := who.part, addr := addr, launch := launch }

/-- Writes a field of a launch RCB, under the seal slot of the workgroup that causes it (R378); where it cannot be written
the context is confined (R514), or, where a table entry cannot be corrected, the entry's owner (R422). -/
def State.rcbPut (s : State) (who : Who) (grant : Option Nat) (va off n v : Nat) : State :=
  match s.ctxPut who grant (va + off) (bytesOf n v) with
  | (none, t) => t
  | (some e, t) => if e.ue.isSome then t else t.confineCtx who 0x17 (va + off) va

/-- A field of a launch RCB; zero where it cannot be read. -/
def State.rcbGet (s : State) (who : Who) (va off n : Nat) : Nat := (s.vaNat who (va + off) n).getD 0

/-- The free entries of a core's pending-launch queue (R58). -/
def State.queueFree (s : State) (core : Nat) : List Nat :=
  (List.range 4).filter (fun e => !s.pending.any (fun p => p.core == core && p.entry == e))

/-- Enters a posted child into its core's pending-launch queue, or into its parent's overflow list (R58), and counts it
in the parent's CHILDREN (R57). -/
def State.postChild (s : State) (who : Who) (parent child : Nat) : State :=
  let grant := s.grantOf s.wg
  let count := s.rcbGet who parent 5 1 + 1
  let s := (s.look who parent 40).rcbPut who grant parent 5 1 count
  let p : Pending := {
    id := s.nextId, core := who.core, child := BitVec.ofNat 56 child, parent := BitVec.ofNat 56 parent, vf := who.vf,
    ctx := who.ctx, part := who.part, fromCore := who.core, postedAt := s.cyc who.part, vseen := s.oseq }
  let s := { s with nextId := s.nextId + 1 }
  match s.queueFree who.core, decide (s.rcbGet who parent 24 8 = 0) with
  | e :: _, true => { s with pending := s.pending ++ [{ p with entry := e }] }
  | _, _ =>
    let tail := s.rcbGet who parent 32 8
    let s := if s.rcbGet who parent 24 8 = 0 then s.rcbPut who grant parent 24 8 child else s.rcbPut who grant tail 16 8 child
    let s := s.rcbPut who grant parent 32 8 child
    { s with listed := s.listed ++ [p] }

end Sys2Proof.Machine
end

