-- ==== Sys2Proof/Machine/Turn.lean ====
section
/-!
DEFINITION. Which fragment a port issues (spec/03_scheduling.md R61 to R64), the fetch of a word and the forming of a
unit (spec/07_encoding.md R159, R169, spec/23_faults_instructions.md R464, R465).
-/

namespace Sys2Proof.Machine

/-- The workgroup of a wave. -/
def State.groupOf (s : State) (w : Wave) : Workgroup := (s.group w.wgId).getD {}

/-- The waves resident on a port. -/
def State.onPort (s : State) (core port : Nat) : List WaveBox :=
  s.boxes.filter (fun b => b.wave.core == core && b.wave.port == port && !b.wave.away)

/-- The word of the instruction of the unit at an address of a workgroup's code, past its lead-in words, its address, and whether
a guard word stands among them (R169). -/
def State.unitAt (s : State) (who : Who) (pc : Nat) : Nat → Bool → Option (Word × Nat × Bool)
  | 0, _ => none
  | fuel + 1, guarded =>
    match s.ctxRead who 1 pc 4 .fetch with
    | .error _ => none
    | .ok r =>
      let op := natAt r.1 3 1
      if op = 0x15 ∨ op = 0xF0 ∨ op = 0xF1 then s.unitAt who (pc + 4) fuel (guarded || decide (op = 0x15))
      else some (BitVec.ofNat 32 (natAt r.1 0 4), pc, guarded)

/-- The word of a fragment's next unit. -/
def State.nextUnit (s : State) (g : Workgroup) (w : Wave) (pc : Nat) : Option (Word × Nat × Bool) :=
  s.unitAt { g.who with core := w.core, wave := w.id } pc 4 false

/-- An instruction word is an fpt. -/
def isFpt (w : Word) : Bool := decide (opByte w = 0x0C)

/-- What a fragment's hold waits for comes next: its fpt, or the br to it, without a guard word, under guard sense always, and to
a unit that is an fpt (R190, R197). -/
def State.fptNext (s : State) (g : Workgroup) (w : Wave) (f : Frag) : Bool :=
  (s.nextUnit g w f.pc.toNat).any (fun u =>
    isFpt u.1 || (f.hold == .fptOrBr && decide (opByte u.1 = 0x01) && !u.2.2 && decide (mrField f.mr 4 3 = 0) &&
      (s.nextUnit g w ((BitVec.ofNat 56 u.2.1 + 4 * (u.1.extractLsb' 0 20).signExtend 56).toNat)).any (fun v => isFpt v.1)))

/-- A hold that has a rewind wait (R197): not one that only makes a breach trap again (R474). -/
def Hold.held (h : Hold) : Bool := h != .free && h != .fptUnheld

/-- A held fragment of a context whose slice has ended may issue, once it is ready, the fpt that its hold waits for, or the
br to it (R68 step 3, R197): one that waits may not, and one whose next unit is neither is rewound, which a kernel with a
flashback table cannot have (R429), but for the fpt after an scq (R404). One that trapped there runs its handler to its end
(R415). -/
def State.mayFinish (s : State) (g : Workgroup) (w : Wave) (f : Frag) : Bool :=
  f.status != .evicted && !w.away &&
    ((match w.hx with
      | some h => h.slot == f.slot && h.hold.held
      | none => false) ||
     (f.status != .waiting && f.hold.held && ((decide (1 ≤ g.fbCount) && f.hold != .fptIfNext) || s.fptNext g w f)))

/-- A fragment's slice lies in no enabled partition: it runs no work (R367). -/
def State.slicedOut (s : State) (core : Nat) : Bool := (s.partOf (core / 16)).isNone

/-- Issue of a fragment is stopped: on a slice of no enabled partition (R367), by a slice end or a confinement (R68, R423;
a pre-emption in progress comes to its end under one, R447), or by a sibling's handler (R410). -/
def State.stopped (s : State) (w : Wave) (f : Frag) : Bool :=
  let g := s.groupOf w
  s.slicedOut w.core || (g.frozen && !s.mayFinish g w f) || (s.confined g && !g.frozen) ||
    (match w.hx with
      | some h => h.slot != f.slot
      | none => false)

/-- The rank of a fragment (R63 rule 1 and 2): its effective priority, or 7 once it has spent 512 ACLK ready or
pending-ready since its last issue. -/
def State.rankOf (s : State) (w : Wave) (f : Frag) : Nat :=
  let waited := f.readyTime + (if f.status = .ready ∨ f.status = .pendingReady then s.coreCyc w.core - f.since else 0)
  if f.aged ∨ 512 ≤ waited then 7 else (s.groupOf w).budget.prio

/-- Fragment `a` is issued before fragment `b` (R63 rule 2): rank, then oldest last issue, then lowest slot. -/
def State.outranks (s : State) (a b : Wave × Frag) : Bool :=
  let ra := s.rankOf a.1 a.2
  let rb := s.rankOf b.1 b.2
  decide (rb < ra) || (decide (ra = rb) &&
    (decide (a.2.lastIssue < b.2.lastIssue) || (decide (a.2.lastIssue = b.2.lastIssue) && decide (a.2.slot < b.2.slot))))

/-- The fragments of a port that satisfy a test. -/
def State.portFrags (s : State) (core port : Nat) (p : Wave → Frag → Bool) : List (Wave × Frag) :=
  (s.onPort core port).flatMap (fun b => (b.frags.filter (p b.wave)).map (fun f => (b.wave, f)))

/-- A fragment is in its port's active set (R61). -/
def Frag.active (f : Frag) : Bool := f.status == .ready || f.status == .blocked

/-- Moves a fragment of the machine to a scheduling state, keeping the count of its ready time (R63). -/
def State.setStatus (s : State) (id slot : Nat) (st : Status) : State :=
  s.modFrags (fun w f =>
    if w.id = id ∧ f.slot = slot then
      { f with
        status := st
        readyTime := f.readyTime + (if f.status = .ready ∨ f.status = .pendingReady then s.coreCyc w.core - f.since else 0)
        since := s.coreCyc w.core
        activeSince := if (st = .ready ∨ st = .blocked) ∧ !f.active then s.coreCyc w.core else f.activeSince
        issued := if (st = .ready ∨ st = .blocked) ∧ !f.active then 0 else f.issued }
    else f)

/-- Fills the free entries of a port's active set with its highest-ranked pending-ready fragments (R20, R62); one whose
short dependence is not resolved yet (R63 rule 3 put it out) comes back blocked. -/
def State.refill (core port : Nat) : Nat → State → State
  | 0, s => s
  | n + 1, s =>
    if (s.portFrags core port (fun _ f => f.active)).length < 8 then
      match bestOf s.outranks (s.portFrags core port (fun _ f => f.status == .pendingReady)) with
      | some (w, f) => State.refill core port n (s.setStatus w.id f.slot (if f.wait.isSome then .blocked else .ready))
      | none => s
    else s

/-- Key of a port's deficit counter for function `f` (R64). -/
def deficitKey (core port f : Nat) : Nat := (4 * core + port) * 64 + f

/-- The weight of function `f` on a port (R64, R444). -/
def State.weightOf (s : State) (core port f : Nat) : Nat := max 1 (SMap.get 1 (deficitKey core port f) s.weights)

/-- The port's choice of a function (R64): the deficit counters after the choice, and the function. -/
def State.chooseVf (s : State) (core port : Nat) (es resident : List Nat) : Option (Nat × State) :=
  let d0 (f : Nat) : Int := SMap.get 0 (deficitKey core port f) s.deficits
  let d (f : Nat) : Int := d0 f + s.weightOf core port f
  let total : Int := es.foldl (fun t f => t + (s.weightOf core port f : Int)) 0
  match bestOf (fun a b => decide (d b < d a) || (decide (d a = d b) && decide (a < b))) es with
  | none => none
  | some c =>
    let ds := es.foldl (fun m f => SMap.set 0 (deficitKey core port f) (if f = c then d f - total else d f) m) s.deficits
    let ds := (resident.filter (fun f => !es.contains f)).foldl
      (fun m f => SMap.set 0 (deficitKey core port f) (min (d0 f) 0) m) ds
    some (c, { s with deficits := ds })

/-- The lanes whose registers a pending load writes. -/
def PendLoad.lanes (p : PendLoad) : LaneMask := maskOf (p.items.map (·.1) ++ p.got.map (·.1))

/-- Registers that an operand takes, under an element type. -/
inductive RegSpan where
  | none_
  | fixed (n : Nat)
  /-- those of the element type, and half of them: a bound of an interval -/
  | elem
  | half
  /-- three intervals (R263) -/
  | box
  deriving DecidableEq, Repr

/-- The registers of an element type (R126). -/
def elemRegs (et : Nat) : Nat := ((moveShape et).map Shape.regs).getD 1

/-- The registers of a span under an element type. -/
def RegSpan.count (et : Nat) : RegSpan → Nat
  | .none_ => 0
  | .fixed n => n
  | .elem => elemRegs et
  | .half => elemRegs et / 2
  | .box => 3 * elemRegs et

/-- The spans of operands d, a and b, by the first and last opcode of each row (R189, R220, R243, R271, R298, R336, R352);
b is the index of format FM. -/
def spanRows : List (Nat × Nat × RegSpan × RegSpan × RegSpan) :=
  [(0x03, 0x03, .none_, .fixed 1, .none_), (0x08, 0x08, .none_, .fixed 1, .none_), (0x0A, 0x0A, .none_, .fixed 2, .none_),
   (0x0B, 0x0B, .none_, .fixed 2, .fixed 1), (0x11, 0x11, .fixed 1, .fixed 1, .none_), (0x13, 0x13, .fixed 1, .none_, .none_),
   (0x14, 0x14, .none_, .fixed 1, .none_), (0xE8, 0xE8, .none_, .fixed 2, .fixed 2), (0xE9, 0xE9, .none_, .fixed 2, .none_),
   (0xF3, 0xF4, .fixed 1, .none_, .none_)] ++
  [(0x20, 0x29, .elem, .elem, .elem), (0x2A, 0x2B, .elem, .elem, .none_), (0x2C, 0x30, .elem, .elem, .elem),
   (0x31, 0x31, .elem, .elem, .none_), (0x32, 0x38, .elem, .elem, .elem), (0x39, 0x3C, .elem, .elem, .none_),
   (0x3D, 0x3D, .none_, .elem, .elem), (0x3E, 0x3F, .elem, .elem, .none_), (0x40, 0x40, .elem, .none_, .none_),
   (0x41, 0x45, .elem, .elem, .fixed 1), (0x46, 0x46, .fixed 1, .none_, .none_), (0x48, 0x49, .elem, .elem, .none_)] ++
  [(0x50, 0x53, .elem, .elem, .elem), (0x54, 0x55, .elem, .elem, .none_), (0x56, 0x57, .elem, .elem, .elem),
   (0x58, 0x58, .none_, .elem, .elem), (0x59, 0x59, .none_, .elem, .none_), (0x5A, 0x5C, .elem, .elem, .none_),
   (0x5D, 0x5D, .elem, .elem, .elem), (0x5E, 0x63, .elem, .elem, .none_), (0x64, 0x64, .elem, .elem, .fixed 1),
   (0x68, 0x6A, .fixed 1, .fixed 1, .none_), (0x6C, 0x6E, .fixed 1, .fixed 2, .fixed 2), (0x6F, 0x6F, .none_, .fixed 1, .none_),
   (0x70, 0x70, .fixed 1, .none_, .none_), (0x71, 0x71, .elem, .half, .half), (0x72, 0x75, .half, .elem, .none_),
   (0x76, 0x77, .elem, .elem, .elem), (0x78, 0x78, .none_, .elem, .elem), (0x79, 0x7A, .elem, .fixed 1, .fixed 1),
   (0x7B, 0x7B, .box, .box, .box)] ++
  [(0x80, 0x9B, .none_, .none_, .fixed 1), (0x9C, 0x9E, .none_, .fixed 1, .none_), (0x9F, 0x9F, .none_, .fixed 1, .fixed 1),
   (0xA0, 0xA0, .fixed 1, .none_, .none_), (0xA2, 0xA2, .none_, .fixed 1, .none_), (0xA3, 0xA4, .none_, .fixed 1, .fixed 1),
   (0xA5, 0xA5, .fixed 1, .fixed 1, .none_), (0xA6, 0xA6, .none_, .fixed 1, .fixed 1), (0xA9, 0xAA, .none_, .fixed 1, .fixed 2)] ++
  [(0xB0, 0xB1, .none_, .fixed 1, .fixed 1), (0xB2, 0xB2, .none_, .fixed 1, .none_), (0xB5, 0xB6, .none_, .fixed 1, .none_),
   (0xB7, 0xB9, .none_, .none_, .fixed 1), (0xBA, 0xBA, .none_, .fixed 8, .none_), (0xBB, 0xBB, .fixed 1, .fixed 1, .none_),
   (0xD0, 0xD0, .fixed 2, .fixed 2, .fixed 1), (0xD1, 0xD1, .fixed 4, .fixed 2, .fixed 2),
   (0xD2, 0xD2, .fixed 1, .fixed 1, .none_), (0xD3, 0xD3, .none_, .fixed 2, .fixed 1), (0xD4, 0xD4, .none_, .fixed 1, .none_),
   (0xD5, 0xD5, .none_, .fixed 7, .fixed 1), (0xE0, 0xE0, .none_, .fixed 1, .none_), (0xE1, 0xE1, .fixed 1, .fixed 1, .fixed 1),
   (0xE2, 0xE2, .fixed 1, .fixed 1, .none_)]

/-- The registers of a width code's data (R174 Table 13). -/
def widthRegs (w : Nat) : Nat := if w = 5 then 2 else if w = 6 then 4 else 1

/-- The registers of the d and of the base of a word of format FM: the operand code of the first, and how many (R271, R298). -/
def fmRuns (et op d w base : Nat) : List (Nat × Nat) :=
  let pair : List (Nat × Nat) := [(0x80 + base, 2)]
  let one_ : List (Nat × Nat) := [(0x80 + base, 1)]
  if op ≤ 0x89 then (d, widthRegs w) :: (if (op - 0x80) % 5 = 0 ∨ (op - 0x80) % 5 = 3 then pair else one_)
  else if op ≤ 0x8B then [(d, widthRegs w), (base, 2)]
  else if op ≤ 0x8D then (d, elemRegs et) :: (if w = 0 ∨ w = 3 then pair else one_)
  else if op = 0x8E then pair
  else if op ≤ 0x98 then (d, 1 + w % 2) :: pair
  else if op = 0x99 then (d, 2 + 2 * (w % 2)) :: pair
  else if op ≤ 0x9B then (d, 2) :: pair
  else [(d, if w = 2 then 2 else 3), (0x80 + base, 4)]

/-- The registers that a word names in ways of its own: link registers, counts of lanes, classes, the integer and partner types of
conversions, unpacking, blocks of accumulator rows, tiles and spills. -/
def ownRuns (et x : Nat) (w : Word) : List (Nat × Nat) :=
  let op := opByte w
  let d := field w.toNat 16 8
  let a := field w.toNat 8 8
  let b := field w.toNat 0 8
  let int_ := if b % 16 = 2 ∨ b % 16 = 3 then 2 else 1
  let count := if et = 2 ∨ et = 3 ∨ et = 5 then 2 else 1
  let partner := if b % 16 = 1 then 2 else 1
  match op with
  | 0x04 => [(field w.toNat 20 4, 1)]
  | 0x05 => [(b % 16, 1)]
  | 0x47 => [(d, count)]
  | 0x4E => [(d, count)]
  | 0x59 => [(d, if et = 5 ∨ et = 7 then 2 else 1)]
  | 0x65 => [(d, int_), (a, elemRegs et)]
  | 0x66 => [(d, elemRegs et), (a, int_)]
  | 0x67 => if bitAt b 4 then [(d, partner), (a, elemRegs et)] else [(d, elemRegs et), (a, partner)]
  | 0x6B => [(d, if et < 2 then 1 else elemRegs et), (a, 1)]
  | 0xA9 => [(d, x)]
  | 0xAA => [(d, x)]
  | 0xB5 => [(d, 4 * (b / 4 % 4 + 1))]
  | 0xB6 => [(d, 4 * (b / 4 % 4 + 1))]
  | 0xBA => [(d, if b % 32 = 24 ∨ b % 32 = 26 then 2 else 3)]
  | _ => if (0x80 ≤ op ∧ op ≤ 0x9B) ∨ (0xB7 ≤ op ∧ op ≤ 0xB9) then fmRuns et op d (field w.toNat 13 3) (field w.toNat 8 5) else []

/-- The registers that a word reads or writes under an element type: the operand code of the first of each run, and how many.
`x` is the count of a spl or a fil. -/
def wordRuns (et x : Nat) (w : Word) : List (Nat × Nat) :=
  let op := opByte w
  (spanRows.filter (fun r => decide (r.1 ≤ op) && decide (op ≤ r.2.1))).flatMap (fun r =>
    [(field w.toNat 16 8, r.2.2.1.count et), (field w.toNat 8 8, r.2.2.2.1.count et), (field w.toNat 0 8, r.2.2.2.2.count et)]) ++
  ownRuns et x w

/-- A word reads or writes one of `n` registers from operand code `lo`. -/
def touchesReg (et x : Nat) (w : Word) (lo n : Nat) : Bool :=
  (wordRuns et x w).any (fun r => decide (r.1 < lo + n) && decide (lo < r.1 + r.2) && decide (r.1 < 0xC0))

/-- The count of registers of a spl or a fil, where a scalar register or a constant gives it; else as many as there may be. -/
def spillCount (v : Wave) (w : Word) : Nat :=
  match Operand.ofCode (field w.toNat 8 8) with
  | .x r => (SMap.get 0 r.val v.xregs).toNat
  | .k c => (constInt c.val).toNat
  | _ => 128

/-- The pending loads of a fragment's lanes whose registers a word needs (R62, R92, R223). -/
def State.awaitsOf (s : State) (v : Wave) (f : Frag) (w : Word) : List Nat :=
  (s.pendLoads.filter (fun p => p.wave == v.id && (decide (0x80 ≤ p.dest) || p.lanes &&& f.mask != 0) &&
    touchesReg (mrField f.mr 7 5) (spillCount v w) w p.dest p.regs)).map (·.id)

/-- The same for the focused fragment. -/
def State.awaits (s : State) (w : Word) : List Nat := s.awaitsOf s.wave s.frag w

/-- A fragment meets a dependence on loads (R61, R62): on one that L2 has reported as missed it waits, on another it is
blocked. Its unit issues when their data is there. -/
def State.awaitBy (s : State) (id slot : Nat) (ids : List Nat) : State :=
  let late := s.pendLoads.any (fun p => ids.contains p.id && p.missed)
  (s.setStatus id slot (if late then .waiting else .blocked)).modFrags (fun w f =>
    if w.id = id ∧ f.slot = slot then { f with wait := some (.loads ids), resume := f.pc } else f)

/-- The focused fragment meets a dependence on loads within its unit, whose words it fetches again. -/
def State.awaitLoads (s : State) (ids : List Nat) : State := State.awaitBy { s with iss := {} } s.wave.id s.frag.slot ids

/-- The pending loads that a fragment's next unit needs. -/
def State.needs (s : State) (w : Wave) (f : Frag) : List Nat :=
  if s.pendLoads.any (fun p => p.wave == w.id) then
    (s.nextUnit (s.groupOf w) w f.pc.toNat).elim [] (fun u => s.awaitsOf w f u.1)
  else []

/-- A port's ready fragments whose next unit meets a dependence on loads leave that state, and others take their entries
(R62); `fuel` is more than the fragments of a port. -/
def State.settlePort (core port : Nat) : Nat → State → State
  | 0, s => State.refill core port 8 s
  | fuel + 1, s =>
    let s := State.refill core port 8 s
    match s.portFrags core port (fun w f => f.status == .ready && !s.stopped w f && !(s.needs w f).isEmpty) with
    | (w, f) :: _ => State.settlePort core port fuel (s.awaitBy w.id f.slot (s.needs w f))
    | [] => s

/-- The fragment that a port issues in this ACLK, in focus (R62 to R64); none when no fragment is ready. -/
def State.select (s : State) (core port : Nat) : Option State :=
  let s := State.settlePort core port 65 s
  let ready := s.portFrags core port (fun w f => f.status == .ready && !s.stopped w f)
  let es := (ready.map (fun p => (s.groupOf p.1).vf)).eraseDups
  let resident := ((s.onPort core port).map (fun b => (s.groupOf b.wave).vf)).eraseDups
  match s.chooseVf core port es resident with
  | none => none
  | some (vf, s') =>
    match bestOf s.outranks (ready.filter (fun p => (s.groupOf p.1).vf == vf)) with
    | some (w, f) => s'.focusOn w.id f.slot
    | none => none

/-- The encoding version that governs the focused fragment's words (R179, R469). -/
def State.version (s : State) : Nat :=
  match s.wave.hx with
  | some h => h.version
  | none => s.wg.version

/-- The word at an address of the focused fragment's code, fetched on path i (R159), or why it cannot be fetched: its
translation (R465), or a seal (R378). None under a key slot that changes its mode: the fetch is held (R460). The spec does not
say what word a poisoned sector gives: it is a free value (log entry 84). -/
def State.codeWord (s : State) (a : VAddr) : Except XFail (Option Word) :=
  match s.translate s.wg.part s.wg.vf s.wg.ctx a.toNat .fetch with
  | .error e => .error e
  | .ok x =>
    if s.keyBusyBit (x.pa / 2 ^ 46 % 64) then .ok none
    else if s.sealBars (s.grantOf s.wg) x.pa then .error { code := 0x11 }
    else
      match s.ctxRead s.who 1 a.toNat 4 .fetch with
      | .error e => .error e
      | .ok r => .ok (some (if r.2 then Config.freeWord s.free else BitVec.ofNat 32 (natOfBytes r.1)))

/-- The state after a word of code has been fetched: its walk, what it observed and met, and the next draw. -/
def State.codeSeen (s : State) (a : VAddr) : State :=
  let bad := match s.ctxRead s.who 1 a.toNat 4 .fetch with
    | .ok r => r.2
    | .error _ => false
  let s := s.seen s.who 1 a.toNat 4 .fetch
  if bad then { s with free := s.free + 1 } else s

/-- The word at the unit's next address. -/
def State.fetch (s : State) : Except XFail (Option Word) := s.codeWord s.wAddr

/-- The trap of a unit of which the word at `a` cannot be fetched (R465); `exec` is what the unit's execution mask is by then
(R413). -/
def State.fetchTrap (s : State) (a : VAddr) (e : XFail) (exec : LaneMask := s.frag.mask) : State :=
  s.takeTrap exec { code := e.code, lanes := exec, addr := a.toNat, ipas := e.ipa.toList, ue := e.ue }

/-- What the decoder makes of a fetched word: the instruction, with the unit's record of the word (R464 to R468). -/
def State.formed (s : State) (w : Word) : Instr × State :=
  let s := { s with iss := { s.iss with word := w } }
  match decodeVersion s.version w with
  | .ok i => (i, s)
  | .reservedField i => (i, { s with iss := { s.iss with resv := true } })
  | .unassigned => (.unassignedOpcode w, s)

end Sys2Proof.Machine
end

