-- ==== Sys2Proof/Machine/Control.lean ====
section
/-!
DEFINITION. Control, mode, fragments, waiting and launch (spec/08_isa_control.md).
-/

namespace Sys2Proof.Machine

/-- A lead-in word joins the unit (R169, R464): `late` says that it stands out of order. The fourth word of a unit is no
lead-in word. -/
def State.join (s : State) (late : Bool) (f : Issue → Issue) : Host.Outcome State Fault Refusal :=
  let bad := if s.iss.bad.isNone && late then some s.iss.word else s.iss.bad
  if 3 ≤ s.iss.n then
    .next (s.takeTrap s.exec { code := 0x01, lanes := s.exec, aux := (bad.getD s.iss.word).toNat })
  else .next { s with iss := { f s.iss with n := s.iss.n + 1, bad := bad } }

/-- guard (R170, R210). -/
def execGuard (sense : Fin 8) (p : Fin 16) (s : State) : Host.Outcome State Fault Refusal :=
  s.join (decide (s.iss.n ≠ 0))
    (fun i => { i with guard := if i.guard.isNone then some (sense.val, p.val) else i.guard })

/-- lih (R168, R211). -/
def execLih (h : BitVec 8) (s : State) : Host.Outcome State Fault Refusal :=
  s.join (s.iss.lih.isSome || s.iss.lit.isSome) (fun i => { i with lih := some h })

/-- lit (R168, R211). -/
def execLit (l : BitVec 24) (s : State) : Host.Outcome State Fault Refusal :=
  s.join s.iss.lit.isSome (fun i => { i with lit := some l })

/-- A word that is no instruction (R467): trap 0x01. -/
def execUnassignedOpcode (w : Word) (s : State) : Host.Outcome State Fault Refusal :=
  s.issue [{ code := 0x01, lanes := s.exec, aux := w.toNat }] id

def execNop (s : State) : Host.Outcome State Fault Refusal := s.issue [] id

/-- The target of a label field (R190). -/
def State.target (s : State) (off : BitVec 20) : VAddr := s.wAddr + 4 * off.signExtend 56

/-- A br without a guard word under guard sense always (R190). -/
def State.brKind (s : State) : UnitKind := if s.iss.guard.isNone && s.guardOf.1 = 0 then .br else .plain

/-- Lanes of the fragment that the unit does not select. -/
def State.rest (s : State) : LaneMask := s.frag.mask &&& ~~~s.exec

/-- The shared form of a branch (R190). -/
def State.branch (s : State) (k : UnitKind) (conds : List Cond) (sides : List Side) (serial : Bool) (eff : State → State) :
    Host.Outcome State Fault Refusal :=
  s.issueK k (conds ++ laneCond 0x0C (if s.overflows sides serial then s.exec else 0))
    (fun t => (eff t).divide sides serial)

/-- The sides of br and call (R190). -/
def State.plainSides (s : State) (off : BitVec 20) : List Side :=
  [{ pc := s.target off, mask := s.exec }, { pc := s.wAddr + 4, mask := s.rest }]

def execBr (off : BitVec 20) (s : State) : Host.Outcome State Fault Refusal :=
  s.branch s.brKind [] (s.plainSides off) false id

/-- Lanes of the execution mask in which predicate `p` has a value. -/
def State.lanesAt (s : State) (p : Nat) (v : Tri) : LaneMask := lanesWhere s.exec (fun l => s.pred p l == v)

/-- The sides of brt (R190, R44). -/
def State.brtSides (s : State) (p : Nat) (off : BitVec 20) : List Side :=
  let t := s.lanesAt p .t
  let f := s.lanesAt p .f ||| s.rest
  let u := s.lanesAt p .u
  let side (pc : VAddr) (m : LaneMask) : Side := { pc := pc, mask := m }
  match s.und with
  | 0 => [side (s.target off) (t ||| u), side (s.wAddr + 4) f]
  | 1 => [side (s.target off) t, side (s.wAddr + 4) (f ||| u)]
  | 2 => [side (s.target off) t, side (s.wAddr + 4) f, side (s.wAddr + 8) u]
  | _ => [side (s.target off) (t ||| u), side (s.wAddr + 4) (f ||| u)]

/-- A lead-in word (R169). -/
def isLeadIn (w : Word) : Bool := opByte w == 0x15 || opByte w == 0xF0 || opByte w == 0xF1

/-- brt (R190, R219): under UND = 2 an undecided lane of the execution mask, which guard sense 7 leaves without (R465), makes
the unit read the word at W + 4 too. -/
def execBrt (p : Fin 16) (off : BitVec 20) (s : State) : Host.Outcome State Fault Refusal :=
  let sides := s.brtSides p.val off
  let u := s.lanesAt p.val .u
  if s.und = 2 ∧ u ≠ 0 ∧ s.guardOf.1 ≠ 7 then
    match s.codeWord (s.wAddr + 4) with
    | .error e => .next (s.fetchTrap (s.wAddr + 4) e s.exec)
    | .ok none => .next s.parkAgain
    | .ok (some w) =>
      (s.codeSeen (s.wAddr + 4)).branch .plain (laneCond 0x0C (if isLeadIn w then u else 0)) sides false id
  else s.branch .plain [] sides (decide (s.und = 3 ∧ u ≠ 0)) id

/-- Groups the lanes of the execution mask by target (R37, R191); the rest continues at W + 4. -/
def State.targetSides (s : State) (dest : Nat → VAddr) : List Side :=
  (lanesOf s.frag.mask).foldl (fun (sides : List Side) l =>
    let pc := if s.exec.getLsbD l then dest l else s.wAddr + 4
    if sides.any (fun x => x.pc == pc) then
      sides.map (fun x => if x.pc = pc then { x with mask := x.mask ||| BitVec.twoPow 32 l } else x)
    else sides ++ [{ pc := pc, mask := BitVec.twoPow 32 l }]) []

/-- The shared form of brx and ret (R191, R219). -/
def State.jump (s : State) (conds : List Cond) (a : Operand) (dest : Nat → VAddr) : Host.Outcome State Fault Refusal :=
  let odd := lanesWhere s.exec (fun l => (dest l).toNat % 4 != 0)
  let low := (dest ((lowest odd).getD 0)).toNat
  s.branch .plain (conds ++ laneCond 0x07 odd low ++ s.cleanCond [(1, a)]) (s.targetSides dest) false id

def execBrx (a : Operand) (s : State) : Host.Outcome State Fault Refusal :=
  s.jump (s.encCond (s.srcBad 1 a) 0x01) a (fun l => s.wAddr + (BitVec.ofNat 32 (s.int a l)).signExtend 56)

def execRet (r : Fin 16) (s : State) : Host.Outcome State Fault Refusal :=
  s.jump [] (.v ⟨r.val, by omega⟩) (fun l => s.wg.kbase + BitVec.ofNat 56 (s.vreg r.val l).toNat)

/-- call (R190, R192): the link register of the taken side holds W + 4 − KBASE. -/
def execCall (r : Fin 16) (off : BitVec 20) (s : State) : Host.Outcome State Fault Refusal :=
  let link := (s.wAddr + 4 - s.wg.kbase).toNat % 2 ^ 32
  s.branch .plain [] (s.plainSides off) false
    (fun t => (lanesOf s.exec).foldl (fun t l => t.setV r.val l 1 link false) t)

/-- tok (R193). -/
def execTok (off : BitVec 20) (s : State) : Host.Outcome State Fault Refusal :=
  s.issueLive [] (fun t => { t with frag := { t.frag with armed := some (s.target off) } })

/-- The token record that a rejoin at `a` would arrive at (R41 rule 2). -/
def State.topToken (s : State) (a : VAddr) : Option (Nat × Token) :=
  match s.frag.chain with
  | [] => none
  | k :: _ => s.wave.tokens.find? (fun t => t.1 == k && t.2.addr == a)

/-- The deadline of a record's timeout at the first arrival (R194). -/
def State.deadline (s : State) (t : Token) (k : Nat) : Option Nat :=
  if t.arrived = 0 ∧ t.deadline.isNone ∧ k ≠ 0 then some (s.now + 2 ^ (k + 5)) else t.deadline

/-- The count of a record's timeout has expired before this ACLK (R41): its merge comes before an arrival, where the
expiry of this very ACLK comes after one that completes the record (R432). The spec is silent on an arrival in that ACLK that
does not complete it: it joins the merge as well (DESIGN CHOICE, log 105). -/
def State.overdue (s : State) (t : Token) : Bool := t.deadline.any (fun d => decide (d < s.now))

/-- The focused fragment arrives at token record `key` and parks; a complete record merges at once (R41). -/
def State.arrive (t : State) (unit : VAddr) (key : Nat) (r : Token) (deadline : Option Nat) : State :=
  let r' : Token := { r with arrived := r.arrived ||| t.frag.mask, deadline := deadline }
  let set (x : Nat × Token) : Nat × Token := if x.1 = key then (key, r') else x
  let t := State.park { t with wave := { t.wave with tokens := t.wave.tokens.map set } } unit (.rejoin key)
  if t.tokenFull key r' then t.mergeToken key else t

/-- A rejoin outside the fragment's top deferral entry (R41 rules 2 and 3): an arrival, or no effect; `conds` holds where
it is an arrival. A record whose count has expired merges what has arrived, and the fragment passes. -/
def State.meet (s : State) (k : Nat) (conds : List Cond) : Host.Outcome State Fault Refusal :=
  let unit := s.frag.pc
  match s.topToken unit with
  | none => s.issue [] id
  | some (key, r) =>
    if s.overdue r then s.issue [] (fun t => t.mergeToken key)
    else s.issue conds (fun t => t.arrive unit key r (s.deadline r k))

/-- rejoin (R41, R194, R195, R430). -/
def execRejoin (k : Fin 16) (s : State) : Host.Outcome State Fault Refusal :=
  let unit := s.frag.pc
  match s.frag.defers with
  | e :: es =>
    if e.token = some unit then
      s.issue [] (fun t =>
        match t.frag.advance t.wave.live ({ e with resume := t.frag.pc } :: es) with
        | some f => { t with frag := f }
        | none => t)
    else s.meet k.val (laneCond 0x0C (if e.token.isNone then s.frag.mask else 0))
  | [] => s.meet k.val []

/-- exit (R45, R198). -/
def execExit (a : Operand) (s : State) : Host.Outcome State Fault Refusal :=
  s.issueLive (s.encCond (s.srcBad 1 a) 0x01 ++ s.cleanCond [(1, a)]) (fun t => t.endLanes s.exec (s.int a))

/-- Trap 0x0F of a wait inside a handler (R435). -/
def State.waitCond (s : State) (b : Bool) : List Cond := laneCond 0x0F (if s.wave.hx.isSome && b then s.exec else 0)

/-- yield (R62, R199). -/
def execYield (s : State) : Host.Outcome State Fault Refusal :=
  s.issueLive (s.waitCond true) (fun t => { t with frag := { t.frag with status := .pendingReady, since := t.now } })

/-- sleep (R199). -/
def execSleep (n : BitVec 24) (s : State) : Host.Outcome State Fault Refusal :=
  s.issueLive (s.waitCond (n ≠ 0)) (fun t => if n = 0 then t else t.park s.frag.pc (.sleep (s.now + n.toNat)))

/-- fpt (R69, R196): it acts on the fragment mask, and has no effect inside a handler (R415). -/
def execFpt (k : BitVec 16) (s : State) : Host.Outcome State Fault Refusal :=
  let out := s.wave.hx.isNone && decide (s.wg.fbCount ≤ k.toNat)
  s.issueK .fpt (laneCond 0x0C (if out then s.frag.mask else 0)) (fun t =>
    if t.wave.hx.isSome then t
    else { t with frag := { t.frag with
      fbPc := t.frag.pc, fbEntry := some k.toNat
      shadow := (lanesOf t.frag.mask).foldl (fun m l => SMap.set 0 l (t.gen l) m) t.frag.shadow } })

/-- Lanes of the execution mask whose access lands in a peer window (R435). -/
def State.peerLanes (s : State) (is : List Item) : LaneMask :=
  maskOf ((is.filter (fun i => (s.peerSpot i).isSome)).map (·.lane))

/-- The shared form of waitf and waitv (R200 to R203, R219, R435): `n` is the cell's width in bytes. -/
def State.waitUnit (s : State) (conds : List Cond) (a : Operand) (n : Nat) (w : List Cell → Wait) (val : Nat → Word) :
    Host.Outcome State Fault Refusal :=
  let ls := lanesOf s.exec
  let rs := ls.map (fun l => s.judgeLane .g .read n l (s.addr56 a l) n)
  let peers := laneCond 0x0F (s.peerLanes (judgeAll rs).2)
  s.issueItems (s.encCond (!a.isPair) 0x01 ++ s.cleanCond [(2, a)] ++ conds ++ peers ++ s.waitCond true) rs
    (fun _ t => if s.exec = 0 then t
      else t.beginWait s.frag.pc (w (ls.map (fun l => { lane := l, addr := BitVec.ofNat 56 (s.addr56 a l), val := val l }))))

def execWaitf (a : Operand) (s : State) : Host.Outcome State Fault Refusal := s.waitUnit [] a 8 .cells (fun _ => 0)

def execWaitv (c : Fin 4) (a b : Operand) (s : State) : Host.Outcome State Fault Refusal :=
  s.waitUnit (s.encCond (s.srcBad 1 b) 0x01 ++ s.cleanCond [(1, b)]) a 4 (.counters c.val)
    (fun l => BitVec.ofNat 32 (s.int b l))

/-- bar.arrive (R205). -/
def execBarArrive (n : Fin 4) (s : State) : Host.Outcome State Fault Refusal :=
  s.issue [] (fun t => t.barArrive n.val s.exec)

/-- bar.wait (R206). -/
def execBarWait (n : Fin 4) (s : State) : Host.Outcome State Fault Refusal :=
  s.issueLive (s.waitCond true) (fun t => t.barWait s.frag.pc n.val)

/-- bar (R206): bar.arrive and then bar.wait, as one issue. -/
def execBar (n : Fin 4) (s : State) : Host.Outcome State Fault Refusal :=
  s.issue (s.waitCond true) (fun t =>
    let t := t.barArrive n.val s.exec
    if s.exec = 0 then t else t.barWait s.frag.pc n.val)

/-- Poison that an operand carries in the lowest lane of the execution mask (R471). -/
def State.lowCond (s : State) (n : Nat) (a : Operand) : List Cond :=
  match lowest s.exec with
  | some l => laneCond 0x0A (if s.srcPois n a l then BitVec.twoPow 32 l else 0) 0 a.code
  | none => []

/-- An integer operand read in the lowest lane of the execution mask. -/
def State.lowInt (s : State) (a : Operand) : Nat := s.int a ((lowest s.exec).getD 0)

/-- Writes a value to a destination in every lane of the execution mask, or once for a scalar (R164). -/
def State.putAll (t : State) (d : Operand) (e : LaneMask) (v : Nat) : State :=
  t.writeLanes d 1 ((runLanes d e).map (fun l => (l, { v := v })))

/-- lfsr d, a (R207). -/
def execLfsr (d a : Operand) (s : State) : Host.Outcome State Fault Refusal :=
  s.issueLive (s.encCond (dstBad 1 d) 0x01 ++ s.encCond (s.srcBad 1 a) 0x01 ++ s.lowCond 1 a) (fun t =>
    let t := t.putAll d s.exec s.wave.lfsr.toNat
    { t with wave := { t.wave with lfsr := BitVec.ofNat 16 (s.lowInt a) } })

/-- lfsr.rd d (R207). -/
def execLfsrRd (d : Operand) (s : State) : Host.Outcome State Fault Refusal :=
  s.issueLive (s.encCond (dstBad 1 d) 0x01) (fun t => t.putAll d s.exec s.wave.lfsr.toNat)

/-- The place and width of the mode field of a selector (R172 Table 11). -/
def modeField : Nat → Option (Nat × Nat)
  | 0 => some (0, 4)
  | 1 => some (4, 3)
  | 2 => some (7, 5)
  | 3 => some (12, 3)
  | 4 => some (15, 1)
  | 5 => some (16, 1)
  | 6 => some (17, 2)
  | 7 => some (19, 1)
  | 8 => some (20, 1)
  | _ => none

/-- mode.set (R172, R208, R219). -/
def execModeSet (sel : BitVec 8) (v : BitVec 16) (s : State) : Host.Outcome State Fault Refusal :=
  let f := (modeField sel.toNat).getD (0, 16)
  s.issueLive (s.encCond (modeField sel.toNat).isNone 0x01 ++ s.encCond (decide (2 ^ f.2 ≤ v.toNat)) 0x02)
    (fun t => { t with frag := { t.frag with mr := BitVec.ofNat 32 (setField t.frag.mr.toNat f.1 f.2 v.toNat) } })

/-- mode.get (R209). -/
def execModeGet (d : Operand) (s : State) : Host.Outcome State Fault Refusal :=
  s.issue (s.encCond (dstBad 1 d) 0x01) (fun t => t.putAll d s.exec s.frag.mr.toNat)

/-- mode.put (R209). -/
def execModePut (a : Operand) (s : State) : Host.Outcome State Fault Refusal :=
  s.issueLive (s.encCond (s.srcBad 1 a) 0x01 ++ s.lowCond 1 a) (fun t =>
    { t with frag := { t.frag with mr := BitVec.ofNat 32 (s.lowInt a % 2 ^ 21) } })

end Sys2Proof.Machine
end

