-- ==== Sys2Proof/Machine/System.lean ====
section
/-!
DEFINITION. Launching from a wave, traps and system registers (spec/08_isa_control.md R212 to R218), and the returns
from a handler (spec/20_faults.md R413, R414).
-/

namespace Sys2Proof.Machine

/-- The lanes in which lrec and launch run (R212, R213): one pass for scalar addresses. -/
def State.passLanes (s : State) (os : List Operand) : List Nat :=
  if os.all Operand.isX then (lanesOf s.exec).take 1 else lanesOf s.exec

/-- Poison that a pair of addresses carries in the lanes that are read. -/
def State.passCond (s : State) (ls : List Nat) (n : Nat) (o : Operand) : List Cond :=
  laneCond 0x0A (maskOf (ls.filter (s.srcPois n o))) 0 o.code

/-- The 256 bytes of the child-launch RCB that lrec makes of a template (R212). -/
def lrecBytes (t : List Byte) (parent : Nat) : List Byte :=
  5#8 :: slice t 1 3 ++ bytesOf 4 0 ++ bytesOf 8 parent ++ List.replicate 24 0 ++ slice t 40 16 ++ List.replicate 24 0 ++
  slice t 80 48 ++ List.replicate 128 0

/-- Writes each lane's RCB of lrec: the template's line read, then both lines written at one timestamp (R114). -/
def lrecLanes (parent : Nat) : List Item → State → State
  | r :: a :: b :: is, s =>
    let x := s.readItem r
    let bs := lrecBytes x.1.1 parent
    lrecLanes parent is (x.2.writeTogether [(a, bs.take 128), (b, bs.drop 128)])
  | _, s => s

/-- lrec (R212, R219). -/
def execLrec (a b : Operand) (s : State) : Host.Outcome State Fault Refusal :=
  let ls := s.passLanes [a, b]
  let rs := ls.flatMap (fun l =>
    let va := s.addr56 a l
    [s.judgeLane .g .read 128 l (s.addr56 b l) 128, s.judgeLane .g .write 256 l va 128,
     s.judgeLane .g .write 128 l (if va % 256 = 0 then va + 128 else 0) 128])
  let js := judgeAll (rs.zipIdx.filterMap (fun r => if r.2 % 3 = 0 then some r.1 else none))
  let met := js.2.filter (fun i => (s.homeItem i).2)
  let bad := maskOf (met.map (·.lane))
  s.issueMet met (s.encCond (!a.isPair || !b.isPair) 0x01 ++ s.passCond ls 2 a ++ s.passCond ls 2 b ++
      laneCond 0x0A bad 0 b.code) rs
    (lrecLanes s.wg.launchAddr.toNat)

/-- A posted RCB passes the checks of R213: KIND 5, STATE 0, PARENT the posting wave's launch RCB. -/
def postOk (bs : List Byte) (parent : Nat) : Bool :=
  natAt bs 0 1 == 5 && natAt bs 4 4 == 0 && natAt bs 8 8 == parent

/-- The accesses of one lane's read of a 256 B RCB (R52, R213), line by line. -/
def State.rcbItems (s : State) (l va : Nat) : List (Except Cond Item) :=
  (pieces va 256).map (fun p => s.judgeLane .g .read 1 l (p.1 % 2 ^ 56) p.2.2)

/-- The RCBs that a launch has read are posted, in lane order (R58, R213). -/
def State.postLanes (parent : Nat) (addr : Nat → Nat) (ls : List Nat) (is : List Item) (t : State) : State :=
  ls.foldl (fun t l => t.postChild t.who parent (addr l)) (readItems is (t.meetLoads is)).2

/-- launch (R213, R214): each RCB is read, all of its 256 B. R213 and R439 name no trap for an address that is not a multiple of
256: such an RCB is read where it stands, and posted (DESIGN CHOICE, log 76). -/
def execLaunch (a : Operand) (s : State) : Host.Outcome State Fault Refusal :=
  let ls := s.passLanes [a]
  let parent := s.wg.launchAddr.toNat
  let rs := ls.flatMap (fun l => s.rcbItems l (s.addr56 a l))
  let js := judgeAll rs
  let bad := js.2.filter (fun i => (s.homeItem i).2)
  let head (l : Nat) : List Byte := (js.2.filter (fun i => i.lane == l)).flatMap (fun i => (s.homeItem i).1)
  let off := ls.filter (fun l => js.2.any (fun i => i.lane == l) && !postOk (head l) parent)
  let full := decide (s.wg.budget.lqdepth < s.rcbGet s.who parent 5 1 + ls.length)
  s.issueMet bad (s.encCond (!a.isPair) 0x01 ++ s.passCond ls 2 a ++ laneCond 0x0A (maskOf (bad.map (·.lane))) 0 a.code ++
      laneCond 0x0D (if full then maskOf ls else maskOf off)) rs
    (State.postLanes parent (s.addr56 a) ls)

/-- trap c (R217): a precise trap in every lane of the execution mask. -/
def execTrap (c : BitVec 8) (s : State) : Host.Outcome State Fault Refusal :=
  s.issue (if s.exec = 0 then [] else [{ code := 0x10, lanes := s.exec, sw := c.toNat }]) id

/-- brk c (R218): halts the fragment while its context's debug halt is enabled. -/
def execBrk (c : BitVec 8) (s : State) : Host.Outcome State Fault Refusal :=
  s.issueLive [] (fun t =>
    if SMap.get false (256 * s.wg.vf + s.wg.ctx) s.halts then
      let t := t.park s.frag.pc (.halt c.toNat)
      { t with halted := t.halted ++ [(64 * s.wave.id + s.frag.slot, c.toNat)] }
    else t)

/-- DEV_CFG (R27 Table 5). -/
def devCfg : Nat := 18 * 2 ^ 23 + 48 * 2 ^ 17 + 12 * 2 ^ 12 + 16 * 2 ^ 7 + 4 * 2 ^ 4 + 2 * 2 ^ 2

/-- A register of R215 Table 4, which every read finds outside the handler too. -/
def sysListed (k : Nat) : Bool :=
  decide (k ≤ 0x0C) || (decide (0x10 ≤ k) && decide (k ≤ 0x14)) || k == 0x20

/-- The value of a system register (R215 Table 4). -/
def State.sysRead (s : State) (k : Nat) : Nat :=
  let pts := s.ptsOf s.wave.core
  if k = 0 then devCfg
  else if k ≤ 0x0C then 0xFFFF
  else if k = 0x10 then s.now % 2 ^ 32
  else if k = 0x11 then s.wave.tickHi.toNat
  else if k = 0x12 then pts % 2 ^ 32
  else if k = 0x13 then s.wave.ptsHi.toNat
  else if k = 0x14 then s.mhz (s.wave.core / 16)
  else s.frameOf s.wg

/-- What a read of a system register in state `s` moves: the latch of a high word (R215), or the lease of FRAME (R216). -/
def State.sysMoves (t s : State) (k : Nat) : State :=
  let hi (n : Nat) : Word := BitVec.ofNat 32 (n / 2 ^ 32)
  if k = 0x10 then { t with wave := { t.wave with tickHi := hi s.now } }
  else if k = 0x12 then { t with wave := { t.wave with ptsHi := hi (s.ptsOf s.wave.core) } }
  else if k = 0x20 then t.frameLoad s.wg.vf s.wg.ctx s.wave.core
  else t

/-- The value of a handler register (R413 Table 2); HX_RET reads zero (R7). -/
def Handler.read (h : Handler) (k : Nat) : Nat :=
  match k with
  | 0 => h.cause
  | 1 => h.swcode
  | 2 => h.pc.toNat % 2 ^ 32 / 4 * 4
  | 3 => h.pc.toNat / 2 ^ 32
  | 4 => h.exec.toNat
  | 5 => h.lanes.toNat
  | 6 => h.addr.toNat % 2 ^ 32
  | 7 => h.addr.toNat / 2 ^ 32
  | 8 => h.aux.toNat
  | 9 => h.mr.toNat % 2 ^ 21
  | _ => 0

/-- Conditions on a selector of sysr and sysw (R215, R219, R413); `wr` is the set of selectors that may be written. -/
def State.selConds (s : State) (k : Nat) (wr : Option (Nat → Bool)) : List Cond :=
  let inside := s.wave.hx.isSome
  let priv := (decide (0x8000 ≤ k) && !inside) || (match wr with
    | some p => !p k
    | none => false)
  s.encCond (!(sysListed k || decide (0x8000 ≤ k))) 0x01 ++ s.encCond (inside && decide (0x800B ≤ k)) 0x01 ++
  (if priv && s.exec ≠ 0 then [{ code := 0x04, lanes := s.exec }] else [])

/-- sysr (R215, R413). -/
def execSysr (d : Operand) (k : BitVec 16) (s : State) : Host.Outcome State Fault Refusal :=
  s.issueLive (s.encCond (dstBad 1 d) 0x01 ++ s.selConds k.toNat none) (fun t =>
    let hx := if 0x8000 ≤ k.toNat then s.wave.hx else none
    match hx with
    | some h => t.putAll d s.exec (h.read (k.toNat - 0x8000))
    | none => (t.sysMoves s k.toNat).putAll d s.exec (s.sysRead k.toNat))

/-- The handler returns and continues at the unit after the trapped one (R414, action 0). -/
def State.returnAfter (s : State) (h : Handler) : State := s.leaveHandler h (h.w + 4)

/-- The handler returns to the unit that HX_PC names (R414, action 1). -/
def State.returnTo (s : State) (h : Handler) : State := s.leaveHandler h h.pc

/-- The return actions of HX_RET (R414 Table 3); after a seal violation every return ends the workgroup (R474). -/
def State.handlerReturn (s : State) (h : Handler) (v : Nat) : State :=
  if h.cause = 0x11 then s.endInHandler h
  else
    match v % 4 with
    | 0 => s.returnAfter h
    | 1 => s.returnTo h
    | _ => s.endInHandler h

/-- Writes a handler register (R413). -/
def State.writeHx (s : State) (h : Handler) (k v : Nat) : State :=
  match k with
  | 2 => { s with wave := { s.wave with hx := some { h with
      pc := BitVec.ofNat 56 (h.pc.toNat / 2 ^ 32 * 2 ^ 32 + v / 4 * 4) } } }
  | 3 => { s with wave := { s.wave with hx := some { h with
      pc := BitVec.ofNat 56 (v % 2 ^ 24 * 2 ^ 32 + h.pc.toNat % 2 ^ 32) } } }
  | 9 => { s with wave := { s.wave with hx := some { h with mr := BitVec.ofNat 32 (v % 2 ^ 21) } } }
  | 10 => s.handlerReturn h v
  | _ => s

/-- Selectors that sysw may write (R215, R413). -/
def sysWritable (k : Nat) : Bool := k == 0x20 || k == 0x8002 || k == 0x8003 || k == 0x8009 || k == 0x800A

/-- sysw (R215, R216, R413). -/
def execSysw (d : Operand) (k : BitVec 16) (s : State) : Host.Outcome State Fault Refusal :=
  s.issueLive (s.encCond (s.srcBad 1 d) 0x01 ++ s.selConds k.toNat (some sysWritable) ++ s.lowCond 1 d) (fun t =>
    let v := s.lowInt d
    if k.toNat = 0x20 then t.frameStore s.wg.vf s.wg.ctx s.wave.core v
    else match t.wave.hx with
      | some h => t.writeHx h (k.toNat - 0x8000) v
      | none => t)

/-- The handler return with HX_RET 0, as a step of its own (R414); outside a handler nothing returns. -/
def execHandlerReturnContinue (s : State) : Host.Outcome State Fault Refusal :=
  match s.wave.hx with
  | some h => .next (s.handlerReturn h 0)
  | none => .next s

/-- The handler return with HX_RET 1 (R414). -/
def execHandlerReturnPc (s : State) : Host.Outcome State Fault Refusal :=
  match s.wave.hx with
  | some h => .next (s.handlerReturn h 1)
  | none => .next s

/-- The handler return with HX_RET 2 or 3 (R414). -/
def execHandlerReturnEnd (s : State) : Host.Outcome State Fault Refusal :=
  match s.wave.hx with
  | some h => .next (s.handlerReturn h 2)
  | none => .next s

end Sys2Proof.Machine
end

