-- ==== Sys2Proof/Machine/Memory.lean ====
section
/-!
DEFINITION. Loads, stores, intervals in memory, prefetch, atomics, compare and swap, futures
(spec/11_isa_memory.md R271 to R281, R296, R297, spec/26_programs_faults.md R508).
-/

namespace Sys2Proof.Machine

/-- The virtual address in scalar pair x(b), x(b+1) plus a sign-extended index (R174). -/
def State.baseAddr (s : State) (b : Fin 32) (x : Operand) (l : Nat) : Nat :=
  (regsNat s.xreg b.val 2 % 2 ^ 56 + unsigned 56 (signed 32 (s.int x l))) % 2 ^ 56

/-- The virtual address in vector pair v(b), v(b+1) plus a sign-extended index (R274). -/
def State.vecAddr (s : State) (b : Fin 32) (x : Operand) (l : Nat) : Nat :=
  (regsNat (fun r => s.vreg r l) b.val 2 % 2 ^ 56 + unsigned 56 (signed 32 (s.int x l))) % 2 ^ 56

/-- The lane's address in a space (R174): base x(b), or the pair from it. -/
def State.spaceAddr (s : State) (sp : Space) (b : Fin 32) (x : Operand) (l : Nat) : Nat :=
  match sp with
  | .g => s.baseAddr b x l
  | .s => s.baseAddr b x l
  | _ => ((s.xreg b.val).toNat + s.int x l) % 2 ^ 32

/-- The base names an even pair where the space asks for one, and the index is a source (R174, R297). R174 names registers,
constants and the literal as the index, and no table gives a special a fate: the model adds its value (DESIGN CHOICE, log
107). -/
def State.addrConds (s : State) (pair : Bool) (b : Fin 32) (x : Operand) : List Cond :=
  s.encCond ((pair && b.val % 2 != 0) || s.srcBad 1 x) 0x01

/-- A vector base as an operand. -/
def vecBase (b : Fin 32) : Operand := .v ⟨b.val, by omega⟩

/-- How a load or store lays its value out: bytes in memory, registers in a lane, and whether it extends signed. -/
structure Width where
  bytes : Nat
  regs : Nat
  sgn : Bool := false
  deriving DecidableEq, Repr

/-- The width codes of R174 Table 13. -/
def widthOf : Nat → Width
  | 0 => { bytes := 1, regs := 1 }
  | 1 => { bytes := 1, regs := 1, sgn := true }
  | 2 => { bytes := 2, regs := 1 }
  | 3 => { bytes := 2, regs := 1, sgn := true }
  | 5 => { bytes := 8, regs := 2 }
  | 6 => { bytes := 16, regs := 4 }
  | _ => { bytes := 4, regs := 1 }

/-- A loaded value as the registers take it (R272, R508). -/
def Width.value (w : Width) (bs : List Byte) (bad : Bool) : Nat :=
  if bad then 0
  else if w.sgn then unsigned 32 (signed (8 * w.bytes) (natOfBytes bs)) else natOfBytes bs

/-- The values of a unit's lanes are put in place: at once, or, where lanes wait for a peer's answer, all of them when it is
there (R92, R117). A request to a peer stays behind the held sectors of its source at its port (R382). -/
def State.takeLanes (t : State) (d : Operand) (w : Width) (atomic : Bool) (far : List Item) (outs : List (Nat × LaneOut)) :
    State :=
  if far.isEmpty then t.writeLanes d w.regs outs
  else
    let spots := far.filterMap (fun i => (t.peerOf i).map (fun p => (i.lane, p)))
    let ports := spots.map (fun x => t.meterOf t.wg.part x.2.1 x.2.2)
    let p : PendLoad := {
      id := t.nextId, wave := t.wave.id, slot := t.frag.slot, dest := d.code, regs := w.regs, bits := 8 * w.bytes,
      sgn := w.sgn, items := spots.map (fun x => (x.1, x.2.1 * 2 ^ 46 + x.2.2)), got := outs.map (fun o => (o.1, o.2.v, o.2.pois))
      atomic := atomic
      behind := (t.held.filter (fun h => h.src == .vf t.wg.vf && ports.contains h.meter)).map (·.id) }
    { t with pendLoads := t.pendLoads ++ [p], nextId := t.nextId + 1 }

/-- A load's accesses (R92, R272): those of this device's memory are made, and those of a peer's are asked for. -/
def State.loadItems (d : Operand) (w : Width) (is : List Item) (t : State) : State :=
  let far := is.filter (fun i => (t.peerOf i).isSome)
  let near := is.filter (fun i => (t.peerOf i).isNone)
  let r := readItems near (t.meetLoads near)
  let s := far.foldl (fun s i => match i.spot with
    | .phys x => s.mark s.who x.marks
    | _ => s) r.2
  s.takeLanes d w false far (r.1.map (fun x => (x.1, { v := w.value x.2.1 x.2.2, pois := x.2.2 : LaneOut })))

/-- The shared form of a load (R272): `addr` gives a lane's address. -/
def State.loadUnit (s : State) (d : Operand) (conds : List Cond) (sp : Space) (addr : Nat → Nat) (w : Width)
    (srcs : List (Nat × Operand)) : Host.Outcome State Fault Refusal :=
  let ls := runLanes d s.exec
  let rs := ls.map (fun l => s.judgeLane sp .read w.bytes l (addr l) w.bytes)
  let bad := (judgeAll rs).2.filter (fun i => (s.peerOf i).isNone && (s.readItem i).1.2)
  let pois := if d.isV then [] else laneCond 0x0A (maskOf (bad.map (·.lane))) 0 d.code
  s.issueMet (if d.isV then [] else bad) (s.encCond (dstBad w.regs d) 0x01 ++ conds ++ s.cleanCond srcs ++ pois) rs
    (State.loadItems d w)

/-- The low bytes of a store's data in a lane (R272): registers, or a constant, special or literal. The spec does not say how one
of these fills an access of 8 or 16 bytes: a literal and a special extend with zeros, a constant by its sign (DESIGN CHOICE,
log 106). -/
def State.dataOf (s : State) (o : Operand) (w : Width) (l : Nat) : Nat :=
  (match o with
    | .v r => regsNat (fun i => s.vreg i l) r.val w.regs
    | .x r => regsNat s.xreg r.val w.regs
    | .k c => unsigned (8 * w.bytes) (constInt c.val)
    | .sp k => s.special k.val l
    | .lit => s.iss.litInt
    | .p _ => 0) % 2 ^ (8 * w.bytes)

/-- The writes of a store, lane by lane, after each line's home has been asked once (R92, R105). -/
def State.storeItems (data : Nat → List Byte) (is : List Item) (t : State) : State :=
  is.foldl (fun t i => t.writeItem i (data i.lane)) (t.askUnit partMask is)

/-- The shared form of a store (R272, R273): poison is judged in every lane of the execution mask. -/
def State.storeUnit (s : State) (conds : List Cond) (sp : Space) (addr data : Nat → Nat) (w : Width)
    (d : Operand) (srcs : List (Nat × Operand)) : Host.Outcome State Fault Refusal :=
  let ls := runLanes d s.exec
  let rs := ls.map (fun l => s.judgeLane sp .write w.bytes l (addr l) w.bytes)
  s.issueItems (s.encCond (s.srcBad w.regs d) 0x01 ++ conds ++ s.cleanCond ((w.regs, d) :: srcs)) rs
    (State.storeItems (fun l => bytesOf w.bytes (data l)))

/-- A space whose base is a pair (R174). -/
def Space.pair : Space → Bool
  | .g => true
  | .s => true
  | _ => false

/-- ld in a space (R272). -/
def State.ld (s : State) (sp : Space) (d : Operand) (w : Fin 8) (b : Fin 32) (x : Operand) :
    Host.Outcome State Fault Refusal :=
  s.loadUnit d (s.encCond (decide (w.val = 7)) 0x01 ++ s.addrConds sp.pair b x) sp (s.spaceAddr sp b x) (widthOf w.val)
    [(1, x)]

/-- st in a space (R272). -/
def State.st (s : State) (sp : Space) (d : Operand) (w : Fin 8) (b : Fin 32) (x : Operand) :
    Host.Outcome State Fault Refusal :=
  let wd := widthOf w.val
  s.storeUnit (s.encCond (decide (w.val = 7) || wd.sgn) 0x01 ++ s.addrConds sp.pair b x) sp (s.spaceAddr sp b x)
    (s.dataOf d wd) wd d [(1, x)]

def execLdG (d : Operand) (w : Fin 8) (b : Fin 32) (x : Operand) (s : State) : Host.Outcome State Fault Refusal :=
  s.ld .g d w b x

def execLdL (d : Operand) (w : Fin 8) (b : Fin 32) (x : Operand) (s : State) : Host.Outcome State Fault Refusal :=
  s.ld .l d w b x

def execLdC (d : Operand) (w : Fin 8) (b : Fin 32) (x : Operand) (s : State) : Host.Outcome State Fault Refusal :=
  s.ld .c d w b x

def execLdS (d : Operand) (w : Fin 8) (b : Fin 32) (x : Operand) (s : State) : Host.Outcome State Fault Refusal :=
  s.ld .s d w b x

def execLdP (d : Operand) (w : Fin 8) (b : Fin 32) (x : Operand) (s : State) : Host.Outcome State Fault Refusal :=
  s.ld .p d w b x

def execStG (d : Operand) (w : Fin 8) (b : Fin 32) (x : Operand) (s : State) : Host.Outcome State Fault Refusal :=
  s.st .g d w b x

def execStL (d : Operand) (w : Fin 8) (b : Fin 32) (x : Operand) (s : State) : Host.Outcome State Fault Refusal :=
  s.st .l d w b x

def execStC (d : Operand) (w : Fin 8) (b : Fin 32) (x : Operand) (s : State) : Host.Outcome State Fault Refusal :=
  s.st .c d w b x

def execStS (d : Operand) (w : Fin 8) (b : Fin 32) (x : Operand) (s : State) : Host.Outcome State Fault Refusal :=
  s.st .s d w b x

def execStP (d : Operand) (w : Fin 8) (b : Fin 32) (x : Operand) (s : State) : Host.Outcome State Fault Refusal :=
  s.st .p d w b x

/-- ldx (R274). -/
def execLdx (d : Operand) (w : Fin 8) (b : Fin 32) (x : Operand) (s : State) : Host.Outcome State Fault Refusal :=
  s.loadUnit d (s.encCond (decide (w.val = 7)) 0x01 ++ s.addrConds true b x) .g (s.vecAddr b x) (widthOf w.val)
    [(1, x), (2, vecBase b)]

/-- stx (R274). -/
def execStx (d : Operand) (w : Fin 8) (b : Fin 32) (x : Operand) (s : State) : Host.Outcome State Fault Refusal :=
  let wd := widthOf w.val
  s.storeUnit (s.encCond (decide (w.val = 7) || wd.sgn) 0x01 ++ s.addrConds true b x) .g (s.vecAddr b x)
    (s.dataOf d wd) wd d [(1, x), (2, vecBase b)]

/-- The space codes of ild and ist (R275). -/
def spaceOf : Nat → Space
  | 0 => .g
  | 1 => .l
  | 2 => .c
  | 3 => .s
  | _ => .p

/-- The layout of an interval in memory and in registers (R275). -/
def State.ivlWidth (s : State) : Width := if s.et = 7 then { bytes := 16, regs := 4 } else { bytes := 8, regs := 2 }

/-- Encoding conditions of ild and ist (R275, R297). -/
def State.ivlMemConds (s : State) (w : Fin 8) (b : Fin 32) (x : Operand) : List Cond :=
  s.encCond (decide (4 < w.val) || !(s.et == 6 || s.et == 7)) 0x01 ++ s.addrConds (spaceOf w.val).pair b x

/-- ild (R275). -/
def execIld (d : Operand) (w : Fin 8) (b : Fin 32) (x : Operand) (s : State) : Host.Outcome State Fault Refusal :=
  s.loadUnit d (s.ivlMemConds w b x) (spaceOf w.val) (s.spaceAddr (spaceOf w.val) b x) s.ivlWidth [(1, x)]

/-- ist (R275): the bits of an interval operand, moved unchanged. -/
def execIst (d : Operand) (w : Fin 8) (b : Fin 32) (x : Operand) (s : State) : Host.Outcome State Fault Refusal :=
  let sh : Shape := if s.et = 7 then .if64 else .if32
  s.storeUnit (s.ivlMemConds w b x) (spaceOf w.val) (s.spaceAddr (spaceOf w.val) b x)
    (fun l => s.src sh d l) s.ivlWidth d [(1, x)]

/-- The line that prf brings closer for lane `l` (R276): into L1 and L2, into L2 only, or, of the tier, into the memory-side
cache only; anything that would fault is dropped, and a sector beyond correction is met as any request meets it (R454). -/
def State.prefetch (s : State) (w l a : Nat) : State :=
  match s.translate s.wg.part s.wg.vf s.wg.ctx a .read with
  | .error _ => s
  | .ok x =>
    match s.resolve (x.pa % 2 ^ 46) with
    | .mem p =>
      if s.sealBars (s.grantOf s.wg) x.pa || s.keyBusyBit (x.pa / 2 ^ 46 % 64) then s
      else if w = 0 then
        let s := if (s.l1Serves s.wave.core (x.pa / 128 * 128) 128).isSome then s
          else s.unitUE (BitVec.twoPow 32 l) (x.pa / 128 * 128) 128
        (s.vload s.who (x.pa / 128 * 128) 128).2.setPts s.wave.core (s.ptsOf s.wave.core)
      else if w = 1 then (s.unitUE (BitVec.twoPow 32 l) (x.pa / 128 * 128) 128).l2Touch s.wg.vf x.pa p 0xFF
      else if inTier p ∧ !s.scrubPending p then s.mscTouch p 0 none
      else s
    | _ => s

/-- prf (R276): no access; it traps on its encoding only, and a lane with a poisoned index is dropped. -/
def execPrf (w : Fin 8) (b : Fin 32) (x : Operand) (s : State) : Host.Outcome State Fault Refusal :=
  s.issue (s.encCond (decide (2 < w.val)) 0x01 ++ s.addrConds true b x)
    (fun t => ((lanesOf s.exec).filter (fun l => !s.srcPois 1 x l)).foldl (fun t l => t.prefetch w.val l (s.baseAddr b x l)) t)

/-- Judges a read-modify-write (R277, R378, R460): a write, of bytes that a seal lets the workgroup read. -/
def State.judgeRmw (s : State) (al lane a n : Nat) : Except Cond Item :=
  match s.judgeLane .g .write al lane a n with
  | .error c => .error c
  | .ok i =>
    match i.spot with
    | .phys x =>
      if !s.keyBusyBit (x.pa / 2 ^ 46 % 64) && s.sealBars (s.grantOf s.wg) x.pa then .error { code := 0x11, lanes := BitVec.twoPow 32 lane, addr := a } else .ok i
    | _ => .ok i

/-- What a read-modify-write found: the old value, its poison, and what it logged. -/
structure RmwOut where
  old : Nat
  pois : Bool := false
  ev : List Nat := []
  deriving DecidableEq, Repr

/-- One read-modify-write event at the home, which has been asked for its line (R106, R108, R278, R453): `f` gives the new value, or none to leave it. A poisoned
sector stays as it is; a red then records it, unless it is the request that has met the failure. -/
def State.rmw (s : State) (i : Item) (red : Bool) (f : Nat → Option Nat × List Nat) : RmwOut × State :=
  match i.spot with
  | .phys x =>
    let s := s.mark s.who x.marks
    let p := (s.placeOf x.pa).getD 0
    let known := SMap.get false (p / 16) s.poison && !s.scrubPending p
    let t := (s.unitUE i.lanes x.pa i.n).observeAll 0 p i.n
    let home := t.homeBytes x.pa i.n
    let old := natOfBytes home.1
    if home.2 then
      let r := { t.doneRec with lmask := BitVec.twoPow 32 i.lane, level := 0, source := 1, code := placeArray p, addr := x.pa }
      let t := t.vtouch t.who x.pa i.n
      ({ old := old, pois := true }, if red && known then t.report t.who (t.grantOf t.wg) r else t)
    else
      let n := f old
      ({ old := old, ev := n.2 }, match n.1 with
        | some v => t.vstoreAt t.who (sealAddr (t.grantOf t.wg) x.pa) none (bytesOf i.n v)
        | none => t.vtouch t.who x.pa i.n)
  | _ => ({ old := 0 }, s)

/-- The lanes of a read-modify-write instruction, ascending, each an event of its own (R106). -/
def rmwItems (red : Bool) (f : Nat → Nat → Option Nat × List Nat) : List Item → State → List (Nat × RmwOut) × State
  | [], s => ([], s)
  | i :: is, s =>
    let r := s.rmw i red (f i.lane)
    let t := rmwItems red f is r.2
    ((i.lane, r.1) :: t.1, t.2)

/-- The homes of a unit's read-modify-writes are asked once for each line (R92): under a seal grant for the line that is read,
and then for the one that is written (R121, R378). -/
def State.askRmw (t : State) (is : List Item) : State :=
  State.askUnit (if (t.grantOf t.wg).isSome then t.askUnit sectorMask (is.map (fun i => { i with write := false })) else t)
    sectorMask is

/-- A read-modify-write goes to a peer, which performs it (R117): its operation and its operand leave by the window's link,
and with no link up the workgroup is confined (R500). -/
def State.sendRmw (s : State) (op : Nat) (i : Item) (bs : List Byte) : State :=
  match i.spot, s.peerSpot i with
  | .phys x, some (w, off) =>
    if (s.peerLinks s.wg.part w).isEmpty then s.writeItem i bs
    else
      let m := s.meterOf s.wg.part w off
      State.sendOut (.vf s.wg.vf) (s.grantOf s.wg).isSome (s.wave.id + 1) (windowTag s.wg.part w)
        { port := m, addr := off, bytes := bs, op := op } [m] (s.mark s.who x.marks)
  | _, _ => s

/-- The shared form of atom, red and cas (R277 to R279): `regs` registers of `d` are read, `n` bytes are exchanged by
operation `op`. A lane whose address lies in a peer window leaves the operation to the peer. -/
def State.rmwUnit (s : State) (op : Nat) (d : Operand) (regs n : Nat) (red : Bool) (conds : List Cond) (b : Fin 32)
    (x : Operand) (f : Nat → Nat → Option Nat × List Nat) : Host.Outcome State Fault Refusal :=
  let ls := runLanes d s.exec
  let rs := ls.map (fun l => s.judgeRmw n l (s.baseAddr b x l) n)
  let w : Width := { bytes := n, regs := n / 4 }
  let bad := (judgeAll rs).2.filter (fun i => (s.peerOf i).isNone && (s.homeItem i).2)
  let pois := if d.isV || red then [] else laneCond 0x0A (maskOf (bad.map (·.lane))) 0 d.code
  s.issueMet (if d.isV || red then [] else bad) (conds ++ s.addrConds true b x ++ s.cleanCond [(regs, d), (1, x)] ++ pois) rs
    (fun is t =>
      let far := is.filter (fun i => (t.peerSpot i).isSome)
      let near := is.filter (fun i => (t.peerSpot i).isNone)
      let r := rmwItems red f near (t.askRmw near)
      let outs := r.1.map (fun o => (o.1, { v := o.2.old, pois := o.2.pois, ev := o.2.ev : LaneOut }))
      let t := far.foldl (fun t i => t.sendRmw op i (bytesOf (4 * regs) (s.dataOf d { bytes := 4 * regs, regs := regs } i.lane))) r.2
      (if red then t else t.takeLanes d w true (far.filter (fun i => (t.peerOf i).isSome)) outs).logLanes s.frag.pc outs)

/-- The operations of R278 Table 2. -/
inductive AtomOp where
  | add | fadd | min | max | and | or | xor | exch | inc | dec
  deriving DecidableEq, Repr

/-- The opcode of an operation (R278 Table 2). -/
def AtomOp.opcode : AtomOp → Nat
  | .add => 0x8F
  | .fadd => 0x90
  | .min => 0x91
  | .max => 0x92
  | .and => 0x93
  | .or => 0x94
  | .xor => 0x95
  | .exch => 0x96
  | .inc => 0x97
  | .dec => 0x98

/-- The operation reads ET (R296). -/
def AtomOp.readsEt : AtomOp → Bool
  | .and => false
  | .or => false
  | .xor => false
  | .exch => false
  | _ => true

/-- An addition rounded as R151 gives. -/
def fixedAdd (f : FFmt) (a b : Nat) : Elem := ({} : Mode).roundTo f 0 (sumExact 0 [f.decode a, f.decode b])

/-- A floating addition of an atomic (R278): one for each half under a pair type, element 0 first. -/
def atomFadd (et old v : Nat) : Nat × List Nat :=
  let one (f : FFmt) : Nat × List Nat := let r := fixedAdd f old v; (r.bits, r.ev)
  let two (f : FFmt) : Nat × List Nat :=
    let lo := fixedAdd f (old % 2 ^ 16) (v % 2 ^ 16)
    let hi := fixedAdd f (old / 2 ^ 16) (v / 2 ^ 16)
    (lo.bits + 2 ^ 16 * hi.bits, lo.ev ++ hi.ev)
  match et with
  | 5 => one .f64
  | 8 => two .f16
  | 9 => two .bf16
  | _ => one .f32

/-- The new value of an atomic (R278 Table 2), in `w` bits. -/
def atomNew (op : AtomOp) (et w old v : Nat) : Nat × List Nat :=
  let sgn := et == 1 || et == 3
  let i (x : Nat) : Int := if sgn then signed w x else x
  match op with
  | .add => ((old + v) % 2 ^ w, [])
  | .fadd => atomFadd et old v
  | .min => (if i v < i old then v else old, [])
  | .max => (if i old < i v then v else old, [])
  | .and => (old &&& v, [])
  | .or => (old ||| v, [])
  | .xor => (old ^^^ v, [])
  | .exch => (v, [])
  | .inc => (if v ≤ old then 0 else old + 1, [])
  | .dec => (if old = 0 ∨ v < old then v else old - 1, [])

/-- Encoding conditions of an atomic on the mode (R278, R297). -/
def State.atomConds (s : State) (op : AtomOp) (q : Bool) : List Cond :=
  let et := s.et
  s.encCond (op.readsEt && (!etOk et || et == 6 || et == 7)) 0x01 ++
  s.encCond (op == .fadd && !(if q then et == 5 else et == 4 || et == 8 || et == 9)) 0x01

/-- atom and red (R277, R278). -/
def State.atomic (s : State) (op : AtomOp) (red : Bool) (d : Operand) (q : Bool) (b : Fin 32) (x : Operand) :
    Host.Outcome State Fault Refusal :=
  let regs := if q then 2 else 1
  let w : Width := { bytes := 4 * regs, regs := regs }
  let data (l : Nat) : Nat := if op = .fadd then s.src (if q then .f64 else (floatShape s.et).getD .f32) d l else s.dataOf d w l
  s.rmwUnit (op.opcode + if op.readsEt then 256 * s.et else 0) d regs (4 * regs) red
    (s.encCond (if red then s.srcBad regs d else dstBad regs d) 0x01 ++ s.atomConds op q) b x
    (fun l old => let r := atomNew op s.et (32 * regs) old (data l); (some r.1, r.2))

def execAtomAdd (d : Operand) (q : Bool) (b : Fin 32) (x : Operand) (s : State) : Host.Outcome State Fault Refusal :=
  s.atomic .add false d q b x

def execAtomFadd (d : Operand) (q : Bool) (b : Fin 32) (x : Operand) (s : State) : Host.Outcome State Fault Refusal :=
  s.atomic .fadd false d q b x

def execAtomMin (d : Operand) (q : Bool) (b : Fin 32) (x : Operand) (s : State) : Host.Outcome State Fault Refusal :=
  s.atomic .min false d q b x

def execAtomMax (d : Operand) (q : Bool) (b : Fin 32) (x : Operand) (s : State) : Host.Outcome State Fault Refusal :=
  s.atomic .max false d q b x

def execAtomAnd (d : Operand) (q : Bool) (b : Fin 32) (x : Operand) (s : State) : Host.Outcome State Fault Refusal :=
  s.atomic .and false d q b x

def execAtomOr (d : Operand) (q : Bool) (b : Fin 32) (x : Operand) (s : State) : Host.Outcome State Fault Refusal :=
  s.atomic .or false d q b x

def execAtomXor (d : Operand) (q : Bool) (b : Fin 32) (x : Operand) (s : State) : Host.Outcome State Fault Refusal :=
  s.atomic .xor false d q b x

def execAtomExch (d : Operand) (q : Bool) (b : Fin 32) (x : Operand) (s : State) : Host.Outcome State Fault Refusal :=
  s.atomic .exch false d q b x

def execAtomInc (d : Operand) (q : Bool) (b : Fin 32) (x : Operand) (s : State) : Host.Outcome State Fault Refusal :=
  s.atomic .inc false d q b x

def execAtomDec (d : Operand) (q : Bool) (b : Fin 32) (x : Operand) (s : State) : Host.Outcome State Fault Refusal :=
  s.atomic .dec false d q b x

def execRedAdd (d : Operand) (q : Bool) (b : Fin 32) (x : Operand) (s : State) : Host.Outcome State Fault Refusal :=
  s.atomic .add true d q b x

def execRedFadd (d : Operand) (q : Bool) (b : Fin 32) (x : Operand) (s : State) : Host.Outcome State Fault Refusal :=
  s.atomic .fadd true d q b x

def execRedMin (d : Operand) (q : Bool) (b : Fin 32) (x : Operand) (s : State) : Host.Outcome State Fault Refusal :=
  s.atomic .min true d q b x

def execRedMax (d : Operand) (q : Bool) (b : Fin 32) (x : Operand) (s : State) : Host.Outcome State Fault Refusal :=
  s.atomic .max true d q b x

def execRedAnd (d : Operand) (q : Bool) (b : Fin 32) (x : Operand) (s : State) : Host.Outcome State Fault Refusal :=
  s.atomic .and true d q b x

def execRedOr (d : Operand) (q : Bool) (b : Fin 32) (x : Operand) (s : State) : Host.Outcome State Fault Refusal :=
  s.atomic .or true d q b x

def execRedXor (d : Operand) (q : Bool) (b : Fin 32) (x : Operand) (s : State) : Host.Outcome State Fault Refusal :=
  s.atomic .xor true d q b x

def execRedExch (d : Operand) (q : Bool) (b : Fin 32) (x : Operand) (s : State) : Host.Outcome State Fault Refusal :=
  s.atomic .exch true d q b x

def execRedInc (d : Operand) (q : Bool) (b : Fin 32) (x : Operand) (s : State) : Host.Outcome State Fault Refusal :=
  s.atomic .inc true d q b x

def execRedDec (d : Operand) (q : Bool) (b : Fin 32) (x : Operand) (s : State) : Host.Outcome State Fault Refusal :=
  s.atomic .dec true d q b x

/-- cas (R279): compare value and new value lie side by side in `d`. -/
def execCas (d : Operand) (q : Bool) (b : Fin 32) (x : Operand) (s : State) : Host.Outcome State Fault Refusal :=
  let n := if q then 8 else 4
  let w : Width := { bytes := 2 * n, regs := n / 2 }
  s.rmwUnit 0x99 d (n / 2) n false (s.encCond (dstBad (n / 2) d) 0x01) b x (fun l old =>
    let v := s.dataOf d w l
    (if old = v % 2 ^ (8 * n) then some (v / 2 ^ (8 * n)) else none, []))

/-- ldf (R280, R297, R435): it reads its cells, or parks until they are full. -/
def execLdf (d : Operand) (b : Fin 32) (x : Operand) (s : State) : Host.Outcome State Fault Refusal :=
  let ls := runLanes d s.exec
  let cs := ls.map (fun l => ({ lane := l, addr := BitVec.ofNat 56 (s.baseAddr b x l) } : Cell))
  let rs := ls.map (fun l => s.judgeLane .g .read 8 l (s.baseAddr b x l) 8)
  let is := (judgeAll rs).2
  let w : Wait := .future d.code cs
  let empty := match s.testWait w with
    | .holds .. => false
    | _ => true
  let bad := is.filter (fun i => (s.homeItem i).2)
  let pois := if d.isV then [] else laneCond 0x0A (maskOf (bad.map (·.lane))) 0 d.code
  s.issueMet (if d.isV then [] else bad) (s.encCond (dstBad 2 d) 0x01 ++ s.addrConds true b x ++ s.cleanCond [(1, x)] ++ pois ++
      laneCond 0x0F (s.peerLanes is) ++ s.waitCond (empty && !is.isEmpty)) rs
    (fun _ t => if s.exec = 0 then t else t.beginWait s.frag.pc w)

/-- stf (R281): writes the cell full. -/
def execStf (d : Operand) (b : Fin 32) (x : Operand) (s : State) : Host.Outcome State Fault Refusal :=
  let ls := lanesOf s.exec
  let w : Width := { bytes := 8, regs := 2 }
  let rs := ls.map (fun l => s.judgeLane .g .write 8 l (s.baseAddr b x l) 8)
  s.issueItems (s.encCond (dstBad 2 d) 0x01 ++ s.addrConds true b x ++ s.cleanCond [(2, d), (1, x)]) rs
    (State.storeItems (fun l => bytesOf 8 (s.dataOf d w l % 2 ^ 63 + 2 ^ 63)))

end Sys2Proof.Machine
end

