-- ==== Sys2Proof/Machine/Tbars.lean ====
section
/-!
DEFINITION. Transaction barriers, batches, slots, fences, register spill and fill (spec/11_isa_memory.md R286, R289 to
R295, R297, spec/04_memory.md R100, R101, spec/05_consistency.md R110 to R112).
-/

namespace Sys2Proof.Machine

/-- The mask of the lowest lane of the execution mask: where operands of a whole wave are read. -/
def State.lowMask (s : State) : LaneMask :=
  match lowest s.exec with
  | some l => BitVec.twoPow 32 l
  | none => 0

/-- A condition on operands read in the lowest lane of the execution mask. -/
def State.lowWhen (s : State) (b : Bool) (code : Nat) (addr : Nat := 0) : List Cond :=
  laneCond code (if b then s.lowMask else 0) addr

/-- A transaction barrier (R291 Table 6); `pend` is the signed count of pending bytes. -/
structure Tbar where
  phase : Bool
  cnt : Nat
  due : Nat
  pend : Int
  deriving DecidableEq, Repr

/-- A barrier word's fields. -/
def Tbar.ofNat (v : Nat) : Tbar :=
  { phase := bitAt v 63, cnt := field v 36 8, due := field v 28 8, pend := signed 28 v }

/-- A barrier's word. -/
def Tbar.toNat (b : Tbar) : Nat :=
  (if b.phase then 2 ^ 63 else 0) + b.cnt % 256 * 2 ^ 36 + b.due % 256 * 2 ^ 28 + unsigned 28 b.pend

/-- Completion of a phase (R292). -/
def Tbar.settle (b : Tbar) : Tbar := if b.due = 0 ∧ b.pend = 0 then { b with phase := !b.phase, due := b.cnt } else b

/-- A barrier address names a barrier of a workgroup (R291): reserved bits zero, inside its window. -/
def Workgroup.tbarIn (g : Workgroup) (a : Nat) : Bool :=
  decide (field a 19 12 = 0) && decide (a % 2 ^ 19 + 8 ≤ if bitAt a 31 then 4 * g.cluster else g.localBytes)

/-- The barrier at an address of the focused workgroup, and whether its sector is poisoned. -/
def State.tbarAt (s : State) (a : Nat) : Tbar × Bool :=
  let r := s.homeItem (s.tbarItem a)
  (Tbar.ofNat (natOfBytes r.1), r.2)

/-- The shared form of the barrier instructions (R292, R297, R480): `bad` judges the barrier found and the operand `b`. -/
def State.tbarUnit (s : State) (conds : List Cond) (a : Operand) (code : Nat) (bad : Tbar → Bool) (eff : Nat → State → State) :
    Host.Outcome State Fault Refusal :=
  let addr := s.lowInt a
  let odd := decide (addr % 8 ≠ 0)
  let out := !s.wg.tbarIn addr
  let b := s.tbarAt addr
  let found := !odd && !out
  s.issueLive (s.encCond (s.srcBad 1 a) 0x01 ++ conds ++ s.cleanCond [(1, a)] ++ s.lowWhen odd 0x07 addr ++ s.lowWhen out 0x0B addr ++
      laneCond 0x0A (if found && b.2 then s.lowMask else 0) 0 a.code ++ s.lowWhen (found && bad b.1) code)
    (eff addr)

/-- Writes a barrier, as one path-v event. -/
def State.putTbar (s : State) (a : Nat) (b : Tbar) : State := s.writeItem (s.tbarItem a) (bytesOf 8 b.toNat)

/-- tbar.init (R292). -/
def execTbarInit (a b : Operand) (s : State) : Host.Outcome State Fault Refusal :=
  let n := s.lowInt b
  s.tbarUnit (s.encCond (s.srcBad 1 b) 0x01 ++ s.cleanCond [(1, b)]) a 0x0E (fun _ => decide (n = 0) || decide (255 < n))
    (fun addr t => t.putTbar addr { phase := false, cnt := n, due := n, pend := 0 })

/-- tbar.expect (R292). -/
def execTbarExpect (a b : Operand) (s : State) : Host.Outcome State Fault Refusal :=
  let n := s.lowInt b
  s.tbarUnit (s.encCond (s.srcBad 1 b) 0x01 ++ s.cleanCond [(1, b)]) a 0x0E
    (fun x => decide (2 ^ 27 ≤ n) || decide ((2 ^ 27 : Int) ≤ x.pend + n))
    (fun addr t => let x := (s.tbarAt addr).1; t.putTbar addr { x with pend := x.pend + n : Tbar }.settle)

/-- tbar.arrive (R292). -/
def execTbarArrive (d a : Operand) (s : State) : Host.Outcome State Fault Refusal :=
  s.tbarUnit (s.encCond (dstBad 1 d) 0x01) a 0x0E (fun x => decide (x.due = 0))
    (fun addr t =>
      let x := (s.tbarAt addr).1
      (t.putTbar addr { x with due := x.due - 1 : Tbar }.settle).putAll d s.exec (if x.phase then 1 else 0))

/-- tbar.wait (R292, R435). -/
def execTbarWait (a b : Operand) (s : State) : Host.Outcome State Fault Refusal :=
  let ph := decide (s.lowInt b % 2 = 1)
  s.tbarUnit (s.encCond (s.srcBad 1 b) 0x01 ++ s.cleanCond [(1, b)] ++ s.waitCond true) a 0x0F (fun x => decide (x.cnt = 0))
    (fun addr t => t.beginWait s.frag.pc (.tbar addr ph))

/-- slot.free (R286, R112): the freed count reaches the loader after the matrix entries posted before it, and behind
fences m,c and v,c of the wave. -/
def execSlotFree (a : Operand) (s : State) : Host.Outcome State Fault Refusal :=
  let n := s.lowInt a
  s.issueLive (s.encCond (s.srcBad 1 a) 0x01 ++ s.cleanCond [(1, a)] ++ s.lowWhen (decide (15 < n) || decide (15 < s.wg.fsc + n)) 0x0E)
    (fun t =>
      let t := t.markSeen (fun e => e.path == 0 || e.path == 3) 2 (some t.wave.id)
      { t with wg := { t.wg with fsc := t.wg.fsc + n, frees := if n = 0 then t.wg.frees else t.wg.frees ++ [(t.nextId, n)] } })

/-- seal d (R289): when it would leave sixteen sealed batches incomplete it parks until the oldest of them is complete. -/
def execSealBatch (d : Operand) (s : State) : Host.Outcome State Fault Refusal :=
  let open_ := s.openBatches s.wave.id
  let full := decide (16 ≤ open_.length) && decide (s.exec ≠ 0) && open_.contains s.wave.batch
  match s.judged .plain (s.encCond (dstBad 1 d) 0x01 ++ s.waitCond full) with
  | some c => .next (s.takeTrap s.exec c)
  | none =>
    if full then .next (s.parkOldest (open_.foldl min s.wave.batch))
    else
      let t := s.retire .plain
      .next (if s.exec = 0 then t
        else State.putAll { t with wave := { t.wave with batch := t.wave.batch + 1 } } d s.exec (s.wave.batch % 256))

/-- bwait k (R289). -/
def execBwait (k : Fin 16) (s : State) : Host.Outcome State Fault Refusal :=
  s.issueLive (s.waitCond true) (fun t => t.beginWait s.frag.pc (.batch (s.wave.batch - k.val)))

/-- The writes that a fence with code `p` by wave `w` of a core puts in its before set (R110): of path v all; of an engine's
path those of commands whose completion the wave has observed, or whose completion write precedes the fence in the v order;
of a peer or the host none that this device holds. -/
def State.inBefore (s : State) (p w core : Nat) (e : Older) : Bool :=
  e.path == p &&
    (p == 0 || e.cmd == 0 || e.seen.contains (8 * 2 ^ 32) || e.seen.contains (8 * 2 ^ 32 + w + 1) ||
      s.ended.any (fun x => x.2.1 == e.cmd && decide (x.2.2 ≤ s.ptsOf core)))

/-- The effect of fence.x p,q by wave `w` of a core (R110): the after set observes the before set. -/
def State.fence (s : State) (core p q w : Nat) : State :=
  if p = q ∧ p = 0 then s
  else
    let sel := s.inBefore p w core
    if q = 0 then s.orderV core sel else s.markSeen sel q (some w)

/-- A completion write of commands on a line of path v, at a timestamp (R110); those of which no write is left that some path
may not observe need no note. -/
def State.noteEnd (s : State) (line ts : Nat) (cmds : List Nat) : State :=
  let live (c : Nat) : Bool := s.older.any (fun e => e.cmd == c)
  { s with ended := (cmds.filter live).map (fun c => (line, c, ts)) ++ s.ended.filter (fun x => live x.2.1) }

/-- fence.x p,q (R110, R294): the fragment is blocked until the fence completes. -/
def execFenceX (p q : Fin 8) (s : State) : Host.Outcome State Fault Refusal :=
  s.issueLive [] (fun t =>
    if (p.val = 0 ∧ q.val = 0) ∨ p.val = 1 then t
    else (t.fence t.wave.core p.val q.val t.wave.id).block s.frag.pc (.fence p.val q.val false))

/-- fence.h (R111). -/
def execFenceH (s : State) : Host.Outcome State Fault Refusal :=
  s.issueLive [] (fun t => t.block s.frag.pc (.fence 7 7 true))

/-- A fence whose before set holds path-h accesses has to wait for them (R110, R111). -/
def State.fenceReady (s : State) (wave p : Nat) (whole : Bool) : Bool :=
  !(p == 7 || whole) || (!s.held.any (fun h => h.wave == wave + 1) && !s.pendLoads.any (fun l => l.wave == wave))

/-- A fence completes (R294): its fragment may issue again. -/
def execFenceComplete (wave slot : Nat) (s : State) : Host.Outcome State Fault Refusal :=
  .next (s.wakeIf (fun w f => w.id == wave && f.slot == slot && (match f.wait with
    | some (.fence p _ whole) => s.fenceReady wave p whole
    | _ => false)))

/-- The form with the smallest payload that restores every present lane, and the payload (R100 Table 10, R101). -/
def spillForm (present : LaneMask) (vals : List Nat) : Nat × List Byte :=
  let b := vals.headD 0
  let ls := (lanesOf present).map (fun l => (l, vals.getD l 0))
  let delta (v : Nat) : Int := signed 32 ((v + 2 ^ 32 - b) % 2 ^ 32)
  let step := (vals.getD 1 0 + 2 ^ 32 - b) % 2 ^ 32
  let fits (w : Nat) : Bool := ls.all (fun x => decide (unsigned 32 (signed w (unsigned w (delta x.2))) = unsigned 32 (delta x.2)))
  if ls.all (fun x => x.2 == 0) then (0, [])
  else if ls.all (fun x => x.2 == b) then (1, bytesOf 4 b)
  else if ls.all (fun x => x.2 == (b + x.1 * step) % 2 ^ 32) then (2, bytesOf 4 b ++ bytesOf 4 step)
  else if fits 8 then (3, bytesOf 4 b ++ vals.flatMap (fun v => bytesOf 1 (unsigned 8 (delta v))))
  else if fits 16 then (4, bytesOf 4 b ++ vals.flatMap (fun v => bytesOf 2 (unsigned 16 (delta v))))
  else (5, vals.flatMap (bytesOf 4))

/-- Bytes of the payload of a form. -/
def spillSize : Nat → Nat
  | 0 => 0
  | 1 => 4
  | 2 => 8
  | 3 => 36
  | 4 => 68
  | _ => 128

/-- What lane `l` restores from a payload (R100). -/
def spillLane (code : Nat) (p : List Byte) (l : Nat) : Nat :=
  let b := natAt p 0 4
  match code with
  | 0 => 0
  | 1 => b
  | 2 => (b + l * natAt p 4 4) % 2 ^ 32
  | 3 => (b + unsigned 32 (signed 8 (natAt p (4 + l) 1))) % 2 ^ 32
  | 4 => (b + unsigned 32 (signed 16 (natAt p (4 + 2 * l) 2))) % 2 ^ 32
  | _ => natAt p (4 * l) 4

/-- The image of registers in their forms (R101): format bytes padded to a multiple of 16, then the payloads. -/
def spillBytes (fs : List (Nat × List Byte)) : List Byte :=
  fs.map (fun f => BitVec.ofNat 8 f.1) ++ List.replicate ((16 - fs.length % 16) % 16) 0 ++ fs.flatMap (·.2)

/-- The image of a list of registers. -/
def spillImage (present : LaneMask) (regs : List (List Nat)) : List Byte := spillBytes (regs.map (spillForm present))

/-- Offsets of the payloads in an image, from its format codes. -/
def spillOffsets : Nat → List Nat → List (Nat × Nat)
  | _, [] => []
  | o, c :: cs => (c, o) :: spillOffsets (o + spillSize c) cs

/-- Conditions of spl and fil on their encoding and on the count `n`, which the lowest lane of the execution mask gives, if
there is one (R295, R297, R465). -/
def State.spillConds (s : State) (d a b : Operand) (n : Nat) : List Cond :=
  let count := decide (s.exec ≠ 0) && (decide (n = 0) || decide (128 < d.num + n))
  s.encCond (!d.isV || s.srcBad 1 a || !(b.isX && b.aligned 2) || count) 0x01 ++ s.cleanCond [(1, a)]

/-- The accesses of a run of bytes at a virtual address, line by line, made for one lane. -/
def State.runItems (s : State) (acc : Access) (lane va n : Nat) : List (Except Cond Item) :=
  (pieces va n).map (fun p => s.judgeLane .g acc 1 lane (p.1 % 2 ^ 56) p.2.2)

/-- The accesses of a run of bytes, 16 B sector by sector: the granule in which poison is judged (R453). -/
def State.sectorItems (s : State) (acc : Access) (lane va n : Nat) : List (Except Cond Item) :=
  (sectorsOf (n / 16 + 2) va 0 n).map (fun p => s.judgeLane .g acc 1 lane (p.1 % 2 ^ 56) p.2.2)

/-- spl (R295, R297). -/
def execSpl (d a b : Operand) (s : State) : Host.Outcome State Fault Refusal :=
  let n := s.lowInt a
  let l := (lowest s.exec).getD 0
  let va := s.addr56 b l
  let regs := (List.range n).map (fun i => (List.range 32).map (fun k => if s.wave.present.getLsbD k then (s.vreg (d.num + i) k).toNat else 0))
  let bad := lanesWhere s.wave.present (fun k => (List.range n).any (fun i => s.vpoison (d.num + i) k))
  let ok := decide (s.exec ≠ 0) && (s.spillConds d a b n).isEmpty
  let image := if ok then spillImage s.wave.present regs else []
  s.issueItems (s.spillConds d a b n ++ laneCond 0x0A (if ok then bad else 0) 0 d.code ++
      s.lowWhen (decide (va % 16 ≠ 0)) 0x07 va) (if ok then s.runItems .write l va image.length else [])
    (fun is t => (is.zip (pieces va image.length)).foldl
      (fun t x => t.writeItem x.1 ((image.drop x.2.2.1).take x.2.2.2)) (t.askUnit partMask is))

/-- Reads the accesses of a run of bytes, one after another: the bytes, and whether each came with a poisoned line. -/
def readRun : List Item → State → List (Byte × Bool) × State
  | [], s => ([], s)
  | i :: is, s =>
    let r := s.readItem i
    let t := readRun is r.2
    (r.1.1.map (fun b => (b, r.1.2)) ++ t.1, t.2)

/-- Reads the accesses of a run of bytes at one timestamp (R114). -/
def readRunTogether (is : List Item) (s : State) : List (Byte × Bool) × State :=
  let r := readTogether is s
  (r.1.flatMap (fun x => x.2.1.map (fun b => (b, x.2.2))), r.2)

/-- fil (R295, R297): a format byte of a clean sector and a poisoned sector are judged together (R409). -/
def execFil (d a b : Operand) (s : State) : Host.Outcome State Fault Refusal :=
  let n := s.lowInt a
  let l := (lowest s.exec).getD 0
  let va := s.addr56 b l
  let ok := decide (s.exec ≠ 0) && (s.spillConds d a b n).isEmpty
  let fmtLen := ceilDiv n 16 * 16
  let heads := if ok then s.runItems .read l va fmtLen else []
  let hj := judgeAll heads
  let head := if hj.1.isEmpty then (readRun (judgeAll (if ok then s.sectorItems .read l va fmtLen else [])).2 s).1 else []
  let codes := (head.take n).map (fun x => x.1.toNat)
  let dirty := head.any (·.2)
  let wrong := (head.take n).any (fun x => !x.2 && decide (5 < x.1.toNat))
  let size := (codes.map spillSize).foldl (· + ·) 0
  let body := if dirty || wrong || head.isEmpty then [] else s.runItems .read l (va + fmtLen) size
  s.issueMet hj.2 (s.spillConds d a b n ++ s.lowWhen (decide (va % 16 ≠ 0)) 0x07 va ++
      laneCond 0x0A (if dirty then s.lowMask else 0) 0 b.code ++ s.encCond wrong 0x02) (heads ++ body)
    (fun is t =>
      let r := readRun is t
      let bs := r.1.map (·.1)
      (spillOffsets fmtLen codes).zipIdx.foldl (fun t x =>
        let p := slice bs x.1.2 (spillSize x.1.1)
        let bad := ((r.1.drop x.1.2).take (spillSize x.1.1)).any (·.2)
        (lanesOf s.exec).foldl (fun t k => t.setV (d.num + x.2) k 1 (spillLane x.1.1 p k) bad) t) r.2)

end Sys2Proof.Machine
end

