-- ==== Sys2Proof/Machine/Interval.lean ====
section
/-!
DEFINITION. Interval construction, reading, hulls and boxes, and bisection rings (spec/10_isa_float.md R260 to R268,
R270, R473).
-/

namespace Sys2Proof.Machine

/-- An interval element type (R244). -/
def ivlOk (et : Nat) : Bool := decide (et = 6) || decide (et = 7)

/-- The shape of an interval's bound. -/
def State.boundSh (s : State) : Shape := if s.et = 7 then .f64 else .f32

/-- An interval operand of the unit (R133). -/
def State.ivl (s : State) (o : Operand) (l : Nat) : Ivl := s.mode.readIvl s.ptFmt (s.src s.fsh o l)

/-- ipt (R260). -/
def execIpt (d a b : Operand) (s : State) : Host.Outcome State Fault Refusal :=
  let f := s.ptFmt
  let n := s.boundSh.regs
  let made (l : Nat) : Ivl :=
    let i : Ivl := { lo := s.src s.boundSh a l, hi := s.src s.boundSh b l }
    if i.empty f then f.emptyIvl else s.mode.readIvl f (i.raw f)
  s.floatUnit (ivlOk s.et) false d s.fsh.regs [(n, a), (n, b)]
    (s.emptyCond d (fun _ => false) (fun l => (made l).empty f)) (fun l => { v := (made l).raw f })

/-- The midpoint of an interval (R261): NaN for an empty one. -/
def Mode.mid (m : Mode) (f : FFmt) (i : Ivl) : Elem :=
  let b := i.nums f
  let max_ (n : Bool) : Elem := { bits := f.signed n f.maxBits }
  if i.empty f then { bits := f.nanBits false .qnan }
  else match b.1, b.2 with
    | .inf n, .inf n' => if n = n' then { bits := i.lo } else { bits := 0 }
    | .inf n, _ => max_ n
    | _, .inf n => max_ n
    | _, _ => m.roundFixed f 0 { v := (sumNums 0 [b.1, b.2]).shifted (-1) }

/-- The width of an interval (R261): NaN for an empty one. -/
def Mode.width (m : Mode) (f : FFmt) (i : Ivl) : Elem :=
  let b := i.nums f
  if i.empty f then { bits := f.nanBits false .qnan }
  else if b.1.isInf || b.2.isInf then { bits := (f.round 0 0 false false (.inf false)).bits }
  else m.roundFixed f 3 { v := sumNums 3 [b.2, b.1.withSign (!b.1.neg)] }

/-- ilo, ihi, imid and iwid (R260, R261): `g` reads an interval. -/
def State.endUnit (s : State) (d a : Operand) (g : Mode → FFmt → Ivl → Elem) : Host.Outcome State Fault Refusal :=
  let f := s.ptFmt
  s.floatUnit (ivlOk s.et) false d s.boundSh.regs [(s.fsh.regs, a)]
    (s.emptyCond d (fun l => (s.ivl a l).empty f) (fun _ => false)) (fun l => (g s.mode f (s.ivl a l)).out false)

def execIlo (d a : Operand) (s : State) : Host.Outcome State Fault Refusal :=
  s.endUnit d a (fun _ f i => { bits := if i.empty f then f.emptyIvl.lo else i.lo })

def execIhi (d a : Operand) (s : State) : Host.Outcome State Fault Refusal :=
  s.endUnit d a (fun _ f i => { bits := if i.empty f then f.emptyIvl.hi else i.hi })

def execImid (d a : Operand) (s : State) : Host.Outcome State Fault Refusal := s.endUnit d a Mode.mid

def execIwid (d a : Operand) (s : State) : Host.Outcome State Fault Refusal := s.endUnit d a Mode.width

/-- The hull of two intervals (R262): an empty one is ignored. -/
def Ivl.hull (f : FFmt) (a b : Ivl) : Ivl :=
  if a.empty f then (if b.empty f then f.emptyIvl else b)
  else if b.empty f then a
  else
    { lo := if ltNum (f.decode b.lo) (f.decode a.lo) then b.lo else a.lo
      hi := if ltNum (f.decode a.hi) (f.decode b.hi) then b.hi else a.hi }

/-- The intersection of two intervals (R262). -/
def Ivl.sect (f : FFmt) (a b : Ivl) : Ivl :=
  let i : Ivl :=
    { lo := if ltNum (f.decode a.lo) (f.decode b.lo) then b.lo else a.lo
      hi := if ltNum (f.decode b.hi) (f.decode a.hi) then b.hi else a.hi }
  if a.empty f || b.empty f || i.empty f then f.emptyIvl else i

/-- ihull and isect. -/
def State.joinUnit (s : State) (d a b : Operand) (g : FFmt → Ivl → Ivl → Ivl) : Host.Outcome State Fault Refusal :=
  let f := s.ptFmt
  let n := s.fsh.regs
  let out (l : Nat) : Ivl := g f (s.ivl a l) (s.ivl b l)
  s.floatUnit (ivlOk s.et) false d n [(n, a), (n, b)]
    (s.emptyCond d (fun l => (s.ivl a l).empty f || (s.ivl b l).empty f) (fun l => (out l).empty f))
    (fun l => { v := (out l).raw f })

def execIhull (d a b : Operand) (s : State) : Host.Outcome State Fault Refusal := s.joinUnit d a b Ivl.hull

def execIsect (d a b : Operand) (s : State) : Host.Outcome State Fault Refusal := s.joinUnit d a b Ivl.sect

/-- a in b (R262). -/
def Ivl.inside (f : FFmt) (a b : Ivl) : Tri :=
  let x := a.nums f
  let y := b.nums f
  if a.empty f || b.empty f then .u
  else if cmpNum y.1 x.1 ≤ 0 ∧ cmpNum x.2 y.2 ≤ 0 then .t
  else if cmpNum x.2 y.1 < 0 ∨ cmpNum y.2 x.1 < 0 then .f
  else .u

/-- iin (R262). -/
def execIin (d a b : Operand) (s : State) : Host.Outcome State Fault Refusal :=
  let f := s.ptFmt
  let n := s.fsh.regs
  s.issue (s.encCond (!ivlOk s.et) 0x01 ++ s.encCond (!d.isP) 0x01 ++ s.encCond ([a, b].any (s.srcBad n)) 0x01 ++
      s.poisonCond d [(n, a), (n, b)] ++
      s.emptyCond d (fun l => (s.ivl a l).empty f || (s.ivl b l).empty f) (fun _ => false))
    (fun t => (lanesOf s.exec).foldl (fun t l => t.setP d.num l ((s.ivl a l).inside f (s.ivl b l))) t)

/-- A box operand names an aligned run of registers inside its file (R263, R270). -/
def boxOk (n : Nat) (o : Operand) : Bool := o.isReg && o.aligned n && decide (o.num + 3 * n ≤ if o.isV then 128 else 64)

/-- The three intervals of a box (R263). -/
def State.box3 (s : State) (o : Operand) (l : Nat) : List Ivl :=
  let n := s.fsh.regs
  let reg (r : Nat) : Word := if o.isV then s.vreg r l else s.xreg r
  [0, 1, 2].map (fun k => s.mode.readIvl s.ptFmt (regsNat reg (o.num + k * n) n))

/-- A box with an empty component is empty (R263). -/
def boxEmpty (f : FFmt) (b : List Ivl) : Bool := b.any (Ivl.empty f)

/-- The componentwise hull of two boxes, an empty one ignored (R263). -/
def boxHull (f : FFmt) (a b : List Ivl) : List Ivl :=
  if boxEmpty f a then (if boxEmpty f b then List.replicate 3 f.emptyIvl else b)
  else if boxEmpty f b then a
  else (a.zip b).map (fun p => p.1.hull f p.2)

/-- Two boxes meet (R263). -/
def boxMeets (f : FFmt) (a b : List Ivl) : Tri :=
  if boxEmpty f a || boxEmpty f b then .u
  else if (a.zip b).all (fun p =>
      decide (cmpNum (p.1.nums f).1 (p.2.nums f).2 ≤ 0) && decide (cmpNum (p.2.nums f).1 (p.1.nums f).2 ≤ 0)) then .t
  else .f

/-- The bits of a box in registers. -/
def boxRaw (f : FFmt) (b : List Ivl) : Nat := b.foldr (fun i r => i.raw f + 2 ^ (2 * f.width) * r) 0

/-- bbox (R263). -/
def execBbox (d a b : Operand) (s : State) : Host.Outcome State Fault Refusal :=
  let f := s.ptFmt
  let n := s.fsh.regs
  let ea (l : Nat) : Bool := boxEmpty f (s.box3 a l)
  let eb (l : Nat) : Bool := boxEmpty f (s.box3 b l)
  let pois (l : Nat) : Bool := s.srcPois (3 * n) a l || s.srcPois (3 * n) b l
  let conds := s.encCond (!ivlOk s.et) 0x01 ++ s.encCond (!boxOk n a || !boxOk n b) 0x01 ++
    s.encCond (!(d.isP || boxOk n d)) 0x01 ++ s.poisonCond d [(3 * n, a), (3 * n, b)] ++
    s.emptyCond d (fun l => ea l || eb l) (fun _ => false)
  s.issue conds (fun t =>
    if d.isP then (lanesOf s.exec).foldl (fun t l => t.setP d.num l (boxMeets f (s.box3 a l) (s.box3 b l))) t
    else t.writeLanes d (3 * n) ((runLanes d s.exec).map (fun l =>
      (l, { v := boxRaw f (boxHull f (s.box3 a l) (s.box3 b l)), pois := pois l }))))

/-- A ring header as it is read (R264 Table 10). -/
structure Ring where
  off : Nat
  head : Nat
  tail : Nat
  log2n : Nat
  esz : Nat
  zero : Bool
  deriving DecidableEq, Repr

/-- The records in a ring. -/
def Ring.held (r : Ring) : Nat := (r.tail + 2 ^ 32 - r.head) % 2 ^ 32

/-- The bytes of a record. -/
def Ring.size (r : Ring) : Nat := if r.esz = 0 then 16 else 32

/-- The local offset of record `i` (R264). -/
def Ring.recAt (r : Ring) (i : Nat) : Nat := r.off + 16 + r.size * (i % 2 ^ 32 % 2 ^ r.log2n)

/-- A header is legal for an element type and lies within `n` bytes of local memory (R270). -/
def Ring.ok (r : Ring) (et n : Nat) : Bool :=
  decide (1 ≤ r.log2n) && decide (r.log2n ≤ 12) && decide (r.esz = if et = 7 then 1 else 0) && r.zero &&
  decide (r.held ≤ 2 ^ r.log2n) && decide (r.off + 16 + r.size * 2 ^ r.log2n ≤ n)

/-- The ring at the offset that operand `a` names, as path v observes it, and whether its header is poisoned; none
outside the local memory. -/
def State.ringAt (s : State) (a : Operand) : Option (Ring × Bool) :=
  let off := s.lowInt a
  if off + 16 ≤ s.wg.localBytes then
    let h := s.localBytes s.wg 0 s.wave.id off 16
    some ({ off := off, head := natAt h.1 0 4, tail := natAt h.1 4 4, log2n := natAt h.1 8 1, esz := natAt h.1 9 1,
            zero := zeroAt h.1 10 6 }, h.2)
  else none

/-- Conditions of the ring that operand `a` names (R245, R270). -/
def State.ringConds (s : State) (a : Operand) : List Cond :=
  s.lowCond 1 a ++ s.lowWhen (decide (s.lowInt a % 16 ≠ 0)) 0x07 (s.lowInt a) ++
  (match s.ringAt a with
    | none => s.lowWhen true 0x0B (s.lowInt a)
    | some (r, bad) =>
      if bad then laneCond 0x0A s.lowMask 0 a.code
      else s.lowWhen (!r.ok s.et s.wg.localBytes) 0x0B (s.lowInt a))

/-- The ring, or an empty one where the unit traps. -/
def State.ringOr (s : State) (a : Operand) : Ring :=
  (s.ringAt a).elim { off := 0, head := 0, tail := 0, log2n := 1, esz := 0, zero := true } (·.1)

/-- An access to the focused workgroup's local memory. -/
def scratchItem (off n : Nat) : Item := { lane := 0, addr := off, n := n, spot := .scratch off }

/-- The reads of `n` bytes of local memory, and the writes of bytes there, by their 128 B lines (R114). -/
def scratchReads (off n : Nat) : List Item := (pieces off n).map (fun p => scratchItem p.1 p.2.2)

def scratchWrites (off : Nat) (bs : List Byte) : List (Item × List Byte) :=
  (pieces off bs.length).map (fun p => (scratchItem p.1 p.2.2, (bs.drop p.2.1).take p.2.2))

/-- Accesses to a ring that take one logical timestamp (R114, R267): the reads, and the writes. -/
def State.ringAccess (s : State) (reads : List Item) (writes : List (Item × List Byte)) : State :=
  let ts := max (s.readTs reads) (s.writeTs (writes.map (·.1)))
  writes.foldl (fun s x => s.writeItemAt (some ts) x.1 x.2) (readItemsAt ts reads s).2

/-- The lanes that ibis bisects, with their midpoints, ascending, of the lanes given: no more than `room` (R265). -/
def State.bisects (s : State) (d : Operand) : Nat → List Nat → List (Nat × Nat)
  | _, [] => []
  | 0, _ => []
  | room + 1, l :: ls =>
    let f := s.ptFmt
    let i := s.ivl d l
    let m := (s.mode.mid f i).bits
    if i.empty f || cmpNum (f.decode m) (i.nums f).1 == 0 || cmpNum (f.decode m) (i.nums f).2 == 0 then
      s.bisects d (room + 1) ls
    else (l, m) :: s.bisects d room ls

/-- The bytes of a record (R264). -/
def ringRecord (f : FFmt) (i : Ivl) (tag : Nat) : List Byte :=
  let w := f.width / 8
  bytesOf w i.lo ++ bytesOf w i.hi ++ bytesOf 4 tag ++ List.replicate (if w = 4 then 4 else 12) 0

/-- ibis (R265, R267). -/
def execIbis (d a b : Operand) (s : State) : Host.Outcome State Fault Refusal :=
  let f := s.ptFmt
  let n := s.fsh.regs
  let ls := runLanes d s.exec
  let r := s.ringOr a
  let cut := s.bisects d (2 ^ r.log2n - r.held) ls
  let push := cut.map (·.1)
  let badD := push.filter (s.srcPois n d)
  let badB := push.filter (fun l => s.srcPois 1 b l && !s.srcPois n d l)
  let ring := s.ringConds a
  let conds := s.encCond (!ivlOk s.et) 0x01 ++ s.encCond (dstBad n d) 0x01 ++ s.encCond ([a, b].any (s.srcBad 1)) 0x01 ++
    s.emptyCond d (fun l => (s.ivl d l).empty f) (fun _ => false) ++ ring ++
    (if ring.isEmpty then laneCond 0x0A (maskOf badD) 0 d.code ++ laneCond 0x0A (maskOf badB) 0 b.code else [])
  s.issueLive conds (fun t =>
    let recs := cut.zipIdx.flatMap (fun x =>
      scratchWrites (r.recAt (r.tail + x.2)) (ringRecord f { lo := x.1.2, hi := (s.ivl d x.1.1).hi } (s.int b x.1.1)))
    let up := if cut.isEmpty then [] else [(scratchItem (r.off + 4) 4, bytesOf 4 (r.tail + cut.length))]
    let t := t.ringAccess [scratchItem r.off 16] (recs ++ up)
    let t := ls.foldl (fun t l => t.setP 15 l (if push.contains l then .t else .f)) t
    (t.writeLanes d n (cut.map (fun x => (x.1, { v := Ivl.raw f { lo := (s.ivl d x.1).lo, hi := x.2 } })))).logLanes
      s.frag.pc (ls.map (fun l => (l, { ev := (s.mode.mid f (s.ivl d l)).ev }))))

/-- Record `i` of a ring as path v observes it: its interval's bits, its tag and its poison (R264). -/
def State.ringRead (s : State) (r : Ring) (i : Nat) : Nat × Nat × Bool :=
  let h := s.localBytes s.wg 0 s.wave.id (r.recAt i) r.size
  let w := s.ptFmt.width / 8
  (natAt h.1 0 (2 * w), natAt h.1 (2 * w) 4, h.2)

/-- itake (R266, R267). -/
def execItake (d a b : Operand) (s : State) : Host.Outcome State Fault Refusal :=
  let f := s.ptFmt
  let n := s.fsh.regs
  let ls := runLanes d s.exec
  let r := s.ringOr a
  let took := ((ls.take r.held).zipIdx).map (fun x => (x.1, s.ringRead r (r.head + x.2)))
  let ring := s.ringConds a
  let conds := s.encCond (!ivlOk s.et) 0x01 ++ s.encCond (dstBad n d) 0x01 ++ s.encCond (s.srcBad 1 a) 0x01 ++
    s.encCond (!b.isV) 0x01 ++ ring ++
    (if ring.isEmpty then
      (if s.emptyTraps then laneCond 0x06 (maskOf ((took.filter (fun x => (Ivl.ofRaw f x.2.1).empty f)).map (·.1))) else []) ++
      (if d.isV then [] else laneCond 0x0A (maskOf ((took.filter (fun x => x.2.2.2)).map (·.1))) 0 a.code)
    else [])
  s.issueLive conds (fun t =>
    let reads := scratchItem r.off 16 :: took.zipIdx.flatMap (fun x => scratchReads (r.recAt (r.head + x.2)) r.size)
    let up := if took.isEmpty then [] else [(scratchItem r.off 4, bytesOf 4 (r.head + took.length))]
    let t := t.ringAccess reads up
    let t := ls.foldl (fun t l => t.setP 15 l (if (took.map (·.1)).contains l then .t else .f)) t
    let t := t.writeLanes d n (took.map (fun x => (x.1, { v := x.2.1, pois := x.2.2.2 })))
    t.writeLanes b 1 (took.map (fun x => (x.1, { v := x.2.2.1, pois := x.2.2.2 }))))

end Sys2Proof.Machine
end

