-- ==== Sys2Proof/Machine/Blocks.lean ====
section
/-!
DEFINITION. What engine commands are described by (spec/07_encoding.md R173, R175, R176, spec/11_isa_memory.md R282,
spec/12_isa_matrix.md R301 to R304): format words, matrix command blocks, operand addresses, copy descriptors; and how
commands are posted (R283, R288, R289, spec/15_tenancy.md R370).
-/

namespace Sys2Proof.Machine

/-- The fields of a format word (R173 Table 12). -/
structure FmtWord where
  a : Nat
  b : Nat
  acc : Nat
  at_ : Bool
  bt : Bool
  satf : Bool
  deriving DecidableEq, Repr

def FmtWord.ofNat (w : Nat) : FmtWord :=
  { a := field w 0 5, b := field w 5 5, acc := field w 10 3, at_ := bitAt w 13, bt := bitAt w 14, satf := bitAt w 15 }

/-- The width in bits of an element of a matrix operand format (R128 Table 3). -/
def fmtBits (c : Nat) : Nat :=
  [64, 32, 32, 16, 16, 8, 8, 8, 6, 6, 4, 16, 16, 8, 8, 4, 4, 2, 1, 8, 8, 8, 6, 6, 4, 8, 4, 64].getD c 8

/-- A q-format stores tiles (R128, R141). -/
def fmtTiled (c : Nat) : Bool := decide (19 ≤ c) && decide (c ≤ 26)

/-- An integer format (R304 Table 4). -/
def fmtInt (c : Nat) : Bool := (decide (11 ≤ c) && decide (c ≤ 18)) || c == 25 || c == 26

/-- The row of Table 3 of the device organisation in which a format lies (R21, R304). -/
def fmtRow (c : Nat) : Nat :=
  if c = 0 then 6 else if c = 27 then 5 else if c = 1 ∨ c = 2 then 4
  else if fmtBits c = 16 then 3 else if 6 ≤ fmtBits c then 2 else 1

/-- A format word passes R173. -/
def fmtWordOk (w : Nat) : Bool :=
  decide (w < 2 ^ 16) && decide (field w 10 3 < 4) && decide (field w 0 5 < 28) && decide (field w 5 5 < 28)

/-- A format word's combination passes R304 Table 4. -/
def fmtPairOk (f : FmtWord) : Bool :=
  (fmtRow f.a == fmtRow f.b) && (fmtInt f.a == fmtInt f.b) &&
  (match f.acc with
    | 0 => !fmtInt f.a && f.a != 0 && f.a != 27
    | 1 => f.a == 0
    | 2 => fmtInt f.a
    | _ => f.a == 27)

/-- A format word passes R173 and R304. -/
def fmtOk (w : Nat) : Bool := fmtWordOk w && fmtPairOk (FmtWord.ofNat w)

/-- Columns of the result (R303). -/
def FmtWord.cols (f : FmtWord) : Nat := if f.acc = 1 then 64 else 128

/-- The size of a tile's payload (R141). -/
def tileBytes (c : Nat) : Nat := 32 * fmtBits c

/-- The alignment of a payload (R302). -/
def payloadAlign (c : Nat) : Nat := if fmtTiled c then (if fmtBits c = 4 then 128 else 256) else 16

/-- A matrix command as a block, its opcode and its voted word describe it (R301, R307, R313). -/
structure MatBlock where
  aop : Nat
  bop : Nat
  ahdr : Nat
  bhdr : Nat
  k : Nat
  astr : Nat
  bstr : Nat
  acc : Nat
  za : Bool
  fl : Bool
  bd : Bool
  word : Nat
  guard : Nat
  deriving DecidableEq, Repr

/-- Reads a block; `own` says that it belongs to a cpy.then, which reads every field. -/
def MatBlock.ofBytes (bs : List Byte) (own : Bool) (acc word : Nat) (bd fl : Bool) : MatBlock :=
  let flags := natAt bs 23 1
  { aop := natAt bs 0 4, bop := natAt bs 4 4, ahdr := natAt bs 8 4, bhdr := natAt bs 12 4, k := natAt bs 16 2,
    astr := natAt bs 18 2, bstr := natAt bs 20 2, acc := if own then natAt bs 22 1 % 4 else acc, za := bitAt flags 0,
    fl := if own then bitAt flags 1 else fl, bd := if own then bitAt flags 2 else bd,
    word := if own then natAt bs 24 4 else word, guard := natAt bs 28 4 }

/-- Where an operand address leads (R302): a byte of a workgroup's local memory or of the cluster space. -/
inductive OpSpot where
  | scratch (wg off : Nat)
  | cluster (off : Nat)
  deriving DecidableEq, Repr

/-- The member of a workgroup's tuple that an operand address names (R175, R302). The spec does not say what a member that is
swapped out (R50) gives: it is not resident, no scratchpad is found, and the unit traps 0x0B (DESIGN CHOICE, log 109). -/
def State.operandSpot (s : State) (g : Workgroup) (a : Nat) : Option OpSpot :=
  let off := a % 2 ^ 19
  let dx := signed 4 (field a 24 4)
  let dy := signed 4 (field a 28 4)
  if bitAt a 23 then (if dx = 0 ∧ dy = 0 then some (.cluster off) else none)
  else if dx = 0 ∧ dy = 0 then some (.scratch g.id off)
  else
    let x : Int := (g.core % 4 : Nat) + dx
    let y : Int := (g.core % 16 / 4 : Nat) + dy
    let core := (g.core / 16 * 16 : Nat) + (4 * y + x)
    if 0 ≤ x ∧ x < 4 ∧ 0 ≤ y ∧ y < 4 ∧ x / 2 = (g.core % 4 / 2 : Nat) ∧ y / 2 = (g.core % 16 / 8 : Nat) then
      (s.groups.find? (fun m => (m.id == g.id || g.tuple.contains m.id) && decide ((m.core : Int) = core))).map
        (fun m => .scratch m.id off)
    else none

/-- An operand's bytes lie inside the window it names. -/
def State.spotFits (s : State) (g : Workgroup) (n : Nat) : Option OpSpot → Bool
  | none => false
  | some (.scratch wg off) => match s.group wg with
    | some m => decide (off + n ≤ m.localBytes)
    | none => false
  | some (.cluster off) => decide (off + n ≤ 4 * g.cluster)

/-- Bytes from an operand's first to its last (R303): `rows` rows of `len` elements, or a grid of tiles. -/
def plainExtent (c stride rows len : Nat) : Nat := (rows - 1) * stride + ceilDiv (len * fmtBits c) 8

/-- The greatest tile index of an operand (R303): `p` strides and `q` steps. -/
def tileTop (stride p q : Nat) : Nat := (p - 1) * stride + (q - 1)

/-- The bytes of an operand's payload and of its headers; `m` is its extent across k (R303). -/
def MatBlock.extents (isA : Bool) (c stride k m : Nat) (tr : Bool) : Nat × Nat :=
  if fmtTiled c then
    let kt := k / 16
    let top := if isA then (if tr then tileTop stride kt 8 else tileTop stride 8 kt)
      else (if tr then tileTop stride 8 kt else tileTop stride kt 8)
    (top * tileBytes c + tileBytes c, 16 * top + 16)
  else
    let across := if isA then !tr else tr
    (if across then plainExtent c stride m k else plainExtent c stride k m, 0)

/-- Conditions on one operand of a block (R302, R322): codes that hold. -/
def State.operandCodes (s : State) (g : Workgroup) (isA : Bool) (c op hdr stride k m : Nat) (tr : Bool) : List Nat :=
  let e := MatBlock.extents isA c stride k m tr
  (if op % payloadAlign c ≠ 0 then [0x07] else []) ++
  (if fmtTiled c && hdr % 16 ≠ 0 then [0x07] else []) ++
  (if (fmtTiled c) = (hdr == 0) then [0x0E] else []) ++
  (if field op 19 4 ≠ 0 ∨ (fmtTiled c ∧ field hdr 19 4 ≠ 0) then [0x0E] else []) ++
  (if s.spotFits g e.1 (s.operandSpot g op) then [] else [0x0B]) ++
  (if !fmtTiled c || s.spotFits g e.2 (s.operandSpot g hdr) then [] else [0x0B])

/-- A tile pair of an accumulator lies inside ACCUM (R304, R322). -/
def accIn (g : Workgroup) (n acc : Nat) : Bool := decide (n + (if acc = 3 then 1 else 0) < g.accum)

/-- The codes of the conditions that a matrix command meets (R301, R302, R304, R308, R322); `own` as in `ofBytes`. -/
def State.blockCodes (s : State) (g : Workgroup) (own : Bool) (bs : List Byte) (b : MatBlock) : List Nat :=
  let f := FmtWord.ofNat b.word
  let ok := fmtOk b.word
  (if (own && decide (4 ≤ natAt bs 22 1)) || decide (8 ≤ natAt bs 23 1) || decide (field b.guard 19 12 ≠ 0) then [0x0E] else []) ++
  (if b.k % 16 ≠ 0 ∨ b.k < 16 ∨ 4096 < b.k then [0x0E] else []) ++
  (if accIn g b.acc (if ok then f.acc else 0) then [] else [0x0B]) ++
  (if bitAt b.guard 31 then
    (if b.guard % 4 ≠ 0 then [0x07] else []) ++ (if b.guard % 2 ^ 19 + 4 ≤ g.localBytes then [] else [0x0B])
   else []) ++
  (if ok then
    (if (b.bd && f.acc == 1) || (f.acc == 3 && b.acc % 2 == 1) then [0x0E] else []) ++
    s.operandCodes g true f.a b.aop b.ahdr b.astr b.k 128 f.at_ ++
    s.operandCodes g false f.b b.bop b.bhdr b.bstr b.k f.cols f.bt
   else [0x0E])

/-- A copy descriptor (R282 Table 3). -/
structure CopyDesc where
  src : Nat
  dst : Nat
  guard : Nat
  leaf : Nat
  len : Nat
  rows : Nat
  sspace : Nat
  dspace : Nat
  op : Nat
  sstr : Int
  dstr : Int
  tbar : Nat
  mask : Nat
  mig : Bool
  tb : Bool
  deriving DecidableEq, Repr

def CopyDesc.ofBytes (d : List Byte) : CopyDesc :=
  { src := natAt d 0 8, dst := natAt d 8 8, guard := natAt d 16 8, leaf := natAt d 24 8, len := natAt d 32 4 % 2 ^ 24,
    rows := natAt d 36 2, sspace := natAt d 38 1 % 16, dspace := natAt d 38 1 / 16, op := natAt d 39 1,
    sstr := signed 32 (natAt d 40 4), dstr := signed 32 (natAt d 44 4), tbar := natAt d 48 4, mask := natAt d 52 2,
    mig := bitAt (natAt d 54 1) 1, tb := bitAt (natAt d 54 1) 0 }

/-- Element size of a reduction code (R285 Table 4). -/
def colSize (op : Nat) : Nat := if op = 6 ∨ op = 11 then 8 else if op = 10 then 2 else 4

/-- The first and last byte offsets of rows of a local or cluster range lie in its window (R282). -/
def rowsIn (base len rows : Nat) (stride : Int) (window : Nat) : Bool :=
  let base : Nat := base % 2 ^ 32
  let last : Int := base + (rows - 1 : Nat) * stride
  decide (base + len ≤ window) && decide (0 ≤ last) && decide (last + len ≤ window)

/-- The window of a space code in a workgroup: local or cluster bytes. -/
def Workgroup.window (g : Workgroup) (sp : Nat) : Nat := if sp = 2 then 4 * g.cluster else g.localBytes

/-- The receiver of a multicast at mask bit `i` (R18, R176, R286): the workgroup of the posting launch on that core with
the lowest linear index. -/
def State.receiverAt (s : State) (g : Workgroup) (i : Nat) : Option Workgroup :=
  let x : Int := (g.core % 4 : Nat) + ((i % 3 : Nat) : Int) - 1
  let y : Int := (g.core % 16 / 4 : Nat) + ((i / 3 : Nat) : Int) - 1
  if 0 ≤ x ∧ x < 4 ∧ 0 ≤ y ∧ y < 4 then
    bestOf (fun (a b : Workgroup) => decide (a.wx + 2 ^ 16 * a.wy + 2 ^ 32 * a.wz < b.wx + 2 ^ 16 * b.wy + 2 ^ 32 * b.wz))
      (s.groups.filter (fun m => m.launch == g.launch && decide ((m.core : Int) = (g.core / 16 * 16 : Nat) + (4 * y + x))))
  else none

/-- The receivers that a mask names: none where a masked core has none. -/
def State.receivers (s : State) (g : Workgroup) (mask : Nat) : List (Option Workgroup) :=
  ((List.range 9).filter (bitAt mask)).map (s.receiverAt g)

/-- The codes of the conditions that a descriptor meets (R282 to R286, R297 Table 11), each judged whatever the others are
(R465). -/
def State.copyCodes (s : State) (g : Workgroup) (kind : CmdKind) (d : List Byte) : List Nat :=
  let c := CopyDesc.ofBytes d
  let col := kind == .cpyCol
  let mc := kind == .cpyMc
  let es := colSize c.op
  let reserved := decide (4 ≤ natAt d 54 1) || !zeroAt d 55 9 || decide (natAt d 35 1 ≠ 0) || decide (512 ≤ c.mask) ||
    decide (2 ^ 56 ≤ c.guard) || decide (2 ^ 56 ≤ c.leaf) ||
    decide ((if c.sspace = 0 then 2 ^ 56 else 2 ^ 32) ≤ c.src) || decide ((if c.dspace = 0 then 2 ^ 56 else 2 ^ 32) ≤ c.dst)
  let plainBad := decide (c.len = 0) || decide (c.rows = 0) || decide (2 ^ 27 ≤ c.len * c.rows) || decide (2 < c.sspace) ||
    decide (2 < c.dspace) || decide (c.leaf ≠ 0)
  let migBad := kind != .cpy || !zeroAt d 32 7 || !zeroAt d 40 12 || c.tb
  let colBad := col && (decide (c.op = 0) || decide (11 < c.op))
  let rs := s.receivers g c.mask
  let onCore (sp : Nat) : Bool := sp == 1 || sp == 2
  (if c.guard % 4 ≠ 0 then [0x07] else []) ++
  (if col && !colBad && (c.src % es ≠ 0 || c.dst % es ≠ 0) then [0x07] else []) ++
  (if col && !colBad && (c.len % es ≠ 0 || c.sstr % es ≠ 0 || c.dstr % es ≠ 0) then [0x0E] else []) ++
  (if reserved || colBad || (!col && c.op ≠ 0) || (if c.mig then migBad else plainBad) ||
      (if mc then decide (c.mask = 0) || rs.any Option.isNone || c.dspace != 1 else decide (c.mask ≠ 0)) then [0x0E] else []) ++
  (if onCore c.sspace && !rowsIn c.src c.len c.rows c.sstr (g.window c.sspace) then [0x0B] else []) ++
  (if !mc && onCore c.dspace && !rowsIn c.dst c.len c.rows c.dstr (g.window c.dspace) then [0x0B] else []) ++
  (if mc && (rs.filterMap id).any (fun m => !rowsIn c.dst c.len c.rows c.dstr m.localBytes) then [0x0B] else []) ++
  (if c.tb then
    (if c.tbar % 8 ≠ 0 then [0x07] else []) ++
    (if (if mc then (rs.filterMap id).all (fun m => m.tbarIn c.tbar) else g.tbarIn c.tbar) then [] else [0x0B])
   else [])

/-- Copy engines that a partition owns (R368, R370). -/
def State.ownEngines (s : State) (part : Nat) : List Nat := (List.range 48).filter (fun e => s.partBit part 0x4008 e)

/-- The kinds of command that run on a copy engine. -/
def CmdKind.isCopy : CmdKind → Bool
  | .cpy => true
  | .cpyCol => true
  | .cpyMc => true
  | .cpyThen => true
  | .migrate => true
  | _ => false

/-- The kinds of command that a wave starts in post order (R283, R355, R370). -/
def CmdKind.ordered : CmdKind → Bool
  | .rast => true
  | .ray => true
  | .qpost => true
  | k => k.isCopy

/-- The kinds of command that count against COPYQ (R283, R306, R315, R342, R355). -/
def CmdKind.counted : CmdKind → Bool
  | .mmat => true
  | k => k.ordered

/-- A command that is a copy engine's to perform: a cpy.then whose copy has landed is a matrix entry (R287). -/
def Command.copies (c : Command) : Bool := c.kind.isCopy && !c.args.contains (2 ^ 32)

/-- The kinds of command that go through a matrix queue (R306). -/
def CmdKind.isMatrix : CmdKind → Bool
  | .mma => true
  | .mmaB => true
  | .mmat => true
  | .cpyThen => true
  | .accZero => true
  | _ => false

/-- A command is an entry of its core's matrix queue: a cpy.then is one once its copy has landed (R306, R313). -/
def Command.queued (c : Command) : Bool := c.kind.isMatrix && !c.copies

/-- The owned engine with the fewest queued commands (R370); a cpy.then whose copy has landed has left its engine (R287). -/
def State.pickEngine (s : State) (part : Nat) : Nat :=
  let load (e : Nat) : Nat :=
    (s.cmds.filter (fun c => c.copies && c.engine == e && c.phase != .done)).length
  (bestOf (fun a b => decide (load a < load b)) (s.ownEngines part)).getD 0

/-- The effective COPYQ of a workgroup (R53, R370): zero while its partition owns no engine. -/
def State.copyqOf (s : State) (g : Workgroup) : Nat := if (s.ownEngines g.part).isEmpty then 0 else g.budget.copyq

/-- A workgroup's commands fill its COPYQ (R283). -/
def State.copyqFull (s : State) (g : Workgroup) : Bool :=
  decide (s.copyqOf g ≤ (s.cmds.filter (fun c => c.wg == g.id && c.kind.counted)).length)

/-- A command of the focused wave's unit at `unit`, in its open batch (R283, R289, R417). -/
def State.newCmd (s : State) (unit : VAddr) (kind : CmdKind) (desc : List Byte) : Command :=
  { id := s.nextId, kind := kind, desc := desc, wg := s.wg.id, wave := s.wave.id, batch := s.wave.batch, part := s.wg.part,
    vf := s.wg.vf, ctx := s.wg.ctx, core := s.wave.core, pc := unit, launch := s.wg.launchAddr, postedAt := s.aclk,
    wpos := 16 * s.wave.port + s.wave.idx, windex := s.wave.index, frag := s.frag.slot,
    engine := s.pickEngine s.wg.part }

/-- Posts a command. -/
def State.post (s : State) (c : Command) : State := { s with cmds := s.cmds ++ [c], nextId := s.nextId + 1 }

/-- The 2^k bytes of a descriptor at an offset of the focused workgroup's local memory, as one path-v access (R114,
R282). -/
def State.descItem (s : State) (a n : Nat) : Item :=
  { lane := (lowest s.exec).getD 0, addr := a, n := n, spot := .scratch a }

/-- Conditions that the codes of a descriptor's checks raise. -/
def State.codeConds (s : State) (lanes : LaneMask) (addr : Nat) (codes : List Nat) : List Cond :=
  codes.flatMap (fun c => laneCond c (if s.exec = 0 then 0 else lanes) addr)

/-- A descriptor or block of a post: the operand that names it, its offset in local memory, its bytes, and the codes that
its bytes raise. -/
structure PostSpot where
  operand : Operand
  addr : Nat
  n : Nat
  codes : List Byte → List Nat

/-- A descriptor lies aligned in the workgroup's window, and some lane posts it. -/
def State.spotOk (s : State) (x : PostSpot) : Bool :=
  decide (x.addr % x.n = 0) && decide (x.addr + x.n ≤ s.wg.localBytes) && decide (s.exec ≠ 0)

/-- The conditions of one descriptor or block (R297, R322, R465): its place, and, where it can be read, its poison and its
fields. -/
def State.spotConds (s : State) (x : PostSpot) : List Cond :=
  s.lowWhen (decide (x.addr % x.n ≠ 0)) 0x07 x.addr ++
  s.lowWhen (decide (s.wg.localBytes < x.addr + x.n)) 0x0B x.addr ++
  if s.spotOk x then
    laneCond 0x0A (if corePois s.wg.lpois x.addr x.n then s.lowMask else 0) 0 x.operand.code ++
    s.codeConds s.lowMask x.addr (x.codes (s.localBytes s.wg 0 s.wave.id x.addr x.n).1)
  else []

/-- The shared form of an instruction that posts from a descriptor of `n` bytes whose offset is operand `a` (R283, R297,
R322), and from the blocks of `more`: it traps, parks while its queue is full, blocks while its matrix queue is, or posts.
`codes` judges the descriptor's bytes. -/
def State.postUnit (s : State) (a : Operand) (n : Nat) (conds : List Cond) (codes : List Byte → List Nat) (full mxFull : Bool)
    (more : List PostSpot) (eff : List Byte → State → State) : Host.Outcome State Fault Refusal :=
  let addr := s.lowInt a
  let spots : List PostSpot := { operand := a, addr := addr, n := n, codes := codes } :: more
  let ok := spots.all s.spotOk
  let desc := (s.localBytes s.wg 0 s.wave.id addr n).1
  match s.judged .plain (s.encCond (s.srcBad 1 a) 0x01 ++ conds ++ s.cleanCond [(1, a)] ++ spots.flatMap s.spotConds ++
      s.waitCond (full && ok)) with
  | some c => .next (s.takeTrap s.exec c)
  | none =>
    if full && decide (s.exec ≠ 0) then .next s.parkAgain
    else if mxFull && decide (s.exec ≠ 0) then .next s.blockAgain
    else
      let t := s.retire .plain
      .next (if s.exec = 0 then t
        else
          let t := spots.foldl (fun t x => (t.readItem (s.descItem x.addr x.n)).2) t
          eff desc t)

end Sys2Proof.Machine
end

