-- ==== Sys2Proof/Machine/MatrixOps.lean ====
section
/-!
DEFINITION. The arithmetic of the matrix engine and of square tiles (spec/06_numbers.md R141 to R149, spec/12_isa_matrix.md
R305, R307, R308, spec/23_faults_instructions.md R473): elements, chunks, accumulator elements, requantisation.
-/

namespace Sys2Proof.Machine

/-- An operand element, decoded and scaled: its lower and upper value, equal but for if32. -/
abbrev MatEl := Num × Num

/-- The value of an element's encoding in a plain format or a q-format's base (R124, R128). -/
def elemValue (c bits : Nat) : Num :=
  match codeFloat c, codeInt c with
  | some f, _ => f.decode (if c = 2 then bits / 2 ^ 13 else bits)
  | _, some w => .ofInt (if w.2 then signed w.1 bits else bits)
  | _, _ =>
    if c = 17 then (if bits = 1 then .fin false 1 0 else if bits = 3 then .fin true 1 0 else .fin false 0 0)
    else if bits = 0 then .fin true 1 0 else .fin false 1 0

/-- The value times 2^e (R143). -/
def Num.scaleBy (e : Int) : Num → Num
  | .fin n m x => .fin n m (x + e)
  | v => v

/-- An element of a matrix operand (R133, R143, R144): `e` is its scale, none in an all-NaN tile; `fl` flushes. -/
def matElem (c : Nat) (fl : Bool) (e : Option Int) (bits : Nat) : MatEl :=
  if c = 27 then
    let i : Ivl := { flush := fl : Mode }.readIvl .f32 bits
    i.nums .f32
  else
    match e with
    | none => (.qnan, .qnan)
    | some e =>
      let v := (elemValue c bits).scaleBy e
      let v := if fl then v.flushed (c == 0) else v
      (v, v)

/-- The scale of element (i, j) of a tile with a header (R142, R143); none for an all-NaN tile. -/
def tileScale (hdr : List Byte) (i j : Nat) : Option Int :=
  let s := natAt hdr 0 1
  if s = 255 then none
  else some ((s : Int) - 127 + (field (natAt hdr 2 4) (2 * i) 2 : Nat) + (field (natAt hdr 6 4) (2 * j) 2 : Nat))

/-- Element (i, j) of a stored tile (R141, R143). -/
def tileElem (c : Nat) (fl : Bool) (payload : Nat) (hdr : List Byte) (i j : Nat) : MatEl :=
  matElem c fl (tileScale hdr i j) (field payload (fmtBits c * (16 * i + j)) (fmtBits c))

/-- Drops the bits of a value below 2^q (R149), under the mode of the bound it belongs to: RTZ, RDN or RUP. -/
def Num.chop (mode : Nat) (q : Int) (v : Num) : Num :=
  match v with
  | .fin n m e => if q ≤ e then v else .fin n (roundShift mode 0 n m (q - e).toNat) q
  | _ => v

/-- The largest exponent among nonzero finite terms. -/
def topExp (ps : List Num) : Option Int :=
  ps.foldl (fun t p => match p with
    | .fin _ m e => if m = 0 then t else some (match t with
        | none => (Nat.log2 m : Int) + e
        | some x => max x ((Nat.log2 m : Int) + e))
    | _ => t) none

/-- The sum of a chunk's finite terms, truncated `w` bits below the largest exponent (R149); `cut` is the mode of the
truncation and `mode` that of a zero's sign. -/
def chunkSum (cut mode w : Nat) (ps : List Num) : Num :=
  match topExp ps with
  | none => sumNums mode ps
  | some e => sumNums mode (ps.map (Num.chop cut (e - w)))

/-- A chunk of a point format (R146, R149): products, then their sum; `exact_` for integer formats. -/
def pointChunk (w : Nat) (exact_ : Bool) (as bs : List MatEl) : Exact :=
  let ps := (as.zip bs).map (fun p => scaledProduct p.1.1 p.2.1)
  let vs := ps.map (·.v)
  let ev := ps.flatMap (·.ev)
  if vs.any Num.isNan || (vs.any (fun v => v.isInf && v.neg) && vs.any (fun v => v.isInf && !v.neg)) then
    { v := .qnan, ev := evInvalid :: ev }
  else match vs.find? Num.isInf with
    | some i => { v := i, ev := ev }
    | none => { v := if exact_ then sumNums 0 vs else chunkSum 1 0 w vs, ev := ev }

/-- An empty pair of bounds. -/
def pairEmpty (b : Num × Num) : Bool := b.1.isNan || b.2.isNan || decide (0 < cmpNum b.1 b.2)

/-- A bound of an interval chunk (R137, R138, R149): opposite infinities give the outward one. -/
def boundChunk (up : Bool) (ps : List Num) : Num :=
  let mode := if up then 3 else 2
  match ps.find? (fun v => v.isInf && v.neg == !up), ps.find? Num.isInf with
  | some i, _ => i
  | none, some i => i
  | none, none => chunkSum mode mode 80 ps

/-- An interval chunk (R149, R473): none where an element is empty. -/
def ivlChunk (as bs : List MatEl) : Option (Num × Num) :=
  let ps := as.zip bs
  if ps.any (fun p => pairEmpty p.1 || pairEmpty p.2) then none
  else
    let q (p : MatEl × MatEl) : Num × Num := (ivlBounds .mul p.1 p.2).getD (.qnan, .qnan)
    some (boundChunk false (ps.map (fun p => (q p).1)), boundChunk true (ps.map (fun p => (q p).2)))

/-- An accumulator element after a chunk: its bits, under if32 the upper bound's too, and the causes met. -/
structure CellOut where
  lo : Nat
  hi : Nat := 0
  ev : List Nat := []
  deriving DecidableEq, Repr

/-- Adds a chunk to an accumulator element (R149, R307). -/
def accCell (f : FmtWord) (fl : Bool) (lo hi : Nat) (as bs : List MatEl) : CellOut :=
  let m : Mode := { flush := fl }
  match f.acc with
  | 0 =>
    let c := pointChunk 80 false as bs
    let r := m.roundTo .f32 0 (sumExact 0 [FFmt.f32.decode lo, c.v])
    { lo := r.bits, ev := (c.ev ++ r.ev).eraseDups }
  | 1 =>
    let c := pointChunk 160 false as bs
    let r := m.roundTo .f64 0 (sumExact 0 [FFmt.f64.decode lo, c.v])
    { lo := r.bits, ev := (c.ev ++ r.ev).eraseDups }
  | 2 =>
    let c := pointChunk 0 true as bs
    let r := roundInt 32 true 0 0 f.satf (sumExact 0 [.ofInt (signed 32 lo), c.v]).v
    { lo := r.bits, ev := (c.ev ++ r.ev).eraseDups }
  | _ =>
    let old : Ivl := { lo := lo, hi := hi }
    match ivlChunk as bs with
    | none => { lo := FFmt.f32.emptyIvl.lo, hi := FFmt.f32.emptyIvl.hi }
    | some c =>
      if old.empty .f32 then { lo := FFmt.f32.emptyIvl.lo, hi := FFmt.f32.emptyIvl.hi }
      else
        let b := old.nums .f32
        let r := m.bounds .f32 (badd false b.1 c.1, badd true b.2 c.2)
        { lo := r.i.lo, hi := r.i.hi, ev := r.ev }

/-- The slots of a bank (R305). -/
def bankSlots : Nat := 16384

/-- Where a bank of a tile starts among a workgroup's accumulators: bank 0 is the visible one, 1 the working one. -/
def bankAt (bank tile : Nat) : Nat := (4 * bank + tile) * bankSlots

/-- A bank's content, by slot 128·row + column. -/
def Workgroup.bankOfTile (g : Workgroup) (bank tile : Nat) : SMap Word := SMap.sub (bankAt bank tile) bankSlots g.accs

/-- Replaces a bank's content. -/
def Workgroup.putBankOfTile (g : Workgroup) (bank tile : Nat) (m : SMap Word) : Workgroup :=
  { g with accs := SMap.putSub (bankAt bank tile) bankSlots m g.accs }

/-- A bank's poison bit (R483). -/
def Workgroup.bankPois (g : Workgroup) (bank tile : Nat) : Bool := SMap.get false (4 * bank + tile) g.accPois

def Workgroup.setBankPois (g : Workgroup) (bank tile : Nat) (b : Bool) : Workgroup :=
  { g with accPois := SMap.set false (4 * bank + tile) b g.accPois }

/-- Zeroes a bank and clears its poison (R311, R483). -/
def Workgroup.clearBank (g : Workgroup) (bank tile : Nat) : Workgroup :=
  (g.putBankOfTile bank tile []).setBankPois bank tile false

/-- Exchanges the banks of a tile with their poison (R310, R483). -/
def Workgroup.swapTile (g : Workgroup) (tile : Nat) : Workgroup :=
  let a := g.bankOfTile 0 tile
  let b := g.bankOfTile 1 tile
  let pa := g.bankPois 0 tile
  let pb := g.bankPois 1 tile
  (((g.putBankOfTile 0 tile b).putBankOfTile 1 tile a).setBankPois 0 tile pb).setBankPois 1 tile pa

/-- The tiles that a command of an accumulate format uses (R304). -/
def accTiles (acc n : Nat) : List Nat := if acc = 3 then [n, n + 1] else [n]

/-- One row of accumulator elements after a chunk (R307, R308): `lo` and `hi` are the row's slots before it. -/
def accRow (f : FmtWord) (fl bd za : Bool) (i : Nat) (lo hi : SMap Word) (a : List MatEl) (b : List (List MatEl)) :
    List CellOut :=
  b.zipIdx.map (fun x =>
    let j := x.2
    let word (m : SMap Word) (c : Nat) : Nat := (SMap.get 0 c m).toNat
    let oldLo := if f.acc = 1 then word lo (2 * j) + 2 ^ 32 * word lo (2 * j + 1) else word lo j
    if bd && decide (i / 8 ≠ j / 8) then { lo := oldLo, hi := word hi j }
    else if za then accCell f fl 0 0 a x.1
    else accCell f fl oldLo (word hi j) a x.1)

/-- The slots of a row of results. -/
def rowWords (f : FmtWord) (cs : List CellOut) : List Word :=
  if f.acc = 1 then cs.flatMap (fun c => [BitVec.ofNat 32 c.lo, BitVec.ofNat 32 (c.lo / 2 ^ 32)])
  else cs.map (fun c => BitVec.ofNat 32 c.lo)

/-- A bank put together from its rows. -/
def bankOfRows (rows : List (List Word)) : SMap Word :=
  (rows.zipIdx).flatMap (fun r => (SMap.ofList 0 r.1).map (fun e => (128 * r.2 + e.1, e.2)))

/-- The result elements in which cause `x` arose, added to a set of them: bit 128·i + j (R417). -/
def causeMask (x : Nat) (rows : List (List CellOut)) (old : Nat) : Nat :=
  (rows.zipIdx).foldl (fun m r => (r.1.zipIdx).foldl (fun m c =>
    if c.1.ev.contains x then m ||| 2 ^ (128 * r.2 + c.2) else m) m) old

/-- The smallest k with |x| ≤ maxfin·2^k (R147); none for zeros. -/
def needOf (maxfin x : Num) : Option Int :=
  match maxfin, x with
  | .fin _ mm me, .fin _ m e =>
    if m = 0 then none
    else
      let k : Int := (Nat.log2 m : Int) + e - (Nat.log2 mm + me)
      some (if cmpNum (x.withSign false) (maxfin.scaleBy k) ≤ 0 then k else k + 1)
  | _, _ => none

/-- The greatest finite value of a q-format's base (R147). -/
def baseMax (c : Nat) : Num :=
  match codeFloat c, codeInt c with
  | some f, _ => f.decode f.maxBits
  | _, some w => .ofInt ((2 ^ (w.1 - 1) : Nat) - 1)
  | _, _ => .fin false 1 0

/-- The clamped half of a need above the base (R147). -/
def halfNeed (b : Int) (n : Option Int) : Nat :=
  match n with
  | none => 0
  | some n => (max 0 (min 3 ((n - b + 1) / 2))).toNat

/-- The greatest of needs. -/
def maxNeed (ns : List (Option Int)) : Option Int :=
  ns.foldl (fun a n => match a, n with
    | none, n => n
    | a, none => a
    | some x, some y => some (max x y)) none

/-- A requantised block (R147): shared scale, rows' and columns' words, element encodings and causes by element. -/
structure Requant where
  s : Nat
  rho : Nat := 0
  gam : Nat := 0
  elems : List Elem
  deriving DecidableEq, Repr

/-- A value in a q-format's base under a draw (R147, R320), flushed by its scaled value (R133). -/
def quantElem (c rnd draw : Nat) (fl : Bool) (e : Int) (x : Num) : Elem :=
  let v := x.scaleBy (-e)
  let r : Rounded := match codeFloat c, codeInt c with
    | some f, _ => f.round rnd draw false false v
    | _, some w => roundInt w.1 w.2 rnd draw true v
    | _, _ => { bits := 0 }
  let y := (elemValue c r.bits).scaleBy e
  if fl && y.below (-126) then
    { bits := match codeFloat c with
        | some f => f.signed y.neg 0
        | none => 0
      ev := (r.ev ++ [evUnderflow]).eraseDups }
  else { bits := r.bits, ev := r.ev }

/-- requant (R147): `x` holds the 256 elements row by row, `draws` their stochastic steps. A signalling NaN is invalid (R123). -/
def requant (c rnd : Nat) (fl : Bool) (x : List Num) (draws : List Nat) : Requant :=
  let at_ (i j : Nat) : Num := x.getD (16 * i + j) (.fin false 0 0)
  let idx := (List.range 16).flatMap (fun i => (List.range 16).map (fun j => (i, j)))
  if x.any Num.isNan then { s := 255, elems := x.map (fun v => { bits := 0, ev := sigEv v }) }
  else if x.any Num.isInf then
    let big (n : Bool) : Nat := match codeFloat c, codeInt c with
      | some f, _ => f.signed n f.maxBits
      | _, some w => unsigned w.1 (if n then -((2 ^ (w.1 - 1) : Nat) - 1 : Int) else (2 ^ (w.1 - 1) : Nat) - 1)
      | _, _ => 0
    { s := 254
      elems := x.map (fun v => if v.isInf then { bits := big v.neg, ev := [evOverflow] }
        else match codeFloat c with
          | some f => { bits := f.signed v.neg 0 }
          | none => { bits := 0 }) }
  else
    match maxNeed (x.map (needOf (baseMax c))) with
    | none =>
      { s := 127, elems := List.replicate 256 { bits := 0 } }
    | some m =>
      let b : Int := max (m - 6) (-127)
      let rho (i : Nat) : Nat := halfNeed b (maxNeed ((List.range 16).map (fun j => needOf (baseMax c) (at_ i j))))
      let gam (j : Nat) : Nat := halfNeed b (maxNeed ((List.range 16).map (fun i => needOf (baseMax c) (at_ i j))))
      let rs := (List.range 16).map rho
      let gs := (List.range 16).map gam
      { s := (b + 127).toNat
        rho := rs.zipIdx.foldl (fun w r => w + r.1 * 4 ^ r.2) 0
        gam := gs.zipIdx.foldl (fun w r => w + r.1 * 4 ^ r.2) 0
        elems := idx.map (fun p =>
          quantElem c rnd (draws.getD (16 * p.1 + p.2) 0) fl (b + rs.getD p.1 0 + gs.getD p.2 0) (at_ p.1 p.2)) }

end Sys2Proof.Machine
end

