-- ==== Sys2Proof/Machine/Copies.lean ====
section
/-!
DEFINITION. Posting copy commands (spec/11_isa_memory.md R282 to R290, R297).
-/

namespace Sys2Proof.Machine

/-- The kind of the command that cpy posts: a migration with MIG set (R284). -/
def copyKind (k : CmdKind) (desc : List Byte) : CmdKind :=
  if k = .cpy ∧ (CopyDesc.ofBytes desc).mig then .migrate else k

/-- The shared form of the cpy class: `blk` is the operand that names cpy.then's follow-on block. -/
def State.copyUnit (s : State) (kind : CmdKind) (a : Operand) (conds : List Cond) (blk : Option Operand) :
    Host.Outcome State Fault Refusal :=
  let zero := decide (s.copyqOf s.wg = 0)
  let more : List PostSpot := blk.toList.map (fun b => {
    operand := b, addr := s.lowInt b, n := 32
    codes := fun x => s.blockCodes s.wg true x (MatBlock.ofBytes x true 0 0 false false) })
  let block := more.flatMap (fun x => (s.localBytes s.wg 0 s.wave.id x.addr x.n).1)
  s.postUnit a 64 (conds ++ s.lowWhen zero 0x0E) (s.copyCodes s.wg kind) (s.copyqFull s.wg && !zero) false more
    (fun d t =>
      let c := t.newCmd s.frag.pc (copyKind kind d) d
      let rs := if kind = .cpyMc then ((t.receivers t.wg (CopyDesc.ofBytes d).mask).filterMap id).map (·.id) else []
      t.post { c with args := rs, follow := block })

/-- cpy (R284). -/
def execCpy (a : Operand) (s : State) : Host.Outcome State Fault Refusal := s.copyUnit .cpy a [] none

/-- cpy.col (R285). -/
def execCpyCol (a : Operand) (s : State) : Host.Outcome State Fault Refusal := s.copyUnit .cpyCol a [] none

/-- cpy.mc (R286). -/
def execCpyMc (a : Operand) (s : State) : Host.Outcome State Fault Refusal := s.copyUnit .cpyMc a [] none

/-- cpy.then (R287). -/
def execCpyThen (a b : Operand) (s : State) : Host.Outcome State Fault Refusal :=
  s.copyUnit .cpyThen a (s.encCond (s.srcBad 1 b) 0x01 ++ s.cleanCond [(1, b)]) (some b)

end Sys2Proof.Machine
end

