-- ==== Sys2Proof/Machine/Engine.lean ====
section
/-!
DEFINITION. What every engine does with memory and with faults: accesses on its path, lowerings of transaction barriers,
failures, the end of a command (spec/11_isa_memory.md R283, R289, R293, spec/24_faults_engines.md R476 to R480).
-/

namespace Sys2Proof.Machine

/-- Why an engine's access does not happen. -/
inductive EngFail where
  /-- held: by a key slot that changes its mode (R460), a line's lock (R118), or sectors of its source that wait at the port
  (R382) -/
  | busy
  /-- a page of host memory whose translation ATS has not given (R451) -/
  | page (p : Nat)
  /-- stopped at the port, with its SOURCE 4 code: poison bound for host memory, or no link up (R478, R500) -/
  | port (code : Nat)
  /-- a translation code of R448, with the intermediate address that stage 2 refused -/
  | xlate (code : Nat) (ipa : Option Nat)
  /-- a seal violation (R378) -/
  | barred
  /-- a table entry beyond correction: the level and the array code of its owner, and the entry's address (R422) -/
  | owner (level code at_ : Nat)
  deriving DecidableEq, Repr

/-- The posting workgroup of a command. -/
def State.cmdGroup (s : State) (c : Command) : Workgroup :=
  (s.group c.wg).getD { part := c.part, vf := c.vf, ctx := c.ctx, core := c.core, launchAddr := c.launch }

/-- Who a command's accesses are made by. -/
def Command.who (c : Command) : Who := { core := c.core, part := c.part, vf := c.vf, ctx := c.ctx, wave := c.wave }

/-- A command by its number. -/
def State.cmd (s : State) (id : Nat) : Option Command := s.cmds.find? (fun c => c.id == id)

/-- Replaces a command. -/
def State.putCmd (s : State) (c : Command) : State :=
  { s with cmds := s.cmds.map (fun x => if x.id = c.id then c else x) }

/-- A command's engine has been stopped: a confinement covers its workgroup (R423, R446), or its slice lies in no enabled
partition (R367). -/
def State.cmdStopped (s : State) (c : Command) : Bool := s.confined (s.cmdGroup c) || s.slicedOut c.core

/-- The source that an engine's requests count as at a port (R382). -/
def Command.sender (c : Command) : Sender := if c.kind.isCopy then .engine c.engine else .vf c.vf

/-- Translates an engine's virtual address (R118, R371, R374, R378, R451, R460). -/
def State.engXlate (s : State) (g : Workgroup) (acc : Access) (va : Nat) : Except EngFail XOk :=
  match s.translate g.part g.vf g.ctx (va % 2 ^ 56) acc with
  | .error e => match e.ue with
    | some u => .error (.owner u.1 u.2.1 u.2.2)
    | none => .error (.xlate e.code e.ipa)
  | .ok x =>
    if s.keyBusyBit (x.pa / 2 ^ 46 % 64) || s.marksHeld x.marks || (acc == .write && s.writeHeld (s.grantOf g) x.pa) then .error .busy
    else if acc == .read && s.sealBars (s.grantOf g) x.pa then .error .barred
    else
      match (s.hostPage x.pa).filter (fun p => !SMap.get false p s.atc) with
      | some p => .error (.page p)
      | none => .ok x

/-- Why a command's request does not pass the port of a peer window or of host memory: a read stays behind the sectors of its
source that wait there (R382), and a write finds no link up, or carries poison to the host (R478, R500). -/
def State.portStop (s : State) (c : Command) (g : Workgroup) (pa : Nat) (wr : Option Bool) : Option EngFail :=
  match s.resolve (pa % 2 ^ 46) with
  | .peer w off =>
    match wr with
    | none => if s.held.any (fun h => h.src == c.sender && h.port == s.meterOf g.part w off) then some .busy else none
    | some bad =>
      if (s.peerLinks g.part w).isEmpty then some (.port (downCode w))
      else if w = 8 ∧ bad ∧ c.kind.isCopy then some (.port 0x43)
      else none
  | _ => none

/-- The record of a command's request that meets a sector beyond correction. -/
def State.cmdRec (s : State) (c : Command) (g : Workgroup) : FaultRec :=
  { s.groupRec g with pc := c.pc.toNat, core := c.core, wpos := c.wpos, wave := c.windex, frag := c.frag }

/-- Reads one line's bytes at a physical address on an engine's path. -/
def State.engReadPa (s : State) (path : Nat) (c : Command) (g : Workgroup) (pa n : Nat) : (List Byte × Bool) × State :=
  match s.placeOf pa with
  | some p =>
    let t := (s.meetUE (some c.who) (s.grantOf g) (s.cmdRec c g) pa p n).l2Touch c.vf pa p (sectorMask p n)
    ((t.overlay path c.wave p (t.placeBytes (pa / 2 ^ 46 % 64) p n), t.placeBad p n), t.observe path c.wave p n)
  | none =>
    let down := match s.resolve (pa % 2 ^ 46) with
      | .peer w _ => (s.peerLinks g.part w).isEmpty
      | _ => false
    if down then ((List.replicate n 0, true), s)
    else (((List.range n).map (Config.freeByte s.free), false), { s with free := s.free + 1 })

/-- L2 holds a sector dirty. -/
def State.dirtyIn (s : State) (sec : Nat) : Bool :=
  match s.l2At (16 * sec) with
  | some l => bitAt l.dirty (sec % 8)
  | none => false

/-- What path a finds of a sector: L2's value where its home holds it dirty, else what the DRAM holds (R359). -/
def State.arraySector (s : State) (sec : Nat) : Stored := if s.dirtyIn sec then s.topStored sec else s.belowStored sec

/-- The sectors of `n` bytes at a place. -/
def sectorRange (p n : Nat) : List Nat := (List.range ((p % 16 + n + 15) / 16)).map (p / 16 + ·)

/-- Path a meets the sectors beyond correction that it reads (R422, R454). -/
def State.meetArray (s : State) (c : Command) (g : Workgroup) (pa p n : Nat) : State :=
  (sectorRange p n).foldl (fun s sec =>
    if !(s.arraySector sec).uncorr || s.scrubPending (16 * sec) then s
    else
      let t := if s.dirtyIn sec then s.poisonUE sec else (s.countUE (placeSlice p) (placeArray p)).poisonBelow sec
      t.tell (some c.who) (s.grantOf g) { s.cmdRec c g with
        code := if s.dirtyIn sec then 0x06 else placeArray p, addr := pa - p % 16 + 16 * sec - 16 * (p / 16) }) s

/-- Reads bytes of a region or a header array on path a (R359): L2 allocates nothing for it. -/
def State.engReadArray (s : State) (c : Command) (g : Workgroup) (pa n : Nat) : (List Byte × Bool) × State :=
  match s.placeOf pa with
  | some p =>
    let t := s.meetArray c g pa p n
    let v := (sectorRange p n).foldl (fun v sec => v.putTop sec (t.arraySector sec)) t
    ((v.overlay 6 c.wave p (v.placeBytes (pa / 2 ^ 46 % 64) p n), v.placeBad p n), t.observe 6 c.wave p n)
  | none => ((List.replicate n 0, true), s)

/-- Reads lines of a context's space on an engine's path. -/
def State.engReadVa (path : Nat) (c : Command) (g : Workgroup) : List (Nat × Nat × Nat) → State →
    Except EngFail ((List Byte × Bool) × State)
  | [], s => .ok (([], false), s)
  | (a, _, n) :: ps, s =>
    match s.engXlate g .read a with
    | .error e => .error e
    | .ok x =>
      match s.portStop c g x.pa none with
      | some e => .error e
      | none =>
        let r := (s.mark c.who x.marks).engReadPa path c g x.pa n
        match State.engReadVa path c g ps r.2 with
        | .error e => .error e
        | .ok t => .ok ((r.1.1 ++ t.1.1, r.1.2 || t.1.2), t.2)

/-- Bytes of the cluster space at a cluster address as a path observes them (R76): its 256 B pieces, one after another. -/
def State.clusterBytes (s : State) (g : Workgroup) (path w a : Nat) : Nat → List Byte × Bool
  | 0 => ([], false)
  | n + 1 =>
    let r := s.clusterBytes g path w a n
    let b := s.bankBytes path w (g.bankOf (a + n)) 1
    (r.1 ++ b.1, r.2 || b.2)

/-- Reads `n` bytes of a space on an engine's path (R282). -/
def State.engRead (s : State) (path : Nat) (c : Command) (g : Workgroup) (sp a n : Nat) :
    Except EngFail ((List Byte × Bool) × State) :=
  match sp with
  | 0 => State.engReadVa path c g (pieces a n) s
  | 1 => .ok (s.localBytes g path c.wave a n, s.observe path c.wave (scratchPlace g.id a) n)
  | _ => .ok (s.clusterBytes g path c.wave a n, s.observe path c.wave (bankPlace (g.bankOf a)) n)

/-- Poisons the sectors of a storage place. -/
def State.poisonPlace (s : State) (p : Nat) : State := { s with poison := SMap.set false (p / 16) true s.poison }

/-- Writes bytes inside one sector at a physical address on an engine's path, with their poison (R453, R478). -/
def State.engWritePa (s : State) (path : Nat) (c : Command) (g : Workgroup) (x : XOk) (bs : List Byte) (bad : Bool) : State :=
  let grant := s.grantOf g
  let s := s.mark c.who x.marks
  match s.resolve (x.pa % 2 ^ 46) with
  | .peer w off =>
    s.peerWrite g.part c.sender grant.isSome (c.wave + 1) (if c.kind.isCopy then [19 + c.engine] else []) w off bs bad
  | .mem p =>
    let s := if bs.length = 16 then s else s.meetUE (some c.who) grant (s.cmdRec c g) x.pa p bs.length
    let s := s.putPlace path c.id c.vf (sealAddr grant x.pa / 2 ^ 46 % 64) p bs
    if bad then s.poisonPlace p else s
  | .steppe p =>
    let s := if bs.length = 16 then s else s.meetUE (some c.who) grant (s.cmdRec c g) x.pa p bs.length
    let s := s.putPlace path c.id c.vf (sealAddr grant x.pa / 2 ^ 46 % 64) p bs
    if bad then s.poisonPlace p else s
  | _ => s

/-- Writes bytes inside one sector of a space on an engine's path. -/
def State.engWrite (s : State) (path : Nat) (c : Command) (g : Workgroup) (sp a : Nat) (bs : List Byte) (bad : Bool) :
    Except EngFail State :=
  match sp with
  | 0 => match s.engXlate g .write a with
    | .error e => .error e
    | .ok x =>
      match s.portStop c g x.pa (some bad) with
      | some e => .error e
      | none => .ok (s.engWritePa path c g x bs bad)
  | 1 =>
    let s := s.putLocal path c.id g.id a bs
    .ok (if bad then s.modGroup g.id (fun m => { m with lpois := SMap.set false (a / 16) true m.lpois }) else s)
  | _ =>
    let s := s.putBank path c.id (g.bankOf a) bs
    .ok (if bad then { s with cpois := SMap.set false (g.bankOf a / 16) true s.cpois } else s)

/-- A command's failure confines its workgroup at level 1 with a SOURCE 4 code (R476, R477). -/
def State.engineConfine (s : State) (c : Command) (code addr : Nat) : State :=
  let g := s.cmdGroup c
  s.confine 1 g.who (some g) { s.cmdRec c g with source := 4, code := code, addr := addr }

/-- A command asks the host for a page's translation, once (R451); an answer that is no success has the code of its trap. -/
def State.cmdPage (s : State) (c : Command) (page addr : Nat) : State :=
  match s.pri.find? (fun q => q.cmd == c.id + 1 && q.page == page) with
  | none =>
    { s with nextId := s.nextId + 1, pri := s.pri ++ [{ id := s.nextId, wave := c.wave, slot := c.frag, sentAt := s.us, page := page, cmd := c.id + 1 }] }
  | some q =>
    if q.code = 0 then s
    else State.engineConfine { s with pri := s.pri.erase q } c (if q.code = 0x09 then 0x41 else 0x40) addr

/-- What becomes of an engine whose access did not happen: a held one tries again; any other failure confines (R422,
R450, R451, R477, R478). -/
def State.engineFail (s : State) (c : Command) (addr : Nat) : EngFail → State
  | .busy => s
  | .page p => s.cmdPage c p addr
  | .port code => s.engineConfine c code addr
  | .barred => s.engineConfine c 0x42 addr
  | .xlate code ipa =>
    let s := match ipa with
      | some i => s.captureS2 c.part c.vf i
      | none => s
    s.engineConfine c (if code = 0x09 then 0x41 else 0x40) addr
  | .owner level code at_ =>
    let g := s.cmdGroup c
    (s.noteLost at_).confine level g.who none { s.cmdRec c g with source := 1, code := code, addr := at_ }

/-- A level-0 engine record (R476): the context is told and the command goes on. -/
def State.engineNote (s : State) (c : Command) (code addr : Nat) : State :=
  s.report c.who (s.grantOf (s.cmdGroup c))
    { level := 0, source := 4, code := code, pc := c.pc.toNat, addr := addr, vf := c.vf, ctx := c.ctx, part := c.part }

/-- The place at which writes of a barrier's word are recorded. -/
def Workgroup.tbarPlace (g : Workgroup) (a : Nat) : Nat :=
  if bitAt a 31 then bankPlace (g.bankOf (a % 2 ^ 19)) else scratchPlace g.id (a % 2 ^ 19)

/-- Lowers PEND of a barrier of a workgroup by `n` (R293, R480): one path-v event; a lowering out of range, or of a
poisoned barrier, confines the barrier's workgroup. -/
def State.lowerBar (s : State) (c : Command) (g : Workgroup) (a n : Nat) : State :=
  let off := a % 2 ^ 19
  let key := g.bankOf off
  let r := if bitAt a 31 then (SMap.getList 0 key 8 s.cmem, corePois s.cpois key 8)
    else (SMap.getList 0 off 8 g.lmem, corePois g.lpois off 8)
  let b := Tbar.ofNat (natOfBytes r.1)
  if r.2 ∨ b.pend - n < -(2 ^ 27 : Int) then
    s.confine 1 g.who (some g) { s.groupRec g with source := 4, code := 0x44, pc := c.pc.toNat, addr := a }
  else
    let bs := bytesOf 8 ({ b with pend := b.pend - n : Tbar }.settle).toNat
    let at_ := g.tbarPlace a
    State.nextLease (if bitAt a 31 then s.putBank 0 0 key bs else s.putLocal 0 0 g.id off bs) at_

/-- The arithmetic record of a command (R417). -/
def Command.alogRec (c : Command) (g : Workgroup) (src cause count : Nat) : AlogRec :=
  { cause := cause, src := src, count := count, pc := c.pc.toNat, core := c.core, wpos := c.wpos, wave := c.windex,
    frag := c.frag, wx := g.wx, wy := g.wy, wz := g.wz, writer := c.wave }

/-- Adds events of a cause to a command's count (R417). -/
def Command.addEvents (c : Command) (causes : List Nat) : Command :=
  { c with events := causes.foldl (fun es x =>
      if es.any (fun e => e.1 == x) then es.map (fun e => if e.1 = x then (e.1, e.2 + 1) else e) else es ++ [(x, 1)]) c.events }

/-- Writes a command's arithmetic records, in ascending cause order (R416, R418). -/
def State.logCmd (s : State) (c : Command) (src : Nat) : State :=
  let g := s.cmdGroup c
  [1, 2, 3, 4, 5, 6].foldl (fun s x =>
    match c.events.find? (fun e => e.1 == x) with
    | some e => s.alog g.who (s.grantOf g) (c.alogRec g src x e.2)
    | none => s) s

/-- Wakes the fragments that a completed command concerns (R283, R289): bwait, and units that parked before they took
effect. -/
def State.wakeCmd (s : State) (c : Command) : State :=
  let parked := s.boxes.filter (fun b => b.wave.id == c.wave)
  let lasts := (parked.flatMap (fun b => b.frags.filterMap (fun f => match f.wait with
    | some (.batch l) => some l
    | _ => none))).filter (fun l => s.batchesDone c.wave l)
  let s := lasts.foldl (fun s l => s.sawBatches c.wave l) s
  s.wakeIf (fun w f => match f.wait with
    | some (.batch l) => w.id == c.wave && lasts.contains l
    | some (.oldest n) => w.id == c.wave && !(s.openBatches c.wave).contains n
    | some .again => w.wgId == c.wg || c.kind == .qpost
    | _ => false)

/-- A command's completion is counted (R283, R289): COPYQ and its batch have one less. -/
def State.retireCmd (s : State) (c : Command) : State :=
  let done : DoneCmd := { cmd := c.id, wg := c.wg, wave := c.wave, batch := c.batch }
  let s := { s with
    cmds := s.cmds.filter (fun x => x.id != c.id)
    doneCmds := if c.kind = CmdKind.accZero then s.doneCmds else s.doneCmds ++ [done] }
  s.wakeCmd c

/-- A command that has been performed, or discarded, counts as complete (R283, R288, R289). -/
def execCommandComplete (cmd : Nat) (s : State) : Host.Outcome State Fault Refusal :=
  match s.cmd cmd with
  | some c => if c.phase = .done then .next (s.retireCmd c) else .next s
  | none => .next s

end Sys2Proof.Machine
end

