-- ==== Sys2Proof/Machine/CopyEngine.lean ====
section
/-!
DEFINITION. The copy engines at work (spec/11_isa_memory.md R282 to R288, R293, spec/05_consistency.md R112, R118,
spec/22_faults_memory.md R457, spec/24_faults_engines.md R477 to R480): starting a command, guards, multicasts, sectors,
page migration.
-/

namespace Sys2Proof.Machine

/-- Every earlier command of the same wave has started (R283); one that was withdrawn comes before the later ones of its wave
(R290). -/
def State.mayStart (s : State) (c : Command) : Bool :=
  (s.cmds ++ s.withdrawn).all (fun x => !(x.wave == c.wave && x.kind.ordered && decide (x.id < c.id)) ||
    !(x.phase == .posted || x.phase == .guarded || x.phase == .slotless))

/-- The next command of a copy engine: the oldest posted one that may start. -/
def State.nextCopy (s : State) (engine : Nat) : Option Command :=
  s.cmds.find? (fun c => c.kind.isCopy && c.engine == engine && c.phase == .posted && s.mayStart c && !s.cmdStopped c)

/-- The outcome of reading a guard word on path v (R288): the word, or a failure. A poisoned word reads as zero. -/
def State.guardWord (s : State) (c : Command) (a : Nat) : Except EngFail (Nat × State) :=
  match s.engRead 0 c (s.cmdGroup c) 0 a 4 with
  | .error e => .error e
  | .ok r => .ok (if r.1.2 then 0 else natOfBytes r.1.1, r.2)

/-- A copy runs (R284, R286, R288): a multicast has to have its slots first. -/
def State.runCopy (s : State) (c : Command) : State :=
  match c.kind with
  | .cpyMc => s.putCmd { c with phase := .slotless }
  | _ => s.putCmd { c with phase := .running }

/-- Judges the guard of a command (R288 Table 5); `q` is the path of its accesses. -/
def State.judgeGuard (s : State) (c : Command) (a q : Nat) (run : State → State) : State :=
  match s.guardWord c a with
  | .error e => s.engineFail c a e
  | .ok (v, t) =>
    if v = 0 then t.putCmd { c with phase := .guarded }
    else if v = 1 then run (t.fence c.core 0 q c.wave)
    else t.putCmd { c with phase := .done }

/-- A copy engine takes up its next command (R283, R288, R370). -/
def execCopyCommandStart (engine : Nat) (s : State) : Host.Outcome State Fault Refusal :=
  match s.nextCopy engine with
  | none => .next s
  | some c =>
    let g := (CopyDesc.ofBytes c.desc).guard
    if g = 0 then .next (s.runCopy c) else .next (s.judgeGuard c g 2 (fun t => t.runCopy c))

/-- Slots of a receiver that its loader can see (R112, R286, R313): those freed after matrix entries that have finished. -/
def State.slotsOf (s : State) (g : Workgroup) : Nat :=
  g.fsc - ((g.frees.filter (fun (f : Nat × Nat) => (s.cmds ++ s.withdrawn).any (fun c => c.wg == g.id && decide (c.id < f.1) &&
    c.kind.isMatrix && c.phase != .done))).foldl (fun n f => n + f.2) 0)

/-- A receiver takes one slot less. -/
def State.takeSlot (s : State) (id : Nat) : State :=
  s.modGroup id (fun g => { g with
    fsc := g.fsc - 1
    frees := g.frees.filter (fun (f : Nat × Nat) => (s.cmds ++ s.withdrawn).any (fun c => c.wg == g.id && decide (c.id < f.1) &&
      c.kind.isMatrix && c.phase != .done)) })

/-- A running multicast has a receiver in common with this one: the two are ordered wholly (R286). -/
def State.mcBusy (s : State) (c : Command) : Bool :=
  s.cmds.any (fun x => x.id != c.id && x.kind == .cpyMc && x.phase == .running && x.args.any c.args.contains)

/-- A multicast at the head of its engine (R286, R479): it waits for a slot of every receiver, for a receiver that is pre-empted,
and for another multicast to one of them, and takes the slots in one step; a receiver that completed or is confined discards it,
and a receiver with a poisoned count is confined. -/
def execMulticastStart (cmd : Nat) (s : State) : Host.Outcome State Fault Refusal :=
  match s.cmd cmd with
  | none => .next s
  | some c =>
    if c.phase ≠ .slotless ∨ s.cmdStopped c then .next s
    else
      let gone := c.args.any (fun id => match s.group id with
        | none => !s.saved.any (fun x => x.wg.id == id)
        | some g => g.finished || s.confined g)
      let bad := c.args.find? (fun id => match s.group id with
        | none => false
        | some g => g.fscPois)
      if gone then .next ((s.putCmd { c with phase := .done }).engineConfine c 0x45 0)
      else
        match bad.bind s.group with
        | some g => .next (s.confine 1 g.who (some g) { s.groupRec g with source := 4, code := 0x46, pc := c.pc.toNat })
        | none =>
          if !s.mcBusy c && c.args.all (fun id => match s.group id with
              | none => false
              | some g => decide (1 ≤ s.slotsOf g)) then
            .next ((c.args.foldl (fun s id => s.takeSlot id) s).putCmd { c with phase := .running })
          else .next s

/-- A held command reads its guard word again (R288, R306): a copy in its context's space, a matrix entry in local
memory. -/
def execGuardWordResolve (cmd : Nat) (s : State) : Host.Outcome State Fault Refusal :=
  match s.cmd cmd with
  | none => .next s
  | some c =>
    if c.phase ≠ .guarded ∨ s.cmdStopped c then .next s
    else if c.copies then
      .next (s.judgeGuard c (CopyDesc.ofBytes c.desc).guard 2 (fun t => t.runCopy c))
    else .next (s.putCmd { c with phase := if c.kind = .cpyThen then .landed else .posted })

/-- The operation of a reduction code on one element (R285 Table 4): the new bits and the causes met. -/
def colOp (op d v : Nat) : Nat × List Nat :=
  let i (x : Nat) : Int := signed 32 x
  match op with
  | 1 => ((d + v) % 2 ^ 32, [])
  | 2 => (if i v < i d then v else d, [])
  | 3 => (if i d < i v then v else d, [])
  | 4 => (min d v, [])
  | 5 => (max d v, [])
  | 6 => ((d + v) % 2 ^ 64, [])
  | 7 => let r := fixedAdd .f32 d v; (r.bits, r.ev)
  | 8 => let r := ({} : Mode).minmax .f32 false d v; (r.bits, r.ev)
  | 9 => let r := ({} : Mode).minmax .f32 true d v; (r.bits, r.ev)
  | 10 => let r := fixedAdd .bf16 d v; (r.bits, r.ev)
  | _ => let r := fixedAdd .f64 d v; (r.bits, r.ev)

/-- Reduces the elements of one destination sector (R285, R478): the new bytes and the causes met. `bad` says which source bytes
are poisoned; an element of those keeps its bytes, under the poison of its sector. -/
def colBytes (op : Nat) : Nat → List Byte → List Byte → List Bool → List Byte × List Nat
  | 0, _, _, _ => ([], [])
  | n + 1, d, v, bad =>
    let es := colSize op
    let r := if (bad.take es).contains true then (natAt d 0 es, []) else colOp op (natAt d 0 es) (natAt v 0 es)
    let t := colBytes op n (d.drop es) (v.drop es) (bad.drop es)
    (bytesOf es r.1 ++ t.1, r.2 ++ t.2)

/-- The bytes that a reduction finds at its destination: the latest of the coherence order (R106). It meets the sector that it
changes (R454). -/
def State.engHome (s : State) (c : Command) (g : Workgroup) (sp a n : Nat) : Except EngFail ((List Byte × Bool) × State) :=
  match sp with
  | 0 => match s.engXlate g .write a with
    | .error e => .error e
    | .ok x =>
      if s.sealBars (s.grantOf g) x.pa then .error .barred
      else
        let t := match s.placeOf x.pa with
          | some p =>
            ((s.meetUE (some c.who) (s.grantOf g) (s.cmdRec c g) x.pa p n).l2Touch c.vf x.pa p (sectorMask p n)).observeAll 2 p n
          | none => { s with free := s.free + 1 }
        .ok (t.homeBytes x.pa n, t)
  | 1 => .ok ((SMap.getList 0 a n g.lmem, corePois g.lpois a n), s)
  | _ => .ok (((List.range n).map (fun i => SMap.get 0 (g.bankOf (a + i)) s.cmem), corePois s.cpois (g.bankOf a) n), s)

/-- Reads the source of a piece, sector by sector (R477, R478): its bytes, whether a sector is poisoned, and the bytes of the
poisoned ones. -/
def State.readPiece (s : State) (c : Command) (g : Workgroup) (sp a n : Nat) :
    Except (Nat × EngFail) ((List Byte × Bool × List Bool) × State) :=
  let k := min n (16 - a % 16)
  match s.engRead 2 c g sp a k with
  | .error e => .error (a, e)
  | .ok (r, s) =>
    if n ≤ k then .ok ((r.1, r.2, List.replicate n r.2), s)
    else
      match s.engRead 2 c g sp (a + k) (n - k) with
      | .error e => .error (a + k, e)
      | .ok (q, s) => .ok ((r.1 ++ q.1, r.2 || q.2, List.replicate k r.2 ++ List.replicate (n - k) q.2), s)

/-- Moves one piece of a row, inside one destination sector (R282, R285, R286, R477, R478): `a` and `b` are the source
and destination addresses. -/
def State.movePiece (s : State) (c : Command) (d : CopyDesc) (a b n : Nat) : Except (Nat × EngFail) (State × List Nat) :=
  let g := s.cmdGroup c
  match s.readPiece c g d.sspace a n with
  | .error e => .error e
  | .ok (r, s) =>
    match c.kind with
    | .cpyMc =>
      .ok (c.args.foldl (fun s id => match s.group id with
        | none => s
        | some m => if s.confined m then s else
          match s.engWrite 2 c m 1 b r.1 r.2.1 with
          | .ok t => t
          | .error _ => s) s, [])
    | .cpyCol =>
      match s.engHome c g d.dspace b n with
      | .error e => .error (b, e)
      | .ok (old, s) =>
        let x := colBytes d.op (n / colSize d.op) old.1 r.1 r.2.2
        match s.engWrite 2 c g d.dspace b x.1 (r.2.1 || old.2) with
        | .error e => .error (b, e)
        | .ok t => .ok (t, x.2)
    | _ =>
      match s.engWrite 2 c g d.dspace b r.1 r.2.1 with
      | .error e => .error (b, e)
      | .ok t => .ok (t, [])

/-- Address `base` plus `row` strides plus `off`, in a space's width (R282). -/
def rowAddr (sp base row off : Nat) (stride : Int) : Nat :=
  unsigned (if sp = 0 then 56 else 32) ((base : Int) + (row : Int) * stride + off)

/-- The storage place, or recorded place, of a byte that a command writes in a space of its workgroup, or a place that stands for
a peer's. -/
def State.cmdPlace (s : State) (g : Workgroup) (sp a : Nat) : Option Nat :=
  match sp with
  | 0 => match s.translate g.part g.vf g.ctx (a % 2 ^ 56) .write with
    | .ok x => match s.resolve (x.pa % 2 ^ 46) with
      | .peer w off => some (2 ^ 61 + w * 2 ^ 46 + off)
      | _ => s.placeOf x.pa
    | .error _ => none
  | 1 => some (scratchPlace g.id a)
  | _ => some (bankPlace (g.bankOf a))

/-- The places of the bytes at a destination address of a copy: in its own workgroup, or in each receiver. -/
def State.destPlaces (s : State) (c : Command) (d : CopyDesc) (b : Nat) : List Nat :=
  if c.kind = .cpyMc then c.args.map (fun id => scratchPlace id b)
  else (s.cmdPlace (s.cmdGroup c) d.dspace b).toList

/-- A copy that has not ended has yet to write in the 16 B sector at a place: one of the sectors of its rows that are
left. -/
def State.owesWrite (s : State) (x : Command) (p : Nat) : Bool :=
  let d := CopyDesc.ofBytes x.desc
  (List.range d.rows).any (fun row => decide (x.progress / 2 ^ 24 ≤ row) &&
    (List.range (d.len / 16 + 2)).any (fun i =>
      let b := rowAddr d.dspace d.dst row 0 d.dstr
      let o := 16 * i - min (16 * i) (b % 16)
      decide (o < d.len) && decide (x.progress ≤ row * 2 ^ 24 + min (o + 15 - (b + o) % 16) (d.len - 1)) &&
        (s.destPlaces x d (b + o)).any (fun q => q / 16 == p / 16)))

/-- A piece waits for an earlier command of its wave that has yet to write its sector: the writes of two commands of one wave
to one byte take the order of their posts (R107, R283). -/
def State.pieceWaits (s : State) (c : Command) (d : CopyDesc) (b : Nat) : Bool :=
  s.cmds.any (fun x => x.wave == c.wave && decide (x.id < c.id) && x.copies && x.kind != .migrate && x.phase == .running &&
    (s.destPlaces c d b).any (s.owesWrite x))

/-- Moves sectors of a running copy in row order until `fuel` of them have landed; the progress holds row·2^24 + offset.
The bytes that landed come with the state. -/
def landSectors (d : CopyDesc) (id : Nat) : Nat → State → State × Nat
  | 0, s => (s, 0)
  | fuel + 1, s =>
    match s.cmd id with
    | none => (s, 0)
    | some c =>
      let row := c.progress / 2 ^ 24
      let off := c.progress % 2 ^ 24
      if d.rows ≤ row then (s, 0)
      else
        let a := rowAddr d.sspace d.src row off d.sstr
        let b := rowAddr d.dspace d.dst row off d.dstr
        let n := min (d.len - off) (16 - b % 16)
        if s.pieceWaits c d b then (s, 0) else
        match s.movePiece c d a b n with
        | .error (at_, e) => (s.engineFail c at_ e, 0)
        | .ok (t, ev) =>
          let next := if off + n = d.len then (row + 1) * 2 ^ 24 else c.progress + n
          let r := landSectors d id fuel (t.putCmd ({ c with progress := next }.addEvents ev))
          (r.1, n + r.2)

/-- Lowers TBAR by the bytes that landed, in the posting workgroup or in each receiver (R286, R293). -/
def State.lowerAll (s : State) (c : Command) (d : CopyDesc) (n : Nat) : State :=
  if !d.tb || n = 0 then s
  else if c.kind = .cpyMc then
    c.args.foldl (fun s id => match s.group id with
      | none => s
      | some g => if s.confined g then s else s.lowerBar c g d.tbar n) s
  else s.lowerBar c (s.cmdGroup c) d.tbar n

/-- The lowering of a copy's last bytes is its completion write (R110). -/
def State.noteLowered (s : State) (c : Command) (d : CopyDesc) : State :=
  if !d.tb then s
  else (if c.kind = .cpyMc then c.args.filterMap s.group else [s.cmdGroup c]).foldl (fun s g =>
    s.noteEnd (g.tbarPlace d.tbar / 128) (s.homeWts (g.tbarPlace d.tbar)) [c.id]) s

/-- A copy whose last byte has landed: its records are written, and the block of a cpy.then enters the matrix queue
(R287, R313, R418). -/
def State.endCopy (s : State) (c : Command) (d : CopyDesc) : State :=
  let s := (s.logCmd c 3).noteLowered c d
  match c.kind with
  | .cpyThen =>
    let next : Command := { c with phase := .landed, progress := 0, events := [], args := [2 ^ 32], entered := s.nextId }
    let s := (s.markSeen (fun e => e.cmd == c.id) 3 (some c.wave)).putCmd next
    { s with nextId := s.nextId + 1, matq := SMap.set [] c.core (SMap.get [] c.core s.matq ++ [c.id]) s.matq }
  | _ => s.putCmd { c with phase := .done }

/-- Sectors of a copy land, and PEND is lowered by their bytes (R282 to R287, R293, R477, R478). -/
def execCopyBytesLand (cmd sectors : Nat) (s : State) : Host.Outcome State Fault Refusal :=
  match s.cmd cmd with
  | none => .next s
  | some c =>
    if c.phase ≠ .running ∨ !c.copies ∨ c.kind = .migrate ∨ s.cmdStopped c then .next s
    else
      let d := CopyDesc.ofBytes c.desc
      let r := landSectors d cmd sectors s
      match r.1.cmd cmd with
      | none => .next r.1
      | some c' =>
        let t := r.1.lowerAll c' d r.2
        .next (if d.rows ≤ c'.progress / 2 ^ 24 then t.endCopy c' d else t)

end Sys2Proof.Machine
end

