-- ==== Sys2Proof/Machine/Sight.lean ====
section
/-!
DEFINITION. The sight units (spec/13_shading.md R342 to R348): rast and ray, and the run of a command in exact
arithmetic. Every finite f32 is an integer multiple of 2^-149: coordinates are integers in that unit.
-/

namespace Sys2Proof.Machine

/-- The fields of a raster descriptor (R343 Table 8). -/
structure RastDesc where
  tri : Nat
  out : Nat
  depth : Nat
  ntri : Nat
  x0 : Int
  y0 : Int
  w : Nat
  h : Nat
  dep : Bool
  deriving DecidableEq, Repr

def RastDesc.ofBytes (d : List Byte) : RastDesc :=
  { tri := natAt d 0 4, out := natAt d 4 4, depth := natAt d 8 4, ntri := natAt d 12 2, x0 := signed 16 (natAt d 14 2),
    y0 := signed 16 (natAt d 16 2), w := natAt d 18 1, h := natAt d 19 1, dep := bitAt (natAt d 20 1) 0 }

/-- The codes that a raster descriptor meets (R348 Table 10). -/
def rastCodes (window : Nat) (d : List Byte) : List Nat :=
  let r := RastDesc.ofBytes d
  let bad := decide (r.ntri = 0) || decide (4096 < r.ntri) || decide (r.w = 0) || decide (64 < r.w) || decide (r.h = 0) ||
    decide (64 < r.h)
  (if r.tri % 16 ≠ 0 ∨ r.out % 16 ≠ 0 ∨ (r.dep ∧ r.depth % 4 ≠ 0) then [0x07] else []) ++
  (if bad ∨ 2 ≤ natAt d 20 1 ∨ ¬ zeroAt d 21 3 ∨ ¬ zeroAt d 28 36 then [0x0E] else []) ++
  (if window < r.tri + 64 * r.ntri ∨ window < r.out + 16 * r.w * r.h ∨ (r.dep ∧ window < r.depth + 4 * r.w * r.h) then
    [0x0B] else [])

/-- rast (R342, R343). -/
def execRast (a : Operand) (s : State) : Host.Outcome State Fault Refusal :=
  s.postUnit a 64 [] (rastCodes s.wg.localBytes) (s.copyqFull s.wg) false []
    (fun d t => t.post { t.newCmd s.frag.pc .rast d with args := [s.lowInt a] })

/-- The codes that a ray block meets (R346, R348); `top` is one above the highest lane of the execution mask. -/
def rayCodes (window top : Nat) (d : List Byte) : List Nat :=
  (if natAt d 0 8 % 256 ≠ 0 ∨ natAt d 8 4 % 16 ≠ 0 then [0x07] else []) ++
  (if window < natAt d 8 4 + 16 * top then [0x0B] else [])

/-- The ray of a lane as its seven registers hold it (R346). -/
def State.rayWords (s : State) (a : Operand) (l : Nat) : List Nat :=
  (List.range 7).map (fun i => (s.vreg (a.num + i) l).toNat)

/-- ray (R342, R346): the rays are taken at issue, lane by lane. -/
def execRay (a b : Operand) (s : State) : Host.Outcome State Fault Refusal :=
  let ls := lanesOf s.exec
  s.postUnit b 16 (s.encCond (!a.isV || decide (121 < a.num)) 0x01 ++ s.cleanCond [(7, a)])
    (rayCodes s.wg.localBytes (ls.getLastD 0 + 1)) (s.copyqFull s.wg) false []
    (fun d t => t.post { t.newCmd s.frag.pc .ray d with args := ls, acc := ls.flatMap (s.rayWords a) })

/-- An f32 that is finite, in units of 2^-149. -/
def fixedOf (bits : Nat) : Option Int :=
  match FFmt.f32.decode bits with
  | .fin n m e => let v : Int := m * 2 ^ (e + 149).toNat; some (if n then -v else v)
  | _ => none

/-- The rounded quotient of two integers, scaled by 2^x (R344, R346). -/
def roundRatio (f : FFmt) (n d x : Int) : Nat :=
  if n = 0 then 0
  else
    let q := divMag n.natAbs d.natAbs
    (f.round 0 0 false false (.fin (decide (n < 0) != decide (d < 0)) q.1 (q.2 + x))).bits

/-- A vertex of a triangle batch (R343 Table 9). -/
structure Vertex where
  x : Int
  y : Int
  z : Int
  s : Int
  t : Int
  deriving DecidableEq, Repr

/-- Twice the signed area of a triangle, and the edge function of `a` to `b` at a point (R344). -/
def edgeFn (ax ay bx by_ cx cy : Int) : Int := (bx - ax) * (cy - ay) - (by_ - ay) * (cx - ax)

/-- A triangle that rast does not skip: its vertices oriented, its area, its object, its level and its index. -/
structure Tri3 where
  v0 : Vertex
  v1 : Vertex
  v2 : Vertex
  area : Int
  obj : Nat
  lvl : Nat
  index : Nat
  deriving DecidableEq, Repr

/-- A vertex from 20 bytes; none when a coordinate is NaN or infinite. -/
def vertexOf (b : List Byte) (i : Nat) : Option Vertex :=
  match fixedOf (natAt b i 4), fixedOf (natAt b (i + 4) 4), fixedOf (natAt b (i + 8) 4), fixedOf (natAt b (i + 12) 4),
      fixedOf (natAt b (i + 16) 4) with
  | some x, some y, some z, some s, some t => some { x := x, y := y, z := z, s := s, t := t }
  | _, _, _, _, _ => none

/-- The level of an oriented triangle (R344): 0 where F ≤ 1, else the ceiling of log2 F, at most 15. -/
def levelOf (v0 v1 v2 : Vertex) (area : Int) : Nat :=
  let dx (f : Vertex → Int) : Nat := ((f v1 - f v0) * (v2.y - v0.y) - (f v2 - f v0) * (v1.y - v0.y)).natAbs
  let dy (f : Vertex → Int) : Nat := ((f v2 - f v0) * (v1.x - v0.x) - (f v1 - f v0) * (v2.x - v0.x)).natAbs
  let m := max (max (dx Vertex.s) (dy Vertex.s)) (max (dx Vertex.t) (dy Vertex.t))
  ((List.range 15).find? (fun k => decide (m ≤ area.natAbs * 2 ^ k))).getD 15

/-- Triangle `i` of a batch from its 64 bytes (R344); none where it is skipped. -/
def triOf64 (i : Nat) (b : List Byte) : Option Tri3 :=
  match vertexOf b 0, vertexOf b 20, vertexOf b 40 with
  | some v0, some v1, some v2 =>
    let ar := edgeFn v0.x v0.y v1.x v1.y v2.x v2.y
    let p := if ar < 0 then (v2, v1) else (v1, v2)
    if ar = 0 then none
    else some { v0 := v0, v1 := p.1, v2 := p.2, area := ar.natAbs, obj := natAt b 60 3, lvl := levelOf v0 p.1 p.2 ar.natAbs,
                index := i }
  | _, _, _ => none

/-- An edge function lets its point be covered (R344): positive, or zero on an inclusive edge. -/
def edgeIn (a b : Vertex) (e : Int) : Bool :=
  decide (0 < e) || (decide (e = 0) && (decide (b.y < a.y) || (decide (b.y = a.y) && decide (a.x < b.x))))

/-- The weights of a point over an oriented triangle's vertices; none where it is not covered (R344). -/
def Tri3.cover (t : Tri3) (cx cy : Int) : Option (Int × Int × Int) :=
  let w0 := edgeFn t.v1.x t.v1.y t.v2.x t.v2.y cx cy
  let w1 := edgeFn t.v2.x t.v2.y t.v0.x t.v0.y cx cy
  let w2 := edgeFn t.v0.x t.v0.y t.v1.x t.v1.y cx cy
  if edgeIn t.v1 t.v2 w0 && edgeIn t.v2 t.v0 w1 && edgeIn t.v0 t.v1 w2 then some (w0, w1, w2) else none

/-- An interpolated attribute times the area (R344). -/
def Tri3.mix (t : Tri3) (w : Int × Int × Int) (f : Vertex → Int) : Int := w.1 * f t.v0 + w.2.1 * f t.v1 + w.2.2 * f t.v2

/-- The best depth so far (R344): nothing lies below it, everything does, or a ratio. -/
inductive Depth where
  | lowest
  | highest
  | at_ (n d : Int)
  deriving DecidableEq, Repr

/-- n/d, with d positive, lies below a depth. -/
def Depth.above (n d : Int) : Depth → Bool
  | .lowest => false
  | .highest => true
  | .at_ n' d' => decide (n * d' < n' * d)

/-- The depth that an f32 of the depth array gives: nothing lies below a NaN or -∞. -/
def Depth.ofBits (b : Nat) : Depth :=
  match FFmt.f32.decode b with
  | .nan _ _ _ => .lowest
  | .inf n => if n then .lowest else .highest
  | _ => match fixedOf b with
    | some v => .at_ v 1
    | none => .lowest

/-- The triangle that wins a pixel, with its weights and its depth (R344). -/
def winner (ts : List Tri3) (cx cy : Int) (d : Depth) : Option (Tri3 × (Int × Int × Int)) :=
  (ts.foldl (fun (r : Depth × Option (Tri3 × (Int × Int × Int))) t =>
    match t.cover cx cy with
    | none => r
    | some w => let z := t.mix w Vertex.z; if r.1.above z t.area then (.at_ z t.area, some (t, w)) else r) (d, none)).2

/-- The 16 bytes of a sample record (R344). -/
def sampleBytes (px py : Nat) (t : Tri3) (w : Int × Int × Int) : List Byte :=
  let at_ (f : Vertex → Int) : Nat := roundRatio .f32 (t.mix w f) t.area (-149 - (t.lvl : Int))
  bytesOf 1 px ++ bytesOf 1 py ++ bytesOf 2 t.index ++ bytesOf 4 (t.obj + t.lvl * 2 ^ 24) ++ bytesOf 4 (at_ Vertex.s) ++
  bytesOf 4 (at_ Vertex.t)

/-- Writes inside sectors of the posting workgroup's local memory, on path s. -/
def State.sightWrite (s : State) (c : Command) (a : Nat) (bs : List Byte) (bad : Bool) : State :=
  match s.engWrite 4 c (s.cmdGroup c) 1 a bs bad with
  | .ok t => t
  | .error _ => s

/-- A raster command begins (R344): its triangle batch is read, and whether it carries poison. A raster command's `progress` counts
its pixels, and its `total` the records emitted. -/
def State.beginRast (s : State) (c : Command) : State :=
  let d := RastDesc.ofBytes c.desc
  let raw := s.localBytes (s.cmdGroup c) 4 c.wave d.tri (64 * d.ntri)
  (s.observe 4 c.wave (scratchPlace (s.cmdGroup c).id d.tri) (64 * d.ntri)).putCmd { c with
    phase := .running, progress := 0, total := 0, follow := raw.1, acc := [if raw.2 then 1 else 0] }

/-- The next pixel of a raster command (R344), ascending by row and then by column: its record and its depth, where a triangle wins
it. Poison met in the batch or in the depth travels to both. After the last pixel COUNT is written. -/
def State.rastStep (s : State) (c : Command) : State :=
  let d := RastDesc.ofBytes c.desc
  if d.w * d.h ≤ c.progress then
    (s.sightWrite c (c.args.getD 0 0 + 24) (bytesOf 4 c.total) false).putCmd { c with phase := .done }
  else
    let ts := (List.range d.ntri).filterMap (fun i => triOf64 i (slice c.follow (64 * i) 64))
    let half : Int := 2 ^ 148
    let px := c.progress % d.w
    let py := c.progress / d.w
    let da := d.depth + 4 * c.progress
    let z := if d.dep then s.localBytes (s.cmdGroup c) 4 c.wave da 4 else ([], false)
    let s := if d.dep then s.observe 4 c.wave (scratchPlace (s.cmdGroup c).id da) 4 else s
    let bad := decide (c.acc.headD 0 ≠ 0) || z.2
    match winner ts ((d.x0 + px) * 2 ^ 149 + half) ((d.y0 + py) * 2 ^ 149 + half)
        (if d.dep then Depth.ofBits (natOfBytes z.1) else .highest) with
    | none => s.putCmd { c with progress := c.progress + 1 }
    | some (t, w) =>
      let s := s.sightWrite c (d.out + 16 * c.total) (sampleBytes px py t w) bad
      (if d.dep then s.sightWrite c da (bytesOf 4 (roundRatio .f32 (t.mix w Vertex.z) t.area (-149))) bad else s).putCmd
        { c with progress := c.progress + 1, total := c.total + 1 }

/-- A ray in exact form: origin, direction and the ends of its segment (R346). -/
structure Ray where
  o : Int × Int × Int
  d : Int × Int × Int
  lo : Num
  hi : Num
  deriving DecidableEq, Repr

/-- What a lane's ray amounts to (R346). -/
inductive RayIn where
  | ray (r : Ray)
  | miss
  /-- an infinite origin or direction: the spec states no result -/
  | open_
  deriving DecidableEq, Repr

def rayOf (ws : List Nat) (tmin : Nat) : RayIn :=
  let n (i : Nat) : Num := FFmt.f32.decode (ws.getD i 0)
  let lo := FFmt.f32.decode tmin
  if (List.range 7).any (fun i => (n i).isNan) || lo.isNan || (n 3).isZero && (n 4).isZero && (n 5).isZero ||
      decide (cmpNum (n 6) lo < 0) then .miss
  else
    match fixedOf (ws.getD 0 0), fixedOf (ws.getD 1 0), fixedOf (ws.getD 2 0), fixedOf (ws.getD 3 0), fixedOf (ws.getD 4 0),
        fixedOf (ws.getD 5 0) with
    | some ox, some oy, some oz, some dx, some dy, some dz =>
      .ray { o := (ox, oy, oz), d := (dx, dy, dz), lo := lo, hi := n 6 }
    | _, _, _, _, _, _ => .open_

/-- n/d, with d positive, is at least, or at most, an end of a segment. -/
def atLeast (n d : Int) : Num → Bool
  | .inf neg => neg
  | .fin neg m e => let v : Int := m * 2 ^ (e + 149).toNat; decide ((if neg then -v else v) * d ≤ n * 2 ^ 149)
  | _ => false

def atMost (n d : Int) : Num → Bool
  | .inf neg => !neg
  | .fin neg m e => let v : Int := m * 2 ^ (e + 149).toNat; decide (n * 2 ^ 149 ≤ (if neg then -v else v) * d)
  | _ => false

/-- The bounds that one axis of a box puts on t: lower and upper ones as ratios, none when no t fits. -/
def slab (o d : Int) (lo hi : Num) : Option (List (Int × Int) × List (Int × Int)) :=
  let v (x : Num) : Int := match x with
    | .fin neg m e => let k : Int := m * 2 ^ (e + 149).toNat; if neg then -k else k
    | _ => 0
  if lo = .inf false ∨ hi = .inf true then none
  else if d = 0 then
    (if (lo.isInf || decide (v lo ≤ o)) && (hi.isInf || decide (o ≤ v hi)) then some ([], []) else none)
  else
    let ratio (x : Num) : List (Int × Int) := if x.isInf then [] else [if 0 < d then (v x - o, d) else (o - v x, -d)]
    if 0 < d then some (ratio lo, ratio hi) else some (ratio hi, ratio lo)

/-- The exact segment meets a closed box (R345, R346). -/
def Ray.meets (r : Ray) (b : List Byte) : Bool :=
  let n (i : Nat) : Num := FFmt.f32.decode (natAt b (4 * i) 4)
  if (List.range 6).any (fun i => (n i).isNan) || decide (0 < cmpNum (n 0) (n 1)) || decide (0 < cmpNum (n 2) (n 3)) ||
      decide (0 < cmpNum (n 4) (n 5)) then false
  else
    match slab r.o.1 r.d.1 (n 0) (n 1), slab r.o.2.1 r.d.2.1 (n 2) (n 3), slab r.o.2.2 r.d.2.2 (n 4) (n 5) with
    | some x, some y, some z =>
      let ls := x.1 ++ y.1 ++ z.1
      let us := x.2 ++ y.2 ++ z.2
      ls.all (fun l => us.all (fun u => decide (l.1 * u.2 ≤ u.1 * l.2)) && atMost l.1 l.2 r.hi) &&
      us.all (fun u => atLeast u.1 u.2 r.lo)
    | _, _, _ => false

/-- A hit (R346): t, b1 and b2 over one positive denominator, the object and the primitive. -/
structure Hit where
  t : Int
  b1 : Int
  b2 : Int
  den : Int
  obj : Nat
  prim : Nat
  deriving DecidableEq, Repr

/-- A hit wins over another: the lesser t, then the lower object id, then the lower primitive id (R346). -/
def Hit.beats (a b : Hit) : Bool :=
  decide (a.t * b.den < b.t * a.den) || (decide (a.t * b.den = b.t * a.den) &&
    (decide (a.obj < b.obj) || (decide (a.obj = b.obj) && decide (a.prim < b.prim))))

def cross (a b : Int × Int × Int) : Int × Int × Int :=
  (a.2.1 * b.2.2 - a.2.2 * b.2.1, a.2.2 * b.1 - a.1 * b.2.2, a.1 * b.2.1 - a.2.1 * b.1)

def dot3 (a b : Int × Int × Int) : Int := a.1 * b.1 + a.2.1 * b.2.1 + a.2.2 * b.2.2

def sub3 (a b : Int × Int × Int) : Int × Int × Int := (a.1 - b.1, a.2.1 - b.2.1, a.2.2 - b.2.2)

/-- A point of 12 bytes; none where it is not finite. -/
def pointOf (b : List Byte) (i : Nat) : Option (Int × Int × Int) :=
  match fixedOf (natAt b i 4), fixedOf (natAt b (i + 4) 4), fixedOf (natAt b (i + 8) 4) with
  | some x, some y, some z => some (x, y, z)
  | _, _, _ => none

/-- The hit of a ray on a leaf triangle of 48 bytes (R345, R346). -/
def Ray.hit (r : Ray) (b : List Byte) : Option Hit :=
  match pointOf b 0, pointOf b 12, pointOf b 24 with
  | some v0, some v1, some v2 =>
    let e1 := sub3 v1 v0
    let e2 := sub3 v2 v0
    let p := cross r.d e2
    let det := dot3 e1 p
    let q := cross (sub3 r.o v0) e1
    let sg : Int := if det < 0 then -1 else 1
    let h : Hit := { t := sg * dot3 e2 q, b1 := sg * dot3 (sub3 r.o v0) p, b2 := sg * dot3 r.d q, den := sg * det,
                     obj := natAt b 40 3, prim := natAt b 36 4 }
    if det ≠ 0 ∧ 0 ≤ h.b1 ∧ 0 ≤ h.b2 ∧ h.b1 + h.b2 ≤ h.den ∧ atLeast h.t h.den r.lo ∧ atMost h.t h.den r.hi then some h else none
  | _, _, _ => none

/-- A walk in progress: the machine, the best hit, and whether poison was met. -/
structure Walk where
  s : State
  best : Option Hit := none
  bad : Bool := false

/-- Reads bytes in the context's space for a walk, on path s. -/
def Walk.read (c : Command) (w : Walk) (a n : Nat) : Except (Nat × EngFail) (List Byte × Walk) :=
  match w.s.engRead 4 c (w.s.cmdGroup c) 0 (a % 2 ^ 56) n with
  | .error e => .error (a, e)
  | .ok r => .ok (r.1.1, { w with s := r.2, bad := w.bad || r.1.2 })

/-- The triangles of a leaf, one after another. -/
def walkLeaf (c : Command) (r : Ray) (a : Nat) : Nat → Walk → Except (Nat × EngFail) Walk
  | 0, w => .ok w
  | n + 1, w =>
    match w.read c a 48 with
    | .error e => .error e
    | .ok (b, w) =>
      let best := match r.hit b, w.best with
        | some h, some h' => some (if h.beats h' then h else h')
        | some h, none => some h
        | none, x => x
      walkLeaf c r (a + 48) n { w with best := best }

/-- The children of a node whose boxes the segment meets, ascending: kind, count and address (R345). -/
def Ray.enters (r : Ray) (b : List Byte) : List (Nat × Nat × Nat) :=
  (List.range 8).filterMap (fun i =>
    let ref := natAt b (32 * i + 24) 8
    if (ref / 2 ^ 62 = 1 ∨ ref / 2 ^ 62 = 2) ∧ r.meets (slice b (32 * i) 24) then
      some (ref / 2 ^ 62, field ref 56 6 + 1, ref % 2 ^ 56)
    else none)

/-- Walks the tree from a node, at most `fuel` nodes deep (R345, R346). -/
def walkNode (c : Command) (r : Ray) : Nat → Nat → Walk → Except (Nat × EngFail) Walk
  | 0, _, w => .ok w
  | fuel + 1, a, w =>
    match w.read c a 256 with
    | .error e => .error e
    | .ok (b, w) =>
      (r.enters b).foldl (fun (x : Except (Nat × EngFail) Walk) k =>
        match x with
        | .error e => .error e
        | .ok w => if k.1 = 2 then walkLeaf c r k.2.2 k.2.1 w else walkNode c r fuel k.2.2 w) (.ok w)

/-- The 16 bytes of a ray's result (R346). -/
def hitBytes : Option Hit → List Byte
  | none => bytesOf 4 0x7F800000 ++ bytesOf 4 0xFFFFFFFF ++ bytesOf 4 0xFFFFFFFF ++ bytesOf 4 0
  | some h => bytesOf 4 (roundRatio .f32 h.t h.den 0) ++ bytesOf 4 h.prim ++ bytesOf 4 h.obj ++
      bytesOf 2 (roundRatio .f16 h.b1 h.den 0) ++ bytesOf 2 (roundRatio .f16 h.b2 h.den 0)

/-- One ray of a command (R346), of lane `l`: the walk's failure stops it. A ray whose result the spec does not state leaves free
bytes. -/
def State.runRay (c : Command) (root res tmin : Nat) (l : Nat) (ws : List Nat) (s : State) : Except (Nat × EngFail) State :=
  match rayOf ws tmin with
  | .miss => .ok (s.sightWrite c (res + 16 * l) (hitBytes none) false)
  | .open_ =>
    .ok { s.sightWrite c (res + 16 * l) ((List.range 16).map (Config.freeByte s.free)) false with free := s.free + 1 }
  | .ray r =>
    match walkNode c r 64 root { s := s } with
    | .error e => .error e
    | .ok w => .ok (w.s.sightWrite c (res + 16 * l) (hitBytes w.best) w.bad)

/-- The lanes of a ray command with their rays. -/
def Command.rays (c : Command) : List (Nat × List Nat) := c.args.mapIdx (fun i l => (l, (c.acc.drop (7 * i)).take 7))

/-- The cluster of a core in its slice (R16). -/
def clusterOf (core : Nat) : Nat := core % 16 / 4 / 2 * 2 + core % 4 / 2

/-- The next command of a cluster's sight unit (R342): the oldest, then by core position and port. -/
def State.nextSight (s : State) (slice_ cluster : Nat) : Option Command :=
  bestOf (fun (a b : Command) => decide (a.postedAt < b.postedAt) || (decide (a.postedAt = b.postedAt) &&
      (decide (clusterPos a.core < clusterPos b.core) || (decide (clusterPos a.core = clusterPos b.core) &&
        decide (a.wpos / 16 < b.wpos / 16)))))
    (s.cmds.filter (fun c => (c.kind == .rast || c.kind == .ray) && c.phase == .posted && c.core / 16 == slice_ &&
      clusterOf c.core == cluster && s.mayStart c && !s.cmdStopped c))

/-- The next record of a ray command (R346), whose `progress` counts its lanes that are done. -/
def State.rayStep (s : State) (c : Command) : State :=
  match c.rays.drop c.progress with
  | [] => s.putCmd { c with phase := .done }
  | (l, ws) :: _ =>
    match State.runRay c (natAt c.desc 0 8 % 2 ^ 56) (natAt c.desc 8 4) (natAt c.desc 12 4) l ws s with
    | .ok t => t.putCmd { c with progress := c.progress + 1 }
    | .error (a, e) => s.engineFail c a e

/-- The command that a cluster's sight unit runs. -/
def State.sightRuns (s : State) (slice_ cluster : Nat) : Option Command :=
  s.cmds.find? (fun c => (c.kind == .rast || c.kind == .ray) && c.phase == .running && c.core / 16 == slice_ &&
    clusterOf c.core == cluster && !s.cmdStopped c)

/-- A cluster's sight unit goes on with its command by one record, a pixel or a lane (R342 to R347, R446), or takes the next
command. -/
def execSightCommandRun (slice_ cluster : Nat) (s : State) : Host.Outcome State Fault Refusal :=
  match s.sightRuns slice_ cluster with
  | some c => .next (if c.kind = CmdKind.rast then s.rastStep c else s.rayStep c)
  | none =>
    match s.nextSight slice_ cluster with
    | none => .next s
    | some c => .next (if c.kind = CmdKind.rast then s.beginRast c else s.putCmd { c with phase := .running, progress := 0 })

end Sys2Proof.Machine
end

