-- ==== Sys2Proof/Machine/Attention.lean ====
section
/-!
DEFINITION. Attention (spec/14_attention.md R349 to R366, spec/24_faults_engines.md R488 to R490): qpost, the scan of a
command by the bank attention units, the merge of triples, amerge and afin, and what the memory stacks do about refresh
and hot rows (spec/22_faults_memory.md R461).
-/

namespace Sys2Proof.Machine

/-- D of a D code (R353). -/
def dimOf (dc : Nat) : Nat := 64 * 2 ^ dc

/-- The canonical NaN of f32 (R123). -/
def nan32 : Nat := 0x7FC00000

/-- The empty triple of a D code (R357). -/
def Triple.empty (dc : Nat) : Triple := { dc := dc, acc := List.replicate (dimOf dc) 0 }

/-- The greater of two finite values; +0 is greater than -0 (R247, R357). -/
def maxBits (a b : Nat) : Nat :=
  let c := cmpNum (FFmt.f32.decode a) (FFmt.f32.decode b)
  if c < 0 ∨ (c = 0 ∧ (FFmt.f32.decode a).neg) then b else a

/-- A product of a merge (R357): a weight of +0 gives +0 whatever it multiplies. -/
def weighted (x w : Nat) : Exact := if w = 0 then { v := .fin false 0 0 } else mulExact (FFmt.f32.decode x) (FFmt.f32.decode w)

/-- x1·w1 + x2·w2, rounded once. -/
def weightedSum (x1 w1 x2 w2 : Nat) : Elem :=
  let p := weighted x1 w1
  let q := weighted x2 w2
  let s := sumExact 0 [p.v, q.v]
  Mode.roundTo {} .f32 0 { s with ev := p.ev ++ q.ev ++ s.ev }

/-- merge of two triples, with the causes it meets (R357). -/
def Triple.merge (a b : Triple) : Triple × List Nat :=
  let n := min (a.nrows + b.nrows) (2 ^ 24 - 1)
  let scov := a.scov || b.scov
  let ovf := a.ovf || b.ovf
  if a.nonfin || b.nonfin then
    ({ a with m := nan32, s := nan32, acc := a.acc.map (fun _ => nan32), nrows := n, nonfin := true, scov := scov, ovf := ovf }, [])
  else if a.nrows = 0 then ({ b with scov := scov, ovf := ovf }, [])
  else if b.nrows = 0 then ({ a with scov := scov, ovf := ovf }, [])
  else
    let m := maxBits a.m b.m
    let gap (x : Nat) : Elem :=
      Mode.roundTo {} .f32 0 (sumExact 0 [FFmt.f32.decode x, (FFmt.f32.decode m).withSign (!(FFmt.f32.decode m).neg)])
    let d1 := gap a.m
    let d2 := gap b.m
    let w1 := Mode.special {} .ex2 d1.bits
    let w2 := Mode.special {} .ex2 d2.bits
    let s := weightedSum a.s w1.bits b.s w2.bits
    let acc := (a.acc.zip b.acc).map (fun x => weightedSum x.1 w1.bits x.2 w2.bits)
    let ev := (d1.ev ++ d2.ev ++ w1.ev ++ w2.ev ++ s.ev ++ acc.flatMap (·.ev)).eraseDups
    ({ a with m := m, s := s.bits, acc := acc.map (·.bits), nrows := n, scov := scov,
              ovf := ovf || ev.contains evOverflow }, ev)

/-- A triple's status word (R358 Table 5). -/
def Triple.status (t : Triple) : Nat :=
  (if t.nonfin then 2 ^ 31 else 0) + (if t.scov then 2 ^ 30 else 0) + (if t.ovf then 2 ^ 29 else 0) + t.dc * 2 ^ 24 + t.nrows

/-- A triple's bytes (R358 Table 4). -/
def Triple.bytes (t : Triple) : List Byte :=
  bytesOf 4 t.m ++ bytesOf 4 t.s ++ bytesOf 4 t.status ++ bytesOf 4 0 ++ t.acc.flatMap (bytesOf 4)

/-- The triple that bytes hold. -/
def Triple.ofBytes (b : List Byte) : Triple :=
  let w := natAt b 8 4
  let dc := field w 24 2
  { m := natAt b 0 4, s := natAt b 4 4, nonfin := bitAt w 31, scov := bitAt w 30, ovf := bitAt w 29, dc := dc,
    nrows := w % 2 ^ 24, acc := (List.range (dimOf dc)).map (fun k => natAt b (16 + 4 * k) 4) }

/-- A query descriptor (R353 Table 3). -/
structure Query where
  kbase : Nat
  vbase : Nat
  khdr : Nat
  vhdr : Nat
  len : Nat
  lstr : Nat
  dc : Nat
  fmt : Nat
  c : Nat
  qoff : Nat
  roff : Nat
  tbar : Nat
  deriving DecidableEq, Repr

def Query.ofBytes (d : List Byte) : Query :=
  { kbase := natAt d 0 8, vbase := natAt d 8 8, khdr := natAt d 16 8, vhdr := natAt d 24 8, len := natAt d 32 4,
    lstr := natAt d 36 1, dc := natAt d 37 1, fmt := natAt d 38 1, c := natAt d 40 4, qoff := natAt d 44 4,
    roff := natAt d 48 4, tbar := natAt d 52 4 }

/-- D, the bytes Z of a unit, and the number N of units (R349). -/
def Query.dim (q : Query) : Nat := dimOf q.dc
def Query.unitBytes (q : Query) : Nat := if q.fmt = 3 then 2 * q.dim else if q.fmt = 6 then q.dim else 16 * q.dim
def Query.units (q : Query) : Nat := if q.fmt = 20 then (q.len + 15) / 16 else q.len

/-- A region of a query (R349): its base, the bytes from its first unit to the end of its last, the stride of its units and
their bytes. -/
structure ScanRegion where
  base : Nat
  bytes : Nat
  stride : Nat
  unit : Nat
  deriving DecidableEq, Repr

/-- The four regions of a query (R349, R350). -/
def Query.regions (q : Query) : List ScanRegion :=
  let pay (b : Nat) : ScanRegion :=
    { base := b, bytes := (q.units - 1) * 2 ^ q.lstr + q.unitBytes, stride := 2 ^ q.lstr, unit := q.unitBytes }
  let hdr (b : Nat) : ScanRegion := { base := b, bytes := q.units * q.dim, stride := q.units * q.dim, unit := q.units * q.dim }
  [pay q.kbase, pay q.vbase] ++ (if q.fmt = 20 then [hdr q.khdr, hdr q.vhdr].filter (fun r => r.base != 0) else [])

/-- A query without its reserved bits (R353). -/
def Query.plain (q : Query) : Query :=
  { q with kbase := q.kbase % 2 ^ 56, vbase := q.vbase % 2 ^ 56, khdr := q.khdr % 2 ^ 56, vhdr := q.vhdr % 2 ^ 56
           len := q.len % 2 ^ 24, dc := q.dc % 4 }

/-- The fields that lay a query's regions out are legal (R349, R353): only then has it regions to judge (DESIGN CHOICE,
log 95). -/
def Query.laid (q : Query) : Bool :=
  decide (q.plain.len ≠ 0) && decide (q.plain.dc < 3) && (q.fmt == 3 || q.fmt == 6 || q.fmt == 20)

/-- The fields of a query are in order but for its windows and its regions' pages (R350, R353, R366). -/
def Query.fieldsOk (q : Query) (d : List Byte) : Bool :=
  decide (q.kbase < 2 ^ 56) && decide (q.vbase < 2 ^ 56) && decide (q.khdr < 2 ^ 56) && decide (q.vhdr < 2 ^ 56) &&
  decide (0 < q.len) && decide (q.len < 2 ^ 24) && decide (q.dc < 3) && zeroAt d 39 1 && zeroAt d 56 8 &&
  (q.fmt == 3 || q.fmt == 6 || q.fmt == 20) &&
  (if q.fmt = 20 then decide (q.khdr ≠ 0) && decide (q.vhdr ≠ 0) && decide (q.khdr % 16 = 0) && decide (q.vhdr % 16 = 0)
   else q.khdr == 0 && q.vhdr == 0) &&
  decide (field q.c 23 8 ≠ 255) && decide (q.unitBytes ≤ 2 ^ q.lstr) && decide (q.lstr ≤ 20) &&
  decide (q.kbase % 2 ^ q.lstr = 0) && decide (q.vbase % 2 ^ q.lstr = 0)

/-- The translation of an address for a query's reads. -/
def State.scanXlate (s : State) (a : Nat) : Option XOk := (s.translate s.wg.part s.wg.vf s.wg.ctx a .read).toOption

/-- The conditions that the pages of a region's units meet from offset `off` on (R354, R366), page by page; the fuel is more than the
4 KiB pages left. -/
def State.regionConds (s : State) (lane : Nat) (r : ScanRegion) : Nat → Nat → List Cond
  | 0, _ => []
  | fuel + 1, off =>
    if r.bytes ≤ off then []
    else
      let a := (r.base + off) % 2 ^ 56
      let size := (s.scanXlate a).elim 4096 (·.size)
      let next := off + (size - a % size)
      (match s.judgeVa false .read lane a a with
        | .error c => [c]
        | .ok _ => []) ++
      s.regionConds lane r fuel (if next % r.stride < r.unit then next else (next / r.stride + 1) * r.stride)

/-- A region judged (R350, R354, R366): the conditions that its pages meet, and the translations of its first and last byte. -/
def State.regionSpots (s : State) (lane : Nat) (r : ScanRegion) : List Cond × Option (XOk × XOk) :=
  (s.regionConds lane r (r.bytes / 4096 + 2) 0,
   (s.scanXlate r.base).bind (fun x => (s.scanXlate ((r.base + r.bytes - 1) % 2 ^ 56)).map (fun y => (x, y))))

/-- The HBM4E place of a region that lies in one page of 2 MiB or more at consecutive offsets of one stack (R350). -/
def State.pinnedAt (s : State) (r : ScanRegion) (x : XOk × XOk) : Option Nat :=
  match s.resolve (x.1.pa % 2 ^ 46), s.resolve (x.2.pa % 2 ^ 46) with
  | .mem p, .mem p' =>
    if p < lpBase ∧ p' = p + r.bytes - 1 ∧ p / 2 ^ 36 = p' / 2 ^ 36 ∧ 2 ^ 21 ≤ x.1.size ∧ x.1.size = x.2.size ∧
        r.base / x.1.size = (r.base + r.bytes - 1) / x.1.size then some p else none
  | _, _ => none

/-- The regions of a query judged (R350, R354, R366, R465): the conditions met, all together, and the regions' places with
their translations. -/
def State.judgeRegions (s : State) (q : Query) (d : List Byte) : List Cond × List (Nat × XOk) :=
  let lane := (lowest s.exec).getD 0
  let rs := (if q.laid then q.plain.regions else []).map (fun r => (r, s.regionSpots lane r))
  let xs := rs.filterMap (fun r => r.2.2.map (fun x => (r.1, x)))
  let oks : List (Nat × XOk) := xs.filterMap (fun x => (s.pinnedAt x.1 x.2).map (fun p => (p, x.2.1)))
  let ps : List Nat := oks.map (·.1)
  let loose := decide (oks.length ≠ xs.length) || !ps.all (fun p => p / 2 ^ 36 == ps.headD 0 / 2 ^ 36) ||
    (decide (oks.length = rs.length) && decide ((ps.getD 1 0 + 2 ^ 36 - ps.getD 0 0) % 2 ^ 21 ≠ 0))
  (rs.flatMap (·.2.1) ++ s.lowWhen (!q.fieldsOk d || loose) 0x0E, oks)

/-- The codes of a query's windows and alignments (R366); under D code 3 there are no elements. -/
def State.queryCodes (s : State) (d : List Byte) : List Nat :=
  let q := Query.ofBytes d
  let n := if q.plain.dc = 3 then 0 else dimOf q.plain.dc
  (if q.qoff % 16 ≠ 0 ∨ q.roff % 16 ≠ 0 ∨ q.tbar % 8 ≠ 0 then [0x07] else []) ++
  (if s.wg.localBytes < q.qoff + 4 * n ∨ s.wg.localBytes < q.roff + 16 + 4 * n ∨ !s.wg.tbarIn q.tbar then [0x0B] else [])

/-- A stack holds 256 attention commands (R355, R490). -/
def State.stackFull (s : State) (stack : Nat) : Bool :=
  decide (256 ≤ (s.cmds.filter (fun c => c.kind == .qpost && c.engine == stack)).length)

/-- qpost (R354). -/
def execQpost (a : Operand) (s : State) : Host.Outcome State Fault Refusal :=
  let addr := s.lowInt a
  let d := (s.localBytes s.wg 0 s.wave.id addr 64).1
  let here := decide (s.exec ≠ 0) && decide (addr % 64 = 0) && decide (addr + 64 ≤ s.wg.localBytes)
  let j := if here then s.judgeRegions (.ofBytes d) d else ([], [])
  let stack := (j.2.headD (0, { pa := 0, size := 0, w := false, x := false })).1 / 2 ^ 36
  s.postUnit a 64 j.1 s.queryCodes (s.copyqFull s.wg || (here && s.stackFull stack)) false []
    (fun d t =>
      let t := j.2.foldl (fun t r => t.mark t.who r.2.marks) t
      t.post { t.newCmd s.frag.pc .qpost d with engine := stack, args := j.2.flatMap (fun r => [r.1, r.2.pa]) })

/-- The place and the physical address of region `i` of a command: K, V, K headers, V headers. -/
def Command.region (c : Command) (i : Nat) : Nat × Nat := (c.args.getD (2 * i) 0, c.args.getD (2 * i + 1) 0)

def Command.asked (c : Command) : Query := .ofBytes c.desc

/-- The BAU of a unit (R351). -/
def Command.bauOf (c : Command) (u : Nat) : Nat :=
  let q := c.asked
  let off := ((c.region 0).1 + u * 2 ^ q.lstr) % 2 ^ 36
  let p := field off 11 6
  16 * (if q.unitBytes = 4096 then p / 2 * 2 else p) + field off 17 4

/-- Attention commands that a stack scans (R355). -/
def State.scanning (s : State) (stack : Nat) : Nat :=
  (s.cmds.filter (fun c => c.kind == .qpost && c.engine == stack && c.phase == .running)).length

/-- A command's triple will be poisoned (R488): its context is told once. -/
def State.breakTriple (s : State) (c : Command) (code addr : Nat) : State :=
  if c.broken.isSome then s else (s.engineNote c code addr).putCmd { c with broken := some code }

/-- A stack starts a command (R355): the base die reads the query on path a. -/
def execAttentionCommandStart (cmd : Nat) (s : State) : Host.Outcome State Fault Refusal :=
  match s.cmd cmd with
  | none => .next s
  | some c =>
    if c.kind ≠ CmdKind.qpost ∨ c.phase ≠ .posted ∨ s.cmdStopped c ∨ !s.mayStart c ∨ 16 ≤ s.scanning c.engine then .next s
    else
      let q := c.asked
      let g := s.cmdGroup c
      let r := s.localBytes g 6 c.wave q.qoff (4 * q.dim)
      let c := { c with phase := .running, total := q.units, query := (List.range q.dim).map (fun k => natAt r.1 (4 * k) 4) }
      let s := (s.observe 6 c.wave (scratchPlace g.id q.qoff) (4 * q.dim)).putCmd c
      .next (if r.2 then s.breakTriple c 0x70 q.qoff else s)

/-- The D elements of row `i` of a unit (R349, R356); `tiles` are a qe4m3 group's payloads and headers. -/
def rowElems (fmt dim : Nat) (unit_ : List Byte) (tiles : List (Nat × List Byte)) (i : Nat) : List MatEl :=
  (List.range dim).map (fun k =>
    if fmt = 3 then matElem 3 false (some 0) (natAt unit_ (2 * k) 2)
    else if fmt = 6 then matElem 6 false (some 0) (natAt unit_ k 1)
    else let t := tiles.getD (k / 16) (0, []); tileElem 20 false t.1 t.2 i (k % 16))

/-- A qe4m3 group's tiles: payloads and headers. -/
def groupTiles (dim : Nat) (unit_ hdrs : List Byte) : List (Nat × List Byte) :=
  (List.range (dim / 16)).map (fun t => (natAt unit_ (256 * t) 256, slice hdrs (16 * t) 16))

/-- A K or V element decoded (R143, R356, R357): beyond f32 it is an infinity, with scale overflow. -/
def decoded (v : Num) : Exact :=
  match v with
  | .fin n m e => if m ≠ 0 ∧ 128 ≤ (Nat.log2 m : Int) + e then { v := .inf n, ev := [evScale] } else { v := v }
  | _ => { v := v }

/-- The score of a row, with the causes it meets (R356): a zero of the query meets no infinity that the scale made (R146). -/
def scoreOf (c : Nat) (q : List Nat) (row : List MatEl) : Elem :=
  let qs : List MatEl := q.map (fun x => (FFmt.f32.decode x, FFmt.f32.decode x))
  let ks := row.map (fun x => decoded x.1)
  let row : List MatEl := (row.zip q).map (fun x =>
    let v := if (FFmt.f32.decode x.2).isZero then x.1.1 else (decoded x.1.1).v
    (v, v))
  let dot := (List.range (q.length / 16)).foldl (fun (d : Elem) k =>
    let ch := pointChunk 80 false ((qs.drop (16 * k)).take 16) ((row.drop (16 * k)).take 16)
    let s := sumExact 0 [FFmt.f32.decode d.bits, ch.v]
    let r := Mode.roundTo {} .f32 0 { s with ev := ch.ev ++ s.ev }
    { r with ev := (d.ev ++ r.ev).eraseDups }) { bits := 0, ev := (ks.flatMap (·.ev)).eraseDups }
  let r := Mode.roundTo {} .f32 0 (mulExact (FFmt.f32.decode c) (FFmt.f32.decode dot.bits))
  { r with ev := (dot.ev ++ r.ev).eraseDups }

/-- A V element as f32, with scale overflow (R143, R357). -/
def valueOf (v : Num) : Elem := Mode.roundTo {} .f32 0 (decoded v)

/-- A row joins a BAU's triple (R357). -/
def joinRow (c : Nat) (q : List Nat) (t : Triple) (k v : List MatEl) : Triple × List Nat :=
  let sc := scoreOf c q k
  let t := { t with scov := t.scov || sc.ev.contains evScale, ovf := t.ovf || sc.ev.contains evOverflow }
  match FFmt.f32.decode sc.bits with
  | .inf true => (t, sc.ev)
  | .fin _ _ _ =>
    let vs := v.map (fun x => valueOf x.1)
    let ev := vs.flatMap (·.ev)
    let r := t.merge { m := sc.bits, s := 0x3F800000, nrows := 1, dc := t.dc, acc := vs.map (·.bits), scov := ev.contains evScale }
    (r.1, (sc.ev ++ ev ++ r.2).eraseDups)
  | _ => let r := t.merge { Triple.empty t.dc with nonfin := true }; (r.1, (sc.ev ++ r.2).eraseDups)

/-- Adds causes to an attention command: overflow, invalid and scale overflow count once each (R355, R356). -/
def Command.noteCauses (c : Command) (ev : List Nat) : Command :=
  { c with events := [evOverflow, evInvalid, evScale].foldl (fun es x =>
      if ev.contains x && !es.any (fun e => e.1 == x) then es ++ [(x, 1)] else es) c.events }

/-- The offset of the first poisoned sector of an array's bytes that path a has read. -/
def State.badOffset (s : State) (pa n : Nat) : Nat :=
  match s.placeOf pa with
  | some p => ((sectorRange p n).find? (fun sec => (s.arraySector sec).pois)).elim 0 (fun sec => 16 * sec - p)
  | none => 0

/-- Bytes of an array of a command's regions, read on path a (R359), and the address of the first bad sector; `va` is theirs. -/
def State.scanArray (s : State) (c : Command) (pa va n : Nat) : (List Byte × Option Nat) × State :=
  let r := s.engReadArray c (s.cmdGroup c) pa n
  ((r.1.1, if r.1.2 then some (va + r.2.badOffset pa n) else none), r.2)

/-- A unit as its BAU reads it on path a: K or V region `i`, with its headers (R349, R359), and the address of a bad sector. -/
def State.readRegion (s : State) (c : Command) (i u : Nat) : ((List Byte × List Byte) × Option Nat) × State :=
  let q := c.asked
  let r := s.scanArray c ((c.region i).2 + u * 2 ^ q.lstr) ((if i = 0 then q.kbase else q.vbase) + u * 2 ^ q.lstr) q.unitBytes
  if q.fmt = 20 then
    let h := r.2.scanArray c ((c.region (2 + i)).2 + u * q.dim) ((if i = 0 then q.khdr else q.vhdr) + u * q.dim) q.dim
    (((r.1.1, h.1.1), r.1.2.orElse (fun _ => h.1.2)), h.2)
  else (((r.1.1, []), r.1.2), r.2)

/-- A BAU scans one unit (R355 to R357): the triple, the causes, the address of a bad sector. -/
def State.scanUnit (s : State) (c : Command) (t : Triple) (u : Nat) : (Triple × List Nat × Option Nat) × State :=
  let q := c.asked
  let k := s.readRegion c 0 u
  let v := k.2.readRegion c 1 u
  let kt := groupTiles q.dim k.1.1.1 k.1.1.2
  let vt := groupTiles q.dim v.1.1.1 v.1.1.2
  let rows := if q.fmt = 20 then (List.range 16).filter (fun i => decide (16 * u + i < q.len)) else [0]
  let r := rows.foldl (fun (a : Triple × List Nat) i =>
    let x := joinRow q.c c.query a.1 (rowElems q.fmt q.dim k.1.1.1 kt i) (rowElems q.fmt q.dim v.1.1.1 vt i)
    (x.1, (a.2 ++ x.2).eraseDups)) (t, [])
  ((r.1, r.2, k.1.2.orElse (fun _ => v.1.2)), v.2)

/-- The key of a function's activations of the DRAM row of a place (R81, R461). -/
def rowKey (place vf : Nat) : Nat := place / 2048 * 64 + vf

/-- A row read counts as an activation of its function (R461). -/
def State.activate (s : State) (place vf : Nat) : State :=
  { s with rowActs := SMap.set 0 (rowKey place vf) (SMap.get 0 (rowKey place vf) s.rowActs + 1) s.rowActs }

/-- The units of a BAU's next DRAM row in a command, ascending (R351, R355, R361). -/
def Command.rowUnits (c : Command) (bau next : Nat) : List Nat :=
  let q := c.asked
  let row (u : Nat) : Nat := ((c.region 0).1 + u * 2 ^ q.lstr) / 2048
  match (List.range' next (c.total - next)).find? (fun u => c.bauOf u == bau) with
  | none => []
  | some u => (List.range' u (2048 / 2 ^ q.lstr + 1)).filter (fun x => decide (x < c.total) && decide (row x = row u))

/-- Time of a BAU row read in ACLK: 128 in-stack clocks of 0.8 GHz at 1.4 GHz (R361). -/
def rowReadAclk : Nat := 224

/-- A BAU's state in a command. -/
def Command.scan (c : Command) (bau : Nat) : BauScan :=
  let b := SMap.get {} bau c.scans
  if b.units = 0 ∧ b.tri = {} then { b with tri := Triple.empty c.asked.dc } else b

def Command.setScan (c : Command) (bau : Nat) (b : BauScan) : Command := { c with scans := SMap.set {} bau b c.scans }

/-- The places of the DRAM rows of a unit, of K and of V (R351): a unit of 4 KiB also takes the row of the odd pseudo-channel. -/
def Command.rowPlaces (c : Command) (u : Nat) : List Nat :=
  [0, 1].flatMap (fun i =>
    let p := (c.region i).1 + u * 2 ^ c.asked.lstr
    if c.asked.unitBytes = 4096 then [p, p + 2048] else [p])

/-- A BAU reads the row of its next units and scans them (R355, R361). -/
def State.readRow (s : State) (c : Command) (bau : Nat) : State :=
  let b := c.scan bau
  let us := c.rowUnits bau b.next
  match us.getLast? with
  | none => s
  | some last =>
    let s := (c.rowPlaces last).foldl (fun s p => s.activate p c.vf) s
    let r := us.foldl (fun (a : (Triple × List Nat × Option Nat) × State) u =>
      let x := a.2.scanUnit c a.1.1 u
      ((x.1.1, (a.1.2.1 ++ x.1.2.1).eraseDups, a.1.2.2.orElse (fun _ => x.1.2.2)), x.2))
      ((b.tri, [], none), s)
    let b' := { b with
      next := last + 1, units := b.units + us.length, tri := r.1.1, prevNext := b.next, prevUnits := b.units, prevTri := b.tri
      ends := s.aclk + rowReadAclk, aborts := if b.next = b.prevNext then b.aborts else 0 }
    let c' := (c.setScan bau b').noteCauses r.1.2.1
    let c' := { c' with progress := c.progress + us.length }
    let s := r.2.putCmd c'
    match r.1.2.2 with
    | some a => s.breakTriple c' 0x70 a
    | none => s

/-- The pseudo-channel of a place, as stack·64 + pseudo-channel (R81). -/
def channelOf (place : Nat) : Nat := place / 2 ^ 36 * 64 + field place 11 6

/-- A BAU starts its units of a command anew after a logic fault (R489). -/
def State.rescanBau (s : State) (c : Command) (bau : Nat) : State :=
  let b := c.scan bau
  let c' := { c.setScan bau { rescan := true } with progress := c.progress - b.units }
  if b.rescan then
    State.breakTriple { s.putCmd c' with bauFailed := SMap.set false (1024 * c.engine + bau) true s.bauFailed } c' 0x71 0
  else s.putCmd c'

/-- A function is throttled at the DRAM row of a place (R461). -/
def State.throttledAt (s : State) (vf place : Nat) : Bool := SMap.get 0 (place / 2048) s.throttled == vf + 1

/-- A function's side queue on a pseudo-channel is full, and the bank of the place has a row that feeds it (R461): the
function's requests to the bank wait in their own queues. -/
def State.sideFull (s : State) (vf place : Nat) : Bool :=
  decide (16 ≤ (SMap.get [] (64 * channelOf place + vf) s.sideQ).length) &&
    s.throttled.any (fun e => e.2 == vf + 1 && e.1 % 1024 == place / 2048 % 1024 && e.1 / 2 ^ 25 == place / 2 ^ 36)

/-- The regions of a command lie under a key slot whose mode is changing: its reads are held (R460). -/
def State.scanHeld (s : State) (c : Command) : Bool :=
  (List.range (c.args.length / 2)).any (fun i => s.keyBusyBit ((c.region i).2 / 2 ^ 46 % 64))

/-- A BAU reads one DRAM row of its bank and scores its rows (R355, R361, R461, R489): where its function is throttled at
one of the rows, the read goes to the function's side queue on that row's pseudo-channel. -/
def execBauRowRead (cmd bau : Nat) (fault : Bool) (s : State) : Host.Outcome State Fault Refusal :=
  match s.cmd cmd with
  | none => .next s
  | some c =>
    if c.kind ≠ CmdKind.qpost ∨ c.phase ≠ .running ∨ s.cmdStopped c ∨ s.scanHeld c ∨ s.aclk < (c.scan bau).ends then .next s
    else if fault && !SMap.get false (1024 * c.engine + bau) s.bauFailed then .next (s.rescanBau c bau)
    else
      match (c.rowUnits bau (c.scan bau).next).head? with
      | none => .next s
      | some u =>
        let ps := c.rowPlaces u
        if s.sideQ.any (fun e => e.2.contains (cmd, bau)) ∨ ps.any (s.sideFull c.vf) then .next s
        else match ps.find? (s.throttledAt c.vf) with
          | some p =>
            let ch := 64 * channelOf p + c.vf
            .next { s with sideQ := SMap.set [] ch (SMap.get [] ch s.sideQ ++ [(cmd, bau)]) s.sideQ }
          | none => .next (s.readRow c bau)

/-- A command's triple: the BAUs' triples merged in ascending BAU number, with the causes met (R355, R357). -/
def Command.result (c : Command) : Triple × List Nat :=
  c.scans.foldl (fun (a : Triple × List Nat) b =>
    let r := a.1.merge b.2.tri
    (r.1, (a.2 ++ r.2).eraseDups)) (Triple.empty c.asked.dc, [])

/-- Writes a command's triple in local memory on path a, with its poison (R355, R488). -/
def State.putTriple (s : State) (c : Command) (g : Workgroup) (off : Nat) (bs : List Byte) (bad : Bool) : State :=
  (List.range (bs.length / 16)).foldl (fun s i =>
    match s.engWrite 6 c g 1 (off + 16 * i) (slice bs (16 * i) 16) bad with
    | .ok t => t
    | .error _ => s) s

/-- The base die merges the BAU triples, writes the result and lowers PEND (R355, R488). -/
def execAttentionResultWrite (cmd : Nat) (s : State) : Host.Outcome State Fault Refusal :=
  match s.cmd cmd with
  | none => .next s
  | some c =>
    if c.kind ≠ CmdKind.qpost ∨ c.phase ≠ .running ∨ s.cmdStopped c ∨ c.progress < c.total ∨
        c.scans.any (fun b => decide (s.aclk < b.2.ends)) then .next s
    else
      let r := c.result
      let c := c.noteCauses r.2
      let g := s.cmdGroup c
      let s := (s.putTriple c g c.asked.roff r.1.bytes c.broken.isSome).logCmd c 2
      let s := (s.markSeen (fun e => e.cmd == c.id) 8 none).lowerBar c g c.asked.tbar (16 + 4 * c.asked.dim)
      .next (s.putCmd { c with phase := .done })

/-- Refresh of a pseudo-channel (R362, R490): a row read that still holds a bank of it, by a unit of 4 KiB one of either
pseudo-channel, is aborted and read again; a second abort of the same row poisons the triple. A failed BAU's units are read through
the channel, and their reads hold no bank so (R489). -/
def execRefresh (stack channel : Nat) (s : State) : Host.Outcome State Fault Refusal :=
  let key := stack * 64 + channel
  let s := { s with refreshes := SMap.set 0 key (SMap.get 0 key s.refreshes + 1) s.refreshes }
  let hit (c : Command) (b : Nat × BauScan) : Bool :=
    c.kind == CmdKind.qpost && c.phase == .running && c.engine == stack && decide (s.aclk < b.2.ends) &&
    (b.1 / 16 == channel || (c.asked.unitBytes == 4096 && b.1 / 16 + 1 == channel)) &&
    !SMap.get false (1024 * stack + b.1) s.bauFailed
  .next (s.cmds.foldl (fun s c =>
    c.scans.foldl (fun s b =>
      if hit c b then
        match s.cmd c.id with
        | none => s
        | some c' =>
          let x := b.2
          let y := { x with next := x.prevNext, units := x.prevUnits, tri := x.prevTri, ends := 0, aborts := x.aborts + 1 }
          let c' := { c'.setScan b.1 y with progress := c'.progress - (x.units - x.prevUnits) }
          if 2 ≤ y.aborts then (s.putCmd c').breakTriple c' 0x72 0 else s.putCmd c'
      else s) s) s)

/-- A row of a bank reaches 2,048 activations in its window (R461): the function with the most is throttled there and
charged. How often ordinary requests open a row is the controller's matter, so their share is a free value (log 98). -/
def execHotRowThrottle (stack bank row : Nat) (s : State) : Host.Outcome State Fault Refusal :=
  let place := stack * 2 ^ 36 + row * 2 ^ 21 + bank / 64 % 16 * 2 ^ 17 + bank % 64 * 2 ^ 11
  match s.partOf stack with
  | none => .next s
  | some part =>
    let fs := (List.range 64).filter (fun f => s.partBit part 0x4020 f)
    let acts (f : Nat) : Nat := SMap.get 0 (rowKey place f) s.rowActs + (Config.freeWord (s.free + f)).toNat
    match bestOf (fun a b => decide (acts b < acts a)) fs with
    | none => .next s
    | some f =>
      if (fs.map acts).sum < 2048 ∨ SMap.get 0 (place / 2048) s.throttled ≠ 0 then .next { s with free := s.free + 64 }
      else
      let off := 0x7000 + 16 * f + 0xC
      let s := s.setPreg part off (min (s.preg part off % 65536 + 1) 0xFFFF)
      .next { s with throttled := SMap.set 0 (place / 2048) (f + 1) s.throttled, free := s.free + 64 }

/-- A function's side queue serves one activation (R461); a read under a key slot that changes its mode is held (R460). -/
def State.serveSide (s : State) (key : Nat) : State :=
  match SMap.get [] key s.sideQ with
  | [] => s
  | (cmd, bau) :: rest =>
    let t := { s with sideQ := SMap.set [] key rest s.sideQ }
    match t.cmd cmd with
    | none => t
    | some c => if t.scanHeld c then s else if c.phase = .running ∧ !t.cmdStopped c then t.readRow c bau else t

/-- The side queues of a pseudo-channel serve one activation each (R461). -/
def execHotRowSideQueue (stack channel : Nat) (s : State) : Host.Outcome State Fault Refusal :=
  .next ((List.range 64).foldl (fun s f => s.serveSide (64 * (stack * 64 + channel) + f)) s)

/-- The refresh window ends (R461): the counts start anew, and throttles and side queues end. -/
def execHotRowWindowEnd (s : State) : Host.Outcome State Fault Refusal :=
  .next { s with rowActs := [], throttled := [], sideQ := [] }

/-- The status word of a triple at a local offset. -/
def State.statusAt (s : State) (off : Nat) : Nat := natOfBytes (s.localBytes s.wg 0 s.wave.id (off + 8) 4).1

/-- The conditions that a source triple of operand `a` meets (R366). -/
def State.tripleConds (s : State) (a : Operand) : List Cond :=
  let off := s.lowInt a
  let w := s.statusAt off
  let dc := field w 24 2
  let out := decide (s.wg.localBytes < off + 16)
  let beyond := decide (dc ≠ 3) && decide (s.wg.localBytes < off + 16 + 4 * dimOf dc)
  let here := off % 16 == 0 && !out
  let n := if dc = 3 ∨ beyond then 16 else 16 + 4 * dimOf dc
  s.lowWhen (decide (off % 16 ≠ 0)) 0x07 off ++ s.lowWhen (out || (here && beyond)) 0x0B off ++
  s.lowWhen (here && (decide (field w 26 3 ≠ 0) || decide (dc = 3))) 0x0E ++
  laneCond 0x0A (if here && corePois s.wg.lpois off n then s.lowMask else 0) 0 a.code

/-- The sectors of `n` bytes of local memory as accesses of the lowest lane. -/
def State.localRun (s : State) (off n : Nat) : List Item :=
  (List.range (n / 16)).map (fun i => s.descItem (off + 16 * i) 16)

/-- The shared form of amerge and afin (R363 to R366): `outLen` bytes written at `d` from the triples at `srcs`, read at one
timestamp and written at one (R114). Where the D codes differ or are 3, the first legal one gives the output's size (DESIGN
CHOICE, log 95). -/
def State.tripleUnit (s : State) (d : Operand) (srcs : List Operand) (outLen : Nat → Nat)
    (f : List Triple → List Byte × List (Nat × Nat)) : Host.Outcome State Fault Refusal :=
  let off := s.lowInt d
  let offs := srcs.map s.lowInt
  let judged := srcs.flatMap s.tripleConds
  let dc (o : Nat) : Nat := field (s.statusAt o) 24 2
  let n := ((offs.map dc).filter (fun x => x != 3)).head?.elim 0 dimOf
  let apart := offs.any (fun o => dc o != dc (offs.headD 0))
  let conds := (d :: srcs).flatMap (fun a => s.encCond (s.srcBad 1 a) 0x01 ++ s.lowCond 1 a) ++ judged ++
    s.lowWhen (decide (off % 16 ≠ 0)) 0x07 off ++ s.lowWhen (decide (s.wg.localBytes < off + outLen n)) 0x0B off ++
    s.lowWhen (judged.isEmpty && apart) 0x0E
  s.issueLive conds (fun t =>
    let x := readRunTogether (offs.flatMap (fun o => s.localRun o (16 + 4 * n))) t
    let bytes := x.1.map (·.1)
    let r := f ((List.range offs.length).map (fun i => Triple.ofBytes (slice bytes (i * (16 + 4 * n)) (16 + 4 * n))))
    let ws := s.localRun off r.1.length
    let t := x.2.writeTogether (ws.zipIdx.map (fun i => (i.1, slice r.1 (16 * i.2) 16)))
    let t := r.2.foldl (fun t e => t.alog t.who (t.grantOf t.wg) (s.unitAlog s.frag.pc e.1 e.2 s.lowMask)) t
    if offs.any (fun o => decide (off < o + 16 + 4 * n) && decide (o < off + r.1.length)) then
      { t with frag := { t.frag with hold := .fpt } }
    else t)

/-- The causes of a list, each with its count, in ascending order. -/
def countCauses (only : List Nat) (ev : List Nat) : List (Nat × Nat) :=
  (only.filter ev.contains).map (fun x => (x, ev.count x))

/-- amerge (R363). -/
def execAmerge (d a b : Operand) (s : State) : Host.Outcome State Fault Refusal :=
  s.tripleUnit d [a, b] (fun n => 16 + 4 * n) (fun ts =>
    let r := (ts.getD 0 {}).merge (ts.getD 1 {})
    (r.1.bytes, countCauses [evOverflow, evInvalid, evScale] r.2))

/-- afin (R364). -/
def execAfin (d a : Operand) (s : State) : Host.Outcome State Fault Refusal :=
  s.tripleUnit d [a] (fun n => 4 * n) (fun ts =>
    let t := ts.getD 0 {}
    let out : List Elem := t.acc.map (fun x =>
      if t.nonfin then { bits := nan32 }
      else if t.nrows = 0 then { bits := 0 }
      else Mode.roundTo {} .f32 0 (divExact (FFmt.f32.decode x) (FFmt.f32.decode t.s)))
    (out.flatMap (fun e => bytesOf 4 e.bits), countCauses [1, 2, 3, 4, 5] (out.flatMap (·.ev))))

end Sys2Proof.Machine
end

