-- ==== Sys2Proof/Machine/Chain.lean ====
section
/-!
DEFINITION. The chain of region control blocks above a launch and effective values (spec/03_scheduling.md R52 to R54,
R72, spec/15_tenancy.md R510), kernel headers and placement maps (R60, R180, R183), and the checks of a launch when it is
taken (spec/21_faults_execution.md R439).
-/

namespace Sys2Proof.Machine

/-- Why the work distributor does not get an RCB. -/
inductive TakeFail where
  /-- a structure beyond correction, or unbacked: the level of its confinement, its array code and its address (R422) -/
  | ue (level code at_ : Nat)
  /-- a check of R439 fails -/
  | code (c : Nat)
  /-- the RCB cannot be read (R440, R514) -/
  | unread
  deriving DecidableEq, Repr

/-- The first failure of a list of checks, else the value. -/
def orFail {α : Type} (v : α) : List (Option TakeFail) → Except TakeFail α
  | [] => .ok v
  | none :: es => orFail v es
  | some e :: _ => .error e

/-- The budget fields of an RCB's own bytes (R52). -/
def ownBudget (bs : List Byte) : Budget :=
  { rect := natAt bs 42 4, scratch := natAt bs 46 2, accum := natAt bs 48 1, copyq := natAt bs 49 1, lqdepth := natAt bs 50 1,
    prio := natAt bs 1 1 % 8, ticks := natAt bs 52 4 }

/-- The effective values of an RCB under its parent's (R53). -/
def effective (bs : List Byte) (p : Budget) : Budget :=
  let own := ownBudget bs
  let inh := natAt bs 2 2
  let least (i : Nat) (a b : Nat) : Nat := if bitAt inh i then b else min a b
  { rect := if bitAt inh 0 then p.rect else own.rect
    scratch := least 1 own.scratch p.scratch
    accum := least 2 own.accum p.accum
    copyq := least 3 own.copyq p.copyq
    lqdepth := least 4 own.lqdepth p.lqdepth
    prio := least 5 own.prio p.prio
    ticks := if bitAt inh 6 then p.ticks else own.ticks }

/-- A rectangle of the core plane: its origin and extents (R52, R54). -/
def rectOf (r : Nat) : Nat × Nat × Nat × Nat := (field r 0 6, field r 6 2, field r 8 6 + 1, field r 14 3 + 1)

/-- An RCB that a register of R510 or R72 names, read at its physical address: its bytes, or why it fails. -/
def State.namedRcb (s : State) (reg kind level code : Nat) : Except TakeFail (List Byte) :=
  let w := s.reg64 reg
  let pa := field w 8 44 * 256
  let r := s.physBytes pa 128
  if !bitAt w 63 then .error (.code 0x16)
  else if r.2 then .error (.ue level code pa)
  else if natAt r.1 0 1 ≠ kind then .error (.code 0x16)
  else .ok r.1

/-- The effective values of a context, through the root, partition and function RCBs above it (R53, R72, R510). -/
def State.ctxBudget (s : State) (i f c : Nat) : Except TakeFail Budget :=
  match s.namedRcb 0x0030 0 5 0x10 with
  | .error e => .error e
  | .ok root =>
    match s.namedRcb (blockOff i 0x4050) 1 4 0x0F with
    | .error e => .error e
    | .ok part =>
      match s.namedRcb (blockOff i (0x6400 + 8 * f)) 2 3 0x0E with
      | .error e => .error e
      | .ok fn =>
        match s.namedRcb (blockOff i (0x30000 + 8 * (256 * f + c))) 3 2 0x0D with
        | .error e => .error e
        | .ok ctx => .ok (effective ctx (effective fn (effective part (ownBudget root))))

/-- WEIGHT of a function's RCB, 0 read as 1 (R64, R444). -/
def State.weightNow (s : State) (i f : Nat) : Nat :=
  match s.namedRcb (blockOff i (0x6400 + 8 * f)) 2 3 0x0E with
  | .ok bs => max 1 (natAt bs 40 2)
  | .error _ => 1

/-- The physical address of a byte of a context's space; zero where it does not translate. -/
def State.ctxPa (s : State) (who : Who) (va : Nat) : Nat :=
  match s.translate who.part who.vf who.ctx (va % 2 ^ 56) .read with
  | .ok x => x.pa
  | .error _ => 0

/-- The 128 defined bytes of a launch RCB in its context's space, read on path v. -/
def State.launchRcb (s : State) (who : Who) (va : Nat) : Except TakeFail (List Byte) :=
  match s.ctxRead who 0 va 256 .read with
  | .error e => match e.ue with
    | some u => .error (.ue u.1 u.2.1 u.2.2)
    | none => .error .unread
  | .ok r => if r.2 then .error (.ue 2 0x0D (s.ctxPa who va)) else .ok (r.1.take 128)

/-- The effective values of the launch RCB at `va` as it and its chain stand now (R53): a launch that is known tells its
kind and its parent, another's RCB does. -/
def State.launchBudget (s : State) (who : Who) : Nat → Nat → Except TakeFail Budget
  | 0, _ => s.ctxBudget who.part who.vf who.ctx
  | fuel + 1, va =>
    match s.launchRcb who va with
    | .error .unread => match s.launchAt who.vf who.ctx (BitVec.ofNat 56 va) with
      | some l => .ok l.budget
      | none => .error .unread
    | .error e => .error e
    | .ok bs =>
      let up := match s.launchAt who.vf who.ctx (BitVec.ofNat 56 va) with
        | some l => (l.kind, l.parent.toNat)
        | none => (natAt bs 0 1, natAt bs 8 7)
      match if up.1 = 5 then s.launchBudget who fuel up.2 else s.ctxBudget who.part who.vf who.ctx with
      | .error e => .error e
      | .ok p => .ok (effective bs p)

/-- The kernel header's fields that the work distributor reads (R180, R181). -/
def Kernel.ofBytes (h : List Byte) : Kernel :=
  { version := natAt h 4 2, vregs := natAt h 8 1, accum := natAt h 11 1, priv := natAt h 12 2, tokens := natAt h 14 1,
    localBytes := natAt h 16 4, cluster := natAt h 20 4, fbOff := natAt h 28 4, fbCount := natAt h 26 2,
    rcpOff := natAt h 32 4, rcpLen := natAt h 36 4, entryOff := natAt h 44 4 }

/-- A header whose MAGIC or VERSION is wrong (R439 code 0x11). -/
def headerAlien (h : List Byte) : Bool :=
  decide (natAt h 0 4 ≠ 0x314B4D45) || decide (natAt h 4 2 = 0) || decide (3 < natAt h 4 2)

/-- A header field outside R180 and R181 (R439 code 0x12). -/
def headerBad (h : List Byte) : Bool :=
  decide (natAt h 8 1 = 0) || decide (128 < natAt h 8 1) || decide (64 < natAt h 9 1) || decide (16 < natAt h 10 1) ||
  decide (4 < natAt h 11 1) || decide (8 < natAt h 14 1) ||
  decide (natAt h 12 2 % 16 ≠ 0) || decide (8192 < natAt h 12 2) ||
  decide (natAt h 16 4 % 1024 ≠ 0) || decide (384 * 1024 < natAt h 16 4) ||
  decide (natAt h 20 4 % 256 ≠ 0) || decide (128 * 1024 < natAt h 20 4) ||
  decide (natAt h 28 4 % 16 ≠ 0) ||
  decide (natAt h 32 4 % 4 ≠ 0) || decide (natAt h 44 4 % 4 ≠ 0) || decide (natAt h 48 4 % 4 ≠ 0)

/-- A reserved field of a launch RCB that is not zero, or an extent of zero (R439 code 0x13). -/
def rcbBad (bs : List Byte) (fill : Bool) : Bool :=
  decide (16 ≤ natAt bs 1 1) || decide (128 ≤ natAt bs 2 2) || decide (2 ^ 17 ≤ natAt bs 42 4) || !zeroAt bs 51 1 ||
  !zeroAt bs 76 4 || decide (2 ^ 11 ≤ natAt bs 118 2) || !zeroAt bs 124 4 ||
  (!fill && (zeroAt bs 112 2 || zeroAt bs 114 2 || zeroAt bs 116 2))

/-- The core at plane position (x, y) of partition `i` (R54). -/
def planeCore (i x y : Nat) : Nat := 16 * (i + x / 4) + 4 * y + x % 4

/-- The plane position of a core of partition `i`. -/
def planePos (i core : Nat) : Nat × Nat := (4 * (core / 16 - i) + core % 4, core % 16 / 4)

/-- The cores of a rectangle inside partition `i` that are enabled, by plane x and then y (R28, R54, R59). -/
def State.rectCores (s : State) (i rect : Nat) : List Nat :=
  let r := rectOf rect
  (List.range r.2.2.1).flatMap (fun dx => (List.range r.2.2.2).filterMap (fun dy =>
    let x := r.1 + dx
    let y := r.2.1 + dy
    if x < 4 * s.partN i ∧ y < 4 then some (planeCore i x y) else none))

/-- The effective rectangle lies inside the parent's and the partition, and holds a whole cluster where the launch has
tuples (R439 code 0x13). -/
def State.rectOk (s : State) (i rect parent size : Nat) : Bool :=
  let r := rectOf rect
  let p := rectOf parent
  decide (p.1 ≤ r.1) && decide (p.2.1 ≤ r.2.1) && decide (r.1 + r.2.2.1 ≤ p.1 + p.2.2.1) &&
  decide (r.2.1 + r.2.2.2 ≤ p.2.1 + p.2.2.2) && decide (r.1 + r.2.2.1 ≤ 4 * s.partN i) && decide (r.2.1 + r.2.2.2 ≤ 4) &&
  (decide (size = 1) ||
    (let cs := s.rectCores i rect
     cs.any (fun c => (List.range 4).all (fun q => cs.contains (clusterCore c q)))))

/-- The anchor of a launch: slice, x and y (R60, R177): the launching core of a child, else the origin of the
rectangle, shifted by ANCHOR. -/
def launchAnchor (i kind fromCore rect anchor : Nat) : Int × Int × Int :=
  let r := rectOf rect
  let o : Nat × Nat × Nat :=
    if kind = 5 then (fromCore / 16, fromCore % 4, fromCore % 16 / 4) else (i + r.1 / 4, r.1 % 4, r.2.1)
  ((o.1 : Int) + signed 8 anchor, (o.2.1 : Int) + signed 4 (anchor / 2 ^ 8), (o.2.2 : Int) + signed 4 (anchor / 2 ^ 12))

/-- The reserved bits of a placement map's entry are zero (R183). -/
def mapClean (e : Nat) : Bool := decide (field e 24 7 = 0) && decide (field e 0 8 = 0)

/-- The fixed core of a placement map's entry (R60, R183): none of it where the entry has no fixed place, and no core
where the place fails the first condition of R59. The shifted anchor may itself lie outside the core plane (DESIGN CHOICE,
log 92). In a launch of tuples it is member 0's, at cluster position 0. -/
def State.mapEntry (s : State) (i rect size : Nat) (a : Int × Int × Int) (e : Nat) : Option (Option Nat) :=
  if !mapClean e then none
  else if !bitAt e 31 then some none
  else
    let sl := a.1 + signed 8 (e / 2 ^ 16)
    let x := a.2.1 + signed 4 (e / 2 ^ 8)
    let y := a.2.2 + signed 4 (e / 2 ^ 12)
    if sl < 0 ∨ x < 0 ∨ 3 < x ∨ y < 0 ∨ 3 < y then none
    else
      let core := 16 * sl.toNat + 4 * y.toNat + x.toNat
      let cs := s.rectCores i rect
      if (List.range size).all (fun q => cs.contains (if size = 1 then core else clusterCore core q)) ∧
          (size = 1 ∨ clusterPos core = 0) then some (some core) else none

/-- The entries of a placement map that belong to a launch of `n` workgroups or tuples, read on path i (R183), or the failure
of the map (R439 code 0x14): all its entries are read, and their reserved bits checked. -/
def State.placeMap (s : State) (who : Who) (rect size n : Nat) (a : Int × Int × Int) (va : Nat) :
    Except TakeFail (List (Option Nat)) :=
  if va = 0 then .ok []
  else if va % 16 ≠ 0 then .error (.code 0x14)
  else
    let fail (e : XFail) : TakeFail := match e.ue with
      | some u => .ue u.1 u.2.1 u.2.2
      | none => .code 0x14
    match s.ctxRead who 1 va 16 .read with
    | .error e => .error (fail e)
    | .ok h =>
      match s.ctxRead who 1 (va + 16) (4 * natAt h.1 0 4) .read with
      | .error e => .error (fail e)
      | .ok r =>
        let es := (List.range (min n (natAt h.1 0 4))).map (fun k => s.mapEntry who.part rect size a (natAt r.1 (4 * k) 4))
        if h.2 || r.2 || !zeroAt h.1 4 12 || es.contains none ||
            !(List.range (natAt h.1 0 4)).all (fun k => mapClean (natAt r.1 (4 * k) 4)) then .error (.code 0x14)
        else .ok (es.filterMap id)

/-- A launch as its RCB's bytes give it, before its checks: with the workgroups that its grid has (R31, R52). A fill
launch is one workgroup (R335). -/
def launchOf (l : Launch) (bs : List Byte) : Launch :=
  let fill := l.job.isSome
  let size := if fill then 1 else field (natAt bs 118 2) 9 2 + 1
  let g : Nat × Nat × Nat := if fill then (1, 1, 1) else (natAt bs 112 2, natAt bs 114 2, natAt bs 116 2)
  { l with
    kbase := BitVec.ofNat 56 (natAt bs 80 7), args := BitVec.ofNat 64 (natAt bs 88 8), done := BitVec.ofNat 56 (natAt bs 96 7)
    lanes := natAt bs 118 2 % 512 + 1, size := size, stagger := natAt bs 120 2
    gx := g.1, gy := g.2.1, total := g.1 * g.2.1 * g.2.2 * size, fdom := bitAt (natAt bs 1 1) 3 }

/-- The kernel header of a launch, read on path i (R180, R439 codes 0x11 and 0x12); a poisoned one has no MAGIC (DESIGN
CHOICE, log 96), and one at an address that is no multiple of 64 is read as it stands (DESIGN CHOICE, log 112). -/
def State.headerFor (s : State) (who : Who) (kbase : Nat) : Except TakeFail (List Byte) :=
  match s.ctxRead who 1 kbase 64 .fetch with
  | .error e => match e.ue with
    | some u => .error (.ue u.1 u.2.1 u.2.2)
    | none => .error (.code 0x11)
  | .ok r =>
    if r.2 || headerAlien r.1 then .error (.code 0x11)
    else if headerBad r.1 then .error (.code 0x12)
    else .ok r.1

/-- The checks of a launch's RCB in the order of their codes (R439), given the effective values of its parent. -/
def State.checkLaunch (s : State) (who : Who) (l : Launch) (bs : List Byte) (above : Except TakeFail Budget) :
    Except TakeFail Launch :=
  let fill := l.job.isSome
  if natAt bs 0 1 ≠ l.kind ∨ (!fill ∧ natAt bs 4 4 ≠ 0) then .error (.code 0x10)
  else
    match s.headerFor who (natAt bs 80 7) with
    | .error e => .error e
    | .ok h =>
      let k := Kernel.ofBytes h
      let parent : Budget := match above with
        | .ok b => b
        | .error _ => ownBudget bs
      let b := effective bs parent
      if rcbBad bs fill ∨ b.scratch < ceilDiv (k.localBytes + k.cluster) 1024 ∨ b.accum < k.accum ∨
          !s.rectOk who.part b.rect parent.rect l.size then .error (.code 0x13)
      else
        let a := launchAnchor who.part l.kind l.fromCore b.rect (natAt bs 122 2)
        match s.placeMap who b.rect l.size (l.total / l.size) a (natAt bs 104 7) with
        | .error e => .error e
        | .ok m =>
          match above with
          | .error e => .error e
          | .ok _ =>
            if l.kind = 4 ∧ some (natAt bs 8 8) ≠ s.ctxRcb who.part who.vf who.ctx then .error (.code 0x16)
            else .ok { l with budget := b, kernel := k, map := m }

/-- The bytes of a placement map, as its COUNT has it (R183). -/
def State.mapBytes (s : State) (who : Who) (va : Nat) : Nat :=
  match s.ctxRead who 1 va 4 .read with
  | .ok r => 16 + 4 * natOfBytes r.1
  | .error _ => 16

/-- The reads that taking a launch makes (R89, R95, R107): of the RCBs above it, of its own, of its kernel header and of its
placement map. -/
def State.sawLaunch (s : State) (who : Who) (va : Nat) : State :=
  let above := [0x0030, blockOff who.part 0x4050, blockOff who.part (0x6400 + 8 * who.vf),
    blockOff who.part (0x30000 + 8 * (256 * who.vf + who.ctx))].filter (fun r => bitAt (s.reg64 r) 63)
  let s := above.foldl (fun s r => s.physTouch who.vf (field (s.reg64 r) 8 44 * 256) 128) s
  match s.launchRcb who va with
  | .error _ => s.seen who 0 va 256 .read
  | .ok bs =>
    let t := (s.seen who 0 va 256 .read).seen who 1 (natAt bs 80 7) 64 .fetch
    if natAt bs 104 7 = 0 then t else t.seen who 1 (natAt bs 104 7) (s.mapBytes who (natAt bs 104 7)) .read

/-- A key slot that changes its mode holds one of the reads that taking a launch makes (R460). -/
def State.launchHeld (s : State) (who : Who) (va : Nat) : Bool :=
  s.ctxHeld who va 256 .read ||
    match s.launchRcb who va with
    | .error _ => false
    | .ok bs => s.ctxHeld who (natAt bs 80 7) 64 .fetch ||
        (decide (natAt bs 104 7 ≠ 0) && s.ctxHeld who (natAt bs 104 7) (s.mapBytes who (natAt bs 104 7)) .read)

/-- What the work distributor finds when it takes a launch (R405, R439): the launch as its RCB gives it, and its
checks. A chain beyond correction comes before every check. -/
def State.takeLaunch (s : State) (who : Who) (l : Launch) (va : Nat) : Except TakeFail (Launch × Except TakeFail Launch) :=
  match s.launchRcb who va with
  | .error e => .error e
  | .ok bs =>
    let l := launchOf l bs
    let above := if l.kind = 5 then s.launchBudget who (s.launches.length + 1) l.parent.toNat
      else s.ctxBudget who.part who.vf who.ctx
    match above with
    | .error (.ue lv c a) => .error (.ue lv c a)
    | _ => .ok (l, s.checkLaunch who l bs above)

end Sys2Proof.Machine
end

