-- ==== Sys2Proof/Machine/Launches.lean ====
section
/-!
DEFINITION. The life of a launch after its take: completion records (spec/02_execution_model.md R48), completion and
CHILDREN (spec/03_scheduling.md R57, spec/17 R405), failed and dropped launches (spec/21_faults_execution.md R439 to R441).
-/

namespace Sys2Proof.Machine

/-- Who the S12 acts for when it acts for a launch. -/
def Launch.who (l : Launch) : Who := ctxWho l.part l.vf l.ctx

/-- Replaces a launch. -/
def State.putLaunch (s : State) (l : Launch) : State :=
  { s with launches := s.launches.map (fun x => if x.id = l.id then l else x) }

/-- A launch by its number. -/
def State.launch (s : State) (id : Nat) : Option Launch := s.launches.find? (fun l => l.id == id)

/-- A structure beyond correction that the S12 met for a context (R422, R513): its confinement. -/
def State.confineUe (s : State) (who : Who) (level code at_ : Nat) : State :=
  (s.noteLost at_).confine level who none
    { source := 1, code := code, addr := at_, vf := who.vf, ctx := who.ctx, part := who.part }

/-- A fault record of LEVEL 0 and SOURCE 2 (R439, R442). -/
def State.noteQueue (s : State) (who : Who) (code launch : Nat) : State :=
  s.report who (s.ctxGrant who) { source := 2, code := code, vf := who.vf, ctx := who.ctx, part := who.part, launch := launch }

/-- The latest bytes, in coherence order, of a writable range of a context's space, and their poison (R106). -/
def State.ctxLatest (s : State) (who : Who) (va n : Nat) : Except XFail (List Byte × Bool) :=
  match s.xlateAll who .write (pieces va n) with
  | .error e => .error e
  | .ok xs =>
    let r := xs.foldl (fun (r : List Byte × Bool) x => let b := s.homeBytes x.1.pa x.2.2; (r.1 ++ b.1, r.2 || b.2)) ([], false)
    .ok (patched va r.1 (s.heldOf who), r.2)

/-- A completion record after an update (R48 Table 5): `n` workgroups, their OR, maximum and count of statuses. -/
def recordAfter (r : List Byte) (n or_ max_ nz : Nat) : List Byte :=
  bytesOf 4 (natAt r 0 4 + n) ++ bytesOf 2 (natAt r 4 2 ||| or_) ++ bytesOf 2 (max (natAt r 6 2) max_) ++
  bytesOf 4 (min (natAt r 8 4 + nz) 0xFFFFFFFF) ++ slice r 12 4

/-- Updates a launch's completion record: one path-v atomic (R48), after every access of the workgroup that it counts and after
every record that the S12 has written in the partition (R426). Poison stays on a record that carries it. Where it cannot be
written the context is confined (R514), or, where a table entry cannot be corrected, the entry's owner (R422). What the S12
writes for a sealed context goes out under its slot (R378). -/
def State.updateRecord (s : State) (who : Who) (launch done n or_ max_ nz : Nat) : State :=
  match s.ctxLatest who done 16 with
  | .error e => if e.ue.isSome then s.oweFail who e else (s.oweFail who e).confineCtx who 0x17 done launch
  | .ok r =>
    let b := recordAfter r.1 n or_ max_ nz
    let grant := s.ctxGrant who
    let s := (s.raisePts who.s12.core (s.ptsOf who.core)).look who done 16
    if r.2 then ((s.ctxPut who grant done (b.take 8)).2.ctxPut who grant (done + 8) (b.drop 8)).2
    else (s.ctxPut who grant done b).2

/-- Writes STATE of a launch RCB (R52); a fill launch's is never written (R335). -/
def State.putLaunchState (s : State) (l : Launch) (st : Nat) : State :=
  if l.job.isSome then s else s.rcbPut l.who (s.ctxGrant l.who) l.addr.toNat 4 1 st

/-- CHILDREN of a launch RCB (R52), or why it cannot be had (R422, R514). -/
def State.childCount (s : State) (who : Who) (va : Nat) : Except TakeFail Nat :=
  match s.ctxRead who 0 (va + 5) 1 .read with
  | .error e => match e.ue with
    | some u => .error (.ue u.1 u.2.1 u.2.2)
    | none => .error .unread
  | .ok r => if r.2 then .error (.ue 2 0x0D (s.ctxPa who (va + 5))) else .ok (natOfBytes r.1)

/-- One child less in a parent's CHILDREN, which never falls below 0 (R57); a CHILDREN that cannot be reached confines the
context (R422, R514). -/
def State.dropChild (s : State) (who : Who) (parent : Nat) : State :=
  match s.childCount who parent with
  | .ok 0 => s.look who (parent + 5) 1
  | .ok (n + 1) => (s.look who (parent + 5) 1).rcbPut who (s.ctxGrant who) parent 5 1 n
  | .error (.ue lv code a) => s.confineUe who lv code a
  | .error _ => (s.look who (parent + 5) 1).confineCtx who 0x17 (parent + 5) parent

/-- Where CHILDREN of a launch is nonzero or beyond correction, the launch is not complete; the latter confines (R57,
R422). -/
def State.childrenLeft (s : State) (l : Launch) : Option State :=
  match s.childCount l.who l.addr.toNat with
  | .ok (_ + 1) => some s
  | .error (.ue lv code a) => some (s.confineUe l.who lv code a)
  | _ => none

/-- The launches that have an RCB address in a context: one, or the fill launches of a class (R335). -/
def State.launchesAt (s : State) (f c : Nat) (a : VAddr) : List Nat :=
  (s.launches.filter (fun l => l.vf == f && l.ctx == c && l.addr == a)).map (·.id)

/-- The launches that become complete (R48, R57, R405): from launch `id` up, each whose workgroups have all completed
and whose CHILDREN reads 0 takes its STATE, leaves the machine and lowers its parent's CHILDREN. -/
def State.settleLaunch : Nat → State → Nat → State
  | 0, s, _ => s
  | fuel + 1, s, id =>
    match s.launch id with
    | none => s
    | some l =>
      if l.complete < l.total then s
      else match s.childrenLeft l with
      | some t => t
      | none =>
        let s := { s.look l.who (l.addr.toNat + 5) 1 with launches := s.launches.filter (fun x => x.id != id) }
        let s := s.putLaunchState l (if l.faulted then 3 else 2)
        if l.kind = 5 then
          let s := s.dropChild l.who l.parent.toNat
          (s.launchesAt l.vf l.ctx l.parent).foldl (fun s p => State.settleLaunch fuel s p) s
        else s

/-- Settles a launch and those above it. -/
def State.settle (s : State) (id : Nat) : State := State.settleLaunch (s.launches.length + 1) s id

/-- The parent of a child that has completed has one child less, and may be complete with it (R57). -/
def State.childDone (s : State) (l : Launch) : State :=
  if l.kind = 5 then
    let s := s.dropChild l.who l.parent.toNat
    (s.launchesAt l.vf l.ctx l.parent).foldl (fun s p => s.settle p) s
  else s

/-- `n` workgroups of a launch count as complete, with their statuses (R48); `after` is what the record's update brings with
it. -/
def State.countGroups (s : State) (l : Launch) (who : Who) (n or_ max_ nz : Nat) (faulted : Bool) (after : State → State) :
    State :=
  let s := after (s.updateRecord who l.addr.toNat l.done.toNat n or_ max_ nz)
  let s := match s.launch l.id with
    | some x => s.putLaunch { x with complete := x.complete + n, faulted := x.faulted || faulted || s.confs.any (fun d => d.coversCtx l.part l.vf l.ctx) }
    | none => s
  s.settle l.id

/-- A launch that is not dispatched (R439, R441): one update counts its grid with status 0xFFFF, its parent has one
child less, and STATE becomes 3; `code` is the check that failed, none for a dropped child. -/
def State.failLaunch (s : State) (l : Launch) (code : Option Nat) : State :=
  let s := match code with
    | some c => s.noteQueue l.who c l.addr.toNat
    | none => s
  let s := s.updateRecord l.who l.addr.toNat l.done.toNat l.total 0xFFFF 0xFFFF 0
  (s.putLaunchState l 3).childDone l

/-- A launch dispatches nothing more (R421, R441): its workgroups that have not been dispatched count as complete with
status 0xFFFF, and it ends faulted. -/
def State.closeLaunch (s : State) (id : Nat) : State :=
  match s.launch id with
  | none => s
  | some l =>
    let left := l.total - l.next * l.size
    let s := s.putLaunch { l with closed := true, faulted := true, next := l.total / max 1 l.size }
    if left = 0 then s.settle id else s.countGroups l l.who left 0xFFFF 0xFFFF 0 true (fun s => s)

/-- The child launches of a parent in its overflow list, from the list's head on (R58); `fuel` bounds the walk. -/
def State.overflow (s : State) (who : Who) : Nat → Nat → List Nat
  | 0, _ => []
  | fuel + 1, va => if va = 0 ∨ va % 256 ≠ 0 then [] else va :: s.overflow who fuel (s.rcbGet who va 16 8)

/-- A dropped child's record is counted (R441): its RCB gives its grid, where it can be read. -/
def State.dropPosted (s : State) (p : Pending) : State :=
  let l : Launch := { id := p.id, addr := p.child, vf := p.vf, ctx := p.ctx, part := p.part, kind := 5, parent := p.parent,
                      fromCore := p.fromCore }
  match s.launchRcb l.who p.child.toNat with
  | .ok bs => s.failLaunch (launchOf l bs) none
  | .error _ => s.childDone l

/-- Drops the posted children that `sel` picks, and the overflow lists of the launches that `par` picks (R421, R441):
each is completed without a record of its own. -/
def State.dropChildren (s : State) (sel : Pending → Bool) (par : Launch → Bool) : State :=
  let queued := s.pending.filter sel
  let parents := s.launches.filter par
  let lists := parents.flatMap (fun l =>
    (s.overflow l.who 65536 (s.rcbGet l.who l.addr.toNat 24 8)).map (fun va =>
      ({ id := 0, core := l.fromCore, child := BitVec.ofNat 56 va, parent := l.addr, vf := l.vf, ctx := l.ctx,
         part := l.part } : Pending)))
  let s := { s with pending := s.pending.filter (fun p => !sel p), listed := s.listed.filter (fun p => !sel p) }
  let s := parents.foldl (fun s l =>
    if s.rcbGet l.who l.addr.toNat 24 8 = 0 then s
    else (s.rcbPut l.who (s.ctxGrant l.who) l.addr.toNat 24 8 0).rcbPut l.who (s.ctxGrant l.who) l.addr.toNat 32 8 0) s
  (queued ++ lists).foldl (fun s p => s.dropPosted p) s

end Sys2Proof.Machine
end

