-- ==== Sys2Proof/Machine/Queues.lean ====
section
/-!
DEFINITION. Host launch queues (spec/03_scheduling.md R55, R56, R72, spec/21_faults_execution.md R442, R443) and the ageing
of launches (R444).
-/

namespace Sys2Proof.Machine

/-- EN, LOG2N, HALT and the indices of a context's queue (R55 Table 2). -/
def State.queueOn (s : State) (f c : Nat) : Bool := bitAt (s.bell f c 0x008) 31
def State.log2n (s : State) (f c : Nat) : Nat := s.bell f c 0x008 % 32
def State.queueHalted (s : State) (f c : Nat) : Bool := bitAt (s.bell f c 0x014) 0
def State.widx (s : State) (f c : Nat) : Nat := s.bell f c 0x00C
def State.ridx (s : State) (f c : Nat) : Nat := s.bell f c 0x010

/-- The queue's base in the context's space. -/
def State.queueBase (s : State) (f c : Nat) : Nat := s.bell f c 0x000 / 32 * 32 + s.bell f c 0x004 % 2 ^ 24 * 2 ^ 32

/-- EMPTY follows the indices (R55). -/
def State.syncEmpty (s : State) (f c : Nat) : State :=
  s.setBell f c 0x014 (setField (s.bell f c 0x014) 1 1 (if s.ridx f c = s.widx f c then 1 else 0))

/-- The queue holds more entries than it has places (R442 code 0x01). -/
def State.queueOver (s : State) (f c : Nat) : Bool :=
  decide (2 ^ s.log2n f c < (s.widx f c + 2 ^ 32 - s.ridx f c) % 2 ^ 32)

/-- A queue fault (R442): HALT, and a record. -/
def State.haltQueue (s : State) (f c code : Nat) : State :=
  let s := s.setBell f c 0x014 (setField (s.bell f c 0x014) 0 1 1)
  match s.partOfVf f with
  | some i => s.noteQueue (ctxWho i f c) code 0
  | none => s

/-- A write to WIDX (R56): the queue is checked (R442). -/
def execDoorbellWrite (vf ctx : Nat) (widx : Word) (s : State) : Host.Outcome State Fault Refusal :=
  if !s.openBar then .next s
  else
    let s := (s.setBell vf ctx 0x00C widx.toNat).syncEmpty vf ctx
    .next (if s.queueOver vf ctx then s.haltQueue vf ctx 0x01 else s)

/-- The number under which a queue's watch stands in the future wait table. -/
def queueWatch (f c : Nat) : Nat := 2 ^ 32 + 256 * f + c

/-- A write to EN and LOG2N (R443): LOG2N keeps its value while EN is 1; EN from 0 to 1 clears HALT, and the queue looks at its
entry again, whatever it watched before; EN written to 1 has the queue checked (R442 code 0x04). -/
def execQueueEnableWrite (vf ctx : Nat) (val : Word) (s0 : State) : Host.Outcome State Fault Refusal :=
  let s := s0
  let was := s.queueOn vf ctx
  let log2n := if was then s.log2n vf ctx else val.toNat % 32
  let on := bitAt val.toNat 31
  let s := s.setBell vf ctx 0x008 (log2n + if on then 2 ^ 31 else 0)
  if !s.openBar then .next s0
  else if on then
    let s := if was then s else State.setBell { s with watches := s.watches.filter (fun w => w.wave != queueWatch vf ctx) } vf ctx 0x014
      (setField (s.bell vf ctx 0x014) 0 1 0)
    let bound := match s.partOfVf vf with
      | some i => (s.ctxRcb i vf ctx).isSome
      | none => false
    .next (if log2n < 6 ∨ 16 < log2n ∨ s.s1root vf ctx = 0 ∨ !bound then s.haltQueue vf ctx 0x04 else s)
  else .next s

/-- What the S12 reads of a queue entry (R56): a code of R442, a structure beyond correction, or its fields. -/
inductive QueueEntry where
  | bad (code : Nat)
  | ue (level code at_ : Nat)
  | good (rcb wait val : Nat) (serial : Bool)
  deriving DecidableEq, Repr

/-- A read in a context's space as the queue's checks judge it: the failure's code, or a poisoned one. -/
def State.queueRead (s : State) (who : Who) (va n code : Nat) (pois : Option Nat) : Except QueueEntry (List Byte) :=
  match s.ctxRead who 0 va n .read with
  | .error e => match e.ue with
    | some u => .error (.ue u.1 u.2.1 u.2.2)
    | none => .error (.bad code)
  | .ok r =>
    if r.2 then match pois with
      | some k => .error (.ue 2 k (s.ctxPa who va))
      | none => .error (.bad code)
    else .ok r.1

/-- Reads and checks entry `i` of a context's queue (R56, R442). -/
def State.queueEntry (s : State) (who : Who) (i : Nat) : QueueEntry :=
  match s.queueRead who (s.queueBase who.vf who.ctx + 32 * (i % 2 ^ s.log2n who.vf who.ctx)) 32 0x02 (some 0x0D) with
  | .error e => e
  | .ok b =>
    let rcb := natAt b 0 8
    let wait := natAt b 8 8
    if !zeroAt b 24 8 ∨ 2 ≤ natAt b 20 4 ∨ rcb % 256 ≠ 0 ∨ 2 ^ 56 ≤ rcb ∨ wait % 4 ≠ 0 ∨ 2 ^ 56 ≤ wait then .bad 0x03
    else
      match s.queueRead who rcb 256 0x03 (some 0x0D) with
      | .error e => e
      | .ok _ =>
        if wait = 0 then .good rcb 0 0 (bitAt (natAt b 20 4) 0)
        else match s.queueRead who wait 4 0x03 none with
          | .error e => e
          | .ok _ => .good rcb wait (natAt b 16 4) (bitAt (natAt b 20 4) 0)

/-- The launch of entry `i - 1` of a queue is not complete (R56 SERIAL). -/
def State.serialHeld (s : State) (f c i : Nat) : Bool :=
  s.launches.any (fun l => l.vf == f && l.ctx == c && l.kind == 4 && decide (l.entry = (i + 2 ^ 32 - 1) % 2 ^ 32 + 1))

/-- Releases a host launch to the work distributor (R56, R405, R439): it is taken, and checked. -/
def State.release (s : State) (who : Who) (rcb i : Nat) : State :=
  let f := who.vf
  let c := who.ctx
  let s := s.sawLaunch who rcb
  let on (s : State) : State := (s.setBell f c 0x010 (i + 1)).syncEmpty f c
  let l : Launch := { id := s.nextId, addr := BitVec.ofNat 56 rcb, vf := f, ctx := c, part := who.part, kind := 4,
                      releasedAt := s.cyc who.part, entry := i + 1, vseen := s.oseq }
  match s.takeLaunch who l rcb with
  | .error (.ue lv code a) => s.confineUe who lv code a
  | .error _ => s.haltQueue f c 0x03
  | .ok (_, .error (.ue lv code a)) => s.confineUe who lv code a
  | .ok (l, .error (.code k)) => (on s).failLaunch l (some k)
  | .ok (l, .error .unread) => (on s).failLaunch l (some 0x16)
  | .ok (_, .ok l) => { on s with launches := s.launches ++ [l], nextId := s.nextId + 1 }

/-- A context's queue may release (R55, R423). -/
def State.queueLive (s : State) (who : Who) : Bool :=
  s.queueOn who.vf who.ctx && !s.queueHalted who.vf who.ctx && decide (s.ridx who.vf who.ctx ≠ s.widx who.vf who.ctx) &&
  s.partEn who.part && s.vfEn who.part who.vf && !s.confs.any (fun d => d.coversCtx who.part who.vf who.ctx)

/-- The S12 looks at the next entry of a queue (R56, R442): it halts on a failed check, waits through a watch while
WAIT_ADDR holds less than WAIT_VAL, waits for SERIAL or while a key slot holds its reads (R460), or releases the entry. -/
def execQueueEntryRelease (vf ctx : Nat) (s : State) : Host.Outcome State Fault Refusal :=
  match s.partOfVf vf with
  | none => .next s
  | some part =>
    let who := ctxWho part vf ctx
    let i := s.ridx vf ctx
    let mine := queueWatch vf ctx
    let place := s.queueBase vf ctx + 32 * (i % 2 ^ s.log2n vf ctx)
    if !s.queueLive who || s.watches.any (fun w => w.wave == mine && !w.woken) || s.ctxHeld who place 32 .read then .next s
    else
      let s := { s with watches := s.watches.filter (fun w => w.wave != mine) }
      if s.queueOver vf ctx then .next (s.haltQueue vf ctx 0x01)
      else
        let t := s.seen who 0 place 32 .read
        match s.queueEntry who i with
        | .bad code => .next (t.haltQueue vf ctx code)
        | .ue lv code a => .next (t.confineUe who lv code a)
        | .good rcb wait val serial =>
          let now := if wait = 0 then val else (t.vaNat who wait 4).getD 0
          let s := if wait = 0 then t else t.seen who 0 wait 4 .read
          if t.launchHeld who rcb || (decide (wait ≠ 0) && t.ctxHeld who wait 4 .read) then .next t
          else if now < val then
            let line := ((s.placeOf (s.ctxPa who wait)).getD 0) / 128
            .next { s with watches := s.watches ++ [{ wave := mine, slot := 0, line := line }] }
          else if serial && s.serialHeld vf ctx i then .next s
          else .next (s.release who rcb i)

/-- A write of CTX_BIND (R72): ignored while the page's EN reads 1. -/
def execCtxBindWrite (part vf ctx : Nat) (val : BitVec 64) (s : State) : Host.Outcome State Fault Refusal :=
  if s.queueOn vf ctx ∨ !s.openBar then .next s
  else
    let v := val.toNat
    .next (s.setReg64 (blockOff part (0x30000 + 8 * (256 * vf + ctx)))
      (field v 8 44 * 256 + if bitAt v 63 then 2 ^ 63 else 0))

/-- The effective priority with which the distributor considers a launch (R59, R444). -/
def agedPrio (prio step : Nat) : Nat := min 7 (prio + step)

/-- A released launch that is not dispatched gains a step of effective priority for each 65,536 ACLK that it waits
(R444); `launch` also names a posted child. -/
def execLaunchPriorityAging (launch : Nat) (s : State) : Host.Outcome State Fault Refusal :=
  let due (now t step : Nat) : Bool := decide (t + 65536 * (step + 1) ≤ now) && decide (step < 7)
  let old (p : Pending) : Pending := if p.id = launch ∧ due (s.cyc p.part) p.postedAt p.ageStep then { p with ageStep := p.ageStep + 1 } else p
  .next { s with
    launches := s.launches.map (fun l =>
      if l.id = launch ∧ l.next * l.size < l.total ∧ due (s.cyc l.part) l.releasedAt l.ageStep then { l with ageStep := l.ageStep + 1 } else l)
    pending := s.pending.map old
    listed := s.listed.map old }

end Sys2Proof.Machine
end

