-- ==== Sys2Proof/Machine/Residency.lean ====
section
/-!
DEFINITION. Residency (spec/01_overview.md R19, R20, spec/02_execution_model.md R49, R50, spec/04_memory.md R75, R76): what a
workgroup needs of a core, and the core that the work distributor chooses (spec/03_scheduling.md R59, R60, R66).
-/

namespace Sys2Proof.Machine

/-- Vector registers that a wave takes of its port's 1,024 (R19). -/
def regsTaken (vregs : Nat) : Nat := ceilDiv vregs 8 * 8

/-- Waves of a workgroup of `lanes` lanes that port `p` takes (R31). -/
def wavesOnPort (lanes p : Nat) : Nat := ((List.range (ceilDiv lanes 32)).filter (fun w => w % 4 == p)).length

/-- What a port has left (R19, R20): resident-wave positions, vector registers, fragment slots. `gone` leaves some waves
out of the count. -/
def State.portRoom (s : State) (core port : Nat) (gone : Wave → Bool) : Nat × Nat × Nat :=
  let bs := (s.onPort core port).filter (fun b => !gone b.wave)
  (16 - bs.length, 1024 - bs.foldl (fun n b => n + regsTaken b.wave.nregs) 0, 64 - bs.foldl (fun n b => n + b.frags.length) 0)

/-- Resident-wave positions of a core that are free for waves of `vregs` registers (R60). -/
def State.freeCapacity (s : State) (core vregs : Nat) (gone : Wave → Bool) : Nat :=
  (List.range 4).foldl (fun n p =>
    let r := s.portRoom core p gone
    n + min r.1 (r.2.1 / max 8 (regsTaken vregs))) 0

/-- The waves of context (f, c) that hold a save slot of a port without being resident there (R75): evicted or
pre-empted. -/
def State.slotHolders (s : State) (core port f c : Nat) : List Nat :=
  ((s.boxes.filter (fun b => b.wave.core == core && b.wave.port == port && b.wave.away &&
      (let g := s.groupOf b.wave; g.vf == f && g.ctx == c))).map (·.wave.idx)) ++
  (s.saved.filter (fun g => g.wg.core == core && g.wg.vf == f && g.wg.ctx == c)).flatMap (fun g =>
    (s.images.filter (fun m => m.wg == g.wg.id)).flatMap (fun m =>
      (m.boxes.filter (fun b => b.wave.port == port)).map (·.wave.idx)))

/-- The resident wave indices of a port that a wave of context (f, c) may take once the waves of `gone` have left (R75): one
of the same context keeps its index. -/
def State.freeIdx (s : State) (core port f c : Nat) (gone : Wave → Bool) : List Nat :=
  let same (b : WaveBox) : Bool := let g := s.groupOf b.wave; g.vf == f && g.ctx == c
  let held := ((s.onPort core port).filter (fun b => !gone b.wave || same b)).map (·.wave.idx) ++ s.slotHolders core port f c
  (List.range 16).filter (fun i => !held.contains i)

/-- A woken wave waits for its port (R67): nothing new is dispatched there. -/
def State.restoring (s : State) (core port : Nat) : Bool :=
  s.boxes.any (fun b => b.wave.core == core && b.wave.port == port && b.wave.away && b.wave.wake.isSome)

/-- The matrix engine of a core has failed (R482). -/
def State.matrixFailed (s : State) (core : Nat) : Bool := bitAt (s.reg (0x0900 + 4 * (core / 16))).toNat (core % 16)

/-- The core's memories and accumulators hold a workgroup of a kernel (R49, R74, R76). -/
def State.coreHolds (s : State) (core : Nat) (k : Kernel) : Bool :=
  let gs := s.groups.filter (fun g => g.core == core)
  decide (gs.foldl (fun n g => n + g.localBytes) 0 + k.localBytes ≤ 384 * 1024) &&
  decide (gs.foldl (fun n g => n + g.accum) 0 + k.accum ≤ 4) && (decide (k.accum = 0) || !s.matrixFailed core)

/-- The waves of a workgroup find registers, positions and fragment slots on port `p` of a core (R19, R20, R49). -/
def State.portFits (s : State) (core p lanes vregs : Nat) (gone : Wave → Bool) : Bool :=
  let n := wavesOnPort lanes p
  let r := s.portRoom core p gone
  decide (n ≤ r.1) && decide (n * regsTaken vregs ≤ r.2.1) && decide (n ≤ r.2.2)

/-- No port of the core holds its new waves back for a woken wave or a save slot (R67, R75). -/
def State.portsOpen (s : State) (core lanes f c : Nat) (gone : Wave → Bool) : Bool :=
  (List.range 4).all (fun p => decide (wavesOnPort lanes p = 0) ||
    (!s.restoring core p && decide (wavesOnPort lanes p ≤ (s.freeIdx core p f c gone).length)))

/-- The lowest bank offset at which `c` bytes are free in all four banks of the cluster of a core (R76); a tuple keeps its
bytes while a member is swapped out (R50). -/
def State.bankOffset (s : State) (core c : Nat) : Option Nat :=
  let swapped := (s.saved.map (·.wg)).filter (fun g => decide (2 ≤ g.tuple.length))
  let used := ((s.groups ++ swapped).filter (fun g =>
    decide (clusterCore g.core 0 = clusterCore core 0) && decide (0 < g.cluster))).map
      (fun g => (g.clusterBase, g.clusterBase + g.cluster))
  let fits (b : Nat) : Bool := decide (b + c ≤ 128 * 1024) && used.all (fun u => decide (b + c ≤ u.1) || decide (u.2 ≤ b))
  if c = 0 then some 0
  else (bestOf (fun a b => decide (a < b)) (((0 :: used.map (·.2)).filter fits)))

/-- The cores of the members of a workgroup, or of a tuple whose member 0 is on core `n` (R50). -/
def membersOn (size n : Nat) : List Nat := if size = 1 then [n] else (List.range size).map (clusterCore n)

/-- A workgroup or tuple of launch `l` fits on a core once the waves of `gone` have left (R49, R50, R67, R75). -/
def State.fitsWithout (s : State) (l : Launch) (core : Nat) (gone : Wave → Bool) : Bool :=
  (s.bankOffset core l.kernel.cluster).isSome &&
  (membersOn l.size core).all (fun n =>
    s.coreHolds n l.kernel && s.portsOpen n l.lanes l.vf l.ctx gone &&
    (List.range 4).all (fun p => s.portFits n p l.lanes l.kernel.vregs gone))

/-- A workgroup or tuple of launch `l` fits on a core as it stands. -/
def State.fits (s : State) (l : Launch) (core : Nat) : Bool := s.fitsWithout l core (fun _ => false)

/-- STAGGER has passed on a core's slice (R59). -/
def State.staggered (s : State) (l : Launch) (core : Nat) : Bool :=
  match SMap.get 0 (core / 16) l.starts with
  | 0 => true
  | t + 1 => decide (t + l.stagger ≤ s.coreCyc core)

/-- The cores that the next workgroup or tuple of a launch may go to, in plane order (R59, R60): its fixed core, else
those of the effective rectangle. -/
def State.targets (s : State) (l : Launch) : List Nat :=
  match l.map.getD l.next none with
  | some c => [c]
  | none =>
    let cs := s.rectCores l.part l.budget.rect
    if l.size = 1 then cs
    else cs.filter (fun c => decide (clusterPos c = 0) && (membersOn l.size c).all cs.contains)

/-- The core of a list, in plane order, that has the most free issue capacity; the first of those that tie (R60). -/
def State.mostFree (s : State) (l : Launch) (gone : Wave → Bool) (cs : List Nat) : Option Nat :=
  bestOf (fun a b => decide (s.freeCapacity b l.kernel.vregs gone < s.freeCapacity a l.kernel.vregs gone)) cs

/-- The targets of a launch of which no core is reserved and on whose slices STAGGER has passed. -/
def State.openTargets (s : State) (l : Launch) (reserved : List Nat) : List Nat :=
  (s.targets l).filter (fun c => s.staggered l c && (membersOn l.size c).all (fun n => !reserved.contains n))

/-- The core that takes a launch's next workgroup or tuple now (R59, R60). -/
def State.startCore (s : State) (l : Launch) (reserved : List Nat) : Option Nat :=
  s.mostFree l (fun _ => false) ((s.openTargets l reserved).filter (s.fits l))

/-- The cores that a launch which has to wait reserves (R59). -/
def State.reserves (s : State) (l : Launch) : List Nat := (s.targets l).flatMap (membersOn l.size)

end Sys2Proof.Machine
end

