-- ==== Sys2Proof/Machine/Distributor.lean ====
section
/-!
DEFINITION. The work distributor (spec/03_scheduling.md R58, R59, spec/21_faults_execution.md R405, R440): children at the
head of their parents' queues and lists, the take of a child, and the dispatch of a workgroup or tuple with the first
state of its waves (spec/07_encoding.md R181, spec/02_execution_model.md R33, R39, R64).
-/

namespace Sys2Proof.Machine

/-- A child that the distributor finds first of its parent: from a pending-launch queue entry or the list's head. -/
structure Found where
  p : Pending
  queued : Bool
  deriving DecidableEq, Repr

/-- The order number of the posted children of a parent, in post order. -/
def State.queuedOf (s : State) (l : Launch) : List Pending :=
  s.pending.filter (fun p => p.vf == l.vf && p.ctx == l.ctx && p.parent == l.addr)

/-- The member at the head of a parent's overflow list (R58, R440): what was posted there, or a member that no launch
word posted, whose launching core is a free value. -/
def State.listHead (s : State) (l : Launch) (va : Nat) : Pending :=
  match s.listed.find? (fun p => p.vf == l.vf && p.ctx == l.ctx && p.parent == l.addr && p.child.toNat == va) with
  | some p => p
  | none =>
    let core := 16 * l.part + (Config.freeWord s.free).toNat % (16 * max 1 (s.partN l.part))
    { id := s.nextId, core := core, child := BitVec.ofNat 56 va, parent := l.addr, vf := l.vf, ctx := l.ctx, part := l.part,
      fromCore := core, postedAt := s.cyc l.part, vseen := s.oseq }

/-- A parent's first child (R58): its queue entries come before its overflow list. -/
def State.firstChild (s : State) (l : Launch) : Option Found :=
  match s.queuedOf l with
  | p :: _ => some { p := p, queued := true }
  | [] =>
    let head := s.rcbGet l.who l.addr.toNat 24 8
    if head = 0 then none else some { p := s.listHead l head, queued := false }

/-- The head of a parent's overflow list is broken (R440), or beyond correction; else its NEXT. -/
def State.listCheck (s : State) (l : Launch) (head : Nat) : Except TakeFail Nat :=
  if head % 256 ≠ 0 ∨ 2 ^ 56 ≤ head then .error .unread
  else
    match s.launchRcb l.who head with
    | .error e => .error e
    | .ok bs =>
      let next := natAt bs 16 8
      if natAt bs 0 1 ≠ 5 ∨ natAt bs 8 8 ≠ l.addr.toNat ∨ natAt bs 4 4 ≠ 0 ∨ next % 256 ≠ 0 ∨
          (head = s.rcbGet l.who l.addr.toNat 32 8 ∧ next ≠ 0) then .error .unread
      else .ok next

/-- A list or queue entry of a context that the distributor cannot follow (R440), or a structure beyond correction. -/
def State.takeFailed (s : State) (who : Who) (addr : Nat) : TakeFail → State
  | .ue level code at_ => s.confineUe who level code at_
  | _ => s.confineCtx who 0x15 addr addr

/-- Unlinks the head of a parent's overflow list (R405): OVF_HEAD takes its NEXT, and OVF_TAIL becomes zero with it. -/
def State.unlinkHead (s : State) (l : Launch) : Except TakeFail (Pending × State) :=
  let head := s.rcbGet l.who l.addr.toNat 24 8
  match s.listCheck l head with
  | .error e => .error e
  | .ok next =>
    let p := s.listHead l head
    let forged := !s.listed.any (fun q => q.id == p.id)
    let grant := s.ctxGrant l.who
    let s := s.rcbPut l.who grant l.addr.toNat 24 8 next
    let s := if next = 0 then s.rcbPut l.who grant l.addr.toNat 32 8 0 else s
    .ok (p, { s with
      listed := s.listed.filter (fun q => q.id != p.id)
      free := if forged then s.free + 1 else s.free
      nextId := if forged then s.nextId + 1 else s.nextId })

/-- Removes a posted child that the distributor takes (R58, R405): from its queue entry, into which the head of the
parent's list then moves, or from the list. -/
def State.unpost (s : State) (l : Launch) (c : Found) : State :=
  if c.queued then
    let s := { s with pending := s.pending.filter (fun p => p.id != c.p.id) }
    if s.rcbGet l.who l.addr.toNat 24 8 = 0 then s
    else
      match s.unlinkHead l with
      | .error e => s.takeFailed l.who l.addr.toNat e
      | .ok (p, s) => { s with pending := s.pending ++ [{ p with core := c.p.core, entry := c.p.entry }] }
  else
    match s.unlinkHead l with
    | .error e => s.takeFailed l.who l.addr.toNat e
    | .ok (_, s) => s

/-- What the distributor considers: a launch, and for a child that is not taken its parent, where it was found and
the check that it fails. -/
structure Cand where
  l : Launch
  up : Option (Launch × Found) := none
  fail : Option TakeFail := none
  deriving DecidableEq, Repr

/-- The launch that a posted child would be (R405). -/
def Pending.launch (p : Pending) : Launch :=
  { id := p.id, addr := p.child, vf := p.vf, ctx := p.ctx, part := p.part, kind := 5, parent := p.parent,
    fromCore := p.fromCore, releasedAt := p.postedAt, ageStep := p.ageStep, vseen := p.vseen }

/-- A parent's first child, with its checks (R405, R439, R440); none while a key slot holds a read that its take makes
(R460). -/
def State.childCand (s : State) (l : Launch) : Option Cand :=
  match s.firstChild l with
  | none => none
  | some c =>
    if s.launchHeld l.who c.p.child.toNat then none
    else
    let listed : Option TakeFail := if c.queued then none else match s.listCheck l c.p.child.toNat with
      | .error e => some e
      | .ok _ => none
    match listed with
    | some e => some { l := c.p.launch, up := some (l, c), fail := some e }
    | none =>
      match s.takeLaunch l.who c.p.launch c.p.child.toNat with
      | .error e => some { l := c.p.launch, up := some (l, c), fail := some e }
      | .ok (x, .error e) => some { l := x, up := some (l, c), fail := some e }
      | .ok (_, .ok x) => some { l := x, up := some (l, c) }

/-- A launch may dispatch (R421, R423, R441): nothing confines it, and its function is enabled. -/
def State.mayDispatch (s : State) (l : Launch) : Bool :=
  !l.closed && s.vfEn l.part l.vf && !s.confs.any (fun d => d.coversCtx l.part l.vf l.ctx || d.launches.contains l.id)

/-- The effective priority of a candidate (R444). -/
def Cand.prio (c : Cand) : Nat := agedPrio c.l.budget.prio c.l.ageStep

/-- Candidate `a` is considered before `b` (R59): priority, then the oldest. -/
def Cand.before (a b : Cand) : Bool :=
  decide (b.prio < a.prio) || (decide (a.prio = b.prio) &&
    (decide (a.l.releasedAt < b.l.releasedAt) || (decide (a.l.releasedAt = b.l.releasedAt) && decide (a.l.id ≤ b.l.id))))

/-- What the distributor of a partition considers, in its order (R58, R59). -/
def State.candidates (s : State) (part : Nat) : List Cand :=
  let own := (s.launches.filter (fun l => l.part == part && s.mayDispatch l)).flatMap (fun l =>
    (if l.next * l.size < l.total then [({ l := l } : Cand)] else []))
  let kids := (s.launches.filter (fun l => l.part == part && s.mayDispatch l)).filterMap s.childCand
  sortBy Cand.before (own ++ kids)

/-- The first candidate that finds a core, while those before it reserve theirs (R59). -/
def State.firstStart (s : State) : List Cand → List Nat → Option (Cand × Nat)
  | [], _ => none
  | c :: cs, reserved =>
    match s.startCore c.l reserved with
    | some n => some (c, n)
    | none => s.firstStart cs (s.reserves c.l ++ reserved)

/-- The first wave state of a kernel (R39, R181): x0 and x1 hold ARGS, and a fill workgroup's x2 to x4 its job block's
address and its job count (R335). -/
def firstRegs (args : Nat) (fill : Option (Nat × Nat)) : SMap Word :=
  SMap.ofList 0 ([BitVec.ofNat 32 args, BitVec.ofNat 32 (args / 2 ^ 32)] ++
    (match fill with
      | some (a, n) => [BitVec.ofNat 32 a, BitVec.ofNat 32 (a / 2 ^ 32), BitVec.ofNat 32 n]
      | none => []))

/-- The lanes of wave `w` of a workgroup of `n` lanes (R32). -/
def presentLanes (n w : Nat) : LaneMask := BitVec.ofNat 32 (2 ^ min 32 (n - 32 * w) - 1)

/-- The RCB of a function gives no WEIGHT (R422, R513): the function's confinement is owed. -/
def State.oweWeight (s : State) (part f : Nat) : State :=
  match s.namedRcb (blockOff part (0x6400 + 8 * f)) 2 3 0x0E with
  | .error (.ue lv code a) =>
    let r : FaultRec := { level := lv, source := 1, code := code, addr := a, vf := f, part := part }
    if s.owed.contains r then s else { s with owed := s.owed ++ [r] }
  | _ => s

/-- A wave of function `f` becomes resident on a port (R64): D_f is zero with the function's first wave there, and W_f is
read. -/
def State.enterPort (s : State) (core port part f : Nat) : State :=
  let key := deficitKey core port f
  let first := !(s.onPort core port).any (fun b => (s.groupOf b.wave).vf == f)
  State.oweWeight (part := part) (f := f) { s with
    deficits := if first then SMap.set 0 key 0 s.deficits else s.deficits
    weights := SMap.set 1 key (s.weightNow part f) s.weights }

/-- Makes wave `w` of a workgroup resident (R31, R33, R39, R64, R75, R181): its first fragment starts at ENTRY_OFF, and its
paths observe what precedes its launch's release or post in the v order (R112). -/
def State.startWave (s : State) (g : Workgroup) (regs : SMap Word) (w : Nat) : State :=
  let v := ((s.launch g.launch).map (·.vseen)).getD 0
  let port := w % 4
  let here := s.onPort g.core port
  let used := here.flatMap (fun b => b.frags.map (·.slot))
  let slot := ((List.range 64).find? (fun i => !used.contains i)).getD 0
  let pc := g.kbase + BitVec.ofNat 56 g.entryOff
  let wave : Wave := {
    id := s.nextId, core := g.core, port := port, idx := (s.freeIdx g.core port g.vf g.ctx (fun _ => false)).headD 0, wgId := g.id, index := w
    present := presentLanes g.lanes w, live := presentLanes g.lanes w, xregs := regs
    lfsr := 0xACE1 ^^^ BitVec.ofNat 16 (0x0101 * w), nregs := g.vregsDecl }
  let f : Frag := { slot := slot, pc := pc, fbPc := pc, mask := wave.present, lastIssue := s.coreCyc g.core, since := s.coreCyc g.core }
  let s := { s.enterPort g.core port g.part g.vf with
    others := insertBox { wave := wave, frags := [f] } s.others, nextId := s.nextId + 1 }
  if v = 0 then s
  else [1, 2, 3, 4, 5, 6].foldl (fun s q => s.markSeen (fun e => e.path == 0 && decide (e.seq < v)) q (some wave.id)) s

/-- The first state of member `q` of a workgroup or tuple (R33, R34, R180, R377). -/
def memberGroup (s : State) (l : Launch) (ids : List Nat) (base q core : Nat) : Workgroup :=
  let i := l.next
  let grant := s.preg l.part (0x20000 + 4 * (256 * l.vf + l.ctx))
  { id := ids.getD q 0, launch := l.id, launchAddr := l.addr, part := l.part, vf := l.vf, ctx := l.ctx, core := core
    wx := i % l.gx, wy := i / l.gx % l.gy, wz := i / (l.gx * l.gy), lanes := l.lanes
    kbase := l.kbase, version := l.kernel.version, vregsDecl := l.kernel.vregs, priv := l.kernel.priv
    localBytes := l.kernel.localBytes, cluster := l.kernel.cluster, clusterBase := base, accum := l.kernel.accum
    tokens := l.kernel.tokens, fbOff := l.kernel.fbOff, fbCount := l.kernel.fbCount, rcpOff := l.kernel.rcpOff
    rcpLen := l.kernel.rcpLen, entryOff := l.kernel.entryOff, args := l.args.setWidth 56, tuplePos := q, tuple := ids
    budget := l.budget, sealed := if bitAt grant 31 then some (grant % 64) else none, job := l.job, startedAt := s.coreCyc core }

/-- The time slice of a context on a core begins with its first workgroup there (R68). -/
def sliceKey (core f c : Nat) : Nat := core * 2 ^ 14 + 256 * f + c

def State.beginSlice (s : State) (core f c : Nat) : State :=
  if s.groups.any (fun g => g.core == core && g.vf == f && g.ctx == c) then s
  else { s with sliceTime := SMap.set 0 (sliceKey core f c) (s.coreCyc core + 1) s.sliceTime }

/-- Makes a member resident with all its waves (R49). -/
def State.startGroup (s : State) (g : Workgroup) (regs : SMap Word) : State :=
  let s := (s.beginSlice g.core g.vf g.ctx).dropStale g.core
  let s := { s with
    wgs := insertWg { g with firstWave := s.nextId } s.wgs
    gone := s.gone.filter (fun b => b.wave.core != g.core)
    goneWgs := s.goneWgs.filter (fun x => x.core != g.core) }
  (List.range (ceilDiv g.lanes 32)).foldl (fun s w => s.startWave g regs w) s

/-- The address of job block `b`, slice·64 + block, of a partition (R334). -/
def State.jobBlockAt (s : State) (part b : Nat) : Nat :=
  s.preg part 0x020 / 2 ^ 12 * 2 ^ 12 + s.preg part 0x024 % 2 ^ 24 * 2 ^ 32 + 16384 * (b / 64 - part) + 256 * (b % 64)

/-- The address and count of a fill launch's job block (R334, R335). -/
def State.jobsAt (s : State) (l : Launch) : Option (Nat × Nat) :=
  l.job.map (fun b => (s.jobBlockAt l.part b, (SMap.get [] b s.jobBlocks).length))

/-- The cluster bank bytes that a tuple has not written read as zero: what stood there is gone with its reservation. -/
def State.clearBanks (s : State) (core base c : Nat) : State :=
  let inside (key : Nat) : Bool := decide (clusterCore (key / 2 ^ 20) 0 = clusterCore core 0) &&
    decide (base ≤ key % 2 ^ 20) && decide (key % 2 ^ 20 < base + c)
  { s with
    cmem := s.cmem.filter (fun e => !inside e.1)
    cpois := s.cpois.filter (fun e => !inside (16 * e.1)) }

/-- The S12 holds a launch's dispatch progress in its RCB's working state, bytes 128 to 255 (R52), in a layout that the spec
does not give: free values, where the page takes them (DESIGN CHOICE, log 97). A fill launch's RCB is never written. -/
def State.putProgress (s : State) (l : Launch) : State :=
  if l.job.isSome then s
  else
    let t := (s.ctxPut l.who (s.ctxGrant l.who) (l.addr.toNat + 128) ((List.range 128).map (Config.freeByte s.free))).2
    { t with free := t.free + 1 }

/-- Dispatches the next workgroup or tuple of a launch to a core (R33, R50, R59, R76, R405): STATE reads running from
the first. -/
def State.startAt (s : State) (l : Launch) (core : Nat) : State :=
  let base := (s.bankOffset core l.kernel.cluster).getD 0
  let cores := membersOn l.size core
  let ids := (List.range l.size).map (fun q => s.nextId + q)
  let regs := firstRegs l.args.toNat (s.jobsAt l)
  let gs := (cores.zipIdx).map (fun x => memberGroup s l ids base x.2 x.1)
  let s := { s.clearBanks core base l.kernel.cluster with nextId := s.nextId + l.size }
  let s := gs.foldl (fun s g => s.startGroup g regs) s
  let s := s.putLaunch { l with next := l.next + 1, starts := SMap.set 0 (core / 16) (s.coreCyc core + 1) l.starts }
  (if l.next = 0 then s.putLaunchState l 1 else s).putProgress l

/-- A child that fails (R439, R440): it is taken, and completes as faulted; or its list is broken. -/
def State.failChild (s : State) (c : Cand) (e : TakeFail) : State :=
  match c.up, e with
  | some (up, found), .code k => ((s.sawLaunch c.l.who c.l.addr.toNat).unpost up found).failLaunch c.l (some k)
  | some (up, _), e => s.takeFailed up.who up.addr.toNat e
  | none, _ => s

/-- A candidate gets its next workgroup or tuple on a core; a child is taken with its first (R405), unless the list
that moves up behind it is broken (R440, R441). -/
def State.startCand (s : State) (c : Cand) (core : Nat) : State :=
  match c.up with
  | some (up, found) =>
    let s := (s.sawLaunch c.l.who c.l.addr.toNat).unpost up found
    if s.mayDispatch c.l then State.startAt { s with launches := s.launches ++ [c.l] } c.l core
    else s.failLaunch c.l none
  | none => s.startAt c.l core

/-- The work distributor of a partition acts once (R59, R405): a child that fails a check is taken and completed as
faulted; else the first candidate that finds a core gets its next workgroup or tuple resident. -/
def execWorkgroupDispatch (part : Nat) (s : State) : Host.Outcome State Fault Refusal :=
  if !s.partEn part then .next s
  else
    let s := s.unfocus
    let cs := s.candidates part
    match cs.findSome? (fun c => c.fail.map (fun e => (c, e))) with
    | some (c, e) => .next (s.failChild c e)
    | none =>
      match s.firstStart cs [] with
      | some (c, core) => .next (s.startCand c core)
      | none => .next s

end Sys2Proof.Machine
end

