-- ==== Sys2Proof/Machine/Shading.lean ====
section
/-!
DEFINITION. The shading cache (spec/13_shading.md R323 to R333, R337 to R341, R348, spec/24_faults_engines.md R486,
R487): keys, tags, lookups, fills, version bumps and dating.
-/

namespace Sys2Proof.Machine

/-- SC_CTL.EN of a partition (R327). -/
def State.scEn (s : State) (part : Nat) : Bool := bitAt (s.preg part 0x000) 0

/-- SC_GRANT of a context (R328). -/
def State.scGrant (s : State) (part vf ctx : Nat) : Nat := s.preg part (0x10000 + 4 * (256 * vf + ctx))

/-- OBJN: object records in the table (R327). -/
def State.objN (s : State) (part : Nat) : Nat := field (s.preg part 0x010) 0 25

/-- The physical address of an object record (R327, R329). -/
def State.objAddr (s : State) (part obj : Nat) : Nat :=
  s.preg part 0x008 / 4096 * 4096 + 2 ^ 32 * field (s.preg part 0x00C) 0 20 + 16 * obj

/-- A grant covers an access-control tag (R328). -/
def covers (grant act : Nat) : Bool := act &&& field grant 12 12 == field grant 0 12

/-- The object of a key (R323). -/
def keyObj (k : Nat) : Nat := field k 32 24

/-- The slice and set of a key in a partition of `n` slices from `s0` (R324). -/
def keyPlace (s0 n k : Nat) : Nat × Nat :=
  let h := (k % 2 ^ 32 ^^^ field k 32 24 * 256) % 2 ^ 32
  (s0 + h / 2 ^ 15 % n, h % 2 ^ 15 ^^^ h / 2 ^ 15 % 2 ^ 15)

/-- The key of a set's way among the tags. -/
def tagKey (slice set way : Nat) : Nat := (slice * 2 ^ 15 + set) * 16 + way

/-- The payload of a tag's entry among the storage places (R325): HBM4E stack s at 0xF_F000_0000 + 512·HIDX. -/
def heapPlace (tag : Nat) : Nat := tag / 2 ^ 19 * 2 ^ 36 + (0xFF0000000 + 512 * (tag % 2 ^ 19))

def State.scTag (s : State) (tag : Nat) : ScTag := SMap.get {} tag s.scTags
def State.setScTag (s : State) (tag : Nat) (t : ScTag) : State := { s with scTags := SMap.set {} tag t s.scTags }

/-- The fields of an object record (R329 Table 4). -/
structure ObjRec where
  ver : Nat
  cls : Nat
  present : Bool
  act : Nat
  maxAge : Nat
  deriving DecidableEq, Repr

def ObjRec.ofBytes (b : List Byte) : ObjRec :=
  { ver := natAt b 0 2, cls := natAt b 2 1, present := bitAt (natAt b 3 1) 7, act := natAt b 4 2 % 4096, maxAge := natAt b 6 2 }

/-- The bytes of an object record as path o observes them, and whether they cannot be had (R329, R422, R513). -/
def State.objBytes (s : State) (part wave obj : Nat) : List Byte × Bool :=
  let pa := s.objAddr part obj
  match s.placeOf pa with
  | some p => (s.overlay 5 wave p (s.placeBytes (pa / 2 ^ 46 % 64) p 16), s.placeBad p 16)
  | none => (List.replicate 16 0, true)

def State.objRec (s : State) (part wave obj : Nat) : ObjRec := .ofBytes (s.objBytes part wave obj).1

/-- A lookup has read an object record (R89, R107, R333): its line came through L2, and what it observed stays observed on
path o. -/
def State.objSeen (s : State) (part wave obj : Nat) : State :=
  match s.placeOf (s.objAddr part obj) with
  | some p => (s.l2Touch s.wg.vf (s.objAddr part obj) p (sectorMask p 16)).observe 5 wave p 16
  | none => s

/-- The partition loses its object table: an uncorrectable record, or one without backing (R422, R513). -/
def State.objLost (s : State) (who : Who) (r : FaultRec) (obj : Nat) : State :=
  let pa := s.objAddr who.part obj
  (s.noteLost pa).confine 4 who none { r with source := 1, code := 0x0F, addr := pa }

/-- The ways of a set, ascending. -/
def setTags (slice set : Nat) : List Nat := (List.range 16).map (tagKey slice set)

/-- The tag with a nonzero state that holds a key (R324). -/
def State.findTag (s : State) (part k : Nat) : Option Nat :=
  let p := keyPlace part (s.partN part) k
  (setTags p.1 p.2).find? (fun t => (s.scTag t).st != 0 && (s.scTag t).key == k)

/-- The victim of a set, with the REF bits that its choice clears (R332). -/
def State.scVictim (s : State) (slice set : Nat) : Option (Nat × State) :=
  let ts := setTags slice set
  match ts.find? (fun t => (s.scTag t).st == 0) with
  | some t => some (t, s)
  | none =>
    match ts.find? (fun t => (s.scTag t).st == 2 && !(s.scTag t).ref) with
    | some t => some (t, s)
    | none =>
      match ts.find? (fun t => (s.scTag t).st == 2) with
      | some t => some (t, ts.foldl (fun s u =>
          if (s.scTag u).st = 2 then s.setScTag u { s.scTag u with ref := false } else s) s)
      | none => none

/-- A valid tag is fresh at frame `f` (R330). -/
def ScTag.fresh (t : ScTag) (o : ObjRec) (f : Nat) : Bool :=
  t.ver == o.ver && t.act == o.act &&
    (o.maxAge == 0 || decide (signed 20 (f + 2 ^ 20 - t.frame) ≤ o.maxAge))

/-- Jobs in a slice's shade queue. -/
def State.queued (s : State) (slice : Nat) : Nat := (s.jobs.filter (fun j => j.slice == slice)).length

/-- The shade queue of a slice is full (R334). -/
def State.queueFull (s : State) (slice : Nat) : Bool := decide (1024 ≤ s.queued slice)

/-- Stamps a tag in flight for a key, and makes its job (R331). -/
def State.scStamp (s : State) (tag k : Nat) (o : ObjRec) (f : Nat) (t : ScTag) : State :=
  let s := s.setScTag tag { t with st := 1, ver := o.ver, act := o.act, frame := f % 2 ^ 20 }
  { s with jobs := s.jobs ++ [{ slice := tag / 2 ^ 19, key := k, ver := o.ver, cls := o.cls, frame := f, at_ := s.cyc (tag / 2 ^ 19) }] }

/-- What a lookup finds (R331). -/
inductive Looked where
  | hit (tag : Nat)
  | parks (tag : Nat) (out : Tri)
  | held
  deriving DecidableEq, Repr

/-- A lookup of a key at frame `f` against its object's record (R331 Table 5). -/
def State.scLookup (s : State) (part k : Nat) (o : ObjRec) (f : Nat) : Looked × State :=
  let p := keyPlace part (s.partN part) k
  match s.findTag part k with
  | none =>
    if s.queueFull p.1 then (.held, s)
    else
      match s.scVictim p.1 p.2 with
      | none => (.held, s)
      | some (tag, s) => (.parks tag .f, s.scStamp tag k o f { key := k })
  | some tag =>
    let t := s.scTag tag
    if t.st = 2 then
      if t.fresh o f then (.hit tag, s.setScTag tag { t with ref := true })
      else if s.queueFull p.1 then (.held, s)
      else (.parks tag .f, s.scStamp tag k o f t)
    else if t.ver = o.ver ∧ t.act = o.act then (.parks tag .u, s)
    else if s.queueFull p.1 then (.held, s)
    else (.parks tag .f, s.scStamp tag k o f t)

/-- A lane's texel was read from an entry. -/
def Texel.readFrom (x : Texel) (tag key : Nat) : Bool :=
  decide (x.entry = tag + 1) && x.key == key && (match x.at_ with
    | .got _ _ => true
    | _ => false)

/-- The lanes of waiting scqs that have read an entry look it up again (R486). -/
def State.scUnread (s : State) (tag : Nat) : State :=
  let key := (s.scTag tag).key
  s.modFrags (fun _ f => match f.wait with
    | some (.texels d grant fr xs) =>
      { f with wait := some (.texels d grant fr (xs.map (fun x => if x.readFrom tag key then { x with at_ := .held } else x))) }
    | _ => f)

/-- An entry's heap sectors that cannot be corrected are counted (R422, R452, R486), and the entry is invalid; its
watchers, and the lanes that have read it, look up again. -/
def State.scInvalidate (s : State) (tag : Nat) : State :=
  let s := s.scUnread tag
  let sec := heapPlace tag / 16
  let bad := (List.range 32).filter (fun i => SMap.get false (sec + i) s.uncorr && !s.scrubPending (heapPlace tag))
  let s := bad.foldl (fun s i => State.countUE { s with
    uncorr := SMap.set false (sec + i) false s.uncorr, poison := SMap.set false (sec + i) true s.poison } (tag / 2 ^ 19) 0x0C) s
  (s.setScTag tag { s.scTag tag with st := 0 }).wakeLine (heapPlace tag / 128)

/-- The texel of a hit (R333, R337); none when its sector cannot be had. -/
def State.scTexel (s : State) (part wave tag x : Nat) : Option Nat :=
  let p := heapPlace tag + x
  if s.placeBad p 8 then none
  else some (natOfBytes (s.overlay 5 wave p (s.placeBytes (field (s.preg part 0x028) 0 6) p 8)))

/-- Looks a lane up until it is answered, parked or held: an entry whose payload cannot be had is invalidated, and the
lane looks up again, which finds no valid entry then (R331, R486). With the entries that it invalidated and their keys. -/
def State.scAsk (part wave f : Nat) (x : Texel) : Nat → State → (Texel × List (Nat × Nat)) × State
  | 0, s => ((x, []), s)
  | n + 1, s =>
    let obj := keyObj x.key
    let r := (s.objSeen part wave obj).scLookup part x.key (s.objRec part wave obj) f
    let first (s : State) (o : Tri) : State := if x.seen then s else s.setP 15 x.lane o
    match r.1 with
    | .held => (({ x with at_ := .held }, []), r.2)
    | .parks tag o => (({ x with at_ := .parked tag, seen := true }, []), first r.2 o)
    | .hit tag =>
      match r.2.scTexel part wave tag x.sel with
      | some v =>
        (({ x with at_ := .got v false, seen := true, entry := tag + 1 }, []),
          (first r.2 .t).observe 5 wave (heapPlace tag + x.sel) 8)
      | none =>
        let t := State.scAsk part wave f { x with seen := true } n ((first r.2 .t).scInvalidate tag)
        ((t.1.1, (tag, x.key) :: t.1.2), t.2)

/-- Asks for the chosen lanes of a list, ascending (R337). -/
def State.scAskSome (part wave f : Nat) (pick : Texel → Bool) : List Texel → State → (List Texel × List (Nat × Nat)) × State
  | [], s => (([], []), s)
  | x :: xs, s =>
    let r := if pick x then State.scAsk part wave f x 2 s else ((x, []), s)
    let t := State.scAskSome part wave f pick xs r.2
    ((r.1.1 :: t.1.1, r.1.2 ++ t.1.2), t.2)

/-- The lanes that have read one of some invalidated entries ask again, until none has (R486). -/
def State.scSettle (part wave f : Nat) : Nat → List Texel → List (Nat × Nat) → State → List Texel × State
  | 0, xs, _, s => (xs, s)
  | fuel + 1, xs, lost, s =>
    let pick (x : Texel) : Bool := lost.any (fun e => x.readFrom e.1 e.2)
    if xs.any pick then
      let r := State.scAskSome part wave f pick xs s
      State.scSettle part wave f fuel r.1.1 r.1.2 r.2
    else (xs, s)

/-- Asks for a list of lanes, ascending (R337, R486). -/
def State.scAskAll (part wave f : Nat) (xs : List Texel) (s : State) : List Texel × State :=
  let r := State.scAskSome part wave f (fun _ => true) xs s
  State.scSettle part wave f (xs.length + 1) r.1.1 r.1.2 r.2

/-- A lane is answered. -/
def Texel.done (x : Texel) : Bool :=
  match x.at_ with
  | .got _ _ => true
  | _ => false

/-- The lines of the entries that lanes are parked on (R331), in lane order. -/
def texelLines (xs : List Texel) : List Nat :=
  (xs.filterMap (fun x => match x.at_ with
    | .parked tag => some (heapPlace tag / 128)
    | _ => none)).eraseDups

/-- scq's results (R337): raw bits, low word in d. -/
def State.texelsOut (s : State) (d : Operand) (xs : List Texel) : State :=
  xs.foldl (fun s x => match x.at_ with
    | .got v pois => s.setD d x.lane 2 v pois
    | _ => s) s

/-- Lanes of the execution mask whose key fails the admission of R330: no such object, or an access-control tag that the
grant does not cover. -/
def State.scBarred (s : State) (a : Operand) (grant : Nat) : LaneMask × LaneMask :=
  let o (l : Nat) : Nat := keyObj (s.addr56 a l)
  let here (l : Nat) : Bool := decide (o l < s.objN s.wg.part)
  let r (l : Nat) : ObjRec := s.objRec s.wg.part s.wave.id (o l)
  (lanesWhere s.exec (fun l => !here l || !(r l).present), lanesWhere s.exec (fun l => here l && !covers grant (r l).act))

/-- An object record of the execution mask's lanes that cannot be had. -/
def State.scBadRec (s : State) (obj : Nat → Nat) : Option Nat :=
  ((lanesOf s.exec).find? (fun l => decide (obj l < s.objN s.wg.part) && (s.objBytes s.wg.part s.wave.id (obj l)).2)).map obj

/-- A shading unit reads an object record that cannot be had: its partition is confined and nothing else happens. -/
def State.scUnit (s : State) (conds : List Cond) (obj : Nat → Nat) (eff : State → State) :
    Host.Outcome State Fault Refusal :=
  match s.judged .plain conds, s.scBadRec obj with
  | none, some i => .next (State.objLost { s with iss := {} } s.who s.unitRec i)
  | _, _ => s.issueLive conds eff

/-- The grant and enable conditions of the shading instructions (R341, R348); those that need FILL are closed to a sealed
workgroup (R378). -/
def State.scConds (s : State) (bit : Nat) : List Cond :=
  let ok := s.scEn s.wg.part && bitAt (s.scGrant s.wg.part s.wg.vf s.wg.ctx) bit
  (if ok then [] else laneCond 0x09 s.exec) ++ (if bit = 30 ∧ (s.grantOf s.wg).isSome then laneCond 0x11 s.exec else [])

/-- scq (R337). -/
def execScq (d a b : Operand) (s : State) : Host.Outcome State Fault Refusal :=
  let grant := s.scGrant s.wg.part s.wg.vf s.wg.ctx
  let f := s.frameOf s.wg
  let en := s.scConds 31
  let barred := s.scBarred a grant
  let adm := if en.isEmpty then laneCond 0x0E barred.1 ++ laneCond 0x09 barred.2 else []
  let lanes := (lanesOf s.exec).map (fun l => ({ lane := l, key := s.addr56 a l, sel := 8 * (s.int b l % 64) } : Texel))
  s.scUnit (s.encCond (!d.isV || !d.aligned 2) 0x01 ++ s.encCond (!a.isPair) 0x01 ++ s.encCond (s.srcBad 1 b) 0x01 ++
      en ++ adm ++ s.cleanCond [(2, a), (1, b)])
    (fun l => if en.isEmpty then keyObj (s.addr56 a l) else 2 ^ 32)
    (fun t =>
      let r := State.scAskAll s.wg.part s.wave.id f lanes (if en.isEmpty then t.frameLoad s.wg.vf s.wg.ctx s.wave.core else t)
      if r.1.all Texel.done then r.2.texelsOut d r.1
      else (r.2.park s.frag.pc (.texels d.code grant f r.1)).watchLines (texelLines r.1))

/-- A payload's bytes as the four registers from `d` hold them (R338). -/
def State.fillBytes (s : State) (d : Operand) : List Byte :=
  (List.range 64).flatMap (fun t =>
    let r := d.num + 2 * (t / 32)
    let l := t % 32
    if s.wave.present.getLsbD l then bytesOf 4 (s.vreg r l).toNat ++ bytesOf 4 (s.vreg (r + 1) l).toNat
    else List.replicate 8 0)

/-- Lanes with poison in any of the four payload registers. -/
def State.fillPois (s : State) (d : Operand) : LaneMask := lanesWhere s.wave.present (fun l => s.srcPois 4 d l)

/-- Writes a whole payload on path o under the heap's key id (R325, R333). -/
def State.putHeap (s : State) (part tag : Nat) (bs : List Byte) : State :=
  (List.range 4).foldl (fun s i =>
    s.putPlace 5 0 s.wg.vf (field (s.preg part 0x028) 0 6) (heapPlace tag + 128 * i) ((bs.drop (128 * i)).take 128)) s

/-- The heap sectors of an entry hold one that cannot be corrected. -/
def State.heapUE (s : State) (tag : Nat) : Bool :=
  (List.range 32).any (fun i => SMap.get false (heapPlace tag / 16 + i) s.uncorr) && !s.scrubPending (heapPlace tag)

/-- The scfill rows of Table 5 (R331), and whether the payload was written. -/
def State.scFillRow (s : State) (part k ver frame : Nat) (bs : List Byte) : Bool × State :=
  match s.findTag part k with
  | none => (false, s)
  | some tag =>
    let t := s.scTag tag
    if t.st ≠ 1 ∨ t.ver ≠ ver then (false, s)
    else if t.doom then (false, (s.setScTag tag { t with st := 0 }).wakeLine (heapPlace tag / 128))
    else if s.heapUE tag then (false, s.scInvalidate tag)
    else (true, (s.putHeap part tag bs).setScTag tag { t with st := 2, frame := frame % 2 ^ 20, ref := true })

/-- scfill (R338). -/
def execScfill (d a b : Operand) (s : State) : Host.Outcome State Fault Refusal :=
  s.issueLive (s.encCond (!d.isV || !d.aligned 4) 0x01 ++ s.encCond (!a.isX || !a.aligned 2) 0x01 ++
      s.encCond (!b.isX || !b.aligned 2) 0x01 ++ s.scConds 30 ++ (if s.exec = 0 then [] else laneCond 0x0A (s.fillPois d) 0 d.code))
    (fun t =>
      let r := t.scFillRow s.wg.part (s.addr56 a 0) ((s.xreg b.num).toNat % 2 ^ 16) (s.xreg (b.num + 1)).toNat (s.fillBytes d)
      (lanesOf s.exec).foldl (fun t l => t.setP 15 l (if r.1 then .t else .f)) r.2)

/-- The version-wrap rows of Table 5 for every tag of an object in a partition (R339, R331). -/
def State.scWrap (s : State) (part obj : Nat) : State :=
  let mine (tag : Nat) (t : ScTag) : Bool :=
    decide (part ≤ tag / 2 ^ 19) && decide (tag / 2 ^ 19 < part + s.partN part) && keyObj t.key == obj
  let on (t : ScTag) : ScTag := if t.st = 2 then { t with st := 0 } else if t.st = 1 then { t with doom := true } else t
  { s with scTags := (s.scTags.map (fun e => if mine e.1 e.2 then (e.1, on e.2) else e)).filter (fun e => decide (e.2 ≠ {})) }

/-- One lane's bump of a version (R339): the new version. -/
def State.scBump (s : State) (part obj : Nat) : Nat × State :=
  let pa := s.objAddr part obj
  let v := (natOfBytes (s.physBytes pa 2).1 + 1) % 2 ^ 16
  let s := s.physWrite 5 s.wg.vf pa (bytesOf 2 v)
  (v, if v = 0 then s.scWrap part obj else s)

/-- Bumps the versions of a list of lanes, ascending. -/
def State.scBumps (part : Nat) : List (Nat × Nat) → State → List (Nat × LaneOut) × State
  | [], s => ([], s)
  | (l, obj) :: xs, s =>
    let r := s.scBump part obj
    let t := State.scBumps part xs r.2
    ((l, { v := r.1 }) :: t.1, t.2)

/-- scinv (R339). -/
def execScinv (d a : Operand) (s : State) : Host.Outcome State Fault Refusal :=
  let en := s.scConds 30
  let obj (l : Nat) : Nat := s.int a l % 2 ^ 24
  s.scUnit (s.encCond (dstBad 1 d) 0x01 ++ s.encCond (s.srcBad 1 a) 0x01 ++ en ++
      laneCond 0x0E (lanesWhere s.exec (fun l => decide (s.objN s.wg.part ≤ obj l))) ++ s.cleanCond [(1, a)])
    obj
    (fun t =>
      let r := State.scBumps s.wg.part ((runLanes d s.exec).map (fun l => (l, obj l))) t
      r.2.writeLanes d 1 r.1)

/-- The scage row of Table 5 for one key (R340). -/
def State.scAge (s : State) (part wave k frame : Nat) : Bool × State :=
  let o := s.objRec part wave (keyObj k)
  let s := s.objSeen part wave (keyObj k)
  match s.findTag part k with
  | none => (false, s)
  | some tag =>
    let t := s.scTag tag
    if t.st = 2 ∧ t.ver = o.ver ∧ t.act = o.act then (true, s.setScTag tag { t with frame := frame % 2 ^ 20 }) else (false, s)

/-- scage (R340). -/
def execScage (d a b : Operand) (s : State) : Host.Outcome State Fault Refusal :=
  let obj (l : Nat) : Nat := keyObj (s.addr56 a l)
  s.scUnit (s.encCond (!d.isP) 0x01 ++ s.encCond (!a.isPair) 0x01 ++ s.encCond (s.srcBad 1 b) 0x01 ++ s.scConds 30 ++
      laneCond 0x0E (lanesWhere s.exec (fun l => decide (s.objN s.wg.part ≤ obj l))) ++ s.cleanCond [(2, a), (1, b)])
    obj
    (fun t => (lanesOf s.exec).foldl (fun t l =>
      let r := t.scAge s.wg.part s.wave.id (s.addr56 a l) (s.int b l)
      r.2.setP d.num l (if r.1 then .t else .f)) t)

/-- Access withdrawn at a re-lookup (R487): the object is gone, or the grant of the issue does not cover it. -/
def State.scWithdrawn (s : State) (part wave grant k : Nat) : Bool :=
  let o := s.objRec part wave (keyObj k)
  decide (s.objN part ≤ keyObj k) || !o.present || !covers grant o.act

/-- SC_STAT.LAST (R485). -/
def State.scLast (s : State) (part code : Nat) : State := s.setPreg part 0x030 (setField (s.preg part 0x030) 24 8 code)

/-- A withdrawn lane's answer (R487): a zero texel with poison, p15 F where it had no outcome, and CODE 0x63. -/
def State.scWithdraw (s : State) (x : Texel) : Texel × State :=
  let s := if x.seen then s else s.setP 15 x.lane .f
  ({ x with at_ := .got 0 true, seen := true },
    (s.scLast s.wg.part 0x63).report s.who (s.grantOf s.wg) { s.doneRec with source := 4, code := 0x63, lmask := maskOf [x.lane] })

/-- Looks the chosen lanes of a waiting scq up again (R331, R487), with the entries that this invalidated. -/
def State.scAgain (grant f : Nat) (pick : Texel → Bool) : List Texel → State → (List Texel × List (Nat × Nat)) × State
  | [], s => (([], []), s)
  | x :: xs, s =>
    let r := if !pick x then ((x, []), s)
      else if s.scWithdrawn s.wg.part s.wave.id grant x.key then
        let w := s.scWithdraw x
        ((w.1, []), w.2)
      else State.scAsk s.wg.part s.wave.id f x 2 s
    let t := State.scAgain grant f pick xs r.2
    ((r.1.1 :: t.1.1, r.1.2 ++ t.1.2), t.2)

/-- The focused fragment's scq looks the chosen lanes up again, and completes or goes on waiting (R331, R337). -/
def State.scRetry (s : State) (pick : State → Texel → Bool) : State :=
  match s.frag.wait with
  | some (.texels d grant f xs) =>
    let again := xs.filter (pick s)
    match again.find? (fun x => decide (keyObj x.key < s.objN s.wg.part) &&
        (s.objBytes s.wg.part s.wave.id (keyObj x.key)).2) with
    | some x => s.objLost s.who s.doneRec (keyObj x.key)
    | none =>
      let a := State.scAgain grant f (pick s) xs s
      let r := State.scSettle s.wg.part s.wave.id f (xs.length + 1) a.1.1 a.1.2 a.2
      let s := r.2
      if r.1.all Texel.done then
        (s.unwatch.texelsOut (.ofCode d) r.1).wakeIf (fun v g => v.id == s.wave.id && g.slot == s.frag.slot)
      else State.rewatch { s with frag := { s.frag with wait := some (.texels d grant f r.1) } } (texelLines r.1)
  | _ => s

/-- A lane parked on an entry has been woken: its watch says so, or it has no watch of its own (R203, R331). -/
def State.texelWoken (s : State) (x : Texel) : Bool :=
  match x.at_ with
  | .parked tag =>
    let mine := s.watches.filter (fun w => w.wave == s.wave.id && w.slot == s.frag.slot && w.line == heapPlace tag / 128)
    mine.isEmpty || mine.any (·.woken)
  | _ => false

/-- A woken lane looks its key up again (R331, R337, R487). -/
def execScRelookup (wave slot : Nat) (s : State) : Host.Outcome State Fault Refusal :=
  match s.focusOn wave slot with
  | some t => .next (t.scRetry State.texelWoken)
  | none => .next s

/-- A held lookup is tried again (R331). -/
def execScLookupRetry (wave slot : Nat) (s : State) : Host.Outcome State Fault Refusal :=
  match s.focusOn wave slot with
  | some t => .next (t.scRetry (fun _ x => x.at_ == .held))
  | none => .next s

/-- Resets a partition's tags and empties its shade queues (R327); the lanes parked on its entries look up again. -/
def State.scReset (s : State) (part : Nat) : State :=
  let mine (slice : Nat) : Bool := decide (part ≤ slice) && decide (slice < part + s.partN part)
  let gone := s.scTags.filter (fun e => mine (e.1 / 2 ^ 19) && e.2.st == 1)
  let s := gone.foldl (fun s e => s.wakeLine (heapPlace e.1 / 128)) s
  { s with
    scTags := s.scTags.filter (fun e => !mine (e.1 / 2 ^ 19))
    jobs := s.jobs.filter (fun j => !mine j.slice) }

/-- A write of SC_CTL (R327): EN from 0 to 1 resets the cache. -/
def execScCtlWrite (part : Nat) (val : Word) (s : State) : Host.Outcome State Fault Refusal :=
  let t := if s.openBar then s.setPreg part 0x000 (val.toNat &&& 0xFF01) else s
  .next (if !s.scEn part && t.scEn part then t.scReset part else t)

end Sys2Proof.Machine
end

