-- ==== Sys2Proof/Machine/Fills.lean ====
section
/-!
DEFINITION. The end of a workgroup (spec/02_execution_model.md R48, R50), shade batches and fill workgroups
(spec/13_shading.md R334, R335, spec/24_faults_engines.md R484, R485).
-/

namespace Sys2Proof.Machine

/-- The filler context of a partition (R327). -/
def State.filler (s : State) (part : Nat) : Who :=
  ctxWho part (field (s.preg part 0x014) 8 6) (s.preg part 0x014 % 256)

/-- Abandons a job if its entry is still in flight with its version (R484): the entry goes to state 0, its watchers
wake, the code is recorded and SC_STAT counts. -/
def State.abandonJob (s : State) (part code : Nat) (j : Job) : State :=
  match s.findTag part j.key with
  | none => s
  | some t =>
    let tag := s.scTag t
    if tag.st = 1 ∧ tag.ver = j.ver then
      let s := (s.setScTag t { tag with st := 0 }).wakeLine (heapPlace t / 128)
      let n := s.preg part 0x030 % 65536
      let s := (s.setPreg part 0x030 (setField (s.preg part 0x030) 0 16 (min (n + 1) 0xFFFF))).scLast part code
      let w := s.filler part
      s.report w (s.ctxGrant w) { source := 4, code := code, vf := w.vf, ctx := w.ctx, part := part }
    else s

/-- The jobs of a job block are checked, and the block is free again (R334, R484). -/
def State.freeJobs (s : State) (part code b : Nat) : State :=
  let js := SMap.get [] b s.jobBlocks
  let s := js.foldl (fun s j => s.abandonJob part code j) s
  { s with jobBlocks := SMap.set [] b [] s.jobBlocks }

/-- Everything a workgroup issued has been performed, and its lanes have exited (R48). -/
def State.groupDone (s : State) (g : Workgroup) : Bool :=
  !g.finished && !g.frozen && !s.boxes.any (fun b => b.wave.wgId == g.id) && !s.cmds.any (fun c => c.wg == g.id) &&
  !s.held.any (fun h => (s.heldGroup h).any (fun x => x.id == g.id)) &&
  !s.pendLoads.any (fun p => p.atomic && decide (g.firstWave ≤ p.wave) && decide (p.wave < g.firstWave + ceilDiv g.lanes 32)) &&
  !s.confined g

/-- A workgroup leaves: at once, or with the last member of its tuple, those that are swapped out included (R50); its local memory
keeps what it holds (R401). -/
def State.leaveGroup (s : State) (g : Workgroup) : State :=
  let s := s.modGroup g.id (fun x => { x with finished := true })
  let ids := if g.tuple = [] then [g.id] else g.tuple
  if s.wgs.all (fun x => !ids.contains x.id || x.finished) && !s.saved.any (fun x => ids.contains x.wg.id) then
    { s with
      wgs := s.wgs.filter (fun x => !ids.contains x.id), goneWgs := s.wgs.filter (fun x => ids.contains x.id) ++ s.goneWgs }
  else s

/-- The engine commands of a workgroup. -/
def State.endedCmds (s : State) (wg : Nat) : List Nat := (s.doneCmds.filter (fun c => c.wg == wg)).map (·.cmd)

/-- A completion record is a completion write of the engine commands of the workgroup that it counts (R110, R112), at the
timestamp of its line. -/
def State.recordCmds (s : State) (g : Workgroup) (done : Nat) : State :=
  let place := (s.placeOf (s.ctxPa g.who done)).getD 0
  let s := s.noteEnd (place / 128) (s.homeWts place) (s.endedCmds g.id)
  { s with doneCmds := s.doneCmds.filter (fun c => c.wg != g.id) }

/-- A workgroup completes with its statuses (R48, R112, R335, R420): its launch's record is updated, after every access that
it made, a fill workgroup's job block is checked and freed, and its resources are released. -/
def State.endGroup (s : State) (g : Workgroup) (or_ max_ nz : Nat) (faulted : Bool) : State :=
  let s := match s.launch g.launch with
    | some l =>
      let cmds := s.endedCmds g.id
      (s.orderV g.core (fun e => cmds.contains e.cmd)).countGroups l g.who 1 or_ max_ nz faulted
        (fun s => s.recordCmds g l.done.toNat)
    | none => s
  let s := match g.job with
    | some b => s.freeJobs g.part 0x60 b
    | none => s
  s.leaveGroup g

/-- A workgroup completes (R48). -/
def execWorkgroupComplete (wg : Nat) (s : State) : Host.Outcome State Fault Refusal :=
  let s := s.unfocus
  match s.wgs.find? (fun g => g.id == wg) with
  | some g => .next (if s.groupDone g then s.endGroup g g.statOr g.statMax g.nzLanes false else s)
  | none => .next s

/-- The 16 bytes of a job record (R334 Table 6). -/
def Job.bytes (j : Job) : List Byte :=
  bytesOf 8 (j.key % 2 ^ 56) ++ bytesOf 2 j.ver ++ bytesOf 1 j.cls ++ bytesOf 1 0 ++ bytesOf 4 j.frame

/-- The jobs of a class in a slice's shade queue, oldest first. -/
def State.classJobs (s : State) (slice cls : Nat) : List Job := s.jobs.filter (fun j => j.slice == slice && j.cls == cls)

/-- A class batch is ready (R334): 16 jobs, or its oldest job has waited 16·BWAIT ACLK. -/
def State.batchReady (s : State) (part : Nat) (js : List Job) : Bool :=
  match js with
  | [] => false
  | j :: _ => decide (16 ≤ js.length) || decide (j.at_ + 16 * field (s.preg part 0x000) 8 8 ≤ s.cyc j.slice)

/-- The class whose batch goes out next: of the ready ones, the one with the oldest job (R334). -/
def State.nextClass (s : State) (part slice : Nat) : Option Nat :=
  (((s.jobs.filter (fun j => j.slice == slice)).map (·.cls)).eraseDups).find?
    (fun c => s.batchReady part (s.classJobs slice c))

/-- Removes the first `n` jobs of a class from a slice's queue. -/
def dropJobs (slice cls : Nat) : Nat → List Job → List Job
  | _, [] => []
  | 0, js => js
  | n + 1, j :: js =>
    if j.slice = slice ∧ j.cls = cls then dropJobs slice cls n js else j :: dropJobs slice cls (n + 1) js

/-- The address of a class's entry in the material table (R335). -/
def State.classEntry (s : State) (w : Who) (cls : Nat) : Nat :=
  s.preg w.part 0x018 / 8 * 8 + s.preg w.part 0x01C % 2 ^ 24 * 2 ^ 32 + 8 * cls

/-- The launch RCB that the material table names for a class (R335); none where the entry is zero or cannot be read, a
failure where a table of its walk is beyond correction (R422). -/
def State.classLaunch (s : State) (w : Who) (cls : Nat) : Except TakeFail (Option Nat) :=
  match s.ctxRead w 5 (s.classEntry w cls) 8 .read with
  | .ok (bs, false) =>
    let va := natOfBytes bs
    .ok (if va = 0 ∨ va % 256 ≠ 0 ∨ 2 ^ 56 ≤ va then none else some va)
  | .ok _ => .ok none
  | .error e => match e.ue with
    | some u => .error (.ue u.1 u.2.1 u.2.2)
    | none => .ok none

/-- A key slot holds an access that a batch of a class makes (R460). -/
def State.batchHeld (s : State) (w : Who) (b cls : Nat) : Bool :=
  s.ctxHeld w (s.jobBlockAt w.part b) 256 .write || s.ctxHeld w (s.classEntry w cls) 8 .read ||
    match s.classLaunch w cls with
    | .ok (some va) => s.launchHeld w va
    | _ => false

/-- Posts a fill launch of job block `b` (R335, R439, R484). -/
def State.postFill (s : State) (w : Who) (b va : Nat) : State :=
  let l : Launch := { id := s.nextId, addr := BitVec.ofNat 56 va, vf := w.vf, ctx := w.ctx, part := w.part, kind := 4,
                      releasedAt := s.cyc w.part, job := some b, vseen := s.oseq }
  let s := s.sawLaunch w va
  match s.takeLaunch w l va with
  | .ok (_, .ok l) => { s with launches := s.launches ++ [l], nextId := s.nextId + 1 }
  | .ok (l, .error (.code k)) => (s.failLaunch l (some k)).freeJobs w.part 0x61 b
  | .ok (_, .error (.ue lv code a)) => (s.confineUe w lv code a).freeJobs w.part 0x61 b
  | .error (.ue lv code a) => (s.confineUe w lv code a).freeJobs w.part 0x61 b
  | _ => s.freeJobs w.part 0x61 b

/-- The posting of a fill launch orders the batch's own path-o writes, from order `n` on, before every access of the
workgroup it starts (R112, R334, R335). -/
def State.jobsSeen (s : State) (n : Nat) : State :=
  let sel (e : Older) : Bool := e.path == 5 && decide (n ≤ e.seq)
  [0, 1, 2, 3, 4, 6].foldl (fun s q => s.markSeen sel q none) s

/-- A class batch goes out (R334, R335, R484): its jobs are written into the lowest free job block, and its class's
launch is posted in the filler context. -/
def execShadeBatchDispatch (slice : Nat) (s : State) : Host.Outcome State Fault Refusal :=
  match s.partOf slice with
  | none => .next s
  | some part =>
    let w := s.filler part
    let block := (List.range 64).find? (fun i => (SMap.get [] (slice * 64 + i) s.jobBlocks).isEmpty)
    match s.nextClass part slice, block with
    | some cls, some i =>
      if !s.scEn part || s.confs.any (fun d => d.coversCtx part w.vf w.ctx) || s.batchHeld w (slice * 64 + i) cls then .next s
      else
        let b := slice * 64 + i
        let js := (s.classJobs slice cls).take 16
        let s := { s with jobs := dropJobs slice cls 16 s.jobs, jobBlocks := SMap.set [] b js s.jobBlocks }
        match s.ctxPutOn 5 w none (s.jobBlockAt part b) (js.flatMap Job.bytes) with
        | (some _, t) => .next (t.freeJobs part 0x62 b)
        | (none, t) =>
          let s := t.jobsSeen s.oseq
          let u := s.seen w 5 (s.classEntry w cls) 8 .read
          match s.classLaunch w cls with
          | .error (.ue lv code a) => .next ((u.confineUe w lv code a).freeJobs part 0x61 b)
          | .ok (some va) => .next (u.postFill w b va)
          | _ => .next (u.freeJobs part 0x61 b)
    | _, _ => .next s

end Sys2Proof.Machine
end

