-- ==== Sys2Proof/Machine/Curve.lean ====
section
/-!
DEFINITION. The curve P-384 and ECDSA over it, which the spec names for the seal unwrap (spec/15_tenancy.md R376), the
log's checkpoints (R386) and boot (spec/16_host.md R393); their definitions are those of FIPS 186-5 and SP 800-186.
-/

namespace Sys2Proof.Machine

/-- The field's prime, the coefficient b, the base point and its order. -/
def curveP : Nat := 2 ^ 384 - 2 ^ 128 - 2 ^ 96 + 2 ^ 32 - 1
def curveB : Nat :=
  0xB3312FA7E23EE7E4988E056BE3F82D19181D9C6EFE8141120314088F5013875AC656398D8A2ED19D2A85C8EDD3EC2AEF
def curveGx : Nat :=
  0xAA87CA22BE8B05378EB1C71EF320AD746E1D3B628BA79B9859F741E082542A385502F25DBF55296C3A545E3872760AB7
def curveGy : Nat :=
  0x3617DE4A96262C6F5D9E98BF9292DC29F8F41DBD289A147CE9DA3113B5F0B8C00A60B1CE1D7E819D7A431D7C90EA0E5F
def curveN : Nat :=
  0xFFFFFFFFFFFFFFFFFFFFFFFFFFFFFFFFFFFFFFFFFFFFFFFFC7634D81F4372DDF581A0DB248B0A77AECEC196ACCC52973

/-- A point of the curve; none is the identity. -/
abbrev Point := Option (Nat × Nat)

/-- The power `b ^ e` modulo `m`, for an exponent of `n` bits. -/
def powMod (m b : Nat) : Nat → Nat → Nat
  | 0, _ => 1 % m
  | n + 1, e => let h := powMod m (b * b % m) n (e / 2); if e % 2 = 1 then b * h % m else h

/-- The inverse modulo a prime of 384 bits. -/
def invMod (m a : Nat) : Nat := powMod m (a % m) 384 (m - 2)

/-- A pair of coordinates is a point of the curve. -/
def onCurve (x y : Nat) : Bool :=
  decide (x < curveP) && decide (y < curveP) &&
    decide (y * y % curveP = (x * x * x + (curveP - 3) * x + curveB) % curveP)

/-- The sum of two points. -/
def addPoint (p q : Point) : Point :=
  match p, q with
  | none, q => q
  | p, none => p
  | some (x1, y1), some (x2, y2) =>
    if x1 = x2 ∧ (y1 + y2) % curveP = 0 then none
    else
      let l := if x1 = x2 then (3 * x1 * x1 + (curveP - 3)) * invMod curveP (2 * y1) % curveP
        else (y2 + curveP - y1) * invMod curveP (x2 + curveP - x1) % curveP
      let x := (l * l + 2 * curveP - x1 - x2) % curveP
      some (x, (l * (x1 + curveP - x) + curveP - y1) % curveP)

/-- The multiple of a point, for a scalar of `n` bits. -/
def mulPoint : Nat → Nat → Point → Point
  | 0, _, _ => none
  | n + 1, k, p =>
    let h := mulPoint n (k / 2) (addPoint p p)
    if k % 2 = 1 then addPoint p h else h

/-- The multiple of the base point. -/
def mulBase (k : Nat) : Point := mulPoint 384 k (some (curveGx, curveGy))

/-- The ECDSA signature (r, s) of a message under scalar `d` with nonce `k`. -/
def ecdsaSign (d k : Nat) (msg : List Byte) : Nat × Nat :=
  let z := natOfBytesBE (sha384 msg)
  let r := ((mulBase (k % curveN)).getD (0, 0)).1 % curveN
  (r, invMod curveN k * (z + r * d) % curveN)

/-- A signature of a message is valid under a public point. -/
def ecdsaValid (q : Nat × Nat) (msg : List Byte) (r s : Nat) : Bool :=
  let z := natOfBytesBE (sha384 msg)
  let w := invMod curveN s
  let sum := addPoint (mulBase (z * w % curveN)) (mulPoint 384 (r * w % curveN) (some q))
  onCurve q.1 q.2 && decide (0 < r) && decide (r < curveN) && decide (0 < s) && decide (s < curveN) &&
    (match sum with
    | none => false
    | some p => decide (p.1 % curveN = r))

end Sys2Proof.Machine
end

