-- ==== Sys2Proof/Machine/Log.lean ====
section
/-!
DEFINITION. The access log (spec/15_tenancy.md R383 to R386): its entries, the hash chain and its checkpoints.
-/

namespace Sys2Proof.Machine

/-- LOG_BASE has been committed, and entry 0 written with it (R383). -/
def State.logOn (s : State) : Bool := decide (s.logSeq ≠ 0)

/-- LOG_BASE, aligned to 16 MiB (R383). -/
def State.logBase (s : State) : Nat :=
  (s.reg 0x1900).toNat / 2 ^ 24 * 2 ^ 24 + (s.reg 0x1904).toNat % 2 ^ 14 * 2 ^ 32

/-- The entries that `k` more events take: one more where a checkpoint falls among them, which a write of CKPT itself is
(R386). -/
def State.logTakes (s : State) (ckpt : Bool) (k : Nat) : Nat := if 1023 < s.logSeq % 1024 + k ∧ !ckpt then k + 1 else k

/-- The entries that stand in the ring (R384). -/
def State.logUsed (s : State) : Nat := (s.logSeq + 2 ^ 32 - (s.reg 0x190C).toNat) % 2 ^ 32

/-- The ring has room for `k` events (R384). -/
def State.logRoom (s : State) (ckpt : Bool) (k : Nat) : Bool := s.logOn && decide (s.logUsed + s.logTakes ckpt k ≤ 65536)

/-- The 256 bytes of an entry (R385 Table 10). -/
def State.entryBytes (s : State) (event part vf ctx : Nat) (arg : List Byte) : List Byte :=
  bytesOf 8 s.logSeq ++ bytesOf 8 s.us ++ bytesOf 2 event ++ bytesOf 1 part ++ bytesOf 1 vf ++ bytesOf 1 ctx ++
  bytesOf 3 0 ++ (arg ++ List.replicate 232 0).take 232

/-- Writes an entry under key id 0, and carries the chain on: H_0 is 48 zero bytes (R383, R386). One whose location has no
backing is dropped, with its record (R513). -/
def State.putEntry (s : State) (e : List Byte) : State :=
  let h := slice s.logHash 0 48
  let at_ := s.logBase + 256 * (s.logSeq % 65536)
  let s1 := if s.backed at_ then s.physWrite 0 64 at_ e else s.noteLost at_
  State.setReg { s1 with logSeq := s.logSeq + 1, logHash := if s.logSeq = 0 then [] else sha384 (h ++ e) } 0x1908
    (BitVec.ofNat 32 (s.logSeq + 1))

/-- A checkpoint entry (R386): H of the entry before it, and the device's signature. -/
def State.checkpointBytes (s : State) : List Byte :=
  let h := slice s.logHash 0 48
  let sig := ecdsaSign Config.identityScalar (Config.signNonce s.logSeq) (bytesOf 8 s.logSeq ++ bytesOf 8 s.us ++ h)
  s.entryBytes 0x0001 0xFF 0xFF 0xFF (h ++ bytesBE 48 sig.1 ++ bytesBE 48 sig.2)

/-- The checkpoint that stands as each entry whose SEQ mod 1,024 is 1,023 (R386). -/
def State.dueCheckpoint (s : State) : State := if s.logSeq % 1024 = 1023 then s.putEntry s.checkpointBytes else s

/-- The checkpoint that is due, where the ring has room for it (R384, R386). -/
def State.settleLog (s : State) : State := if s.logOn ∧ s.logUsed < 65536 then s.dueCheckpoint else s

/-- Appends an event's entry (R384 to R386). -/
def State.appendEntry (s : State) (event part vf ctx : Nat) (arg : List Byte) : State :=
  let s := s.dueCheckpoint
  s.putEntry (s.entryBytes event part vf ctx arg)

/-- Appends the checkpoint that a write of CKPT asks for (R386). -/
def State.appendCheckpoint (s : State) : State := s.putEntry s.checkpointBytes

end Sys2Proof.Machine
end

