-- ==== Sys2Proof/Machine/Keys.lean ====
section
/-!
DEFINITION. Key slots and the seal unwrap (spec/15_tenancy.md R373 to R376, spec/22_faults_memory.md R460).
-/

namespace Sys2Proof.Machine

/-- What a key slot changes to, as `keyBusy` holds it: a mode plus one, or 8 plus Km for an unwrapped seal. -/
def modeCode (mode : Nat) : Nat := mode + 1
def sealCode (km : Nat) : Nat := km + 8

/-- No unwrap of a point is in progress any more: BUSY of the mailbox clears (R375). -/
def State.unwrapEnds (s : State) : State := s.setReg 0x1890 (BitVec.ofNat 32 (setField (s.reg 0x1890).toNat 30 1 0))

/-- A change of mode of slot `k` begins: BUSY reads 1 until it completes (R373). One that takes the place of an unwrap
ends that unwrap (R375). -/
def State.beginMode (s : State) (k code : Nat) : State :=
  let s := if 8 ≤ SMap.get 0 k s.keyBusy ∧ code < 8 then s.unwrapEnds else s
  State.setReg { s with keyBusy := SMap.set 0 k code s.keyBusy } (0x1000 + 4 * k)
    (BitVec.ofNat 32 (s.keyMode k + 4))

/-- The lines that any L1 or L2 holds under key id `k` are written back and dropped (R373). -/
def State.dropKeyLines (s : State) (k : Nat) : State := s.dropPhys (fun line => line / 2 ^ 39 % 64 == k)

/-- The Steppe lines tagged with key id `k` are zeroed (R373). -/
def State.zeroSteppe (s : State) (k : Nat) : State :=
  let mine (p : Nat) : Bool := decide (stBase ≤ p) && decide (SMap.get 0 (p / 128 * 8) s.tags = k)
  { s with
    mem := s.mem.filter (fun e => !mine e.1)
    poison := s.poison.filter (fun e => !mine (16 * e.1))
    uncorr := s.uncorr.filter (fun e => !mine (16 * e.1))
    older := s.older.filter (fun e => decide (2 ^ 59 ≤ e.place) || !mine e.place) }

/-- A slot's change of mode has completed (R373, R460): lines under the old key are gone, the slot takes its mode and its
keys, BUSY clears, and the accesses that were held are made again. -/
def State.modeDone (s : State) (k code : Nat) : State :=
  let s := (s.dropKeyLines k).zeroSteppe k
  let mode := if 8 ≤ code then 2 else code - 1
  let gen := if 8 ≤ code then 2 * (code - 8) + 1 else if mode = 1 then 2 * s.nextId else 0
  let s := { s with
    keyBusy := SMap.set 0 k 0 s.keyBusy
    keyGen := SMap.set 0 k gen s.keyGen
    nextId := if mode = 1 then s.nextId + 1 else s.nextId }
  let s := s.setReg (0x1000 + 4 * k) (BitVec.ofNat 32 mode)
  let s := if 8 ≤ code then s.unwrapEnds else s
  s.releaseHeld.wakeIf (fun _ f => f.wait == some .again)

/-- Bytes of the unwrap mailbox from offset 0x1800 + `i` on (R375). -/
def State.mailbox (s : State) (i n : Nat) : List Byte :=
  ((List.range (n / 4)).flatMap (fun j => bytesOf 4 (s.reg (0x1800 + i + 4 * j)).toNat))

/-- Q is a point of P-384 other than the identity (R376). -/
def State.unwrapPoint (s : State) : Option (Nat × Nat) :=
  let x := natOfBytesBE (s.mailbox 0 48)
  let y := natOfBytesBE (s.mailbox 48 48)
  if onCurve x y then some (x, y) else none

/-- Km of an unwrap of point `q` (R376). -/
def State.unwrapKey (s : State) (q : Nat × Nat) : Nat :=
  let z := ((mulPoint 384 Config.sealScalar (some q)).getD (0, 0)).1
  let p := (mulBase Config.sealScalar).getD (0, 0)
  natOfBytes (hkdf64 (sha384 (bytesBE 48 p.1 ++ bytesBE 48 p.2)) (bytesBE 48 z)
    ([0x53, 0x31, 0x32, 0x53] ++ s.mailbox 96 48))

/-- The seal unwrap (R376): a point that is none sets BAD; else slot SLOT begins its change to mode 2, and the mailbox is
zeroed. BUSY reads 1 from then on (R375). -/
def State.unwrap (s : State) : State :=
  let box := (s.reg 0x1890).toNat
  let k := box % 64
  match s.unwrapPoint with
  | none => s.setReg 0x1890 (BitVec.ofNat 32 (2 ^ 29 + k))
  | some q =>
    let km := s.unwrapKey q
    let s := (List.range 36).foldl (fun s j => s.setReg (0x1800 + 4 * j) 0) s
    let s := s.setReg 0x1890 (BitVec.ofNat 32 (2 ^ 30 + k))
    if k = 0 then s.setReg 0x1890 0 else s.beginMode k (sealCode km)

end Sys2Proof.Machine
end

