-- ==== Sys2Proof/Machine/Readout.lean ====
section
/-!
DEFINITION. What the registers read as (spec/16_host.md R389 to R396, spec/24_faults_engines.md R494, spec/25 R496), and the
state readback by unit class, index and offset (R397).
-/

namespace Sys2Proof.Machine

/-- Byte `i` of the fused block at root offsets 0x0100 to 0x03FF (R394): the seal point, its certificate, VKHASH and the
identity point. -/
def fused (i : Nat) : Byte :=
  let point (k j : Nat) : Byte :=
    let p := (mulBase k).getD (0, 0)
    (bytesBE 48 p.1 ++ bytesBE 48 p.2).getD j 0
  if i < 0x60 then point Config.sealScalar i
  else if i < 0xC0 then
    let sig := ecdsaSign Config.identityScalar Config.certNonce ((List.range 96).map (point Config.sealScalar))
    (bytesBE 48 sig.1 ++ bytesBE 48 sig.2).getD (i - 0x60) 0
  else if i < 0xF0 then Config.fusedByte i
  else if 0x200 ≤ i ∧ i < 0x260 then point Config.identityScalar (i - 0x200)
  else 0

/-- DEV_HEALTH (R496). -/
def State.devHealth (s : State) : Nat :=
  (s.reg 0x0020).toNat / 2 ^ 31 * 2 ^ 31 +
  (if (List.range 2).any (fun d => decide (0 < SMap.get 0 d s.colSpares)) then 2 ^ 30 else 0) +
  ((List.range 12).filter (fun i => SMap.get false i s.sliceOut)).foldl (fun n i => n + 2 ^ (18 + i)) 0 +
  ((List.range 18).filter (fun j => SMap.get false j s.linkDown)).foldl (fun n j => n + 2 ^ j) 0

/-- EG_TRIP of meter `i` (R494). -/
def State.egTrip (s : State) (i : Nat) : Nat :=
  (s.reg (0x3600 + 4 * i)).toNat % 2 ^ 31 +
  (if s.held.any (fun h => h.meter == i && h.charged) then 2 ^ 31 else 0)

/-- What a register of the root block reads as: fields that start an action or take a secret read zero (R7). -/
def State.readRoot (s : State) (off : Nat) : Nat :=
  if off = 0x0020 then s.devHealth
  else if 0x0100 ≤ off ∧ off < 0x0200 ∨ 0x0300 ≤ off ∧ off < 0x0400 then
    natOfBytes ((List.range 4).map (fun j => fused (off - 0x100 + j)))
  else if 0x1800 ≤ off ∧ off < 0x1890 then 0
  else if 0x3600 ≤ off ∧ off < 0x3600 + 4 * 69 then s.egTrip ((off - 0x3600) / 4)
  else (s.reg off).toNat

/-- What a register of partition block `i` reads as: PEER_WIN's EN reads 0 while LINKS is invalid (R391), and an
L2_VFMASK of a function that the partition does not hold its reset value; of a slice that it does not own there is none
(R90, R390). -/
def State.readPart (s : State) (i off : Nat) : Nat :=
  let v := s.preg i off
  if 0x5000 ≤ off ∧ off < 0x5040 ∧ off % 8 = 0 then
    (if s.peerOk i ((off - 0x5000) / 8) then v else v % 2 ^ 31)
  else if 0x9000 ≤ off ∧ off < 0x9C00 then
    (if s.partN i ≤ (off - 0x9000) / 0x100 then 0 else if s.partBit i 0x4020 (off % 0x100 / 4) then v else 0xFFFF)
  else v

/-- What a register of the device register space reads as (R390). -/
def State.readReg (s : State) (off : Nat) : Nat :=
  if off < 0x100000 then s.readRoot off
  else if off < 0xD00000 then s.readPart (off / 0x100000 - 1) (off % 0x100000)
  else 0

/-- What a register of a doorbell page reads as (R55, R98, R216, R389, R445). -/
def State.readBell (s : State) (f c off : Nat) : Nat :=
  if off = 0x108 ∨ off = 0x10C ∨ off = 0x300 then 0 else s.bell f c off

/-- Word `i` of a number. -/
def w32 (n i : Nat) : Nat := n / 2 ^ (32 * i) % 2 ^ 32

/-- What the array of a storage place holds of a sector (R83, R85, R89): HBM4E and LPDDR6 what L2 has not written back to
them; the carve-out the memory-side cache's lines, and of an index with V = 0 free bytes (log entry 99). -/
def State.arrayStored (s : State) (sec : Nat) : Stored :=
  let p := 16 * sec
  let sl := placeSlice p
  let carve := s.mscShape sl
  if inTier p then s.tierStored sec
  else if p < lpBase ∧ carve.2 ≤ p ∧ p < carve.2 + 2048 * carve.1 then
    let index := (p - carve.2) / 2048
    let m := s.mscOf sl index
    if m.v then s.belowStored (mscFirst sl index carve.1 m.tag + p % 2048 / 16)
    else { bytes := (List.range 16).map (fun i => Config.freeByte s.free (p + i)) }
  else s.belowStored sec

/-- The bytes of a storage place as its array holds them: ciphertext under a key (R87). -/
def State.storedBytes (s : State) (p n : Nat) : List Byte :=
  (List.range n).map (fun i =>
    let sec := (p + i) / 16
    let x := s.arrayStored sec
    if s.scrubPending (p + i) then 0
    else (if stBase ≤ p ∨ x.tag = 0 then x.bytes else recipher 1 0 x.tag (x.loc - 1) (sec % 8) x.bytes).getD ((p + i) % 16) 0)

/-- The first index of the waves that hold no position: those in their save slots, and those of images (R66, R69). -/
def firstSaved : Nat := 12288

/-- The wave of index 64·core + 16·port + position, or one that holds no position, with its fragments. -/
def State.waveAt (s : State) (i : Nat) : Option WaveBox :=
  if i < firstSaved then
    s.boxes.find? (fun b => b.wave.core == i / 64 && b.wave.port == i / 16 % 4 && b.wave.idx == i % 16 && !b.wave.away)
  else (s.boxes.filter (·.wave.away) ++ s.images.flatMap (·.boxes) ++ s.gone)[i - firstSaved]?

/-- What is kept of workgroups that are not resident: those that were pre-empted and those that were captured (R69, R423). -/
def State.keptGroups (s : State) : List SavedWg := s.saved ++ s.images.filterMap (·.kept)

/-- The workgroups whose state the device holds: resident, kept, or ended with their places not taken again (R69, R401, R423). -/
def State.allGroups (s : State) : List Workgroup := s.groups ++ s.keptGroups.map (·.wg) ++ s.goneWgs

/-- A workgroup, resident or not. -/
def State.anyGroup (s : State) (id : Nat) : Option Workgroup := s.allGroups.find? (fun g => g.id == id)

/-- A context whose state is sealed (R377 to R379): its grant is in force with a slot in mode 2, or a workgroup of it holds
such a grant. -/
def State.ctxSealed (s : State) (f c : Nat) : Option (Nat × Nat) :=
  let g := ((s.partOfVf f).map (fun i => s.preg i (0x20000 + 4 * (256 * f + c)))).getD 0
  if bitAt g 31 && decide (s.keyMode (g % 64) = 2) ||
      s.allGroups.any (fun g => g.vf == f && g.ctx == c && (s.grantOf g).isSome)
    then some (f, c) else none

/-- What stands under a mode-2 id is a sealed context's (R379): that of the workgroup which holds the slot, or of no
context that is known. -/
def State.keySealed (s : State) (k : Nat) : Option (Nat × Nat) :=
  if s.keyMode k ≠ 2 then none
  else match s.allGroups.find? (fun g => g.sealed == some k) with
    | some g => some (g.vf, g.ctx)
    | none => some (0xFF, 0xFF)

/-- The sealed context of a wave, by its number. -/
def State.waveSealed (s : State) (id : Nat) : Option (Nat × Nat) :=
  match ((s.boxes ++ s.images.flatMap (·.boxes) ++ s.gone).find? (fun b => b.wave.id == id)).bind (fun b => s.anyGroup b.wave.wgId) with
  | some g => s.ctxSealed g.vf g.ctx
  | none => none

/-- A predicate word: low and high bit of each lane's value. -/
def predWord (w : Wave) (p half : Nat) : Nat :=
  (List.range 32).foldl (fun n l =>
    let v := match SMap.get .f (32 * p + l) w.preds with
      | .f => 0
      | .t => 1
      | .u => 2
    n + v / 2 ^ half % 2 * 2 ^ l) 0

/-- The 32 marks from `k` on of a map, as a word. -/
def markWord (m : SMap Bool) (k : Nat) : Nat := (List.range 32).foldl (fun n l => n + (if SMap.get false (k + l) m then 2 ^ l else 0)) 0

/-- The two words of a 64-bit value. -/
def wide (n : Nat) : List Nat := [w32 n 0, w32 n 1]

/-- The four words of a lease. -/
def Lease.words (l : Lease) : List Nat := wide l.wts ++ wide l.rts

/-- The first `k` words of a list, with zeros after its end. -/
def padTo (k : Nat) (l : List Nat) : List Nat := (l ++ List.replicate k 0).take k

/-- Bytes as words. -/
def byteWords (bs : List Byte) : List Nat := (List.range (ceilDiv bs.length 4)).map (fun i => natOfBytes ((bs.drop (4 * i)).take 4))

/-- A status as a number. -/
def statusCode : Status → Nat
  | .ready => 0
  | .blocked => 1
  | .pendingReady => 2
  | .waiting => 3
  | .evicted => 4

/-- What the next unit has to be, as a number. -/
def Hold.code : Hold → Nat
  | .free => 0
  | .fpt => 1
  | .fptOrBr => 2
  | .atTarget => 3
  | .fptIfNext => 4
  | .fptUnheld => 5

/-- The words of a fragment's entry in the fragment table. -/
def fragWords (f : Frag) : List Nat :=
  wide f.pc.toNat ++ [f.mask.toNat, f.mr.toNat] ++ wide f.fbPc.toNat ++
  [(f.fbEntry.map (· + 1)).getD 0, statusCode f.status, (if f.wait.isSome then 1 else 0), f.defers.length] ++
  wide (f.armed.getD 0).toNat ++ [f.chain.length] ++ wide f.lastIssue ++ [f.issued] ++ padTo 8 f.chain ++ wide f.since ++
  wide f.retested ++ wide f.readyTime ++ [(if f.aged then 1 else 0)] ++ wide f.activeSince ++ wide f.unit.toNat ++
  wide f.resume.toNat ++ [(f.recipe.map (· + 1)).getD 0, f.hold.code]

/-- The words of a deferral entry: its token, done mask and resumption, and its pending sides. -/
def Deferral.words (d : Deferral) : List Nat :=
  [(if d.token.isSome then 1 else 0)] ++ wide (d.token.getD 0).toNat ++ [d.done.toNat, d.pending.length] ++ wide d.resume.toNat ++
  [0] ++ d.pending.flatMap (fun x => [x.mask.toNat] ++ wide x.pc.toNat)

/-- The words of a lane's cell of a wait. -/
def Cell.words (c : Cell) : List Nat := [c.lane] ++ wide c.addr.toNat ++ [c.val.toNat]

/-- The words of a lane's texel in an scq. -/
def Texel.words (t : Texel) : List Nat :=
  [t.lane] ++ wide t.key ++ [t.sel, (if t.seen then 1 else 0)] ++ (match t.at_ with
    | .held => [0, 0, 0]
    | .parked tag => [1, tag, 0]
    | .got v p => [2, v, if p then 1 else 0])

/-- The words of a fragment's entry in the wait table: what it waits for (R62). -/
def Wait.words : Wait → List Nat
  | .rejoin k => [1, k]
  | .bar n ph => [2, n, ph]
  | .cells cs => [3, cs.length] ++ cs.flatMap Cell.words
  | .counters c cs => [4, cs.length, c] ++ cs.flatMap Cell.words
  | .future d cs => [5, cs.length, d] ++ cs.flatMap Cell.words
  | .batch n => [6, n % 256]
  | .oldest n => [16, n % 256]
  | .tbar a ph => [7, a, if ph then 1 else 0]
  | .sleep t => [8] ++ wide t
  | .fence p q h => [9, p, q, if h then 1 else 0]
  | .loads ids => [10, ids.length] ++ ids
  | .texels d g fr ts => [11, ts.length, d, g, fr] ++ ts.flatMap Texel.words
  | .swap n => [12, n]
  | .again => [13]
  | .pri n => [14, n]
  | .halt c => [15, c]

/-- The words of a token record. -/
def Token.words (t : Token) : List Nat :=
  [1] ++ wide t.addr.toNat ++ [t.expected.toNat, t.arrived.toNat, t.parent] ++ wide (t.deadline.getD 0)

/-- The words of what a wave holds once. -/
def waveWords (w : Wave) : List Nat :=
  [w.lfsr.toNat, w.present.toNat, w.live.toNat, w.batch % 256, w.tickHi.toNat, w.ptsHi.toNat, w.index] ++
  (match w.hx with
    | none => List.replicate 16 0
    | some h => [1, h.cause, h.swcode] ++ wide h.pc.toNat ++ [h.exec.toNat, h.lanes.toNat] ++ wide h.addr.toNat ++
        [h.aux.toNat, h.mr.toNat, h.slot, h.version, h.hold.code] ++ wide ((h.breachAt.map (·.toNat + 1)).getD 0)) ++
  [(if w.away then 1 else 0), (w.wake.map (· + 1)).getD 0] ++ wide ((w.parkSince.map (· + 1)).getD 0) ++ [w.nregs]

/-- The words of a workgroup: its barriers, its free-slot counter, and what its kernel and its launch gave it. -/
def groupWord (g : Workgroup) (i : Nat) : Nat :=
  if i < 128 then
    let b := SMap.get {} (i / 32) g.bars
    (if i % 32 = 0 then b.phase else (SMap.get 0 (i % 32 - 1) b.arrived).toNat)
  else ([g.fsc, (if g.fscPois then 1 else 0), g.localBytes, g.statOr, g.statMax, g.nzLanes] ++ wide g.launchAddr.toNat ++
    [g.part, g.vf, g.ctx, g.core, g.wx, g.wy, g.wz, g.lanes] ++ wide g.kbase.toNat ++
    [g.version, g.vregsDecl, g.priv, g.cluster, g.clusterBase, g.accum, g.tokens, g.fbOff, g.fbCount, g.rcpOff, g.rcpLen,
     g.entryOff] ++ wide g.args.toNat ++ [g.tuplePos, g.tuple.length, g.budget.rect, g.budget.scratch, g.budget.accum,
     g.budget.copyq, g.budget.lqdepth, g.budget.prio, g.budget.ticks, (g.sealed.map (· + 1)).getD 0, (g.job.map (· + 1)).getD 0,
     (if g.frozen then 1 else 0), (if g.finished then 1 else 0)] ++ wide g.startedAt ++
    [g.frees.length, g.swaps.length] ++ padTo 16 (g.frees.flatMap (fun x => [x.1, x.2])) ++
    padTo 16 (g.swaps.flatMap (fun x => [x.1, x.2]))).getD (i - 128) 0

/-- What a wave's units of the register-file kind read as, by class: vector registers and their poison, scalar registers,
predicates, generators, what a wave holds once, the fragment, deferral and token tables, the private store, the workgroup,
its local memory and accumulators; the wait table, the generators' shadows, and the poison and leases of these memories. -/
def State.readWave (s : State) (cls off : Nat) (b : WaveBox) : Nat :=
  let w := b.wave
  let g := (s.anyGroup w.wgId).getD {}
  let i := off / 4
  let frag (k : Nat) : Frag := (b.frags.find? (fun f => f.slot == i / k)).getD {}
  match cls with
  | 3 => (SMap.get 0 i w.vregs).toNat
  | 4 => markWord w.vpois (32 * i)
  | 5 => (SMap.get 0 i w.xregs).toNat
  | 6 => predWord w (i / 2) (i % 2)
  | 7 => (SMap.get 0 i w.gens).toNat
  | 8 => (waveWords w).getD i 0
  | 9 => (fragWords (frag 64)).getD (i % 64) 0
  | 10 => (((frag 1024).defers[i % 1024 / 128]?).map (fun d => d.words.getD (i % 128) 0)).getD 0
  | 11 => ((w.tokens.find? (fun t => t.1 == i / 8)).map (fun t => t.2.words.getD (i % 8) 0)).getD 0
  | 12 => natOfBytes (SMap.getList 0 off 4 w.priv)
  | 13 => groupWord g i
  | 14 => natOfBytes (SMap.getList 0 off 4 g.lmem)
  | 15 => (SMap.get 0 i g.accs).toNat
  | 29 => ((frag 512).wait.map (fun x => (padTo 256 x.words ++ [(frag 512).left.length] ++ (frag 512).left.flatMap wide).getD (i % 512) 0)).getD 0
  | 30 => (SMap.get 0 (i % 32) (frag 32).shadow).toNat
  | 31 => markWord w.privPois (32 * i)
  | 32 => (SMap.get {} (i / 4) w.pleases).words.getD (i % 4) 0
  | 33 => markWord g.lpois (32 * i)
  | 34 => (SMap.get {} (i / 4) g.lleases).words.getD (i % 4) 0
  | 35 => markWord g.accPois (32 * i)
  | _ => 0

/-- The 128 bits of a shading-cache tag (R326 Table 1). -/
def ScTag.bits (t : ScTag) (hidx : Nat) : Nat :=
  t.key % 2 ^ 56 + t.act % 2 ^ 12 * 2 ^ 56 + t.frame % 2 ^ 20 * 2 ^ 68 + t.ver % 2 ^ 16 * 2 ^ 88 + hidx % 2 ^ 19 * 2 ^ 104 +
  (if t.doom then 2 ^ 124 else 0) + (if t.ref then 2 ^ 125 else 0) + t.st % 4 * 2 ^ 126

/-- The metadata of a line of a memory-side cache sector (R84 Table 4). -/
def MscSector.bits (m : MscSector) (line : Nat) : Nat :=
  m.tag % 2 ^ 7 + (if bitAt m.dirty line then 2 ^ 14 else 0) + (if m.v then 2 ^ 15 else 0)

/-- The words of a way of an L2 set: the line, its lease, the sectors valid and dirty, its function and its recency. -/
def L2Line.words (l : L2Line) : List Nat := wide l.line ++ l.lease.words ++ [l.valid + 2 ^ 8 * l.dirty + 2 ^ 16 * l.vf + 2 ^ 31, l.stamp]

/-- The words of a copy in an L1: the line, its lease, the sectors valid and poisoned, and its grant. -/
def L1Copy.words (c : L1Copy) : List Nat := wide c.line ++ wide c.wts ++ wide c.rts ++ [c.sectors + 2 ^ 8 * c.pois, w32 c.grant 0]

/-- The words of an entry of the future wait table. -/
def Watch.words (w : Watch) : List Nat := [w32 w.wave 0, w.slot + (if w.woken then 2 ^ 31 else 0)] ++ wide w.line

/-- The words of a translation. -/
def TlbEntry.words (t : TlbEntry) : List Nat :=
  [t.vf, t.ctx] ++ wide t.base ++ wide t.size ++ wide t.pa ++ [t.key, (if t.w then 1 else 0), (if t.x then 1 else 0), t.part] ++
  wide t.page ++ wide t.span

/-- The number of an engine command's kind. -/
def CmdKind.code : CmdKind → Nat
  | .cpy => 0 | .cpyCol => 1 | .cpyMc => 2 | .cpyThen => 3 | .migrate => 4 | .mma => 5 | .mmaB => 6 | .mmat => 7
  | .accZero => 8 | .rast => 9 | .ray => 10 | .qpost => 11

/-- The number of how far a command has come. -/
def CmdPhase.code : CmdPhase → Nat
  | .posted => 0 | .guarded => 1 | .slotless => 2 | .running => 3 | .landed => 4 | .done => 5

/-- The words of an engine command: what its queue holds, its descriptor and follow-on block, its operands, its events and
its partial results. -/
def Command.words (c : Command) : List Nat :=
  padTo 32 ([c.id, c.kind.code, c.phase.code, c.engine, c.wg, c.wave, c.batch, c.part, c.vf, c.ctx, c.core] ++ wide c.pc.toNat ++
    wide c.launch.toNat ++ [c.progress, c.total, c.retries, c.wpos, c.windex, c.frag] ++ wide c.postedAt ++
    [c.entered, (c.broken.map (· + 1)).getD 0, c.args.length, c.acc.length]) ++
  padTo 64 (byteWords c.desc) ++ padTo 32 (byteWords c.follow) ++ padTo 32 (c.args.flatMap wide) ++
  padTo 32 (c.events.flatMap (fun e => [e.1, e.2])) ++ c.acc

/-- The words of a bank attention unit's scan. -/
def BauScan.words (x : BauScan) : List Nat :=
  [x.next, x.units, x.tri.m, x.tri.s, (if x.tri.nonfin then 1 else 0), (if x.tri.scov then 1 else 0), (if x.tri.ovf then 1 else 0),
   x.tri.dc, x.tri.nrows, x.prevNext, x.prevUnits, x.aborts, (if x.rescan then 1 else 0)] ++ wide x.ends ++ [0] ++ x.tri.acc

/-- The words of a shading job. -/
def Job.words (j : Job) : List Nat := [j.slice] ++ wide j.key ++ [j.ver, j.cls, j.frame] ++ wide j.at_

/-- The words of a launch's dispatch progress (R52, R59). -/
def Launch.words (l : Launch) : List Nat :=
  [l.id] ++ wide l.addr.toNat ++ [l.vf, l.ctx, l.part, l.kind] ++ wide l.parent.toNat ++ [l.fromCore, l.next, l.total, l.complete] ++
  wide l.releasedAt ++ [l.ageStep, (if l.faulted then 1 else 0), (if l.closed then 1 else 0), (if l.fdom then 1 else 0), l.entry,
   l.lanes, l.size, l.stagger, l.budget.rect, l.budget.scratch, l.budget.accum, l.budget.copyq, l.budget.lqdepth, l.budget.prio,
   l.budget.ticks, l.gx, l.gy] ++ wide l.done.toNat ++ wide l.kbase.toNat ++ wide l.args.toNat ++
  [l.kernel.version, l.kernel.vregs, l.kernel.accum, l.kernel.priv, l.kernel.tokens, l.kernel.localBytes, l.kernel.cluster, l.kernel.fbOff,
   l.kernel.fbCount, l.kernel.rcpOff, l.kernel.rcpLen, l.kernel.entryOff] ++ (List.range 12).flatMap (fun i => wide (SMap.get 0 i l.starts))

/-- The words of a child launch that is posted and not taken (R58). -/
def Pending.words (p : Pending) : List Nat :=
  [p.id, p.core, p.entry] ++ wide p.child.toNat ++ wide p.parent.toNat ++ [p.vf, p.ctx, p.part, p.fromCore] ++ wide p.postedAt ++ [p.ageStep]

/-- The words of a sector that waits at an egress meter. -/
def Held.words (h : Held) : List Nat :=
  [h.id, h.meter] ++ wide h.addr ++ [(if h.read then 1 else 0), h.port, (if h.charged then 1 else 0)] ++ wide h.since ++ [h.op, (if h.pois then 1 else 0), h.window] ++
  padTo 4 (byteWords h.bytes)

/-- The words of a confinement in progress. -/
def Conf.words (c : Conf) : List Nat :=
  [c.id, c.level, c.part, c.vf, c.ctx, c.causes.length, (match c.phase with
    | .frozen => 0
    | .quiet => 1
    | .captured => 2), c.waiting.length] ++ padTo 8 c.wgs ++ [c.resets.length] ++ padTo 15 (c.resets.flatMap (fun r => [r.1, r.2]))

/-- The words of a load or an atomic whose data has not arrived. -/
def PendLoad.words (p : PendLoad) : List Nat :=
  [p.id, p.wave, p.slot, p.dest, p.regs, p.bits, (if p.sgn then 1 else 0), (if p.missed then 1 else 0), (if p.atomic then 1 else 0),
   p.behind.length, p.items.length, p.got.length] ++ p.items.flatMap (fun x => [x.1] ++ wide x.2) ++
  p.got.flatMap (fun x => [x.1] ++ (List.range 4).map (w32 x.2.1) ++ [if x.2.2 then 1 else 0])

/-- The words of what waits at a memory-side cache index, and of the errors there (R86, R455). -/
def MscSector.waits (m : MscSector) : List Nat :=
  [(m.filling.map (· + 1)).getD 0, m.queue.length, m.lost, m.dLost] ++ (List.range 4).map (w32 m.bad) ++
  m.queue.flatMap (fun q => wide q.1 ++ [q.2.1, (q.2.2.map (·.toNat + 1)).getD 0])

/-- The words of an access that is held, of the S12's own and of a link (R118, R460). -/
def HeldWrite.words (h : HeldWrite) : List Nat :=
  [h.path, h.part, h.vf, h.ctx, (h.grant.map (· + 1)).getD 0] ++ wide h.va ++ [h.bytes.length] ++ byteWords h.bytes

def heldInWords (h : Source × Nat × Nat × Option (List Byte)) : List Nat :=
  [match h.1 with
    | .host f => f
    | .link j => 2 ^ 16 + j] ++ wide h.2.1 ++ [h.2.2.1] ++ byteWords (h.2.2.2.getD [])

/-- Word `i` of records of `k` words, with the sealed context that the record belongs to. -/
def recWord (k i : Nat) (rs : List (List Nat × Option (Nat × Nat))) : Nat × Option (Nat × Nat) :=
  match rs[i / k]? with
  | some r => (r.1.getD (i % k) 0, r.2)
  | none => (0, none)

/-- The entries of a map as records: key and value. -/
def mapWords (m : SMap Nat) : List (List Nat × Option (Nat × Nat)) := m.map (fun e => (wide e.1 ++ wide e.2, none))

/-- The workgroup whose region of a cluster bank holds a byte of it, and its sealed context (R17, R76). -/
def State.bankSealed (s : State) (index off : Nat) : Option (Nat × Nat) :=
  match s.groups.find? (fun g => (List.range 4).any (fun j => clusterCore g.core j == index) &&
      decide (g.clusterBase ≤ off) && decide (off < g.clusterBase + g.cluster)) with
  | some g => s.ctxSealed g.vf g.ctx
  | none => none

/-- The sealed context of a command, by its number. -/
def State.cmdSealed (s : State) (id : Nat) : Option (Nat × Nat) :=
  ((s.cmds ++ s.withdrawn).find? (fun c => c.id == id)).bind (fun c => s.ctxSealed c.vf c.ctx)

/-- The sealed context of a partition's shading filler (R335). -/
def State.fillerSealed (s : State) (part : Nat) : Option (Nat × Nat) :=
  s.ctxSealed (field (s.preg part 0x014) 8 6) (s.preg part 0x014 % 256)

/-- A queued shading job as a record. -/
def State.jobRec (s : State) (j : Job) : List Nat × Option (Nat × Nat) := (j.words, s.fillerSealed ((s.partOf j.slice).getD j.slice))

/-- What the units outside the waves read as, by class, with the sealed context whose state it is: the register spaces and
the storage arrays; cluster banks; L1, L2, the logical clocks, tags and metadata; scrubbing, meters, watches; then what
the caches hold, poison, leases, translations, the queues of commands, jobs and launches, the loops and the links. -/
def State.readOther (s : State) (cls index off : Nat) : Nat × Option (Nat × Nat) :=
  let i := off / 4
  let plain (n : Nat) : Nat × Option (Nat × Nat) := (n, none)
  let p := index * 2 ^ 32 + off
  match cls with
  | 0 => plain (s.readReg off)
  | 1 => (s.readBell (index / 256) (index % 256) off, s.ctxSealed (index / 256) (index % 256))
  | 2 => (natOfBytes (s.storedBytes p 4), if stBase ≤ p then s.keySealed (SMap.get 0 (p / 128 * 8) s.tags) else none)
  | 16 => (natOfBytes (SMap.getList 0 (index * 2 ^ 20 + off) 4 s.cmem), s.bankSealed index off)
  | 17 => recWord 8 i ((SMap.get [] index s.l1).map (fun c => (c.words, s.keySealed (c.line / 2 ^ 39 % 64))))
  | 18 =>
    match (s.l2Lines (index * 8192 + i / 128)).find? (fun l => l.way == i / 8 % 16) with
    | some l => (l.words.getD (i % 8) 0, s.keySealed (l.line / 2 ^ 39 % 64))
    | none => plain 0
  | 19 => plain ((wide (s.ptsOf index) ++ wide (s.coreCyc index)).getD i 0)
  | 20 => plain (w32 ((s.scTag (index * 2 ^ 19 + i / 4)).bits (i / 4)) (i % 4))
  | 21 => plain ((SMap.get {} (index * 2 ^ 24 + i / 16) s.msc).bits (i % 16))
  | 22 => plain ((List.range 32).foldl (fun n k => n + (if s.granulePending (index * 2 ^ 15 + 32 * i + k) then 2 ^ k else 0)) 0)
  | 23 => plain (([unsigned 32 (s.tok index)] ++ wide (s.reg64 (0x3000 + 8 * index))).getD i 0)
  | 24 => recWord 4 i (s.watches.map (fun w => (w.words, s.waveSealed w.wave)))
  | 25 => plain (markWord s.bauFailed (index * 1024 + 32 * i))
  | 26 => plain (unsigned 32 (SMap.get 0 (index * 64 + i) s.deficits))
  | 27 => plain ((wide (SMap.get 0 index s.l2E) ++ wide (s.tmax index)).getD i 0)
  | 28 => (((s.halted.find? (fun h => h.1 == 64 * index + i)).map (·.2 + 1)).getD 0, s.waveSealed index)
  | 36 =>
    match (SMap.get [] index s.l1)[off / 128]? with
    | some c => (natOfBytes (slice c.data (off % 128) 4), s.keySealed (c.line / 2 ^ 39 % 64))
    | none => plain 0
  | 37 =>
    match (s.l2Lines (index * 8192 + off / 2048)).find? (fun l => l.way == off / 128 % 16) with
    | some l => (natOfBytes (s.placeBytes (l.line / 2 ^ 39 % 64) (l.place * 128 + off % 128) 4), s.keySealed (l.line / 2 ^ 39 % 64))
    | none => plain 0
  | 38 => recWord 512 i (s.cmds.flatMap (fun c => c.scans.map (fun x => ([c.id, x.1] ++ x.2.words, s.ctxSealed c.vf c.ctx))))
  | 39 => plain ((List.range 32).foldl (fun n k =>
      n + (if (s.arrayStored (index * 2 ^ 28 + 32 * i + k)).pois then 2 ^ k else 0)) 0)
  | 40 => plain (([SMap.get 0 ((stBase / 128 + index * 2 ^ 15 + i / 5) * 8) s.tags] ++
      (SMap.get {} (stBase / 128 + index * 2 ^ 15 + i / 5) s.steppeLeases).words).getD (i % 5) 0)
  | 41 => (markWord s.cpois (index * 2 ^ 16 + 32 * i), s.bankSealed index (512 * i))
  | 42 => ((SMap.get {} (index * 2 ^ 13 + i / 4) s.cleases).words.getD (i % 4) 0, s.bankSealed index (128 * (i / 4)))
  | 43 => (((SMap.get {} index s.frameLeases).words).getD i 0, s.ctxSealed (index / 256) (index % 256))
  | 44 => plain devCfg
  | 45 => recWord 16 i (s.tlb.map (fun t => (t.words, s.ctxSealed t.vf t.ctx)))
  | 46 => recWord 1024 i ((s.cmds ++ s.withdrawn).map (fun c => (c.words, s.ctxSealed c.vf c.ctx)))
  | 47 => ((SMap.get [] index s.matq).getD i 0, s.cmdSealed ((SMap.get [] index s.matq).getD i 0))
  | 48 => recWord 8 i (s.jobs.map s.jobRec)
  | 49 => recWord 8 i ((SMap.get [] index s.jobBlocks).map s.jobRec)
  | 50 => recWord 128 i (s.launches.map (fun l => (l.words, s.ctxSealed l.vf l.ctx)))
  | 51 => recWord 16 i ((s.pending ++ s.listed).map (fun q => (q.words, s.ctxSealed q.vf q.ctx)))
  | 52 => recWord 4 i (s.doneCmds.map (fun d => ([d.cmd, d.wg, d.wave, d.batch], s.waveSealed d.wave)))
  | 53 => plain (w32 (SMap.get 0 (64 * index + i / 2) s.l2Foreign) (i % 2))
  | 54 => recWord 4 i (mapWords s.rowActs)
  | 55 => recWord 4 i (mapWords s.throttled)
  | 56 => recWord 4 i (mapWords s.refreshes)
  | 57 => recWord 256 i (s.sideQ.map (fun e => (wide e.1 ++ e.2.flatMap (fun x => [x.1, x.2]), e.2.findSome? (fun x => s.cmdSealed x.1))))
  | 58 => recWord 16 i (s.held.map (fun h => (h.words,
      if h.charged then some (((s.heldGroup h).map (fun g => (g.vf, g.ctx))).getD (0xFF, 0xFF)) else none)))
  | 59 => plain ((byteWords s.logHash ++ [s.logSeq, s.logPending.length]).getD i 0)
  | 60 => recWord 32 i (s.confs.map (fun c => (c.words, if c.level ≤ 2 then s.ctxSealed c.vf c.ctx else none)))
  | 61 =>
    plain (match i % 8 with
      | 0 => SMap.get 0 index s.laneTaps
      | 1 => SMap.get 0 index s.readEye
      | 2 => (SMap.get [] index s.replays).length
      | 3 => SMap.get 0 index s.linkIds
      | 4 => (SMap.get [] index s.colReplays).length
      | 5 => SMap.get 0 index s.colSpares
      | 6 => SMap.get 0 index s.sliceTime
      | _ => 0)
  | 62 => plain ([s.mhz index, SMap.get 1400 index s.sliceCeil, if SMap.get false index s.sliceHot then 1 else 0,
      if SMap.get false index s.hotStacks then 1 else 0, if SMap.get false index s.sliceOut then 1 else 0].getD i 0)
  | 63 => plain ((wide s.us ++ wide s.wdogStart ++ [s.bootScrub, s.testIr.toNat] ++ [w32 s.rbacc.toNat 0, w32 s.rbacc.toNat 1,
      w32 s.rbacc.toNat 2]).getD i 0)
  | 64 => recWord 8 i (s.pri.map (fun r => ([r.id, r.wave, r.slot, r.cmd, r.code, w32 r.sentAt 0] ++ wide r.page, s.waveSealed r.wave)))
  | 65 => recWord 256 i (s.pendLoads.map (fun l => (l.words, s.waveSealed l.wave)))
  | 66 => (if SMap.get false index s.halts then 1 else 0, s.ctxSealed (index / 256) (index % 256))
  | 67 =>
    match (s.l2Lines (index * 8192 + i / 16)).find? (fun l => l.way == i % 16) with
    | some l => ((List.range 8).foldl (fun n k => n + (if SMap.get false (8 * l.place + k) s.poison then 2 ^ k else 0)) 0,
        s.keySealed (l.line / 2 ^ 39 % 64))
    | none => plain 0
  | 68 => match s.keptGroups[index]? with
    | some x => (natOfBytes (SMap.getList 0 off 4 x.bank), s.ctxSealed x.wg.vf x.wg.ctx)
    | none => plain 0
  | 69 => match s.keptGroups[index]? with
    | some x => (markWord x.bpois (32 * i), s.ctxSealed x.wg.vf x.wg.ctx)
    | none => plain 0
  | 70 => plain ((SMap.get {} index s.msc).waits.getD i 0)
  | 71 => recWord 4 i ((s.alogLast ++ s.alogKey).map (fun e => (wide e.1 ++ wide e.2, s.ctxSealed (e.1 / 256) (e.1 % 256))))
  | 72 => recWord 4 i (mapWords s.doneFlags)
  | 73 => recWord 4 i (mapWords s.keyBusy)
  | 74 => recWord 4 i (s.invs.map (fun v => ([v.1] ++ wide v.2, s.ctxSealed (v.1 / 256) (v.1 % 256))))
  | 75 => recWord 4 i (mapWords s.locks)
  | 76 => recWord 256 i (s.heldOut.map (fun h => (h.words, s.ctxSealed h.vf h.ctx)) ++ s.heldIn.map (fun h => (heldInWords h, none)))
  | 77 => recWord 32 i (s.owed.map (fun r => (byteWords (r.bytes 0 0), s.ctxSealed r.vf r.ctx)))
  | 78 => recWord 8 i (s.extReads.map (fun r => ([r.id, r.meter, match r.result with
      | .waiting => 0
      | .done => 1
      | .aborted => 2, r.bytes.length], none)))
  | 79 => plain ((byteWords s.imageHash ++ [(if s.powered then 1 else 0), (if s.pcieUp then 1 else 0), s.injecting,
      (if s.testBypass then 1 else 0), s.bsr.length]).getD i 0)
  | 80 => plain (SMap.get 0 (index * 64 + i) s.weights)
  | 81 => recWord 8 i (s.ended.map (fun e => (wide e.1 ++ wide e.2.1 ++ wide e.2.2, none)))
  | 82 => recWord 4 i (s.scrubs.map (fun r => ([r.part, r.first, r.count, r.done], none)))
  | 83 => recWord 4 i (s.hostMem.map (fun h => (wide h.1 ++ wide h.2, none)) ++ s.atc.map (fun e => (wide e.1, none)))
  | _ => plain 0

/-- A 32-bit readback (R397), with the sealed context whose state it reports, if any (R379, R398): the spec does not
number the unit classes, and `Config.unitClass` says which of the classes above a code names. -/
def State.readUnit (s : State) (unit index off : Nat) : Word × Option (Nat × Nat) :=
  let cls := Config.unitClass unit
  if 3 ≤ cls ∧ cls ≤ 15 ∨ 29 ≤ cls ∧ cls ≤ 35 then
    match s.waveAt index with
    | none => (0, none)
    | some b => (BitVec.ofNat 32 (s.readWave cls off b), s.waveSealed b.wave.id)
  else
    let r := s.readOther cls index off
    (BitVec.ofNat 32 r.1, r.2)

end Sys2Proof.Machine
end

