-- ==== Sys2Proof/Machine/Tenancy.lean ====
section
/-!
DEFINITION. Writes that the access log records (spec/15_tenancy.md R367 to R369, R372 to R387, R510), egress meters (R380 to
R382, spec/24_faults_engines.md R494, R495), and the state readback of the management and test ports (spec/16_host.md R397
to R399).
-/

namespace Sys2Proof.Machine

/-- A slice of partition block `i` with `n` slices is free of other enabled partitions and in service (R367, R502). -/
def State.sliceFree (s : State) (i n : Nat) : Bool :=
  (List.range 12).all (fun j => !(s.partEn j && j != i && decide (j < i + n) && decide (i < j + s.partN j))) &&
  (List.range 12).all (fun x => !(decide (i ≤ x) && decide (x < i + n) && SMap.get false x s.sliceOut))

/-- PT_CFG after a write (R367, R368). -/
def State.ptCfg (s : State) (i v : Nat) : Nat :=
  let n := field v 8 4
  let ok := [1, 2, 3, 4, 6, 12].contains n && i % n == 0 && s.sliceFree i n &&
    bitAt (s.preg i 0x4054) 31 && bitAt (s.reg 0x0034).toNat 31
  n * 256 + (if bitAt v 31 && ok then 2 ^ 31 else 0)

/-- Bits of an ownership register that other partitions hold (R369). -/
def State.heldElsewhere (s : State) (i off : Nat) : Nat :=
  ((List.range 12).filter (fun j => j != i)).foldl (fun m j => m ||| s.preg j off) 0

/-- An ownership register after a write (R368, R369): CE, SADDLE, KEY or VF. -/
def State.owned (s : State) (i off v : Nat) : Nat :=
  let width := if off = 0x400C then 16 else if off = 0x4010 then 18 else 32
  let own := (v % 2 ^ width) &&& (2 ^ 32 - 1 - s.heldElsewhere i off % 2 ^ 32)
  if off = 0x4018 then own / 2 * 2 else own

/-- A partition register after a write (R368). -/
def State.partAfter (s : State) (i off v : Nat) : Nat :=
  if off = 0x4000 then s.ptCfg i v
  else if off = 0x4004 then field v 16 6 * 2 ^ 16 + v % 64
  else s.owned i off v

/-- A register of function `f` after a write (R372, R510): EN stays 0 while VF_RCBf is not valid. -/
def State.vfAfter (s : State) (i f off v : Nat) : Nat :=
  if off = 0 then (if bitAt v 31 && bitAt (s.preg i (0x6400 + 8 * f + 4)) 31 then 2 ^ 31 else 0)
  else if off = 4 then v / 2 ^ 15 * 2 ^ 15
  else if off = 8 then v % 2 ^ 20
  else 0

/-- A meter register after a write (R380, R381): a ceiling is never raised. -/
def State.meterAfter (s : State) (i off v : Nat) : Nat :=
  let old := (s.reg (0x2000 + 16 * i + off)).toNat
  if off = 0 then v % 2 ^ 16
  else if off = 4 then v % 2 ^ 24
  else if off = 8 then min old (v % 2 ^ 16)
  else if off = 12 then min old (v % 2 ^ 24)
  else old

/-- Where an RCB address register lies, and whether its enable lets it be written (R510). -/
def rcbPlace : RcbReg → Nat
  | .root => 0x0030
  | .part i => blockOff i 0x4050
  | .vf i f => blockOff i (0x6400 + 8 * f)

def State.rcbOpen (s : State) : RcbReg → Bool
  | .root => (List.range 12).all (fun i => !s.partEn i)
  | .part i => !s.partEn i
  | .vf i f => !s.vfEn i f

/-- The value that the half at offset `j` of an RCB address register takes (R510 Table 13). -/
def rcbHalf (j : Nat) (v : Word) : Word := v &&& (if j = 0 then 0xFFFFFF00 else 0x800FFFFF)

/-- Four bytes each of an offset and of the old and new value of a register. -/
def change (off old new : Nat) : List Byte := bytesOf 4 off ++ bytesOf 4 old ++ bytesOf 4 new

/-- A read from outside ends with its bytes, or waits at its port's meter (R379, R382, R398). -/
def State.answer (s : State) (src : Source) (meter : Nat) (bytes : List Byte) (sealed_ : Bool) : State :=
  let q := senderOf src
  let r : ExtRead := { id := s.nextId, src := src, meter := meter, bytes := bytes }
  let n := ceilDiv bytes.length 16
  let s := { s with nextId := s.nextId + 1 }
  if sealed_ then
    let s := (List.range n).foldl (fun s i =>
      if s.mustWait meter q true then
        State.hold s { id := r.id, meter := meter, src := q, addr := 16 * i, read := true, port := meter }
      else s.charge meter) s
    let waits := s.held.any (fun h => h.read && h.id == r.id)
    { s with extReads := { r with result := if waits then ReadEnd.waiting else ReadEnd.done } :: s.extReads }
  else if s.mustWait meter q false then
    State.hold { s with extReads := { r with result := .waiting } :: s.extReads }
      { id := r.id, meter := meter, src := q, addr := 0, read := true, port := meter, charged := false }
  else { s with extReads := r :: s.extReads }

/-- The first slice of a function's partition, as an entry names it (R385). -/
def State.partByte (s : State) (f : Nat) : Nat := if f < 64 then (s.partOfVf f).getD 0xFF else 0xFF

/-- A half of an RCB address register takes a written word, and the entry of a logged one stands before it (R384, R510). -/
def State.putRcbHalf (s : State) (r : RcbReg) (j : Nat) (w : Option Word) : State :=
  match w with
  | none => s
  | some v =>
    let at_ := rcbPlace r + j
    let x := rcbHalf j v
    let s := match r with
      | .root => s
      | .part i => s.appendEntry 0x0010 i 0xFF 0xFF (change (0x4050 + j) (s.reg at_).toNat x.toNat)
      | .vf i f => s.appendEntry 0x0020 i f 0xFF (change (0x6400 + 8 * f + j) (s.reg at_).toNat x.toNat)
    s.setReg at_ x

/-- The reader of a readback port. -/
def portSource : Source := .host 0

/-- What an index of a slice's carve-out held stays at its place, which is an HBM4E location from now on (R511): its dirty lines
have gone to LPDDR6, but for those of an index of which no line decodes (R455). -/
def State.carveLeaves (s : State) (sl index : Nat) : State :=
  let x := s.mscShape sl
  let m := s.mscOf sl index
  let m := if m.lost = 0xFFFF then { m with dirty := 0, dLost := 0, lost := 0, bad := 0 } else m
  let first := mscFirst sl index x.1 m.tag
  let cells := if m.v then (List.range 128).map (fun k => s.belowStored (first + k)) else []
  let s := (s.mscDrop sl index x.1 m).setMsc sl index {}
  (cells.zipIdx).foldl (fun s c => s.putTop ((x.2 + 2048 * index) / 16 + c.2) c.1) s

/-- A partition's locations are about to change their places (R80 to R82, R511): what its slices' caches hold is written back and
dropped under the old ones. The spec does not say so (DESIGN CHOICE, log 108). -/
def State.leavePart (s : State) (i : Nat) : State :=
  let mine (sl : Nat) : Bool := decide (i ≤ sl) && decide (sl < i + s.partN i)
  let s1 := s.dropPhys (fun line => match s.resolve (line * 128 % 2 ^ 46) with
    | .mem p => mine (placeSlice p)
    | _ => false)
  ((s1.msc.map (·.1)).filter (fun k => mine (k / 2 ^ 24))).foldl (fun t k => t.carveLeaves (k / 2 ^ 24) (k % 2 ^ 24)) s1

/-- Firmware sets up the carve-outs of a partition that is enabled: the metadata of every line takes its Reset value (R84). When it
does so the spec does not say (DESIGN CHOICE, log 108). -/
def State.enterPart (s : State) (i : Nat) : State :=
  { s with msc := s.msc.filter (fun e => !(decide (i ≤ e.1 / 2 ^ 24) && decide (e.1 / 2 ^ 24 < i + s.partN i))) }

/-- PT_CFG of a partition changes, with what its caches then do. -/
def State.setPtCfg (s : State) (i new : Nat) : State :=
  if s.preg i 0x4000 = new then s
  else
    let s := (if s.partEn i then s.leavePart i else s).setPreg i 0x4000 new
    if s.partEn i then s.enterPart i else s

/-- What a logged write does once its entry can be written: the entry, and then the write (R384, R385). A GO of the unwrap mailbox
that finds one in progress is ignored (R375). -/
def State.applyLogged (s : State) : Logged → State
  | .part i off v =>
    let new := s.partAfter i off v.toNat
    let s := s.appendEntry 0x0010 i 0xFF 0xFF (change off (s.preg i off) new)
    if off = 0x4000 then s.setPtCfg i new else s.setPreg i off new
  | .vf i f off v =>
    let at_ := 0x6000 + 16 * f + off
    let new := s.vfAfter i f off v.toNat
    (s.appendEntry 0x0020 i f 0xFF (change at_ (s.preg i at_) new)).setPreg i at_ new
  | .key k mode =>
    let new := if mode = 2 then s.keyMode k else mode
    let s := s.appendEntry 0x0030 0xFF 0xFF 0xFF (bytesOf 1 k ++ bytesOf 1 (s.keyMode k) ++ bytesOf 1 new)
    if mode = 2 then s else s.beginMode k (modeCode mode)
  | .unwrap =>
    if bitAt (s.reg 0x1890).toNat 30 then s else
    let bad := if s.unwrapPoint = none then 1 else 0
    (s.appendEntry 0x0031 0xFF 0xFF 0xFF (bytesOf 1 ((s.reg 0x1890).toNat % 64) ++ bytesOf 1 bad ++ s.mailbox 0 144)).unwrap
  | .grant i f c v =>
    let at_ := 0x20000 + 4 * (256 * f + c)
    let new := v.toNat &&& 0x8000003F
    (s.appendEntry 0x0032 i f c (bytesOf 4 (s.preg i at_) ++ bytesOf 4 new)).setPreg i at_ new
  | .meter i off v =>
    let at_ := 0x2000 + 16 * i + off
    let new := s.meterAfter i off v.toNat
    (s.appendEntry 0x0040 0xFF 0xFF 0xFF (bytesOf 4 i ++ change off (s.reg at_).toNat new)).setReg at_ (BitVec.ofNat 32 new)
  | .halt f c on =>
    let s := s.appendEntry 0x0050 (s.partByte f) f c (bytesOf 4 (if on then 1 else 0))
    { s with halts := SMap.set false (256 * f + c) on s.halts }
  | .readback port unit index off f c =>
    let s := s.appendEntry 0x0050 (s.partByte f) f c (bytesOf 4 2)
    s.answer portSource port (bytesOf 4 (s.readUnit unit index off).1.toNat) true
  | .image => s.appendEntry 0x0002 0xFF 0xFF 0xFF (slice s.imageHash 0 48)
  | .checkpoint => s.appendCheckpoint
  | .rcb r lo hi => if s.rcbOpen r then (s.putRcbHalf r 0 lo).putRcbHalf r 4 hi else s

/-- A write of CKPT (R386). -/
def Logged.isCheckpoint : Logged → Bool
  | .checkpoint => true
  | _ => false

/-- The entries that a logged write takes. -/
def Logged.entries : Logged → Nat
  | .rcb _ lo hi => lo.toList.length + hi.toList.length
  | _ => 1

/-- A logged write: it takes effect at once, or waits for LOG_BASE, for room, or for earlier ones (R383, R384). -/
def State.logWrite (s : State) (w : Logged) : State :=
  if s.logPending.isEmpty && s.logRoom w.isCheckpoint w.entries then s.applyLogged w
  else
    let s := s.settleLog
    { s with logPending := s.logPending ++ [w] }

/-- LOG_ENTRY_WRITE (R384): the oldest write that waits for its entry gets it, and takes effect. -/
def execLogEntryWrite (s : State) : Host.Outcome State Fault Refusal :=
  match s.logPending with
  | [] => .next s
  | w :: ws =>
    .next (if s.logRoom w.isCheckpoint w.entries then State.applyLogged { s with logPending := ws } w else s.settleLog)

/-- A logged write through BAR 0, which reaches its register only on a booted device (R393). -/
def State.barWrite (s : State) (w : Logged) : State := if s.openBar then s.logWrite w else s

/-- PT_CFG_WRITE (R367, R368). -/
def execPtCfgWrite (part : Nat) (val : Word) (s : State) : Host.Outcome State Fault Refusal :=
  .next (if part < 12 then s.barWrite (.part part 0x4000 val) else s)

/-- Offsets of the ownership registers (R368). -/
def ownershipRegs : List Nat := [0x4008, 0x400C, 0x4010, 0x4018, 0x401C, 0x4020, 0x4024]

/-- OWNERSHIP_WRITE (R369). -/
def execOwnershipWrite (part off : Nat) (val : Word) (s : State) : Host.Outcome State Fault Refusal :=
  .next (if part < 12 ∧ ownershipRegs.contains off then s.barWrite (.part part off val) else s)

/-- VF_CTL_WRITE (R372, R510). -/
def execVfCtlWrite (part vf : Nat) (val : Word) (s : State) : Host.Outcome State Fault Refusal :=
  .next (if part < 12 ∧ vf < 64 then s.barWrite (.vf part vf 0 val) else s)

/-- A write of halves of an RCB address register (R510): ignored while the register's enable reads 1; PT_RCB and VF_RCBf
are logged. -/
def State.writeRcb (s : State) (r : RcbReg) (lo hi : Option Word) : State :=
  if !s.openBar || !s.rcbOpen r then s
  else match r with
    | .root => (s.putRcbHalf r 0 lo).putRcbHalf r 4 hi
    | _ => s.logWrite (.rcb r lo hi)

/-- RCB_ADDRESS_WRITE (R510): both halves. -/
def execRcbAddressWrite (reg : RcbReg) (val : BitVec 64) (s : State) : Host.Outcome State Fault Refusal :=
  .next (s.writeRcb reg (some (val.extractLsb' 0 32)) (some (val.extractLsb' 32 32)))

/-- KEY_SLOT_ORDINARY (R373): MODE 1 loads a fresh pair of keys. -/
def execKeySlotOrdinary (slot : Nat) (s : State) : Host.Outcome State Fault Refusal := .next (s.barWrite (.key slot 1))

/-- KEY_SLOT_OFF (R373): MODE 0 erases the keys. -/
def execKeySlotOff (slot : Nat) (s : State) : Host.Outcome State Fault Refusal := .next (s.barWrite (.key slot 0))

/-- KEY_SLOT_PLAIN (R373): MODE 3 selects plain storage. -/
def execKeySlotPlain (slot : Nat) (s : State) : Host.Outcome State Fault Refusal := .next (s.barWrite (.key slot 3))

/-- KEY_SLOT_SEALED_WRITE (R373): MODE 2 is ignored. -/
def execKeySlotSealedWrite (slot : Nat) (s : State) : Host.Outcome State Fault Refusal := .next (s.barWrite (.key slot 2))

/-- SEAL_UNWRAP (R375, R376): GO of the mailbox, ignored while BUSY reads 1. -/
def execSealUnwrap (s : State) : Host.Outcome State Fault Refusal :=
  .next (if bitAt (s.reg 0x1890).toNat 30 then s else s.barWrite .unwrap)

/-- SEAL_GRANT_WRITE (R377). -/
def execSealGrantWrite (part vf ctx : Nat) (val : Word) (s : State) : Host.Outcome State Fault Refusal :=
  .next (s.barWrite (.grant part vf ctx val))

/-- METER_WRITE (R380, R381, R495): logged, also where it is ignored. -/
def execMeterWrite (meter off : Nat) (val : Word) (s : State) : Host.Outcome State Fault Refusal :=
  .next (if meter < 69 ∧ off % 4 = 0 ∧ off < 16 then s.barWrite (.meter meter off val) else s)

/-- METER_TOKEN_TICK (R382). -/
def execMeterTokenTick (s : State) : Host.Outcome State Fault Refusal := .next s.oneUs

/-- EGRESS_READ_ABORT (R495): an incoming read of which some sector has waited 50 µs ends without data. -/
def execEgressReadAbort (id : Nat) (s : State) : Host.Outcome State Fault Refusal :=
  let incoming := s.extReads.any (fun r => r.id == id && r.result == .waiting && decide (r.meter < 19))
  if incoming && s.held.any (fun h => h.read && h.id == id && h.charged && decide (h.since + 50 ≤ s.us)) then
    let s := { s with
      held := s.held.filter (fun h => !(h.read && h.id == id))
      extReads := s.extReads.map (fun r => if r.id = id then { r with result := ReadEnd.aborted, bytes := [] } else r) }
    .next ((State.letPass (2 * s.held.length) s).writeFwRec { level := 0, source := 4, code := 0x80 })
  else .next s

/-- LOG_BASE_COMMIT (R383, R385, R393, R513): LOG_BASE_HI commits LOG_BASE once per power-on and writes entry 0; a base
without backing is ignored. -/
def execLogBaseCommit (val : Word) (s : State) : Host.Outcome State Fault Refusal :=
  if s.logOn || !s.openBar then .next s
  else
    let t := s.setReg 0x1904 (BitVec.ofNat 32 (val.toNat % 2 ^ 14))
    if t.backed t.logBase then .next (t.applyLogged .image) else .next (s.noteLost t.logBase)

/-- LOG_CHECKPOINT (R386): a write of CKPT appends a checkpoint. -/
def execLogCheckpoint (s : State) : Host.Outcome State Fault Refusal := .next (s.barWrite .checkpoint)

/-- A readback at a port (R397, R398, R506): of a sealed context's state it is logged first, and refused while LOG_BASE is
unset. -/
def State.readBack (s : State) (port unit index off : Nat) : State :=
  let r := s.readUnit unit index off
  match r.2 with
  | none => s.answer portSource port (bytesOf 4 r.1.toNat) false
  | some (f, c) =>
    if s.logOn then s.logWrite (.readback port unit index off f c)
    else { s with
      extReads := { id := s.nextId, src := portSource, meter := port, result := ReadEnd.aborted } :: s.extReads
      nextId := s.nextId + 1 }

/-- STATE_READBACK (R397, R398, R506): the management port reads a word of a unit. -/
def execStateReadback (unit index off : Nat) (s : State) : Host.Outcome State Fault Refusal :=
  .next (s.readBack 67 unit index (off / 4 * 4))

/-- DEBUG_HALT_CONTROL (R218, R385): the management port enables or disables a context's debug halt. -/
def execDebugHaltControl (vf ctx : Nat) (enable : Bool) (s : State) : Host.Outcome State Fault Refusal :=
  .next (s.logWrite (.halt vf ctx enable))

/-- RBACC (R399): Update-DR starts a readback through the test port; DONE reads 0 until Capture-DR. -/
def execRbacc (dr : BitVec 96) (s : State) : Host.Outcome State Fault Refusal :=
  let v := dr.toNat
  .next (State.readBack { s with testIr := 0x40, rbacc := BitVec.ofNat 96 (v / 2 ^ 40 * 2 ^ 40) } 68 (field v 88 8)
    (field v 72 16) (field v 42 30 * 4))

/-- CAPTURE_DR (R399): under RBACC the data register takes DONE and DATA of the last read started. -/
def execCaptureDr (s : State) : Host.Outcome State Fault Refusal :=
  if s.testIr = 0x40 then
    let high := s.rbacc.toNat / 2 ^ 40 * 2 ^ 40
    let queued := s.logPending.any (fun w => match w with
      | .readback p _ _ _ _ _ => p == 68
      | _ => false)
    match s.extReads.find? (fun r => r.meter == 68 && !queued) with
    | some r =>
      .next { s with rbacc := BitVec.ofNat 96 (high + if r.result = .done then 2 ^ 32 + natOfBytes r.bytes else 0) }
    | none => .next { s with rbacc := BitVec.ofNat 96 high }
  else .next { s with testBypass := false }

/-- EXTEST (R399): the boundary-scan register is between TDI and TDO and drives the pins. -/
def execExtest (cells : List Bool) (s : State) : Host.Outcome State Fault Refusal :=
  .next { s with testIr := 0x00, bsr := cells }

/-- SAMPLE (R399): the boundary-scan register samples the pins. -/
def execSample (cells : List Bool) (s : State) : Host.Outcome State Fault Refusal :=
  .next { s with testIr := 0x01, bsr := cells }

/-- PRELOAD (R399): the boundary-scan register is loaded. -/
def execPreload (cells : List Bool) (s : State) : Host.Outcome State Fault Refusal :=
  .next { s with testIr := 0x02, bsr := cells }

/-- BYPASS (R399): the bypass register is selected, as by every code that Table 7 does not name. -/
def execBypass (s : State) : Host.Outcome State Fault Refusal :=
  .next { s with testIr := 0xFF, testBypass := false }

/-- BRK_RESUME (R218): the management port resolves a halted fragment. -/
def execBrkResume (wave slot : Nat) (s : State) : Host.Outcome State Fault Refusal :=
  let on (w : Wave) (f : Frag) : Bool := w.id == wave && f.slot == slot && (match f.wait with
    | some (.halt _) => true
    | _ => false)
  .next (State.wakeIf { s with halted := s.halted.filter (fun h => h.1 != 64 * wave + slot) } on)

/-- MGMT_KILL (R433): the management port kills a halted fragment, or the wave of one: its lanes end as by exit with
0xFFFF, and its watches leave. -/
def execMgmtKill (wave : Nat) (slot : Option Nat) (s : State) : Host.Outcome State Fault Refusal :=
  let mine (h : Nat × Nat) : Bool := h.1 / 64 == wave && (match slot with
    | some k => h.1 % 64 == k
    | none => true)
  match s.halted.find? mine with
  | none => .next s
  | some h =>
    match s.focusOn wave (h.1 % 64) with
    | none => .next s
    | some t =>
      let lanes := if slot.isSome then t.frag.mask else t.wave.live
      let t := { t with
        halted := t.halted.filter (fun h => !mine h)
        watches := t.watches.filter (fun w => !(w.wave == wave && (match slot with
          | some k => w.slot == k
          | none => true))) }
      .next (t.endLanes lanes (fun _ => 0xFFFF))

/-- A page request ends (R451): ATS gives the page's translation, or the host's answer has a trap code. What waits for it makes its
access again: it translates, or meets the trap. -/
def State.priEnds (s : State) (id : Nat) (code : Option Nat) : State :=
  match s.pri.find? (fun p => p.id == id && p.code == 0) with
  | none => s
  | some p =>
    let s := match code with
      | none => { s with pri := s.pri.filter (fun x => x.id != id), atc := SMap.set false p.page true s.atc }
      | some c => { s with pri := s.pri.map (fun (x : PriReq) => if x.id = id then { x with code := c } else x) }
    s.wakeIf (fun _ f => f.wait == some (.pri id))

/-- PRI_RESPONSE (R451). -/
def execPriResponse (id : Nat) (r : PriResp) (s : State) : Host.Outcome State Fault Refusal :=
  match r with
  | .success => .next (s.priEnds id none)
  | .failure => .next (s.priEnds id (some 0x08))
  | .malformed => .next (s.priEnds id (some 0x09))

/-- PRI_TIMEOUT (R451): no response within 100 ms. -/
def execPriTimeout (id : Nat) (s : State) : Host.Outcome State Fault Refusal :=
  .next (if s.pri.any (fun p => p.id == id && p.code == 0 && decide (p.sentAt + 100000 ≤ s.us)) then s.priEnds id (some 0x09) else s)

end Sys2Proof.Machine
end

