-- ==== Sys2Proof/Machine/Landing.lean ====
section
/-!
DEFINITION. Where incoming accesses of the host and of peers land, and those of memory (spec/05_consistency.md R103, R108, R112,
spec/16_host.md R388 to R392, spec/22_faults_memory.md R460, R513): performed at the homes, or held.
-/

namespace Sys2Proof.Machine

/-- What an incoming access names. -/
inductive Landing where
  /-- memory or Steppe at a physical address, with the partition that owns it -/
  | memory (pa part : Nat)
  /-- the device register space, through BAR 0 -/
  | bar0 (off : Nat)
  /-- a doorbell page of function `f`, through BAR 2 -/
  | bar2 (f off : Nat)
  /-- refused: Completer Abort on PCIe, an error response on a link -/
  | refused
  deriving DecidableEq, Repr

/-- The enabled partition that owns the HBM4E or LPDDR6 place of a physical address. -/
def State.placeOwner (s : State) (pa : Nat) : Option Nat :=
  match s.resolve (pa % 2 ^ 46) with
  | .mem p => s.partOf (placeSlice p)
  | _ => none

/-- An access of the physical function (R388, R393, R511, R513): registers; while STATE is not 2 slice 0's Steppe bank, through
BAR 4; then HBM4E and LPDDR6 that some partition owns, under a slot that is not off. -/
def State.hostLanding (s : State) (pa : Nat) : Landing :=
  let loc := pa % 2 ^ 46
  if regBase ≤ loc ∧ loc < regBase + 2 ^ 24 then .bar0 (loc - regBase)
  else if !s.openBar then (if stBase ≤ loc ∧ loc < stBase + 2 ^ 22 then .memory pa 0 else .refused)
  else
    match s.placeOwner pa with
    | none => .refused
    | some part =>
      let k := pa / 2 ^ 46 % 64
      if s.keyMode k = 0 ∧ !s.keyBusyBit k then .refused else .memory pa part

/-- Where an incoming access lands (R388, R389, R392, R500, R513). -/
def State.landing (s : State) (src : Source) (addr : Nat) : Landing :=
  match src with
  | .host 0 => if s.pcieUp then s.hostLanding (addr % 2 ^ 52) else .refused
  | .host (f + 1) => if s.pcieUp && s.openBar && decide (addr < 2 ^ 20) && decide (f < 64) then .bar2 f addr else .refused
  | .link j =>
    let r := (s.reg (0x0200 + 4 * j)).toNat
    let part := field r 6 4
    let pa := r % 64 * 2 ^ 46 + addr % 2 ^ 46
    if 18 ≤ j ∨ !bitAt r 31 ∨ SMap.get false j s.linkDown ∨ !s.partEn part ∨ !s.reach part pa ∨ !s.backed pa then .refused
    else .memory pa part

/-- A line's bytes written by an incoming access (R108, R112): it has no core and so no clock of its own, and the home
takes the timestamp above its lease (DESIGN CHOICE, log 94). -/
def State.incomingStore (s : State) (pa : Nat) (bs : List Byte) : State :=
  match s.placeOf pa with
  | none => s
  | some p =>
    let s := if partMask p bs.length = 0 then s else s.meetUE none none {} pa p bs.length
    let s := s.askFor 64 pa bs.length
    let ts := (s.homeLease pa).storeTs 0
    (s.putLine 0 0 (pa / 2 ^ 46 % 64) p bs).setHome pa (Lease.at_ ts)

/-- A line's bytes read by an incoming access, as path v observes them at the home (R103), whose lease covers the read
(log 94). -/
def State.incomingLoad (s : State) (pa n : Nat) : List Byte × State :=
  match s.placeOf pa with
  | none => (List.replicate n 0, s)
  | some p =>
    let s := (s.meetUE none none {} pa p n).l2Touch 64 pa p (sectorMask p n)
    (s.overlay 0 (2 ^ 31) p (s.placeBytes (pa / 2 ^ 46 % 64) p n), ((s.observe 0 (2 ^ 31) p n).homeLoad pa 0).2)

/-- What is read at a physical address leaves sealed (R379): under a mode-2 id, or a Steppe line that such an id wrote. -/
def State.readSealed (s : State) (pa : Nat) : Bool :=
  decide (s.keyMode (pa / 2 ^ 46 % 64) = 2) || (match s.resolve (pa % 2 ^ 46) with
    | .steppe p => decide (s.keyMode (SMap.get 0 (p / 128 * 8) s.tags) = 2)
    | _ => false)

/-- The meter of the port of a source (R380). -/
def portMeter : Source → Nat
  | .host _ => 0
  | .link j => 1 + j

/-- An incoming read that ends without data. -/
def State.abortRead (s : State) (src : Source) : State :=
  { s with
    extReads := { id := s.nextId, src := src, meter := portMeter src, result := ReadEnd.aborted } :: s.extReads
    nextId := s.nextId + 1 }

/-- Lines of an incoming write, each at its home (R103, R112). -/
def State.incomingLines (s : State) (pa : Nat) (bs : List Byte) : State :=
  (pieces pa bs.length).foldl (fun s x => s.incomingStore x.1 ((bs.drop x.2.1).take x.2.2)) s

/-- Every line of an incoming access lands in memory. -/
def State.allLand (s : State) (src : Source) (addr n : Nat) : Bool :=
  (pieces addr n).all (fun x => match s.landing src x.1 with
    | .memory _ _ => true
    | _ => false)

/-- The link of a source. -/
def linkKey : Source → Nat
  | .host _ => 0
  | .link j => 1 + j

/-- An incoming access of memory is held: under a key slot that changes its mode (R460), a write by a line's lock (R118), and
behind an earlier one of its link (R112). -/
def State.holdsIn (s : State) (src : Source) (pa n : Nat) (wr : Bool) : Bool :=
  s.keyBusyBit (pa / 2 ^ 46 % 64) || s.heldIn.any (fun h => linkKey h.1 == linkKey src) ||
  (wr && (pieces pa n).any (fun x => s.lockedLine x.1))

/-- An incoming write of memory (R112, R118, R460). -/
def State.memWrite (s : State) (src : Source) (addr pa : Nat) (bs : List Byte) : State :=
  if !s.allLand src addr bs.length then s
  else if s.holdsIn src pa bs.length true then { s with heldIn := s.heldIn ++ [(src, addr, bs.length, some bs)] }
  else s.incomingLines pa bs

/-- An incoming read of memory (R103, R379, R460, R513): its bytes go out at its port, or it ends without data. -/
def State.memRead (s : State) (src : Source) (addr pa n : Nat) : State :=
  if !s.allLand src addr n then s.abortRead src
  else if s.holdsIn src pa n false then { s with heldIn := s.heldIn ++ [(src, addr, n, none)] }
  else
    let r := (pieces pa n).foldl (fun (a : List Byte × State) x =>
      let b := a.2.incomingLoad x.1 x.2.2
      (a.1 ++ b.1, b.2)) ([], s)
    r.2.answer src (portMeter src) r.1 ((pieces pa n).any (fun x => s.readSealed x.1))

/-- The incoming accesses that were held are made again, in their order (R112, R118, R460). -/
def State.admitHeld (s : State) : State :=
  s.heldIn.foldl (fun s h => match s.landing h.1 h.2.1, h.2.2.2 with
    | .memory pa _, some bs => s.memWrite h.1 h.2.1 pa bs
    | .memory pa _, none => s.memRead h.1 h.2.1 pa h.2.2.1
    | _, some _ => s
    | _, none => s.abortRead h.1) { s with heldIn := [] }

end Sys2Proof.Machine
end

