-- ==== Sys2Proof/Machine/Xlate.lean ====
section
/-!
DEFINITION. Walks and TLB entries (spec/04_memory.md R97 to R99, spec/22_faults_memory.md R448 to R450), requests to the
memory-side cache (R83 to R86, R455, R456), and the expiry of clocks and L1 copies (spec/05_consistency.md R108, R109).
-/

namespace Sys2Proof.Machine

/-- Installs a translation in the TLB, with the page of stage 1 that it lies in (R99); a write is served by it only when its
walk set D (R96, R97). -/
def State.install (s : State) (i f c va : Nat) (acc : Access) (x : XOk) : State :=
  let e : TlbEntry := { vf := f, ctx := c, base := va / x.size * x.size, size := x.size, pa := x.pa - va % x.size,
                        key := x.pa / 2 ^ 46 % 64, w := x.w && acc == .write, x := x.x, part := i,
                        page := va / x.span * x.span, span := x.span }
  { s with tlb := e :: s.tlb.filter (fun t => !(t.vf == f && t.ctx == c && t.base == e.base)) }

/-- A walk that fails: it installs nothing and sets no bit (R449); a stage-2 failure is captured (R450), and a table entry
beyond correction confines its owner (R422). -/
def State.walkFails (s : State) (i f c : Nat) (e : XFail) : State :=
  let s := match e.ipa with
    | some ipa => s.captureS2 i f ipa
    | none => s
  match e.ue with
  | some (level, code, at_) =>
    (s.noteLost at_).confine level (ctxWho i f c) none
      { source := 1, code := code, addr := at_, vf := f, ctx := c, part := i }
  | none => s

/-- PAGE_WALK (R94 to R97, R118, R449, R450): a walk for a virtual address of a context; the lock of a line whose entry it would
mark holds it. -/
def execPageWalk (vf ctx : Nat) (va : VAddr) (acc : Access) (s : State) : Host.Outcome State Fault Refusal :=
  match s.partOfVf vf with
  | none => .next s
  | some i =>
    match s.walk i vf ctx va.toNat acc with
    | .error e => .next (s.walkFails i vf ctx e)
    | .ok x => if s.marksHeld x.marks then .next s else .next ((s.mark (ctxWho i vf ctx) x.marks).install i vf ctx va.toNat acc x)

/-- The invalidated address of an entry of `invs` that covers every translation of its context. -/
def invEvery : Nat := 2 ^ 56

/-- TLB_INVALIDATE (R98, R99): the write of 0x10C starts an invalidation. -/
def execTlbInvalidate (vf ctx : Nat) (val : Word) (s : State) : Host.Outcome State Fault Refusal :=
  let a := s.bell vf ctx 0x108 / 4096 * 4096 + val.toNat % 2 ^ 24 * 2 ^ 32
  if !s.openBar then .next s
  else
  let s := s.setBell vf ctx 0x110 1
  .next { s with invs := s.invs ++ [(256 * vf + ctx, if bitAt val.toNat 31 then invEvery else a)] }

/-- An invalidation covers a TLB entry: the entry's page of stage 1 contains its address (R99). -/
def invCovers (inv : Nat × Nat) (t : TlbEntry) : Bool :=
  inv.1 == 256 * t.vf + t.ctx && (inv.2 == invEvery || (decide (t.page ≤ inv.2) && decide (inv.2 < t.page + t.span)))

/-- A wave of a context, by its number. -/
def State.waveOf (s : State) (f c id : Nat) : Bool := (s.waveGroup id).any (fun g => g.vf == f && g.ctx == c)

/-- An access that used a translation of a context has not performed: a load from a peer window (R117), a write that waits at
a meter (R382), or an attention command (R490). -/
def State.usesOld (s : State) (f c : Nat) : Bool :=
  s.cmds.any (fun x => x.kind == .qpost && x.phase != .done && x.vf == f && x.ctx == c) ||
  s.pendLoads.any (fun p => s.waveOf f c p.wave) ||
  s.held.any (fun h => !h.read && decide (h.wave ≠ 0) && s.waveOf f c (h.wave - 1))

/-- INVALIDATION_COMPLETE (R99): the covered translations are gone, and INV_BUSY clears; it waits for the accesses that
used them. -/
def execInvalidationComplete (vf ctx : Nat) (s : State) : Host.Outcome State Fault Refusal :=
  let mine := s.invs.filter (fun x => x.1 == 256 * vf + ctx)
  if mine.isEmpty ∨ s.usesOld vf ctx then .next s
  else .next (State.setBell { s with
      tlb := s.tlb.filter (fun t => !mine.any (fun v => invCovers v t))
      invs := s.invs.filter (fun x => x.1 != 256 * vf + ctx) } vf ctx 0x110 0)

/-- MSC_REQUEST (R83 to R86, R455): an L2 fill (`wr` none) or write-back of an LPDDR6 line at tier offset `t` of a slice. -/
def execMscRequest (sl t : Nat) (wr : Option (BitVec 8)) (s : State) : Host.Outcome State Fault Refusal :=
  if (s.mscShape sl).1 = 0 ∨ 12 ≤ sl ∨ 2 ^ 37 ≤ t then .next s
  else .next (s.mscAsk sl (t / 128 * 128) (if wr.isSome then 0 else 0xFF) wr)

/-- MSC_FILL_COMPLETE (R85, R86, R456). -/
def execMscFillComplete (sl index : Nat) (s : State) : Host.Outcome State Fault Refusal := .next (s.mscFilled sl index)

/-- PTS_TICK (R108): the reference clock reaches its next multiple of 64, and every logical clock of a slice that runs at its
rate gains one. -/
def execPtsTick (s : State) : Host.Outcome State Fault Refusal := .next (s.pass (64 - s.aclk % 64))

/-- L1_COPY_EXPIRY (R108): copies of a line that were granted 448 ACLK ago serve no load and leave. -/
def execL1CopyExpiry (core line : Nat) (s : State) : Host.Outcome State Fault Refusal :=
  .next { s with l1 := SMap.set [] core ((SMap.get [] core s.l1).filter (fun c =>
    !(c.line == line && decide (c.grant + 448 ≤ s.coreCyc core)))) s.l1 }

end Sys2Proof.Machine
end

