-- ==== Sys2Proof/Machine/Migrate.lean ====
section
/-!
DEFINITION. Page migration (spec/05_consistency.md R118, spec/11_isa_memory.md R284, spec/22_faults_memory.md R457): its lines, one
at a time under lock bits, its leaf, its invalidation, and what ends it early. A migration's progress is the next line of its page,
and then 0, 1 or 2 past the last line: before the leaf write, after it, and after the invalidation. Its `acc` holds the leaf entry,
its place and the intermediate address of the page.
-/

namespace Sys2Proof.Machine

/-- The leaf entry that a migration's LEAF maps, and its place; none where it cannot be read and written (R457). -/
def State.leafEntry (s : State) (c : Command) : Except XFail (Option (Nat × Nat)) :=
  match s.translate c.part c.vf c.ctx ((CopyDesc.ofBytes c.desc).leaf % 2 ^ 56) .write with
  | .error e => .error e
  | .ok x =>
    let r := s.physBytes x.pa 8
    .ok (if r.2 || s.sealBars (s.grantOf (s.cmdGroup c)) x.pa then none else some (x.pa, natOfBytes r.1))

/-- A line is locked by another migration than command `id` (R118). -/
def State.lockedBy (s : State) (id pa : Nat) : Bool :=
  match s.placeOf pa with
  | some p => !([0, id + 1].contains (SMap.get 0 (p / 128) s.locks))
  | none => false

/-- A migration's access to its leaf entry is held, by a key slot that changes its mode (R460) or by another migration's lock. -/
def State.leafHeld (s : State) (c : Command) : Bool :=
  match s.translate c.part c.vf c.ctx ((CopyDesc.ofBytes c.desc).leaf % 2 ^ 56) .write with
  | .error _ => false
  | .ok x => s.keyBusyBit (x.pa / 2 ^ 46 % 64) || s.lockedBy c.id x.pa

/-- The frame that an intermediate address names (R94, R284, R371): its physical address. -/
def State.frameAt (s : State) (c : Command) (ipa : Nat) : Except EngFail Nat :=
  match s.walk2 ipa 4 (s.s2root c.part c.vf) [] with
  | .error e => match e.ue with
    | some u => .error (.owner u.1 u.2.1 u.2.2)
    | none => .error (.xlate e.code e.ipa)
  | .ok (l, _) => if s.reach c.part (l.addr ipa) then .ok (l.addr ipa) else .error (.xlate 0x09 none)

/-- The intermediate address of a migration's page. -/
def Command.pageFrom (c : Command) : Nat := c.acc.getD 2 0

/-- Line `i` of a migration's page: its places in the old frame and in the new one. -/
def State.pageLine (s : State) (c : Command) (i : Nat) : Option Nat × Option Nat :=
  let at_ (ipa : Nat) : Option Nat := match s.frameAt c (ipa + 128 * i) with
    | .ok pa => s.placeOf pa
    | .error _ => none
  (at_ c.pageFrom, at_ (CopyDesc.ofBytes c.desc).dst)

/-- Sets or clears the lock bit of a line (R118). -/
def State.setLock (s : State) (p : Option Nat) (v : Nat) : State :=
  match p with
  | some p => { s with locks := SMap.set 0 (p / 128) v s.locks }
  | none => s

/-- Clears every lock bit that a migration has set. -/
def State.unlockAll (s : State) (id : Nat) : State := { s with locks := s.locks.filter (fun e => e.2 != id + 1) }

/-- The requests held at unlocked lines are made again (R118): what parked issues again and translates again, and the S12's and
the links' writes perform. -/
def State.freeHeld (s : State) : State :=
  State.wakeIf (s.releaseHeld.admitHeld) (fun _ f => f.wait == some .again)

/-- A line of a new frame holds the copy of its source alone: no path observes what the frame held before (R118). -/
def State.freshLine (s : State) (pa : Nat) : State :=
  match s.placeOf pa with
  | none => s
  | some p => { s with
      older := s.older.filter (fun e => !e.hits (p / 128 * 128) 128)
      l1 := (s.l1.map (fun (x : Nat × List L1Copy) => (x.1, x.2.filter (fun c => c.line != pa / 128)))).filter (fun x => !x.2.isEmpty) }

/-- A line of an aborted migration's destination holds unspecified bytes (R457). -/
def State.spoilLine (s : State) (c : Command) (i : Nat) : State :=
  match s.frameAt c ((CopyDesc.ofBytes c.desc).dst + 128 * i) with
  | .error _ => s
  | .ok pa => match s.placeOf pa with
    | none => s
    | some p =>
      ((s.putPlace 2 c.id c.vf (pa / 2 ^ 46 % 64) p ((List.range 128).map (fun j => Config.freeByte s.free (128 * i + j)))).freshLine pa)

/-- A migration that has not written its leaf ends (R457): its locks clear, the held requests perform at the source, which stays
the only valid copy, and the destination frame holds unspecified bytes. -/
def State.undoMigration (s : State) (c : Command) : State :=
  let t := (List.range c.total).foldl (fun t i => t.spoilLine c i) s
  (State.unlockAll { t with free := t.free + 1 } c.id).freeHeld

/-- It ends so with a record to the posting context, and counts as complete (R457). -/
def State.abortMigration (s : State) (c : Command) (code addr : Nat) : State :=
  ((s.undoMigration c).engineNote c code addr).putCmd { c with phase := .done }

/-- The source of a line's copy is its latest bytes (R118). -/
def State.engLatest (s : State) (c : Command) (g : Workgroup) (pa n : Nat) : (List Byte × Bool) × State :=
  match s.placeOf pa with
  | some p => (s.observeAll 2 p n).engReadPa 2 c g pa n
  | none => s.engReadPa 2 c g pa n

/-- The entries that a leaf of a page size takes: one, or sixteen for 64 KiB (R284). -/
def leafCount (size : Nat) : Nat := if size = 2 ^ 16 then 16 else 1

/-- A migration begins (R284, R457): its leaf entry has to be the leaf of its page, and gives the page's size. -/
def State.beginMigration (s : State) (c : Command) : State :=
  let d := CopyDesc.ofBytes c.desc
  match s.leafEntry c, s.walk1 c.part c.vf d.src 0 4 (s.s1root c.vf c.ctx) [] with
  | .error e, _ => (s.oweFail c.who e).abortMigration c 0x21 d.leaf
  | _, .error e => (s.oweFail c.who e).abortMigration c 0x21 d.leaf
  | .ok none, _ => s.abortMigration c 0x21 d.leaf
  | .ok (some (ea, e)), .ok (l, _) =>
    let first := if l.size = 2 ^ 16 then l.at_ / 128 * 128 else l.at_
    if !([2 ^ 12, 2 ^ 16, 2 ^ 21].contains l.size) || !bitAt e 7 || ea != first || d.src % l.size != 0 || d.dst % l.size != 0 then
      s.abortMigration c 0x21 d.leaf
    else s.putCmd { c with total := l.size / 128, acc := [e, ea, l.addr d.src] }

/-- The next line of a migration's page is locked and copied (R118 step 1); poison travels along (R457). -/
def State.migrateLine (s : State) (c : Command) : State :=
  let d := CopyDesc.ofBytes c.desc
  let i := c.progress
  let g := s.cmdGroup c
  match s.engXlate g .read (d.src + 128 * i), s.frameAt c (c.pageFrom + 128 * i), s.frameAt c (d.dst + 128 * i) with
  | .error e, _, _ => s.engineFail c (d.src + 128 * i) e
  | _, .error e, _ => s.engineFail c (d.src + 128 * i) e
  | _, _, .error e => s.engineFail c (d.dst + 128 * i) e
  | .ok x, .ok a, .ok b =>
    if s.lockedBy c.id a || s.lockedBy c.id b || s.keyBusyBit (b / 2 ^ 46 % 64) then s
    else
      let t := (s.mark c.who x.marks).setLock (s.placeOf a) (c.id + 1)
      let t := t.setLock (s.placeOf b) (c.id + 1)
      let step (t : State) (j : Nat) : State :=
        let r := t.engLatest c g (a + 16 * j) 16
        r.2.engWritePa 2 c g { pa := b + 16 * j, size := 128, w := true, x := false } r.1.1 r.1.2
      (((List.range 8).foldl step t).freshLine b).putCmd { c with progress := i + 1 }

/-- The leaf entries of a migration's page take the new frame, each by compare-and-swap (R118 step 2, R284, R457): A and D stay,
and any other change aborts. -/
def State.migrateLeaf (s : State) (c : Command) : State :=
  let d := CopyDesc.ofBytes c.desc
  let flat (x : Nat) : Nat := x &&& (2 ^ 64 - 1 - 0x60)
  match s.leafEntry c with
  | .error e => (s.oweFail c.who e).abortMigration c 0x21 d.leaf
  | .ok none => s.abortMigration c 0x21 d.leaf
  | .ok (some (ea, _)) =>
    let es := (List.range (leafCount (128 * c.total))).map (fun i => (ea + 8 * i, natOfBytes (s.physBytes (ea + 8 * i) 8).1))
    if es.any (fun x => flat x.2 != flat (c.acc.headD 0)) then s.abortMigration c 0x20 d.leaf
    else
      (es.foldl (fun (t : State) x =>
        let t := t.physWrite 0 c.vf x.1 (bytesOf 8 (setField x.2 12 40 (d.dst / 4096)))
        t.setHome x.1 (t.homeLease x.1).next) s).putCmd { c with progress := c.total + 1 }

/-- Drops the translations of a context that overlap a range (R99). -/
def State.dropTlb (s : State) (vf ctx base size : Nat) : State :=
  { s with tlb := s.tlb.filter (fun t => !(t.vf == vf && t.ctx == ctx && decide (t.base < base + size) && decide (base < t.base + t.size))) }

/-- A line of the new frame takes the read lease of the old one, and the two lock bits clear (R118 step 4). -/
def State.settleLine (s : State) (c : Command) (i : Nat) : State :=
  let ps := s.pageLine c i
  let t := match s.frameAt c (c.pageFrom + 128 * i), s.frameAt c ((CopyDesc.ofBytes c.desc).dst + 128 * i) with
    | .ok a, .ok b => s.setHome b (Lease.at_ (s.homeLease a).rts)
    | _, _ => s
  (t.setLock ps.1 0).setLock ps.2 0

/-- PAGE_MIGRATION (R118, R284, R457): one step of a migration: its beginning, a line, the leaf, the invalidation once no access
that used the old translation is left to perform, or its end. Past the leaf write no confinement stops it. -/
def execPageMigration (cmd : Nat) (s : State) : Host.Outcome State Fault Refusal :=
  match s.cmd cmd with
  | none => .next s
  | some c =>
    if c.phase ≠ .running ∨ c.kind ≠ .migrate ∨ (c.progress ≤ c.total ∧ s.cmdStopped c) then .next s
    else if c.total = 0 then .next (if s.leafHeld c then s else s.beginMigration c)
    else if c.broken.isSome ∧ c.progress ≤ c.total then .next (s.abortMigration c 0x21 (CopyDesc.ofBytes c.desc).leaf)
    else if c.progress < c.total then .next (s.migrateLine c)
    else if c.progress = c.total then .next (if s.leafHeld c then s else s.migrateLeaf c)
    else if c.progress = c.total + 1 then
      if s.usesOld c.vf c.ctx then .next s
      else .next ((s.dropTlb c.vf c.ctx (CopyDesc.ofBytes c.desc).src (128 * c.total)).putCmd { c with progress := c.total + 2 })
    else
      .next (((List.range c.total).foldl (fun t i => t.settleLine c i) s).freeHeld.putCmd { c with phase := .done })

/-- The directory entry of a lock bit is beyond correction (R457): before the leaf write the migration aborts; after it the line
is released, and its copy was complete. -/
def State.loseLock (s : State) (cmd line : Nat) : State :=
  match s.cmd cmd with
  | none => s
  | some c =>
    if SMap.get 0 line s.locks ≠ cmd + 1 then s
    else if c.progress ≤ c.total then s.putCmd { c with broken := some 0x21 }
    else
      match (List.range c.total).find? (fun i =>
          (s.pageLine c i).1.any (fun p => p / 128 == line) || (s.pageLine c i).2.any (fun p => p / 128 == line)) with
      | some i => (s.settleLine c i).freeHeld
      | none => s

/-- A migration of a confinement's scope that has written its leaf (R457): its last steps come before quiesce-complete. -/
def Command.pastLeaf (c : Command) : Bool :=
  c.kind == .migrate && c.phase == .running && decide (c.total ≠ 0) && decide (c.total < c.progress)

/-- A migration that stops before its leaf write leaves no record of its own (R457). -/
def State.stopMigration (s : State) (c : Command) : State :=
  if c.kind == .migrate && c.phase == .running && !c.pastLeaf then s.undoMigration c else s

end Sys2Proof.Machine
end

