-- ==== Sys2Proof/Machine/Matrix.lean ====
section
/-!
DEFINITION. Matrix commands at issue, accumulators, and tiles in registers (spec/12_isa_matrix.md R299 to R322).
-/

namespace Sys2Proof.Machine

/-- The vote on a format word (R299): the condition it raises, none where every lane agrees on a legal word. -/
def State.voteCond (s : State) (a : Operand) (legal : Nat → Bool) : List Cond :=
  let word (l : Nat) : Nat := s.int a l
  let low := word ((lowest s.exec).getD 0)
  let bad := lanesWhere s.exec (s.srcPois 1 a)
  let odd := lanesWhere s.exec (fun l => word l != low)
  if bad ≠ 0 then laneCond 0x0A bad 0 a.code
  else if odd ≠ 0 then laneCond 0x05 odd
  else if legal low then [] else laneCond 0x0E s.exec

/-- The word that the vote settles on; an illegal one where it fails. -/
def State.votedWord (s : State) (a : Operand) : Nat :=
  if (s.voteCond a (fun _ => true)).isEmpty then s.lowInt a else 2 ^ 16

/-- The matrix queue of the focused core is full (R306). -/
def State.matqFull (s : State) : Bool := decide (8 ≤ (SMap.get [] s.wave.core s.matq).length)

/-- Posts a command to its core's matrix queue (R306). -/
def State.postMatrix (s : State) (c : Command) : State :=
  let c := { c with entered := s.nextId }
  let t := s.post c
  { t with matq := SMap.set [] c.core (SMap.get [] c.core t.matq ++ [c.id]) t.matq }

/-- Words of a command's operands taken at issue: accumulator, format word, captured FLUSH. -/
def mmaArgs (n word : Nat) (fl : Bool) : List Nat := [n, word, if fl then 1 else 0]

/-- The block of a matrix command: that of a cpy.then is its own, mma's takes what it captured at issue. -/
def Command.block (c : Command) : MatBlock :=
  if c.kind = .cpyThen then .ofBytes c.follow true 0 0 false false
  else .ofBytes c.desc false (c.args.getD 0 0) (c.args.getD 1 0) (c.kind == .mmaB) (c.args.getD 2 0 == 1)

/-- mma and mma.b (R299, R301, R306 to R308). -/
def State.mmaUnit (s : State) (kind : CmdKind) (n : Nat) (a b : Operand) : Host.Outcome State Fault Refusal :=
  let word := s.votedWord a
  let block (bs : List Byte) : MatBlock := .ofBytes bs false n word (kind == .mmaB) s.flushBit
  s.postUnit b 32 (s.encCond (!a.isV) 0x01 ++ s.voteCond a fmtOk) (fun bs => s.blockCodes s.wg false bs (block bs))
    false s.matqFull []
    (fun bs t => t.postMatrix { t.newCmd s.frag.pc kind bs with args := mmaArgs n word s.flushBit })

/-- mma (R307). -/
def execMma (n : Fin 4) (a b : Operand) (s : State) : Host.Outcome State Fault Refusal := s.mmaUnit .mma n.val a b

/-- mma.b (R308). -/
def execMmaB (n : Fin 4) (a b : Operand) (s : State) : Host.Outcome State Fault Refusal := s.mmaUnit .mmaB n.val a b

/-- An mmat descriptor (R314 Table 7). -/
structure MmatDesc where
  abase : Nat
  bbase : Nat
  cbase : Nat
  ahbase : Nat
  bhbase : Nat
  astr : Nat
  bstr : Nat
  cstr : Nat
  mb : Nat
  nb : Nat
  ksteps : Nat
  ks : Nat
  word : Nat
  buf : Nat
  outf : Nat
  acc : Nat
  fl : Bool
  deriving DecidableEq, Repr

def MmatDesc.ofBytes (d : List Byte) : MmatDesc :=
  { abase := natAt d 0 8, bbase := natAt d 8 8, cbase := natAt d 16 8, ahbase := natAt d 24 8, bhbase := natAt d 32 8,
    astr := natAt d 40 4, bstr := natAt d 44 4, cstr := natAt d 48 4, mb := natAt d 52 2, nb := natAt d 54 2,
    ksteps := natAt d 56 2, ks := natAt d 58 2, word := natAt d 60 4, buf := natAt d 64 4, outf := natAt d 68 1,
    acc := natAt d 69 1 % 4, fl := bitAt (natAt d 70 1) 0 }

/-- The bytes of a panel's payload and of its headers (R315): `m` elements across, `k` deep. -/
def panelBytes (c m k : Nat) : Nat × Nat := (m * k * fmtBits c / 8, if fmtTiled c then 16 * (m / 16 * (k / 16)) else 0)

/-- The bytes of half of the staging area (R315). -/
def MmatDesc.half (d : MmatDesc) : Nat :=
  let f := FmtWord.ofNat d.word
  let a := panelBytes f.a 128 d.ks
  let b := panelBytes f.b f.cols d.ks
  a.1 + b.1 + a.2 + b.2

/-- The codes of the conditions that an mmat descriptor meets (R314, R322). -/
def MmatDesc.codes (d : MmatDesc) (g : Workgroup) (bs : List Byte) : List Nat :=
  let f := FmtWord.ofNat d.word
  let ok := fmtOk d.word
  let range (lo hi x : Nat) : Bool := decide (lo ≤ x) && decide (x ≤ hi)
  let wide := [d.abase, d.bbase, d.cbase, d.ahbase, d.bhbase].any (fun a => decide (2 ^ 56 ≤ a))
  (if decide (4 ≤ natAt bs 69 1) || decide (2 ≤ natAt bs 70 1) || !zeroAt bs 71 57 || wide then [0x0E] else []) ++
  (if range 1 65535 d.mb && range 1 65535 d.nb && range 1 65535 d.ksteps && range 16 1024 d.ks && d.ks % 16 == 0 then [] else [0x0E]) ++
  (if d.outf > 2 ∨ (0 < d.outf ∧ f.acc ≠ 0) then [0x0E] else []) ++
  (if accIn g d.acc (if ok then f.acc else 0) then [] else [0x0B]) ++
  (if d.buf % 256 ≠ 0 then [0x07] else []) ++
  (if !ok then [0x0E]
   else
    (if f.acc == 3 && d.acc % 2 == 1 then [0x0E] else []) ++
    (if d.abase % payloadAlign f.a ≠ 0 ∨ d.bbase % payloadAlign f.b ≠ 0 ∨ d.ahbase % 16 ≠ 0 ∨ d.bhbase % 16 ≠ 0 then [0x07] else []) ++
    (if fmtTiled f.a == (d.ahbase == 0) || fmtTiled f.b == (d.bhbase == 0) then [0x0E] else []) ++
    (if d.buf + 2 * d.half ≤ g.localBytes then [] else [0x0B]))

/-- mmat (R314 to R316): it counts against COPYQ and takes a place in the matrix queue. -/
def execMmat (a : Operand) (s : State) : Host.Outcome State Fault Refusal :=
  let zero := decide (s.copyqOf s.wg = 0)
  s.postUnit a 128 (s.lowWhen zero 0x0E) (fun bs => (MmatDesc.ofBytes bs).codes s.wg bs) (s.copyqFull s.wg && !zero)
    s.matqFull [] (fun bs t => t.postMatrix (t.newCmd s.frag.pc .mmat bs))

/-- The format word and the tile of a matrix entry. -/
def Command.fmt (c : Command) : FmtWord :=
  .ofNat (if c.kind = .mmat then (MmatDesc.ofBytes c.desc).word else c.block.word)

/-- The tiles that a matrix entry writes (R304, R306, R311). -/
def Command.tiles (c : Command) : List Nat :=
  if c.kind = .accZero then [c.args.getD 0 0]
  else accTiles c.fmt.acc (if c.kind = .mmat then (MmatDesc.ofBytes c.desc).acc else c.block.acc)

/-- An entry for tile `n` of a workgroup that entered its matrix queue before order number `seq` has not finished; one that was
withdrawn has not (R310, R315, R316). -/
def State.entryBefore (s : State) (g : Workgroup) (n seq : Nat) : Bool :=
  (s.cmds ++ s.withdrawn).any (fun c =>
    c.queued && c.phase != .done && c.wg == g.id && decide (c.entered < seq) && c.tiles.contains n)

/-- A tile at or above ACCUM (R322). -/
def State.tileCond (s : State) (n : Nat) : List Cond := laneCond 0x0B (if n < s.wg.accum then 0 else s.exec)

/-- acc.swap (R310). -/
def execAccSwap (n : Fin 4) (s : State) : Host.Outcome State Fault Refusal :=
  let unit := s.frag.pc
  s.issueLive (s.tileCond n.val) (fun t =>
    if t.entryBefore t.wg n.val t.nextId then
      let seq := t.nextId
      State.block { t with nextId := seq + 1, wg := { t.wg with swaps := t.wg.swaps ++ [(seq, n.val)] } } unit (.swap seq)
    else { t with wg := t.wg.swapTile n.val })

/-- acc.zero of the working bank (R311): a queue entry of no batch. -/
def execAccZero (n : Fin 4) (s : State) : Host.Outcome State Fault Refusal :=
  match s.judged .plain (s.tileCond n.val) with
  | some c => .next (s.takeTrap s.exec c)
  | none =>
    if s.exec = 0 then .next (s.retire .plain)
    else if s.matqFull then .next s.blockAgain
    else
      let t := s.retire .plain
      .next (t.postMatrix { t.newCmd s.frag.pc .accZero [] with args := [n.val] })

/-- acc.zero.v (R311). -/
def execAccZeroV (n : Fin 4) (s : State) : Host.Outcome State Fault Refusal :=
  s.issueLive (s.tileCond n.val) (fun t => { t with wg := t.wg.clearBank 0 n.val })

/-- Conditions of acc.rd and acc.wr (R312, R322): `d` the first register, `k` the rows. -/
def State.accConds (s : State) (d a : Operand) (k n : Nat) : List Cond :=
  s.encCond (!d.isV || decide (128 < d.num + 4 * k) || s.srcBad 1 a) 0x01 ++ s.lowCond 1 a ++ s.tileCond n ++
  s.lowWhen (decide (128 < s.lowInt a + k)) 0x0B

/-- acc.rd (R312, R483): a poisoned bank poisons what it gives. -/
def execAccRd (d a : Operand) (r n : Fin 4) (s : State) : Host.Outcome State Fault Refusal :=
  let k := r.val + 1
  s.issueLive (s.accConds d a k n.val) (fun t =>
    let bank := s.wg.bankOfTile 0 n.val
    let bad := s.wg.bankPois 0 n.val
    (List.range (4 * k)).foldl (fun t q =>
      (lanesOf s.exec).foldl (fun t l =>
        t.setV (d.num + q) l 1 (SMap.get 0 (128 * s.lowInt a + 32 * q + l) bank).toNat bad) t) t)

/-- acc.wr (R312). -/
def execAccWr (d a : Operand) (r n : Fin 4) (s : State) : Host.Outcome State Fault Refusal :=
  let k := r.val + 1
  let bad := lanesWhere s.exec (fun l => (List.range (4 * k)).any (fun q => s.vpoison (d.num + q) l))
  s.issueLive (s.accConds d a k n.val ++ laneCond 0x0A bad 0 d.code) (fun t =>
    let put (m : SMap Word) : SMap Word := (List.range (4 * k)).foldl (fun m q =>
      (lanesOf s.exec).foldl (fun m l => SMap.set 0 (128 * s.lowInt a + 32 * q + l) (s.vreg (d.num + q) l) m) m) m
    let g := t.wg.putBankOfTile 0 n.val (put (t.wg.bankOfTile 0 n.val))
    { t with wg := g })

/-- Element bits of a tile's width class (R317), and its payload registers. -/
def classBits_ (w : Nat) : Nat := if w = 0 then 8 else if w = 1 then 6 else 4
def classRegs (w : Nat) : Nat := if w = 2 then 1 else 2

/-- The payload and header addresses of tile t (R318). -/
def State.tileAddrs (s : State) (w : Nat) (b : Fin 32) (x : Operand) : Nat × Nat :=
  let t := s.lowInt x
  let base (r : Nat) : Nat := regsNat s.xreg r 2
  ((base b.val + t * (32 * classBits_ w)) % 2 ^ 56, (base (b.val + 2) + 16 * t) % 2 ^ 56)

/-- Encoding conditions and alignment of tld and tst (R318, R319, R322). -/
def State.tileConds (s : State) (d : Operand) (w : Nat) (b : Fin 32) (x : Operand) : List Cond :=
  let p := s.tileAddrs w b x
  s.encCond (decide (2 < w) || decide (b.val % 4 ≠ 0) || !d.isV || decide (128 < d.num + classRegs w + 1) || s.srcBad 1 x) 0x01 ++
  s.lowCond 1 x ++ s.lowWhen (decide (p.1 % (if w = 2 then 128 else 256) ≠ 0)) 0x07 p.1 ++ s.lowWhen (decide (p.2 % 16 ≠ 0)) 0x07 p.2

/-- The accesses of a tile: its payload's sectors, then its header. -/
def State.tileItems (s : State) (acc : Access) (w : Nat) (b : Fin 32) (x : Operand) : List (Except Cond Item) :=
  let p := s.tileAddrs w b x
  let l := (lowest s.exec).getD 0
  if s.exec = 0 then []
  else (List.range (2 * classBits_ w)).map (fun i => s.judgeLane .g acc 1 l ((p.1 + 16 * i) % 2 ^ 56) 16) ++
    [s.judgeLane .g acc 1 l p.2 16]

/-- The stored index of element k of an image (R318): the transpose's where `tr`. -/
def tileSource (tr : Bool) (k : Nat) : Nat := if tr then 16 * (k % 16) + k / 16 else k

/-- Writes a register tile image (R317) in the lanes of the execution mask: `pay` the payload bytes with their poison,
`hdr` the three header words with theirs. -/
def State.putImage (t : State) (e : LaneMask) (d m : Nat) (pay : List (Byte × Bool)) (hdr : List (Nat × Bool)) : State :=
  let at_ (p : Nat) : Byte × Bool := pay.getD p (0, false)
  (lanesOf e).foldl (fun t l =>
    let t := (List.range m).foldl (fun t q =>
      let bs := (List.range 4).map (fun i => at_ (128 * q + 4 * l + i))
      t.setV (d + q) l 1 (natOfBytes (bs.map (·.1))) (bs.any (·.2))) t
    let h := hdr.getD l (0, false)
    t.setV (d + m) l 1 h.1 h.2) t

/-- tld and tld.t (R318): all the tile's lines are read at one timestamp (R114). A lane's register is poisoned where a sector that
supplies bits of it is, and the header registers where the header's sector is. -/
def State.tileLoad (s : State) (d : Operand) (w : Nat) (b : Fin 32) (x : Operand) (tr : Bool) :
    Host.Outcome State Fault Refusal :=
  let n := classBits_ w
  s.issueItems (s.tileConds d w b x) (s.tileItems .read w b x) (fun is t =>
    if s.exec = 0 then t
    else
      let r := readRunTogether is t
      let pay := r.1.take (32 * n)
      let run := natOfBytes (pay.map (·.1))
      let elems := (List.range 256).map (fun k => field run (n * tileSource tr k) n)
      let out := bytesOf (32 * n) (elems.foldr (fun e v => e + 2 ^ n * v) 0)
      let bad (p : Nat) : Bool := (List.range 8).any (fun j =>
        let at_ := n * tileSource tr ((8 * p + j) / n) + (8 * p + j) % n
        (pay.getD (at_ / 8) (0, false)).2)
      let h := r.1.drop (32 * n)
      let hb := h.map (·.1)
      let hbad := h.any (·.2)
      let words := [natAt hb 0 2, natAt hb (if tr then 6 else 2) 4, natAt hb (if tr then 2 else 6) 4]
      r.2.putImage s.exec d.num (classRegs w) (out.zipIdx.map (fun y => (y.1, if pay.any (·.2) then bad y.2 else false)))
        (words.map (fun v => (v, hbad))))

/-- tld (R318). -/
def execTld (d : Operand) (w : Fin 8) (b : Fin 32) (x : Operand) (s : State) : Host.Outcome State Fault Refusal :=
  s.tileLoad d w.val b x false

/-- tld.t (R318). -/
def execTldT (d : Operand) (w : Fin 8) (b : Fin 32) (x : Operand) (s : State) : Host.Outcome State Fault Refusal :=
  s.tileLoad d w.val b x true

/-- A register of a lane as tst and tscale read it, with its poison (R319, R320): an absent lane reads zero, without poison (R223;
DEDUCED, log 41). -/
def State.laneWord (s : State) (r l : Nat) : Word := if s.wave.present.getLsbD l then s.vreg r l else 0
def State.lanePois (s : State) (r l : Nat) : Bool := s.wave.present.getLsbD l && s.vpoison r l

/-- tst (R319): all 32 lanes of the payload registers and lanes 0 to 2 of the header, as they stand, written at one
timestamp (R114). -/
def execTst (d : Operand) (w : Fin 8) (b : Fin 32) (x : Operand) (s : State) : Host.Outcome State Fault Refusal :=
  let m := classRegs w.val
  let bad := maskOf ((List.range 32).filter (fun l =>
    (List.range m).any (fun q => s.lanePois (d.num + q) l) || (decide (l < 3) && s.lanePois (d.num + m) l)))
  let pay := (List.range m).flatMap (fun q => (List.range 32).flatMap (fun l => bytesOf 4 (s.laneWord (d.num + q) l).toNat))
  let h (l : Nat) : Nat := (s.laneWord (d.num + m) l).toNat
  let image := pay.take (32 * classBits_ w.val) ++ bytesOf 2 (h 0) ++ bytesOf 4 (h 1) ++ bytesOf 4 (h 2) ++ List.replicate 6 0
  s.issueItems (s.tileConds d w.val b x ++ laneCond 0x0A (if s.exec = 0 then 0 else bad) 0 d.code)
    (s.tileItems .write w.val b x) (fun is t =>
      t.writeTogether (is.zipIdx.map (fun i => (i.1, (image.drop (16 * i.2)).take 16))))

/-- The draws of a lane's successive stochastic steps, and the generator after them (R320). -/
def drawSteps (g : Word) : Nat → List Nat × Word
  | 0 => ([], g)
  | n + 1 => let r := stoStep g; let t := drawSteps r.1 n; (r.2 :: t.1, t.2)

/-- tscale (R320): element (i, j) lies in register a + i / 2, lane 16·(i mod 2) + j. -/
def execTscale (d a : Operand) (f : Fin 32) (s : State) : Host.Outcome State Fault Refusal :=
  let c := f.val
  let n := fmtBits c
  let m := if n = 4 then 1 else 2
  let ok := s.et == 4 && decide (s.rnd < 6) && fmtTiled c && d.isV && decide (d.num + m + 1 ≤ 128) && a.isV &&
    decide (a.num + 8 ≤ 128)
  let sto := s.rnd = 5
  let draws (l : Nat) : List Nat × Word := drawSteps (s.gen l) 8
  let x := (List.range 256).map (fun k => s.mode.read .f32 (s.laneWord (a.num + k / 32) (k % 32)).toNat)
  let q := requant c s.rnd s.flushBit x ((List.range 256).map (fun k =>
    if sto then (draws (k % 32)).1.getD (k / 32) 0 else 0))
  let bad := (List.range 8).any (fun r => (List.range 32).any (fun l => s.lanePois (a.num + r) l))
  let pay := bytesOf (32 * n) (q.elems.foldr (fun e v => e.bits + 2 ^ n * v) 0)
  let logs := q.elems.zipIdx.map (fun e => (e.2 % 32, { ev := e.1.ev : LaneOut }))
  s.issueLive (s.encCond (!ok) 0x01) (fun t =>
    let t := t.putImage s.exec d.num m (pay.map (fun b => (b, bad))) ([q.s + 256 * c, q.rho, q.gam].map (fun v => (v, bad)))
    let t := if bad then (lanesOf s.exec).foldl (fun t l =>
        (List.range (m + 1)).foldl (fun t i => t.setV (d.num + i) l 1 (t.vreg (d.num + i) l).toNat true) t) t
      else t
    let t := if sto then t.setGens (lanesOf s.wave.present) (fun l => (draws l).2) else t
    t.logLanes s.frag.pc logs)

/-- fmtv (R300). -/
def execFmtv (d a : Operand) (s : State) : Host.Outcome State Fault Refusal :=
  let agree := (s.voteCond a fmtOk).isEmpty
  s.issueLive (s.encCond (!d.isReg || !a.isV) 0x01 ++ s.cleanCond [(1, a)]) (fun t =>
    let t := t.writeLanes d 1 ((runLanes d s.exec).map (fun l => (l, { v := if agree then s.lowInt a else 0xFFFFFFFF })))
    (lanesOf s.exec).foldl (fun t l => t.setP 15 l (if agree then .t else .f)) t)

end Sys2Proof.Machine
end

