-- ==== Sys2Proof/Machine/MatrixEngine.lean ====
section
/-!
DEFINITION. The matrix engine and the Marionette sequencer at work (spec/12_isa_matrix.md R302, R303, R306 to R316,
spec/24_faults_engines.md R481 to R483).
-/

namespace Sys2Proof.Machine

/-- A matrix operand as the engine reads it (R302, R303): payload, headers, format, stride, its extent across k, and
whether its rows or tile rows run along k. -/
structure MatOp where
  op : Option OpSpot
  hdr : Option OpSpot
  c : Nat
  stride : Nat
  m : Nat
  across : Bool
  deriving DecidableEq, Repr

/-- Sixteen columns of an operand along k: one row per element across, whether a sector read was poisoned, and whether
a t2 code 0b10 was read (R124). -/
structure Slab where
  rows : List (List MatEl) := []
  bad : Bool := false
  t2 : Bool := false
  deriving DecidableEq, Repr

/-- Reads operand bytes on path m (R302, R307). -/
def State.spotRead (s : State) (c : Command) (g : Workgroup) (sp : Option OpSpot) (d n : Nat) : (List Byte × Bool) × State :=
  match sp with
  | some (.scratch wg off) =>
    match s.group wg with
    | some m => (s.localBytes m 3 c.wave (off + d) n, s.observe 3 c.wave (scratchPlace wg (off + d)) n)
    | none => ((List.replicate n 0, false), s)
  | some (.cluster off) =>
    (s.clusterBytes g 3 c.wave (off + d) n, s.observe 3 c.wave (bankPlace (g.bankOf (off + d))) n)
  | none => ((List.replicate n 0, false), s)

/-- Reads rows of `k` plain elements each, at offsets `at_`, and adds them to a slab. -/
def readRows (c : Command) (g : Workgroup) (o : MatOp) (fl : Bool) (k : Nat) : List Nat → Slab × State → Slab × State
  | [], r => r
  | d :: ds, r =>
    let x := r.2.spotRead c g o.op d (ceilDiv (k * fmtBits o.c) 8)
    let raw := packedElems (fmtBits o.c) k (natOfBytes x.1.1)
    readRows c g o fl k ds
      ({ rows := r.1.rows ++ [raw.map (matElem o.c fl (some 0))], bad := r.1.bad || x.1.2
         t2 := r.1.t2 || (o.c == 17 && raw.contains 2) }, x.2)

/-- Reads tiles of given indices, one after another, and adds their rows to a slab (R141, R145, R303). -/
def readTiles (c : Command) (g : Workgroup) (o : MatOp) (fl : Bool) : List Nat → Slab × State → Slab × State
  | [], r => r
  | i :: is, r =>
    let p := r.2.spotRead c g o.op (i * tileBytes o.c) (tileBytes o.c)
    let h := p.2.spotRead c g o.hdr (16 * i) 16
    let pay := natOfBytes p.1.1
    let rows := (List.range 16).map (fun a => (List.range 16).map (fun k =>
      if o.across then tileElem o.c fl pay h.1.1 a k else tileElem o.c fl pay h.1.1 k a))
    readTiles c g o fl is ({ r.1 with rows := r.1.rows ++ rows, bad := r.1.bad || p.1.2 || h.1.2 }, h.2)

/-- Columns 16x to 16x + 15 of an operand along k (R303). -/
def State.readSlab (s : State) (c : Command) (g : Workgroup) (o : MatOp) (fl : Bool) (x : Nat) : Slab × State :=
  if fmtTiled o.c then
    readTiles c g o fl ((List.range (o.m / 16)).map (fun t => if o.across then t * o.stride + x else x * o.stride + t)) ({}, s)
  else if o.across then
    readRows c g o fl 16 ((List.range o.m).map (fun r => r * o.stride + x * (2 * fmtBits o.c))) ({}, s)
  else
    let r := readRows c g o fl o.m ((List.range 16).map (fun k => (16 * x + k) * o.stride)) ({}, s)
    ({ r.1 with rows := (List.range o.m).map (fun i => r.1.rows.map (fun row => row.getD i (.fin false 0 0, .fin false 0 0))) }, r.2)

/-- The operands of a block (R302, R303). -/
def State.blockOps (s : State) (g : Workgroup) (b : MatBlock) : MatOp × MatOp :=
  let f := FmtWord.ofNat b.word
  ({ op := s.operandSpot g b.aop, hdr := s.operandSpot g b.ahdr, c := f.a, stride := b.astr, m := 128, across := !f.at_ },
   { op := s.operandSpot g b.bop, hdr := s.operandSpot g b.bhdr, c := f.b, stride := b.bstr, m := f.cols, across := f.bt })

/-- Causes 1 to 5 of result elements, as sets; the sixth entry says that CODE 0x51 has been written (R417, R483). -/
def noMasks : List Nat := [0, 0, 0, 0, 0, 0]

/-- Applies a chunk of a command to the working bank of its tiles (R307, R308, R483). -/
def State.applyChunk (s : State) (c : Command) (f : FmtWord) (tile : Nat) (fl bd za : Bool) (o : MatOp × MatOp) (x : Nat) :
    State :=
  let g := s.cmdGroup c
  let a := s.readSlab c g o.1 fl x
  let b := a.2.readSlab c g o.2 fl x
  let s := b.2
  let lo := g.bankOfTile 1 tile
  let hi := if f.acc = 3 then g.bankOfTile 1 (tile + 1) else []
  let rows := a.1.rows.zipIdx.map (fun r =>
    accRow f fl bd za r.2 (SMap.sub (128 * r.2) 128 lo) (SMap.sub (128 * r.2) 128 hi) r.1 b.1.rows)
  let bad := a.1.bad || b.1.bad
  let masks := (List.range 5).map (fun k => causeMask (k + 1) rows (c.acc.getD k 0) |||
    (if k = 2 ∧ (a.1.t2 || b.1.t2) then 2 ^ 16384 else 0))
  let note := bad && c.acc.getD 5 0 == 0
  let put (m : Workgroup) : Workgroup :=
    let m := m.putBankOfTile 1 tile (bankOfRows (rows.map (rowWords f)))
    let m := if f.acc = 3 then
        m.putBankOfTile 1 (tile + 1) (bankOfRows (rows.map (fun r => r.map (fun e => BitVec.ofNat 32 e.hi)))) else m
    if bad then (accTiles f.acc tile).foldl (fun m t => m.setBankPois 1 t true) m else m
  let s := (s.modGroup c.wg put).putCmd { c with acc := masks ++ [if bad then 1 else c.acc.getD 5 0] }
  if note then s.engineNote c 0x51 0 else s

/-- A command's counts with its sets of result elements added (R417); the invalid of t2's code 0b10, which is one for the
whole command (R124), counts when it ends. -/
def Command.countMasks (c : Command) (ends : Bool) : Command :=
  let cs := (List.range 5).map (fun k => (k + 1, popCount (if ends then 16385 else 16384) (c.acc.getD k 0)))
  let add (es : List (Nat × Nat)) (x : Nat × Nat) : List (Nat × Nat) :=
    if x.2 = 0 then es
    else if es.any (fun e => e.1 == x.1) then es.map (fun e => if e.1 = x.1 then (e.1, e.2 + x.2) else e)
    else es ++ [x]
  let kept (k : Nat) : Nat := if ends then 0 else c.acc.getD k 0 / 2 ^ 16384 * 2 ^ 16384
  { c with events := cs.foldl add c.events, acc := (List.range 5).map kept ++ [c.acc.getD 5 0] }

/-- The acc.swaps of a workgroup whose earlier entries have finished exchange their banks, in order (R310). -/
def State.runSwaps (s : State) (id : Nat) : State :=
  ((s.group id).elim [] (fun g => g.swaps)).foldl (fun s x =>
    match s.group id with
    | none => s
    | some g =>
      if s.entryBefore g x.2 x.1 then s
      else (s.modGroup id (fun g => { g.swapTile x.2 with swaps := g.swaps.filter (fun y => y.1 != x.1) })).wakeIf
        (fun _ f => f.wait == some (.swap x.1))) s

/-- A matrix entry leaves its queue (R306): its records are written, a place is free, swaps may follow. -/
def State.endEntry (s : State) (c : Command) : State :=
  let c := c.countMasks true
  let s := s.logCmd c 1
  let s := { s with matq := SMap.set [] c.core ((SMap.get [] c.core s.matq).filter (fun id => id != c.id)) s.matq }
  let s := s.putCmd { c with phase := .done }
  let s := if c.kind = CmdKind.accZero then s.retireCmd c else s
  (s.runSwaps c.wg).wakeIf (fun w f => w.core == c.core && f.status == .blocked && f.wait == some .again)

/-- The entry at the head of a core's matrix queue. -/
def State.matHead (s : State) (core : Nat) : Option Command := (SMap.get [] core s.matq).head?.bind s.cmd

/-- An acc.swap posted before an entry still waits for its tile (R310). -/
def State.swapFirst (s : State) (c : Command) : Bool :=
  (s.cmdGroup c).swaps.any (fun x => decide (x.1 < c.entered) && c.tiles.contains x.2)

/-- An entry begins (R306, R311, R315, R316): acc.zero does all it does, a block starts its first chunk, an mmat its first
K-step or the one recorded. -/
def State.beginEntry (s : State) (c : Command) : State :=
  match c.kind with
  | .accZero => (s.modGroup c.wg (fun g => g.clearBank 1 (c.args.getD 0 0))).endEntry c
  | .mmat =>
    let d := MmatDesc.ofBytes c.desc
    s.putCmd { c with phase := .running, total := d.mb * d.nb * d.ksteps, acc := if c.progress = 0 then noMasks else c.acc }
  | _ =>
    let b := c.block
    let s := if b.za then s.modGroup c.wg (fun g => c.tiles.foldl (fun g t => g.setBankPois 1 t false) g) else s
    s.putCmd { c with phase := .running, progress := 0, total := b.k / 16, retries := 0, acc := noMasks }

/-- An earlier entry of the same workgroup and queue was withdrawn, and comes first when it is posted again (R290, R316). -/
def State.withdrawnFirst (s : State) (c : Command) : Bool :=
  s.withdrawn.any (fun x => x.queued && x.core == c.core && x.wg == c.wg && decide (x.entered < c.entered))

/-- The engine takes up the entry at the head of its queue (R306, R310, R313): a guarded one reads its guard word in
local memory. -/
def execMatrixEntryStart (core : Nat) (s : State) : Host.Outcome State Fault Refusal :=
  match s.matHead core with
  | none => .next s
  | some c =>
    if (c.phase ≠ .posted ∧ c.phase ≠ .landed) ∨ s.cmdStopped c ∨ s.swapFirst c ∨ s.withdrawnFirst c then .next s
    else
      let w := c.block.guard
      if (c.kind = .mma ∨ c.kind = .mmaB ∨ c.kind = .cpyThen) ∧ bitAt w 31 then
        let r := s.localBytes (s.cmdGroup c) 0 c.wave (w % 2 ^ 19) 4
        let v := if r.2 then 0 else natOfBytes r.1
        let s := s.observe 0 c.wave (scratchPlace c.wg (w % 2 ^ 19)) 4
        if v = 0 then .next (s.putCmd { c with phase := .guarded })
        else if v = 1 then .next ((s.fence c.core 0 3 c.wave).beginEntry c)
        else .next (s.endEntry c)
      else .next (s.beginEntry c)

/-- An attempt at a chunk mismatches its residues in `n` elements (R481): it is logged, and the third confines the
workgroup and marks the core. -/
def State.mismatched (s : State) (c : Command) (n : Nat) : State :=
  let g := s.cmdGroup c
  let s := s.alog g.who (s.grantOf g) (c.alogRec g 1 6 n)
  if c.retries + 1 < 3 then s.putCmd { c with retries := c.retries + 1 }
  else
    let off := 0x900 + 4 * (c.core / 16)
    (s.setReg off (s.reg off ||| BitVec.twoPow 32 (c.core % 16))).engineConfine c 0x50 0

/-- Copies `n` bytes of a context's space to a workgroup's local memory on path c, sector by sector of the destination,
with their poison (R315): the first failure, and the state with what was written before it (R477). -/
def stageBytes (c : Command) (g : Workgroup) : Nat → Nat → Nat → Nat → State → Option (Nat × EngFail) × State
  | 0, _, _, _, s => (none, s)
  | fuel + 1, va, off, n, s =>
    if n = 0 then (none, s)
    else
      let k := min n (16 - off % 16)
      match s.engRead 2 c g 0 (va % 2 ^ 56) k with
      | .error e => (some (va % 2 ^ 56, e), s)
      | .ok (r, t) =>
        match t.engWrite 2 c g 1 off r.1 r.2 with
        | .error e => (some (va % 2 ^ 56, e), s)
        | .ok t => stageBytes c g fuel (va + k) (off + k) (n - k) t

/-- Stages pieces of `n` bytes each, from given addresses to successive places. -/
def stageAll (c : Command) (g : Workgroup) (n : Nat) : List Nat → Nat → State → Option (Nat × EngFail) × State
  | [], _, s => (none, s)
  | va :: vas, off, s =>
    match stageBytes c g (n / 16 + 2) va off n s with
    | (some e, t) => (some e, t)
    | (none, t) => stageAll c g n vas (off + n) t

/-- A panel of a K-step (R315): its pieces' size and addresses, and its header addresses. `m` elements across from
`from_`, `k` deep from `kf`. -/
def panelPieces (c base hbase stride m from_ k kf : Nat) (across : Bool) : Nat × List Nat × List Nat :=
  let b := fmtBits c
  if fmtTiled c then
    let idx := if across then
        (List.range (m / 16)).flatMap (fun t => (List.range (k / 16)).map (fun x => (from_ / 16 + t) * stride + (kf / 16 + x)))
      else (List.range (k / 16)).flatMap (fun x => (List.range (m / 16)).map (fun t => (kf / 16 + x) * stride + (from_ / 16 + t)))
    (tileBytes c, idx.map (fun i => base + i * tileBytes c), idx.map (fun i => hbase + 16 * i))
  else if across then (k * b / 8, (List.range m).map (fun r => base + (from_ + r) * stride + kf * b / 8), [])
  else (m * b / 8, (List.range k).map (fun r => base + (kf + r) * stride + from_ * b / 8), [])

/-- The stride of a packed panel (R315). -/
def panelStride (c m k : Nat) (across : Bool) : Nat :=
  if fmtTiled c then (if across then k / 16 else m / 16) else (if across then k else m) * fmtBits c / 8

/-- Stages the panels of a K-step into its half of BUF (R315): A payload, B payload, A headers, B headers. -/
def State.stagePanels (s : State) (c : Command) (d : MmatDesc) (mb nb ks : Nat) : Option (Nat × EngFail) × State :=
  let g := s.cmdGroup c
  let f := FmtWord.ofNat d.word
  let at0 := d.buf + ks % 2 * d.half
  let pa := panelPieces f.a d.abase d.ahbase d.astr 128 (128 * mb) d.ks (d.ks * ks) (!f.at_)
  let pb := panelPieces f.b d.bbase d.bhbase d.bstr f.cols (f.cols * nb) d.ks (d.ks * ks) f.bt
  let at1 := at0 + (panelBytes f.a 128 d.ks).1
  let at2 := at1 + (panelBytes f.b f.cols d.ks).1
  let parts : List (Nat × List Nat × Nat) :=
    [(pa.1, pa.2.1, at0), (pb.1, pb.2.1, at1), (16, pa.2.2, at2), (16, pb.2.2, at2 + (panelBytes f.a 128 d.ks).2)]
  parts.foldl (fun r x => match r.1 with
    | some _ => r
    | none => stageAll c g x.1 x.2.1 x.2.2 r.2) (none, s)

/-- The staged panels as operands. -/
def MmatDesc.ops (d : MmatDesc) (g : Workgroup) (ks : Nat) : MatOp × MatOp :=
  let f := FmtWord.ofNat d.word
  let at0 := d.buf + ks % 2 * d.half
  let at1 := at0 + (panelBytes f.a 128 d.ks).1
  let at2 := at1 + (panelBytes f.b f.cols d.ks).1
  ({ op := some (.scratch g.id at0), hdr := some (.scratch g.id at2), c := f.a, stride := panelStride f.a 128 d.ks (!f.at_)
     m := 128, across := !f.at_ },
   { op := some (.scratch g.id at1), hdr := some (.scratch g.id (at2 + (panelBytes f.a 128 d.ks).2)), c := f.b
     stride := panelStride f.b f.cols d.ks f.bt, m := f.cols, across := f.bt })

/-- The chunks that a running mmat has done of the K-step whose panels it has staged (R315). -/
def Command.chunksDone (c : Command) : Option Nat := c.query.head?

/-- The next chunk of a running mmat's K-step is applied to its working bank (R307, R315); its attempts start afresh (R481). -/
def State.mmatChunk (s : State) (c : Command) (x : Nat) : State :=
  let d := MmatDesc.ofBytes c.desc
  let t := s.applyChunk c (.ofNat d.word) d.acc d.fl false false (d.ops (s.cmdGroup c) (c.progress % d.ksteps)) x
  match t.cmd c.id with
  | none => t
  | some c => t.putCmd { c with query := [x + 1], retries := 0 }

/-- A 16-deep chunk of the running block, or of the running mmat's K-step, is done, or `mismatch` of its elements fail their
residue check (R307 to R309, R315, R481). -/
def execMatrixChunkComplete (core mismatch : Nat) (s : State) : Host.Outcome State Fault Refusal :=
  match s.matHead core with
  | none => .next s
  | some c =>
    if c.phase ≠ .running ∨ s.cmdStopped c then .next s
    else if c.kind = .mmat then
      match c.chunksDone with
      | none => .next s
      | some x =>
        if (MmatDesc.ofBytes c.desc).ks / 16 ≤ x then .next s
        else .next (if 0 < mismatch then s.mismatched c mismatch else s.mmatChunk c x)
    else if 0 < mismatch then .next (s.mismatched c mismatch)
    else
      let b := c.block
      let t := s.applyChunk c (.ofNat b.word) b.acc b.fl b.bd (b.za && c.progress == 0) (s.blockOps (s.cmdGroup c) b) c.progress
      match t.cmd c.id with
      | none => .next t
      | some c =>
        let c := { c with progress := c.progress + 1, retries := 0 }
        .next (if c.progress < c.total then t.putCmd c else (t.putCmd c).endEntry c)

/-- An accumulator element as the drain writes it (R315): its bytes and the causes met. -/
def drainElem (f : FmtWord) (outf : Nat) (fl : Bool) (lo hi : Nat) : List Byte × List Nat :=
  match outf with
  | 0 => (if f.acc = 1 then bytesOf 8 lo else if f.acc = 3 then bytesOf 4 lo ++ bytesOf 4 hi else bytesOf 4 lo, [])
  | o =>
    let v := FFmt.f32.decode lo
    let r := { flush := fl : Mode }.roundTo (if o = 1 then .bf16 else .f16) 0 { v := v, ev := sigEv v }
    (bytesOf 2 r.bits, r.ev)

/-- Writes bytes of a context's space on path m, sector by sector, with their poison. -/
def drainBytes (c : Command) (g : Workgroup) (bad : Bool) : Nat → Nat → List Byte → State → Option (Nat × EngFail) × State
  | 0, _, _, s => (none, s)
  | fuel + 1, va, bs, s =>
    if bs.isEmpty then (none, s)
    else
      let k := min bs.length (16 - va % 16)
      match s.engWrite 3 c g 0 (va % 2 ^ 56) (bs.take k) bad with
      | .error e => (some (va % 2 ^ 56, e), s)
      | .ok t => drainBytes c g bad fuel (va + k) (bs.drop k) t

/-- The rows of the working bank that a drain writes (R315): bytes and causes by element. -/
def Workgroup.drainRows (g : Workgroup) (d : MmatDesc) : List (List (List Byte × List Nat)) :=
  let f := FmtWord.ofNat d.word
  let lo := g.bankOfTile 1 d.acc
  let hi := if f.acc = 3 then g.bankOfTile 1 (d.acc + 1) else []
  (List.range 128).map (fun i =>
    let rl := SMap.sub (128 * i) 128 lo
    let rh := SMap.sub (128 * i) 128 hi
    let w (m : SMap Word) (k : Nat) : Nat := (SMap.get 0 k m).toNat
    (List.range f.cols).map (fun j =>
      drainElem f d.outf d.fl (if f.acc = 1 then w rl (2 * j) + 2 ^ 32 * w rl (2 * j + 1) else w rl j) (w rh j)))

/-- Drains rows to C, ascending (R315). -/
def drainAll (c : Command) (g : Workgroup) (bad : Bool) (cstr : Nat) : List (List Byte) → Nat → State → Option (Nat × EngFail) × State
  | [], _, s => (none, s)
  | r :: rs, va, s =>
    match drainBytes c g bad (r.length / 16 + 2) va r s with
    | (some e, t) => (some e, t)
    | (none, t) => drainAll c g bad cstr rs (va + cstr) t

/-- Drains the working bank to block (mb, nb) of C and counts the block's events (R315, R417, R483). -/
def State.drain (s : State) (c : Command) (d : MmatDesc) (mb nb : Nat) : Option (Nat × EngFail) × State :=
  let g := s.cmdGroup c
  let f := FmtWord.ofNat d.word
  let rows := g.drainRows d
  let size := if d.outf = 0 then (if f.acc = 1 ∨ f.acc = 3 then 8 else 4) else 2
  let bad := (accTiles f.acc d.acc).any (g.bankPois 1)
  let cells := rows.map (fun r => r.map (fun e => ({ lo := 0, ev := e.2 } : CellOut)))
  let c := { c with acc := (List.range 5).map (fun k => causeMask (k + 1) cells (c.acc.getD k 0)) ++ [c.acc.getD 5 0] }
  let va := d.cbase + 128 * mb * d.cstr + f.cols * nb * size
  match drainAll c g bad d.cstr (rows.map (fun r => r.flatMap (·.1))) va s with
  | (some e, t) => (some e, t)
  | (none, t) => (none, t.putCmd (c.countMasks false))

/-- What a part of a K-step leaves: an access that is held, or waits for the host, leaves `s` as it was and is made again; one that
fails ends the mmat as it does a copy, after what it had written (R460, R477). -/
def State.orFail (s : State) (c : Command) (r : Option (Nat × EngFail) × State) (go : State → State) : State :=
  match r with
  | (some (a, .busy), _) => s.engineFail c a .busy
  | (some (a, .page p), _) => s.engineFail c a (.page p)
  | (some (a, e), t) => t.engineFail c a e
  | (none, t) => go t

/-- A K-step of the running mmat begins (R315, R316): its working bank is zeroed at the first step of a block, and the panels are
staged on path c; a workgroup that a slice end has frozen begins no further one. -/
def State.stageStep (s : State) (c : Command) (d : MmatDesc) (mb nb ks : Nat) : State :=
  if (s.cmdGroup c).frozen then s
  else
    let tiles := accTiles (FmtWord.ofNat d.word).acc d.acc
    let t := if ks = 0 then s.modGroup c.wg (fun g => tiles.foldl (fun g n => g.clearBank 1 n) g) else s
    s.orFail c (t.stagePanels c d mb nb ks) (fun t =>
      (t.markSeen (fun e => e.cmd == c.id) 3 (some c.wave)).putCmd { c with query := [0] })

/-- A K-step of the running mmat ends (R315): the last one of a block drains it. -/
def State.endStep (s : State) (c : Command) (d : MmatDesc) (mb nb ks : Nat) : State :=
  s.orFail c (if ks + 1 = d.ksteps then s.drain c d mb nb else (none, s)) (fun t =>
    match t.cmd c.id with
    | none => t
    | some c =>
      let c := { c with progress := c.progress + 1, query := [] }
      if c.progress < c.total then t.putCmd c else (t.putCmd c).endEntry c)

/-- A K-step of the running mmat begins, or ends once its chunks are done (R315, R316, R477). -/
def execMmatKstep (core : Nat) (s : State) : Host.Outcome State Fault Refusal :=
  match s.matHead core with
  | none => .next s
  | some c =>
    if c.phase ≠ .running ∨ c.kind ≠ .mmat ∨ s.cmdStopped c then .next s
    else
      let d := MmatDesc.ofBytes c.desc
      let blk := c.progress / d.ksteps
      let ks := c.progress % d.ksteps
      match c.chunksDone with
      | none => .next (s.stageStep c d (blk % d.mb) (blk / d.mb) ks)
      | some x => .next (if d.ks / 16 ≤ x then s.endStep c d (blk % d.mb) (blk / d.mb) ks else s)

end Sys2Proof.Machine
end

