-- ==== Sys2Proof/Machine/Parking.lean ====
section
/-!
DEFINITION. Deep parking, eviction and restoration of waves (spec/03_scheduling.md R66, R67, spec/04_memory.md R74, R75,
R100, R101, spec/21_faults_execution.md R437).
-/

namespace Sys2Proof.Machine

/-- PARK of a context, in ACLK (R52, R66). -/
def State.parkTime (s : State) (g : Workgroup) : Nat := 1024 * s.ctxField g.part g.vf g.ctx 72 4

/-- A dependence on which a wave may be deep-parked (R66, R431, R451): none of a missed load, a rejoin or a page request. -/
def Wait.parks : Wait → Bool
  | .rejoin _ => false
  | .loads _ => false
  | .pri _ => false
  | _ => true

/-- ACLK count since when every fragment of a wave waits on such a dependence. -/
def parkedSince (fs : List Frag) : Option Nat :=
  if fs.isEmpty || !fs.all (fun f => f.status == .waiting && (f.wait.elim false Wait.parks)) then none
  else some (fs.foldl (fun t f => max t f.since) 0)

/-- The wave's fragments have all waited PARK·1,024 ACLK (R66); PARK 0 never evicts. -/
def State.parkDue (s : State) (b : WaveBox) : Bool :=
  match parkedSince b.frags with
  | some t => decide (s.parkTime (s.groupOf b.wave) ≠ 0) && decide (t + s.parkTime (s.groupOf b.wave) ≤ s.coreCyc b.wave.core) && !b.wave.away
  | none => false

/-- A wave becomes deep-parked (R66); a PARK that cannot be had confines the context (R422, R513). -/
def execDeepPark (wave : Nat) (s : State) : Host.Outcome State Fault Refusal :=
  match s.box wave with
  | some b =>
    let who := (s.groupOf b.wave).who
    let lost := (s.ctxBad who.part who.vf who.ctx 72 4).isSome
    if b.wave.away || (parkedSince b.frags).isNone || decide (b.wave.parkSince = parkedSince b.frags) then .next s
    else if lost then .next (if s.ctxConfined who then s else s.useCtx who 72 4)
    else if s.parkDue b then .next ((s.useCtx who 72 4).modWave wave (fun w => { w with parkSince := parkedSince b.frags }))
    else .next s
  | none => .next s

/-- The wave is deep-parked, and still is. -/
def State.deepParked (s : State) (w : Wave) : Bool :=
  match s.box w.id with
  | some b => w.parkSince.isSome && decide (w.parkSince = parkedSince b.frags) && !w.away
  | none => false

/-- The deep-parked wave of a port that has been parked longest (R66). -/
def State.longestParked (s : State) (core port : Nat) : Option Nat :=
  (bestOf (fun a b => decide (a.wave.parkSince.getD 0 < b.wave.parkSince.getD 0))
    ((s.onPort core port).filter (fun b => s.deepParked b.wave))).map (·.wave.id)

/-- The core on which a waiting workgroup has deep-parked waves evicted (R66): among its targets on which it fits once
they have left, the one that R60 ranks first. -/
def State.evictCore (s : State) (l : Launch) (reserved : List Nat) : Option Nat :=
  s.mostFree l s.deepParked ((s.openTargets l reserved).filter (fun c => s.fitsWithout l c s.deepParked))

/-- The first waiting candidate for which waves are evicted, and its core; nothing is evicted while one can start. -/
def State.firstEvict (s : State) : List Cand → List Nat → Option (Launch × Nat)
  | [], _ => none
  | c :: cs, reserved =>
    match s.startCore c.l reserved with
    | some _ => none
    | none =>
      match s.evictCore c.l reserved with
      | some n => some (c.l, n)
      | none => s.firstEvict cs (s.reserves c.l ++ reserved)

/-- A wave finds its registers, a position and fragment slots on its port (R67). -/
def State.waveFits (s : State) (b : WaveBox) : Bool :=
  let r := s.portRoom b.wave.core b.wave.port (fun _ => false)
  decide (1 ≤ r.1) && decide (regsTaken b.wave.nregs ≤ r.2.1) && decide (b.frags.length ≤ r.2.2)

/-- The woken wave that its port restores next (R67): the first in the order of the wakes. -/
def State.nextRestore (s : State) (core port : Nat) : Option WaveBox :=
  bestOf (fun a b => decide (a.wave.wake.getD 0 < b.wave.wake.getD 0))
    (s.boxes.filter (fun b => b.wave.core == core && b.wave.port == port && b.wave.away && b.wave.wake.isSome &&
      (let g := s.groupOf b.wave; !g.frozen && !s.confined g)))

/-- Something waits for room on a port that deep-parked waves hold (R66, R67). -/
def State.roomWanted (s : State) (part core port : Nat) : Bool :=
  (match s.nextRestore core port with
    | some b => !s.waveFits b
    | none => false) ||
  (match s.firstEvict (s.candidates part) [] with
    | some (l, n) => (membersOn l.size n).contains core && !s.portFits core port l.lanes l.kernel.vregs (fun _ => false)
    | none => false)

/-- Poisons a sector of a context's space. -/
def State.ctxPoison (s : State) (who : Who) (va : Nat) : State :=
  match s.placeOf (s.ctxPa who va) with
  | some p => { s with poison := SMap.set false (p / 16) true s.poison }
  | none => s

/-- Bytes that lie in a save area: the wave image, and where the private region begins (R75). -/
def imageBytes : Nat := 65536

/-- The vector registers of a wave as its image holds them (R66, R69, R100, R101): each in the form that restores the lanes
of `keep`, from the start of the slot; where they stand in it is the model's choice (log 53). -/
def Wave.regImage (w : Wave) (keep : Nat → LaneMask) : List Byte :=
  spillBytes ((List.range (regsTaken w.nregs)).map (fun i => spillForm (keep i) ((List.range 32).map (fun l =>
    if (keep i).getLsbD l then (SMap.get 0 (32 * i + l) w.vregs).toNat else 0))))

/-- Writes a wave's image and its private store to its save slot, as far as the slot takes them (R66, R69, R74, R437): why
it does not take both, and the state. The rest of the image, whose layout the spec does not give, is free bytes (log 53). -/
def State.saveWave (s : State) (g : Workgroup) (w : Wave) (keep : Nat → LaneMask) : Option XFail × State :=
  let who : Who := { g.who with wave := w.id }
  let s := s.useCtx who 56 8
  let base := s.saveSlot w g
  let regs := w.regImage keep
  let image := s.ctxPut who (s.grantOf g) base (regs ++ (List.range (imageBytes - regs.length)).map (Config.freeByte s.free))
  match State.ctxPut { image.2 with free := image.2.free + 1 } who (s.grantOf g) (base + imageBytes) (SMap.getList 0 0 4096 w.priv) with
  | (some e, t) => (image.1.orElse (fun _ => some e), t)
  | (none, t) => (image.1, (List.range 256).foldl (fun s i =>
      if SMap.get false i w.privPois then s.ctxPoison who (base + imageBytes + 16 * i) else s) t)

/-- A save slot that cannot be written confines the context (R437), or, where a table entry cannot be corrected, the entry's owner,
whose confinement is owed (R422). -/
def State.slotLost (s : State) (g : Workgroup) (e : XFail) (addr : Nat) : State :=
  if e.ue.isSome then s else s.confineCtx g.who 0x18 addr g.launchAddr.toNat

/-- What a restoration finds in a save slot (R437). -/
inductive SlotRead where
  | ok (priv : SMap Byte) (pois : SMap Bool)
  | ue (level code at_ : Nat)
  | lost
  deriving DecidableEq, Repr

/-- The first address of a range of a context's space whose sector memory cannot correct (R422). -/
def State.ctxUnread (s : State) (who : Who) (va n : Nat) : Option Nat :=
  match s.xlateAll who .read (pieces va n) with
  | .error _ => none
  | .ok xs => xs.findSome? (fun x => match s.placeOf x.1.pa with
      | some p => if (List.range ((p % 16 + x.2.2 + 15) / 16)).any (fun i => s.unread (p / 16 + i)) then some x.1.pa else none
      | none => none)

/-- Reads a wave's save slot: its image has to be readable, and its private store comes back with the poison that it had
(R74, R437); a line beyond correction, and any poisoned one of the image, is a save-area error (R422). -/
def State.readSlot (s : State) (g : Workgroup) (w : Wave) : SlotRead :=
  let who : Who := { g.who with wave := w.id }
  let base := s.saveSlot w g
  let fail (e : XFail) : SlotRead := match e.ue with
    | some u => .ue u.1 u.2.1 u.2.2
    | none => .lost
  match s.ctxRead who 0 base imageBytes .read with
  | .error e => fail e
  | .ok r =>
    if r.2 then .ue 2 0x0D (s.ctxPa who base)
    else
      let rs := (List.range 256).map (fun i => s.ctxRead who 0 (base + imageBytes + 16 * i) 16 .read)
      match rs.findSome? (fun r => match r with
          | .ok _ => none
          | .error e => some (fail e)), s.ctxUnread who (base + imageBytes) 4096 with
      | some f, _ => f
      | none, some a => .ue 2 0x0D a
      | none, none => .ok (SMap.ofList 0 (rs.flatMap (fun r => (r.toOption.elim [] (·.1)))))
          (SMap.ofList false (rs.map (fun r => r.toOption.elim false (·.2))))

/-- The reads that a restoration makes of a save slot (R89, R95). -/
def State.seenSlot (s : State) (g : Workgroup) (w : Wave) : State :=
  s.seen { g.who with wave := w.id } 0 (s.saveSlot w g) (imageBytes + 4096) .read

/-- A key slot that changes its mode holds the reads of a save slot (R460). -/
def State.slotHeld (s : State) (g : Workgroup) (w : Wave) : Bool := s.ctxHeld g.who (s.saveSlot w g) (imageBytes + 4096) .read

/-- Timeouts of a wave that leaves its port hold the count that is left, and go on when it is back (R432). -/
def pauseTokens (now : Nat) (w : Wave) : Wave :=
  { w with tokens := w.tokens.map (fun (t : Nat × Token) => (t.1, { t.2 with deadline := t.2.deadline.map (· - now) })) }

def runTokens (now : Nat) (w : Wave) : Wave :=
  { w with tokens := w.tokens.map (fun (t : Nat × Token) => (t.1, { t.2 with deadline := t.2.deadline.map (· + now) })) }

/-- A deep-parked wave leaves its port for its save slot (R66): its watches stay armed, and its fragments are evicted. A
slot that cannot be written confines the context (R437). -/
def State.evict (s : State) (b : WaveBox) : State :=
  let s := s.unfocus
  let g := s.groupOf b.wave
  match s.saveWave g b.wave (fun _ => b.wave.present) with
  | (some e, s) => s.slotLost g e (s.saveSlot b.wave g)
  | (none, s) => { s with others := s.others.map (fun (x : WaveBox) =>
      if x.wave.id = b.wave.id then
        { wave := { pauseTokens (s.coreCyc x.wave.core) x.wave with away := true, parkSince := none }
          frags := x.frags.map (fun f => { f with status := .evicted }) }
      else x) }

/-- A wave is evicted to make room (R66, R67): the longest-parked one of a port for which something waits. -/
def execWaveEviction (wave : Nat) (s : State) : Host.Outcome State Fault Refusal :=
  match s.box wave with
  | none => .next s
  | some b =>
    let g := s.groupOf b.wave
    if s.longestParked b.wave.core b.wave.port = some wave ∧ s.roomWanted g.part b.wave.core b.wave.port ∧ !g.frozen ∧
        !s.confined g then .next (s.evict b)
    else .next s

/-- A number that took the place of another. -/
def renamed (m : List (Nat × Nat)) (k : Nat) : Nat := ((m.find? (fun x => x.1 == k)).map (·.2)).getD k

/-- A wave's fragments take the lowest free slots of its port again (R67), and what names their slots follows. -/
def State.reslot (s : State) (b : WaveBox) : WaveBox × State :=
  let used := (s.onPort b.wave.core b.wave.port).flatMap (fun x => x.frags.map (·.slot))
  let free := (List.range 64).filter (fun i => !used.contains i)
  let m := (b.frags.map (·.slot)).zip free
  ({ wave := { b.wave with
       tokens := b.wave.tokens.map (fun (t : Nat × Token) => (t.1, { t.2 with parent := renamed m t.2.parent }))
       hx := b.wave.hx.map (fun h => { h with slot := renamed m h.slot }) }
     frags := b.frags.map (fun f => { f with slot := renamed m f.slot }) },
   { s with
     watches := s.watches.map (fun (w : Watch) => if w.wave = b.wave.id then { w with slot := renamed m w.slot } else w)
     pendLoads := s.pendLoads.map (fun (p : PendLoad) => if p.wave = b.wave.id then { p with slot := renamed m p.slot } else p)
     halted := s.halted.map (fun (h : Nat × Nat) => if h.1 / 64 = b.wave.id then (64 * b.wave.id + renamed m (h.1 % 64), h.2) else h) })

/-- A wave is back on its port (R61, R67, R74): its private store as its slot holds it, its waiting fragments waiting, from now on
(R66, R406). -/
def State.comeBack (s : State) (b : WaveBox) (priv : SMap Byte) (pois : SMap Bool) : State :=
  let r := s.reslot b
  let g := s.groupOf b.wave
  let s := r.2.enterPort b.wave.core b.wave.port g.part g.vf
  let wave := { runTokens (s.coreCyc b.wave.core) r.1.wave with
    priv := priv, privPois := pois, away := false, wake := none, place := b.wave.wake, parkSince := none }
  let frags := r.1.frags.map (fun (f : Frag) =>
    if f.wait.isSome then { f with status := .waiting, since := s.coreCyc b.wave.core } else { f with status := .pendingReady, since := s.coreCyc b.wave.core })
  { s with others := insertBox { wave := wave, frags := frags } (s.others.filter (fun x => x.wave.id != b.wave.id)) }

/-- A woken wave is restored to its port once it fits (R67); a slot that cannot be read confines the context (R437). -/
def execWaveRestore (wave : Nat) (s : State) : Host.Outcome State Fault Refusal :=
  let s := s.unfocus
  match s.box wave with
  | none => .next s
  | some b =>
    let g := s.groupOf b.wave
    if (s.nextRestore b.wave.core b.wave.port).map (·.wave.id) = some wave ∧ s.waveFits b ∧ !s.slotHeld g b.wave then
      let r := s.readSlot g b.wave
      let s := s.seenSlot g b.wave
      match r with
      | .lost => .next (s.confineCtx g.who 0x18 (s.saveSlot b.wave g) g.launchAddr.toNat)
      | .ue lv code a => .next (s.confineUe g.who lv code a)
      | .ok priv pois => .next (s.comeBack b priv pois)
    else .next s

end Sys2Proof.Machine
end

