-- ==== Sys2Proof/Machine/Waits.lean ====
section
/-!
DEFINITION. What ends a fragment's wait and what moves fragments among the states of a port: timeouts of rejoins
(spec/02_execution_model.md R41, R194, R432), re-tests of waits (spec/05_consistency.md R116, R203), sleeps (R199), data of
loads (R62, R92), and the replacement and ageing of fragments (R63).
-/

namespace Sys2Proof.Machine

/-- Puts some fragment of a wave in focus. -/
def State.focusWave (s : State) (id : Nat) : Option State :=
  if s.focus && s.wave.id == id then some s
  else match s.box id with
    | some b => match b.frags with
      | f :: _ => s.focusOn id f.slot
      | [] => none
    | none => none

/-- The waits of a wave are served: it is resident, and nothing freezes its workgroup (R66, R68, R423, R432). -/
def State.served (s : State) (w : Wave) : Bool :=
  let g := s.groupOf w
  !w.away && !g.frozen && !s.confined g

/-- A rejoin timeout expires (R41, R194, R431, R432): the fragments that have arrived merge, and the record is freed. An
arrival of the same ACLK that completes the record comes first. -/
def execRejoinTimeout (wave tokenId : Nat) (s : State) : Host.Outcome State Fault Refusal :=
  match s.focusWave wave with
  | none => .next s
  | some t =>
    match t.wave.tokens.find? (fun x => x.1 == tokenId) with
    | some (_, r) =>
      .next (if t.overdue r && t.served t.wave then t.mergeToken tokenId else t)
    | none => .next t

/-- A fragment waits on memory through watches (R116). -/
def Wait.watches : Wait → Bool
  | .cells _ => true
  | .counters _ _ => true
  | .future _ _ => true
  | .tbar _ _ => true
  | .texels _ _ _ _ => true
  | _ => false

/-- Tests the wait of the focused fragment again (R116, R203, R331). -/
def State.retestAny (s : State) : State :=
  match s.frag.wait with
  | some (.texels _ _ _ _) => s.scRetry State.texelWoken
  | _ => s.retest

/-- The periodic test of the lines that the focused fragment's wait could not watch (R203, R331). -/
def State.retestDue (s : State) : State :=
  match s.frag.wait with
  | some (.texels _ _ _ _) => if s.wave.away then s else s.scRetry State.texelWoken
  | _ => s.retestLeft

/-- The watches of a fragment. -/
def State.watchesOf (s : State) (wave slot : Nat) : List Watch :=
  s.watches.filter (fun w => w.wave == wave && w.slot == slot)

/-- A woken wait reads its cells again and returns or parks again (R116); a woken wave that is evicted keeps its wake,
and is restored first (R67). -/
def execWaitRetest (wave slot : Nat) (s : State) : Host.Outcome State Fault Refusal :=
  if !(s.watchesOf wave slot).any (·.woken) then .next s
  else
    match s.focusOn wave slot with
    | none => .next s
    | some t =>
      if t.wave.away then
        .next (if t.wave.wake.isSome then t
          else { t with wave := { t.wave with wake := some (t.wave.place.getD t.nextId) }, nextId := t.nextId + 1 })
      else if !t.served t.wave then .next t
      else .next t.retestAny

/-- Every 1,024 ACLK a wait, also one of an evicted wave (R463), tests again the lines that it could not watch (R203). -/
def execWaitPeriodicRetest (wave slot : Nat) (s : State) : Host.Outcome State Fault Refusal :=
  match s.focusOn wave slot with
  | none => .next s
  | some t =>
    match t.frag.wait with
    | none => .next t
    | some w =>
      if w.watches && !t.frag.left.isEmpty && t.served { t.wave with away := false } &&
          decide (max t.frag.since t.frag.retested + 1024 ≤ t.now) then
        .next (State.retestDue { t with frag := { t.frag with retested := t.now } })
      else .next t

/-- A sleep ends (R199): the fragment becomes pending-ready. -/
def execSleepExpiry (wave slot : Nat) (s : State) : Host.Outcome State Fault Refusal :=
  .next (s.wakeIf (fun w f => w.id == wave && f.slot == slot && (match f.wait with
    | some (.sleep stop) => decide (stop ≤ s.coreCyc w.core)
    | _ => false)))

/-- ACLK that a fragment has spent ready and pending-ready since it last issued (R63 rule 2). -/
def State.readied (s : State) (core : Nat) (f : Frag) : Nat :=
  f.readyTime + (if f.status = .ready ∨ f.status = .pendingReady then s.coreCyc core - f.since else 0)

/-- A fragment that has spent 512 ACLK ready or pending-ready without issuing gets rank 7 (R63 rule 2). -/
def execFragmentRankAging (wave slot : Nat) (s : State) : Host.Outcome State Fault Refusal :=
  .next (s.modFrags (fun w f => if w.id = wave ∧ f.slot = slot ∧ 512 ≤ s.readied w.core f then { f with aged := true } else f))

/-- Active fragment `a` is replaced before `b` (R63 rule 3): most issues, then the earliest entry, then the lowest
slot. -/
def replacedFirst (a b : Wave × Frag) : Bool :=
  decide (b.2.issued < a.2.issued) || (decide (a.2.issued = b.2.issued) &&
    (decide (a.2.activeSince < b.2.activeSince) || (decide (a.2.activeSince = b.2.activeSince) && decide (a.2.slot < b.2.slot))))

/-- A pending-ready fragment that has waited 256 ACLK replaces the active fragment that has issued most (R63 rule 3). -/
def execPendingReadyReplace (core port : Nat) (s : State) : Host.Outcome State Fault Refusal :=
  let s := State.refill core port 8 s
  let due := s.portFrags core port (fun _ f => f.status == .pendingReady && decide (f.since + 256 ≤ s.coreCyc core))
  match bestOf s.outranks due, bestOf replacedFirst (s.portFrags core port (fun _ f => f.active)) with
  | some (w, f), some (v, g) =>
    .next ((s.setStatus v.id g.slot .pendingReady).setStatus w.id f.slot (if f.wait.isSome then .blocked else .ready))
  | _, _ => .next s

/-- The values that a peer's answer gives the lanes that wait for it, `n` bytes each (R92, R117, R272); `down` says which windows
have no link up, and so answer with poison (R500). -/
def PendLoad.answers (p : PendLoad) (data : List Byte) (down : Nat → Bool) : List (Nat × LaneOut) :=
  let n := p.bits / 8
  (p.items.zipIdx).map (fun x =>
    (x.1.1, ({ v := ({ bytes := n, regs := p.regs, sgn := p.sgn } : Width).value (slice data (n * x.2) n) false,
               pois := down (x.1.2 / 2 ^ 46) } : LaneOut)))

/-- The last data of a load arrives (R92): every lane is written at once, and a fragment that its registers block goes on.
A peer answers no request that still stands behind held sectors of its source (R382); an evicted wave takes the data when it
is resident again. -/
def execLoadDataReturn (load : Nat) (data : List Byte) (s : State) : Host.Outcome State Fault Refusal :=
  match s.pendLoads.find? (fun p => p.id == load) with
  | none => .next s
  | some p =>
    match s.focusWave p.wave with
    | none => .next { s with pendLoads := s.pendLoads.filter (fun x => x.id != load) }
    | some t =>
      if t.wave.away || s.held.any (fun h => p.behind.contains h.id) then .next s else
      let t := { t with pendLoads := t.pendLoads.filter (fun x => x.id != load) }
      let vals := p.got.map (fun v => (v.1, { v := v.2.1, pois := v.2.2 : LaneOut })) ++
        p.answers data (fun w => (t.peerLinks t.wg.part w).isEmpty)
      let t := t.writeLanes (.ofCode p.dest) p.regs vals
      .next (t.wakeIf (fun w f => w.id == p.wave && (match f.wait with
        | some (.loads ids) => ids.all (fun i => i == load || !t.pendLoads.any (fun x => x.id == i))
        | _ => false)))

/-- The L2 reports a load as missed (R62): the fragment that its registers block becomes waiting, and a pending-ready
one takes its place. -/
def execL2MissReport (load : Nat) (s : State) : Host.Outcome State Fault Refusal :=
  match s.pendLoads.find? (fun p => p.id == load) with
  | none => .next s
  | some p =>
    let s := { s with pendLoads := s.pendLoads.map (fun (x : PendLoad) => if x.id = load then { x with missed := true } else x) }
    let s := s.modFrags (fun w f =>
      if w.id = p.wave && f.status == Status.blocked && (match f.wait with
          | some (.loads ids) => ids.contains load
          | _ => false) then
        { f with status := .waiting, since := s.coreCyc w.core } else f)
    match s.box p.wave with
    | some b => .next (State.refill b.wave.core b.wave.port 8 s)
    | none => .next s

end Sys2Proof.Machine
end

