-- ==== Sys2Proof/Machine/Preempt.lean ====
section
/-!
DEFINITION. Pre-emption by flashback and resumption (spec/03_scheduling.md R68 to R71, spec/11_isa_memory.md R290,
spec/12_isa_matrix.md R316, spec/20_faults.md R415, spec/21_faults_execution.md R429, R432, R436, R437).
-/

namespace Sys2Proof.Machine

/-- The candidates that wait, each with the cores it reserves (R59). -/
def State.waiters (s : State) : List Cand → List Nat → List (Cand × List Nat)
  | [], _ => []
  | c :: cs, reserved =>
    match s.startCore c.l reserved with
    | some _ => s.waiters cs reserved
    | none => (c, s.reserves c.l) :: s.waiters cs (s.reserves c.l ++ reserved)

/-- The highest effective priority with which another context's launch, or a workgroup of its that was pre-empted, waits
for a core (R68, R444); none when nothing does. -/
def State.contender (s : State) (part f c core : Nat) : Option Nat :=
  let ws := (s.waiters (s.candidates part) []).filter (fun w =>
    (w.1.l.vf != f || w.1.l.ctx != c) && w.2.contains core)
  let ss := s.saved.filter (fun g => g.wg.core == core && (g.wg.vf != f || g.wg.ctx != c))
  bestOf (fun a b => decide (b < a)) (ws.map (fun w => w.1.prio) ++ ss.map (fun g => g.wg.budget.prio))

/-- The workgroups of a context that run on a core. -/
def State.running (s : State) (f c core : Nat) : List Workgroup :=
  s.groups.filter (fun g => g.vf == f && g.ctx == c && g.core == core && !g.frozen && !g.finished && !s.confined g)

/-- TICKS of a context, in ACLK; 0 where its slice has no end of its own (R52, R72). -/
def State.sliceLength (s : State) (part f c : Nat) : Nat :=
  match s.ctxBudget part f c with
  | .ok b => 1024 * b.ticks
  | .error _ => 0

/-- A slice end waits for a handler whose fragment's own rewind is held (R415). -/
def State.handlerHolds (s : State) (gs : List Workgroup) : Bool :=
  s.boxes.any (fun b => gs.any (fun g => g.id == b.wave.wgId) && (match b.wave.hx with
    | some h => h.hold != .free
    | none => false))

/-- The slice of a context ends on a core (R68, R444): another context's launch waits for it, and the slice has run
out or the launch has a higher effective priority than every workgroup of the context there (DESIGN CHOICE, log 90). -/
def State.sliceEnds (s : State) (part f c core : Nat) : Bool :=
  let gs := s.running f c core
  match s.contender part f c core with
  | none => false
  | some p =>
    let start := SMap.get 0 (sliceKey core f c) s.sliceTime
    let len := s.sliceLength part f c
    !gs.isEmpty && !s.handlerHolds gs &&
      ((decide (len ≠ 0) && decide (start + len ≤ s.coreCyc core + 1)) || gs.all (fun g => decide (g.budget.prio < p)))

/-- Timeouts that expire in the ACLK of a slice end apply first (R432). -/
def State.expireDue (s : State) (wave : Nat) : State :=
  match s.focusWave wave with
  | none => s
  | some t => (t.wave.tokens).foldl (fun t k =>
      match k.2.deadline with
      | some d => if d ≤ t.now ∧ t.wave.tokens.any (fun x => x.1 == k.1) then t.mergeToken k.1 else t
      | none => t) t

/-- The state of a handler is discarded (R415): its fragment will rewind. -/
def dropHandler (b : WaveBox) : WaveBox :=
  match b.wave.hx with
  | none => b
  | some h =>
    { wave := { b.wave with hx := none }
      frags := b.frags.map (fun f => if f.slot = h.slot then { f with mr := h.mr &&& 0x1FFFFF, hold := h.hold } else f) }

/-- Issue stops for workgroups (R68 step 1, R415, R432). -/
def State.freeze (s : State) (ids : List Nat) : State :=
  let s := s.unfocus
  let ws := (s.others.filter (fun b => ids.contains b.wave.wgId && !b.wave.away)).map (·.wave.id)
  let s := (ws.foldl (fun s w => s.expireDue w) s).unfocus
  { s with
    wgs := s.wgs.map (fun g => if ids.contains g.id then { g with frozen := true } else g)
    others := s.others.map (fun b =>
      if ids.contains b.wave.wgId && !b.wave.away then
        let b := dropHandler b
        { b with wave := pauseTokens (s.coreCyc b.wave.core) b.wave }
      else b) }

/-- A context's time slice ends on the cores concerned (R68 step 1); an RCB that gives TICKS and cannot be had confines (R422,
R513). -/
def execTimeSliceEnd (vf ctx : Nat) (s : State) : Host.Outcome State Fault Refusal :=
  match s.partOfVf vf with
  | none => .next s
  | some part =>
    let mine := s.groups.filter (fun g => g.vf == vf && g.ctx == ctx)
    let cores := ((mine.map (·.core)).eraseDups).filter (s.sliceEnds part vf ctx)
    let ids := (cores.flatMap (s.running vf ctx)).map (·.id)
    let who := ctxWho part vf ctx
    match s.ctxBudget part vf ctx with
    | .error (.ue lv code a) =>
      .next (if mine.isEmpty || s.ctxConfined who then s else s.confineUe who lv code a)
    | _ => .next (if ids.isEmpty then s else s.freeze ids)

/-- A command that leaves its engine at a slice end (R290, R316): one held by a guard or for free slots, or an mmat, which
stops between K-steps. -/
def Command.leaves (c : Command) : Bool := c.phase == .guarded || c.phase == .slotless || (c.kind == .mmat && c.query.isEmpty)

/-- A command cannot go on before an earlier one of the same wave or of the same matrix queue, which leaves its engine: it
has not started, and waits for it (R283, R290, R306). -/
def Command.after (c x : Command) : Bool :=
  x.leaves && x.phase != CmdPhase.done &&
    ((c.phase == .posted && c.kind.ordered && x.kind.ordered && c.wave == x.wave && decide (x.id < c.id)) ||
     (c.queued && x.queued && c.core == x.core && c.wg == x.wg && decide (x.entered < c.entered) && c.phase != .running))

/-- Withdraws the commands of workgroups that leave their engines, and those that wait behind them (R68 step 2, R290). -/
def State.withdraw (s : State) (ids : List Nat) : State :=
  let out (c : Command) : Bool := ids.contains c.wg && c.phase != CmdPhase.done &&
    (c.leaves || s.cmds.any c.after || s.withdrawn.any (fun x => c.after { x with phase := .guarded }))
  let back (c : Command) : Command :=
    { c with phase := if c.kind = CmdKind.cpyThen ∧ c.queued then CmdPhase.landed else CmdPhase.posted }
  let gone := (s.cmds.filter out).map (·.id)
  { s with
    withdrawn := s.withdrawn ++ (s.cmds.filter out).map back
    cmds := s.cmds.filter (fun c => !out c)
    matq := (s.matq.map (fun (q : Nat × List Nat) => (q.1, q.2.filter (fun i => !gone.contains i)))).filter
      (fun q => !q.2.isEmpty) }

/-- The entry of its kernel's flashback table that a fragment's point selects; none where the table is absent (R180, R182). -/
def Workgroup.entryOf (g : Workgroup) (f : Frag) : Option Nat := if g.fbOff = 0 then none else f.fbEntry

/-- The entry of the flashback table that a fragment's point selects, read on path i (R182, R436): its anchors and its
recipe; none where it cannot be read. -/
def State.fbEntryOf (s : State) (g : Workgroup) (f : Frag) : Option (Nat × Nat × Nat) :=
  match g.entryOf f with
  | none => some (0, 0, 0)
  | some k =>
    match s.ctxRead g.who 1 (g.kbase.toNat + g.fbOff + 32 * k) 32 .fetch with
    | .ok (b, false) => some (natAt b 0 16, natAt b 16 4, natAt b 20 2)
    | _ => none

/-- The table entry beyond correction that the read of a fragment's flashback entry meets (R422). -/
def State.fbUe (s : State) (g : Workgroup) (f : Frag) : Option (Nat × Nat × Nat) :=
  (g.entryOf f).bind (fun k => match s.ctxRead g.who 1 (g.kbase.toNat + g.fbOff + 32 * k) 32 .fetch with
    | .error e => e.ue
    | .ok _ => none)

/-- The read of a fragment's flashback entry (R89, R95, R436). -/
def State.fbSeen (s : State) (g : Workgroup) (f : Frag) : State :=
  (g.entryOf f).elim s (fun k => s.seen g.who 1 (g.kbase.toNat + g.fbOff + 32 * k) 32 .fetch)

/-- A key slot that changes its mode holds the read of a wave's save slot or of a flashback entry of its (R460). -/
def State.saveHeld (s : State) (g : Workgroup) (b : WaveBox) : Bool :=
  !b.wave.away && (s.slotHeld g b.wave || b.frags.any (fun f =>
    (g.entryOf f).any (fun k => s.ctxHeld g.who (g.kbase.toNat + g.fbOff + 32 * k) 32 .fetch)))

/-- A workgroup that cannot rewind or resume (R436): an entry of its fragments cannot be read. -/
def State.badEntry (s : State) (g : Workgroup) (fs : List Frag) : State :=
  match fs.findSome? (s.fbUe g) with
  | some u => s.confineUe g.who u.1 u.2.1 u.2.2
  | none => s.confine 1 g.who (some g) { s.groupRec g with source := 2, code := 0x19 }

/-- The anchors of a fragment's entry. -/
def State.anchors (s : State) (g : Workgroup) (f : Frag) : Nat := ((s.fbEntryOf g f).map (·.1)).getD 0

/-- The lanes in which a save set holds a register: every present one, if it is an anchor of some fragment (R69, R101). -/
def State.anchorLanes (s : State) (g : Workgroup) (b : WaveBox) (r : Nat) : LaneMask :=
  if b.frags.any (fun f => bitAt (s.anchors g f) r) then b.wave.present else 0

/-- Registers after a rewind (R69, R101): the anchors of each fragment in its lanes, and those of any fragment in the present lanes
of none, with their poison; every other register of a present lane holds anything, and an absent lane zero (R223). The
generators are the shadow's in the lanes of the fragments; those of other lanes stay (R132). -/
def State.rewoundRegs (s : State) (g : Workgroup) (b : WaveBox) : Wave × State :=
  let kept := b.frags.map (fun f => (f, s.anchors g f))
  let owner (l : Nat) : Option (Frag × Nat) := kept.find? (fun x => x.1.mask.getLsbD l)
  let keeps (i : Nat) : Bool := match owner (i % 32) with
    | some x => bitAt x.2 (i / 32)
    | none => kept.any (fun x => bitAt x.2 (i / 32))
  let d (i : Nat) : Word := Config.freeWord (s.free + i)
  let here (i : Nat) : Bool := b.wave.present.getLsbD (i % 32)
  ({ b.wave with
     vregs := SMap.ofList 0 ((List.range 4096).map (fun i => if !here i then 0 else if keeps i then SMap.get 0 i b.wave.vregs else d i))
     vpois := SMap.ofList false ((List.range 4096).map (fun i =>
       here i && (if keeps i then SMap.get false i b.wave.vpois else (d (4096 + i)).getLsbD 0)))
     gens := SMap.ofList 0 ((List.range 32).map (fun l => match owner l with
       | some x => SMap.get 0 l x.1.shadow
       | none => SMap.get 0 l b.wave.gens)) },
   { s with free := s.free + 8192 })

/-- A fragment at its flashback point (R47, R68 step 3). -/
def Frag.rewound (f : Frag) : Frag :=
  { f with pc := f.fbPc, status := .evicted, wait := none, hold := .free, recipe := none }

/-- The cluster bank bytes of a workgroup, by position and offset from its base. -/
def takeBank {α : Type} (g : Workgroup) (m : SMap α) (unit : Nat) : SMap α :=
  (List.range 4).flatMap (fun q =>
    (SMap.sub ((clusterCore g.core q * 2 ^ 20 + g.clusterBase) / unit) (g.cluster / unit) m).map
      (fun e => (q * (2 ^ 20 / unit) + e.1, e.2)))

/-- Puts saved cluster bank bytes back at base `base`. -/
def giveBank {α : Type} (core base c unit : Nat) (x m : SMap α) : SMap α :=
  (List.range 4).foldl (fun m q =>
    SMap.putSub ((clusterCore core q * 2 ^ 20 + base) / unit) (c / unit) (SMap.sub (q * (2 ^ 20 / unit)) (2 ^ 20 / unit) x) m) m

/-- A workgroup with its cluster bank, as it is saved (R69). -/
def State.savedOf (s : State) (g : Workgroup) : SavedWg := { wg := g, bank := takeBank g s.cmem 1, bpois := takeBank g s.cpois 16 }

/-- Saves a frozen workgroup (R68 steps 3, 4 and 6): its waves rewind and leave, with their watches; those that were evicted
stay as they are, and keep theirs, as does the context's queue (DESIGN CHOICE, log 91). A save that fails confines, and the
pre-emption is over (R436, R437). -/
def State.saveGroup (s : State) (g : Workgroup) : State :=
  let mine := (s.others.filter (fun b => b.wave.wgId == g.id)).map dropHandler
  let here := mine.filter (fun b => !b.wave.away)
  let fs := here.flatMap (·.frags)
  let melt (s : State) : State := s.modGroup g.id (fun g => { g with frozen := false })
  if fs.any (fun f => (s.fbEntryOf g f).isNone) then (melt s).badEntry g fs
  else
    match here.foldl (fun (a : Option XFail × State) b =>
        let x := a.2.saveWave g b.wave (s.anchorLanes g b)
        (a.1.orElse (fun _ => x.1), x.2)) (none, fs.foldl (fun s f => s.fbSeen g f) s) with
    | (some e, s) => (melt s).slotLost g e 0
    | (none, s) =>
      let ids := here.map (·.wave.id)
      let r := mine.foldl (fun (a : List WaveBox × State) b =>
        if b.wave.away then (a.1 ++ [b], a.2)
        else
          let x := a.2.rewoundRegs g b
          (a.1 ++ [{ wave := { x.1 with priv := [], privPois := [] }, frags := b.frags.map Frag.rewound }], x.2)) ([], s)
      let s := r.2
      { s with
        others := s.others.filter (fun b => b.wave.wgId != g.id)
        wgs := s.wgs.filter (fun x => x.id != g.id)
        images := s.images ++ [{ wg := g.id, boxes := r.1 }]
        saved := s.saved ++ [s.savedOf { g with swaps := [] }]
        watches := s.watches.filter (fun w => !ids.contains w.wave)
        pendLoads := s.pendLoads.filter (fun p => !ids.contains p.wave)
        pri := s.pri.filter (fun p => !ids.contains p.wave)
        halted := s.halted.filter (fun h => !ids.contains (h.1 / 64)) }

/-- Moves the posted children in the queues of some cores back to the heads of their parents' lists, in post order (R68
step 5). -/
def State.unqueue (s : State) (f c : Nat) (cores : List Nat) (grant : Option Nat) : State :=
  let ps := sortBy (fun (a b : Pending) => decide (a.id ≤ b.id))
    (s.pending.filter (fun p => cores.contains p.core && p.vf == f && p.ctx == c))
  let s := { s with pending := s.pending.filter (fun p => !ps.contains p) }
  ps.reverse.foldl (fun s p =>
    let who := ctxWho p.part p.vf p.ctx
    let parent := p.parent.toNat
    let head := s.rcbGet who parent 24 8
    let s := s.rcbPut who grant p.child.toNat 16 8 head
    let s := s.rcbPut who grant parent 24 8 p.child.toNat
    let s := if head = 0 then s.rcbPut who grant parent 32 8 p.child.toNat else s
    { s with listed := p :: s.listed }) s

/-- A frozen workgroup has nothing left to perform and no held fragment left to issue, and nothing holds its save (R68 steps 2
and 3, R197, R360, R460): what a peer performs has been answered. -/
def State.settled (s : State) (g : Workgroup) : Bool :=
  let bs := s.boxes.filter (fun b => b.wave.wgId == g.id)
  !s.cmds.any (fun c => c.wg == g.id) &&
  !s.held.any (fun h => (s.heldGroup h).any (fun x => x.id == g.id)) &&
  !s.pendLoads.any (fun p => p.atomic && bs.any (fun b => b.wave.id == p.wave)) &&
  bs.all (fun b => !s.saveHeld g b && b.frags.all (fun f => !s.mayFinish g b.wave f))

/-- The pre-emption of a context's stopped workgroups goes on (R68 steps 2 to 6), under a kill too (R447): commands that cannot
perform are withdrawn, and once the rest has, the workgroups are saved. -/
def execPreemptionSave (vf ctx : Nat) (s : State) : Host.Outcome State Fault Refusal :=
  let s := s.unfocus
  let gs := s.wgs.filter (fun g => g.vf == vf && g.ctx == ctx && g.frozen)
  let s := s.withdraw (gs.map (·.id))
  if gs.isEmpty || !gs.all s.settled then .next s
  else
    let grant := gs.findSome? s.grantOf
    let s := gs.foldl State.saveGroup s
    let cores := (gs.map (·.core)).eraseDups
    let s := s.unqueue vf ctx cores grant
    .next { s with sliceTime := s.sliceTime.filter (fun e => !(cores.map (sliceKey · vf ctx)).contains e.1) }

/-- A pre-empted workgroup finds its room again on its core (R71, R67); it goes back as soon as it does, in no order of priority
(DESIGN CHOICE, log 93). -/
def State.resumable (s : State) (g : Workgroup) (bs : List WaveBox) : Option Nat :=
  let here := bs.filter (fun b => !b.wave.away)
  let fits (p : Nat) : Bool :=
    let mine := here.filter (fun b => b.wave.port == p)
    let r := s.portRoom g.core p (fun _ => false)
    mine.isEmpty || (decide (mine.length ≤ r.1) && decide (mine.foldl (fun n b => n + regsTaken b.wave.nregs) 0 ≤ r.2.1) &&
      decide (mine.foldl (fun n b => n + b.frags.length) 0 ≤ r.2.2) && !s.restoring g.core p)
  let base := if g.tuple.length ≤ 1 then s.bankOffset g.core g.cluster else some g.clusterBase
  if !here.any (s.saveHeld g) && s.coreHolds g.core { localBytes := g.localBytes, accum := g.accum } && (List.range 4).all fits && s.partEn g.part &&
      s.vfEn g.part g.vf && !s.confs.any (fun d => d.coversCtx g.part g.vf g.ctx || d.wgs.contains g.id) then base
  else none

/-- A fragment begins its entry's recipe, or goes on at its flashback point (R71, R182); a recipe area that is absent holds none
(R180). -/
def Frag.resumed (now : Nat) (g : Workgroup) (e : Nat × Nat × Nat) (f : Frag) : Frag :=
  { f with
    status := .pendingReady, since := now
    pc := if e.2.2 = 0 ∨ g.rcpOff = 0 then f.fbPc else g.kbase + BitVec.ofNat 56 (g.rcpOff + 4 * e.2.1)
    recipe := if e.2.2 = 0 ∨ g.rcpOff = 0 then none else some e.2.2 }

/-- Puts a pre-empted wave back on its port (R71, R74). -/
def State.resumeWave (s : State) (g : Workgroup) (b : WaveBox) (priv : SMap Byte) (pois : SMap Bool) : State :=
  let r := s.reslot b
  let s := r.2.enterPort g.core b.wave.port g.part g.vf
  let frags := r.1.frags.map (fun f => f.resumed (s.coreCyc g.core) g ((s.fbEntryOf g f).getD (0, 0, 0)))
  let wave := { runTokens (s.coreCyc g.core) r.1.wave with priv := priv, privPois := pois }
  { s with others := insertBox { wave := wave, frags := frags } s.others }

/-- Puts the waves of a pre-empted workgroup back; those that were evicted stay so. -/
def State.resumeBox (g : Workgroup) (s : State) (b : WaveBox) : State :=
  if b.wave.away then { s with others := insertBox b s.others }
  else match s.readSlot g b.wave with
    | .ok priv pois => (b.frags.foldl (fun s f => s.fbSeen g f) (s.seenSlot g b.wave)).resumeWave g b priv pois
    | _ => s

/-- A slot of a pre-empted workgroup's waves cannot be read (R437): the confinement. -/
def State.slotFails (s : State) (g : Workgroup) (bs : List WaveBox) : Option State :=
  (bs.filter (fun b => !b.wave.away)).findSome? (fun b => match s.readSlot g b.wave with
    | .ok _ _ => none
    | .lost => some (s.confineCtx g.who 0x18 (s.saveSlot b.wave g) g.launchAddr.toNat)
    | .ue lv code a => some (s.confineUe g.who lv code a))

/-- The withdrawn commands of a workgroup are posted again, in the order of their posts, and its matrix entries in the order in
which they entered the queue (R290, R306, R316). -/
def State.repost (s : State) (wg : Nat) : State :=
  let back := sortBy (fun (a b : Command) => decide (a.id ≤ b.id)) (s.withdrawn.filter (fun c => c.wg == wg))
  let entries := sortBy (fun (a b : Command) => decide (a.entered ≤ b.entered)) (back.filter Command.queued)
  { s with
    withdrawn := s.withdrawn.filter (fun c => c.wg != wg)
    cmds := s.cmds ++ back
    matq := entries.foldl (fun q c => SMap.set [] c.core (SMap.get [] c.core q ++ [c.id]) q) s.matq }

/-- A pre-empted workgroup is restored to its core and its waves to their ports (R71, R290, R316): each fragment runs its
entry's recipe, and the commands that were withdrawn are posted again. -/
def execResumption (wg : Nat) (s : State) : Host.Outcome State Fault Refusal :=
  let s := s.unfocus
  match s.saved.find? (fun g => g.wg.id == wg), s.images.find? (fun m => m.wg == wg && m.preempted) with
  | some x, some m =>
    match s.resumable x.wg m.boxes, s.slotFails x.wg m.boxes with
    | none, _ => .next s
    | some _, some t => .next t
    | some base, none =>
      let g : Workgroup := { x.wg with clusterBase := base, frozen := false }
      if m.boxes.any (fun b => !b.wave.away && b.frags.any (fun f => (s.fbEntryOf g f).isNone)) then
        .next (s.badEntry g ((m.boxes.filter (fun b => !b.wave.away)).flatMap (·.frags)))
      else
        let s := (s.beginSlice g.core g.vf g.ctx).dropStale g.core
        let one := decide (g.tuple.length ≤ 1)
        let s := { s with
          wgs := insertWg g s.wgs
          saved := s.saved.filter (fun y => y.wg.id != wg)
          images := s.images.filter (fun y => y.wg != wg)
          cmem := if one then giveBank g.core base g.cluster 1 x.bank s.cmem else s.cmem
          cpois := if one then giveBank g.core base g.cluster 16 x.bpois s.cpois else s.cpois }
        .next ((m.boxes.foldl (State.resumeBox g) s).repost wg)
  | _, _ => .next s

end Sys2Proof.Machine
end

