-- ==== Sys2Proof/Machine/Confine.lean ====
section
/-!
DEFINITION. The course of a confinement (spec/20_faults.md R420 to R428, spec/21_faults_execution.md R434, R441, R445 to R447):
kills and resets of functions and partitions (spec/24_faults_engines.md R491 to R493), quiesce, capture and clear.
-/

namespace Sys2Proof.Machine

/-- The class of engine that performs a command (R446). -/
def CmdKind.engineClass : CmdKind → EngineClass
  | .cpy => .copy
  | .cpyCol => .copy
  | .cpyMc => .copy
  | .cpyThen => .copy
  | .migrate => .copy
  | .mma => .matrix
  | .mmaB => .matrix
  | .mmat => .matrix
  | .accZero => .matrix
  | .rast => .sight
  | .ray => .sight
  | .qpost => .attention

/-- A confinement covers a command. -/
def Conf.coversCmd (c : Conf) (x : Command) : Bool :=
  if c.level = 1 then c.wgs.contains x.wg else c.coversCtx x.part x.vf x.ctx

/-- A confinement covers a launch. -/
def Conf.coversLaunch (c : Conf) (l : Launch) : Bool :=
  if c.level = 1 then c.launches.contains l.id else c.coversCtx l.part l.vf l.ctx

/-- Sets a bit of the register of a reset, of a function or of a partition (R491): 0 for QUIET, 1 for DONE. -/
def State.markReset (s : State) (b : Nat) (r : Nat × Nat) : State :=
  if r.1 = 3 then match s.partOfVf r.2 with
    | some i => s.setPreg i (0x8000 + 4 * r.2) (s.preg i (0x8000 + 4 * r.2) ||| 2 ^ (b + 1))
    | none => s
  else if r.1 = 4 then s.setPreg r.2 0x4040 (s.preg r.2 0x4040 ||| 2 ^ (b + 1))
  else s

/-- Adds what a reset clears to the confinement that governs a scope; one that is quiet says so at once (R491). -/
def State.withReset (s : State) (level part vf : Nat) (r : Nat × Nat) : State :=
  let probe : Conf := { id := 0, level := level, part := part, vf := vf }
  match s.confs.find? (fun c => probe.within c) with
  | none => s
  | some d =>
    let s := { s with confs := s.confs.map (fun c => if c.id = d.id then { c with resets := c.resets ++ [r] } else c) }
    if d.phase = .frozen then s else s.markReset 0 r

/-- A reset is in progress. -/
def State.resetting (s : State) (part : Nat) (r : Nat × Nat) : Bool :=
  s.confs.any (fun c => (c.part == part || c.level == 5) && c.resets.contains r)

/-- CONTEXT_KILL (R445): a write of KILL confines the context at level 2; a second one during the kill has no effect. -/
def execContextKill (vf ctx : Nat) (s : State) : Host.Outcome State Fault Refusal :=
  match s.partOfVf vf with
  | none => .next s
  | some part =>
    let mine (c : Conf) : Bool := c.coversCtx part vf ctx &&
      c.causes.any (fun r => r.source == 2 && r.code == 0x30 && r.vf == vf && r.ctx == ctx)
    if s.confs.any mine || !s.openBar then .next s
    else .next (s.confine 2 (ctxWho part vf ctx) none { source := 2, code := 0x30, vf := vf, ctx := ctx, part := part })

/-- VF_RESET (R491 to R493): GO of VF_RSTf, ignored while the function is being reset. -/
def execVfReset (part vf : Nat) (s : State) : Host.Outcome State Fault Refusal :=
  if !s.openBar || s.resetting part (3, vf) then .next s
  else
    let s := s.setPreg part (0x8000 + 4 * vf) 0
    let s := s.confine 3 (ctxWho part vf 0) none { source := 2, code := 0x31, vf := vf, part := part }
    .next (s.withReset 3 part vf (3, vf))

/-- PARTITION_RESET (R491 to R493): GO of PT_RST, ignored while the partition is being reset. -/
def execPartitionReset (part : Nat) (s : State) : Host.Outcome State Fault Refusal :=
  if !s.openBar || s.resetting part (4, part) then .next s
  else
    let s := s.setPreg part 0x4040 0
    let s := s.confine 4 { part := part, core := 16 * part } none { source := 2, code := 0x32, part := part }
    .next (s.withReset 4 part 0 (4, part))

/-- Changes a confinement. -/
def State.modConf (s : State) (id : Nat) (f : Conf → Conf) : State :=
  { s with confs := s.confs.map (fun c => if c.id = id then f c else c) }

/-- Sets a bit of what reports a confinement's progress (R445, R491): 0 for QUIET, 1 for DONE. -/
def State.progress (s : State) (c : Conf) (b : Nat) : State :=
  let s := if c.level < 2 then s else (s.scopeCtxs c).foldl (fun s w =>
    s.setBell w.vf w.ctx 0x304 (s.bell w.vf w.ctx 0x304 ||| 2 ^ b)) s
  c.resets.foldl (fun s r => s.markReset b r) s

/-- The waves of a confinement's scope. -/
def State.scopeWaves (s : State) (c : Conf) : List Nat :=
  (s.boxes.filter (fun b => c.covers (s.groupOf b.wave))).map (·.wave.id)

/-- QUIESCE_COMPLETE (R423 step 2, R446, R457, R495): an engine class has stopped the scope's work, which is discarded: what it
wrote stays, and nothing of it performs any more. A migration that has written its leaf ends first; another ends as if it had not
begun. With the last class the sectors that the scope's workgroups have waiting at meters are discarded. -/
def execQuiesceComplete (conf : Nat) (eng : EngineClass) (s : State) : Host.Outcome State Fault Refusal :=
  match s.confs.find? (fun c => c.id == conf) with
  | none => .next s
  | some c =>
    let out (x : Command) : Bool := c.coversCmd x && x.kind.engineClass == eng
    if !c.waiting.contains eng || s.cmds.any (fun x => out x && x.pastLeaf) then .next s
    else
      let s := (s.cmds.filter out).foldl State.stopMigration s
      let gone := (s.cmds.filter out).map (·.id)
      let left := c.waiting.filter (fun e => e != eng)
      let s := { s with
        cmds := s.cmds.filter (fun x => !out x)
        withdrawn := s.withdrawn.filter (fun x => !out x)
        pri := s.pri.filter (fun p => p.cmd == 0 || !gone.contains (p.cmd - 1))
        matq := (s.matq.map (fun (q : Nat × List Nat) => (q.1, q.2.filter (fun i => !gone.contains i)))).filter
          (fun q => !q.2.isEmpty)
        sideQ := (s.sideQ.map (fun (q : Nat × List (Nat × Nat)) => (q.1, q.2.filter (fun (x : Nat × Nat) => !gone.contains x.1)))).filter
          (fun q => !q.2.isEmpty) }
      if left.isEmpty then
        let ws := s.scopeWaves c
        let s := { s with
          held := s.held.filter (fun h => h.read || !(s.heldGroup h).any c.covers)
          pendLoads := s.pendLoads.filter (fun p => !ws.contains p.wave) }
        .next ((s.progress c 0).modConf conf (fun x => { x with waiting := [], phase := .quiet }))
      else .next (s.modConf conf (fun x => { x with waiting := left }))

/-- A wave as capture writes it (R423 step 3): a fragment inside its handler has the PC and mr of its handler
registers. -/
def capturedBox (b : WaveBox) : WaveBox :=
  match b.wave.hx with
  | none => b
  | some h => { b with frags := b.frags.map (fun f =>
      if f.slot = h.slot then { f with pc := h.pc, mr := h.mr &&& 0x1FFFFF } else f) }

/-- The waves of a workgroup that hold their positions. -/
def State.hereOf (s : State) (g : Workgroup) : List WaveBox :=
  (s.others.filter (fun b => b.wave.wgId == g.id && !b.wave.away))

/-- Captures a workgroup (R423 step 3, R437): each of its waves goes to its save slot, as far as the slots accept it, and
its local memory, cluster bank and accumulators are kept as R69 saves them. The contexts of `r` gain its own where an image cannot
be written. -/
def State.captureGroup (r : List Who × State) (g : Workgroup) : List Who × State :=
  let x := (r.2.hereOf g).foldl (fun (x : Bool × State) b =>
    let y := x.2.saveWave g b.wave (fun _ => b.wave.present)
    (x.1 || y.1.isSome, y.2)) (false, r.2)
  let mine := (x.2.others.filter (fun b => b.wave.wgId == g.id)).map capturedBox
  let who := ctxWho g.part g.vf g.ctx
  (if x.1 ∧ !r.1.contains who then r.1 ++ [who] else r.1,
   { x.2 with images := x.2.images ++ [{ wg := g.id, boxes := mine, preempted := false, kept := some (x.2.savedOf g) }] })

/-- A context whose images cannot be written when the device is reset has the fate of FREC_LOST (R425, R498). -/
def State.loseImages (s : State) (who : Who) : State :=
  let s := s.useCtx who 64 8
  let base := s.dumpBase who.part who.vf who.ctx
  if base = 0 then s else s.lostRec who (s.ctxGrant who) base

/-- The cause records of a confinement, in the order of their detection, and one record of SOURCE 3 for each workgroup that it
ends (R423, R428). -/
def State.confRecords (s : State) (c : Conf) (gs : List Workgroup) : State :=
  let s := c.causes.foldl State.confRecord s
  let code := ((c.causes.getLast?).map (·.code)).getD 0
  gs.foldl (fun s g => s.confRecord { s.groupRec g with level := c.level, source := 3, code := code }) s

/-- A fault met in a capture lies inside the scope that is captured (R428). -/
def Conf.holds (c : Conf) (r : FaultRec) : Bool :=
  Conf.within { id := 0, level := r.level, part := r.part, vf := r.vf, ctx := r.ctx } c

/-- What a capture itself has met inside its scope, after the first `known` records that were owed, is recorded with its causes
and starts no confinement; a wider fault stays owed (R428). -/
def State.recordMet (c : Conf) (known : Nat) (s : State) : State :=
  let mine (r : FaultRec) : Bool := r.level != 0 && c.holds r
  let met := (s.owed.drop known).filter mine
  let s := { s with
    owed := s.owed.take known ++ (s.owed.drop known).filter (fun r => !mine r)
    confs := s.confs.map (fun d => if d.id = c.id then { d with causes := d.causes ++ met } else d) }
  met.foldl (fun s r => (if r.code = 0x11 then s else s.noteLost r.addr).confRecord r) s

/-- Ends a captured workgroup (R420, R423 step 4): its waves leave, and its lanes' statuses count as 0xFFFF. -/
def State.endCaptured (s : State) (g : Workgroup) : State :=
  let ids := (s.others.filter (fun b => b.wave.wgId == g.id)).map (·.wave.id)
  let s := { s with
    others := s.others.filter (fun b => b.wave.wgId != g.id)
    saved := s.saved.filter (fun x => x.wg.id != g.id)
    images := s.images.map (fun (m : Image) => if m.wg = g.id ∧ m.preempted then
      { m with preempted := false, kept := s.saved.find? (fun x => x.wg.id == g.id) } else m)
    watches := s.watches.filter (fun w => !ids.contains w.wave)
    pri := s.pri.filter (fun p => !ids.contains p.wave)
    halted := s.halted.filter (fun h => !ids.contains (h.1 / 64)) }
  s.endGroup g 0xFFFF 0xFFFF g.lanes true

/-- The launches of a confinement's scope end (R421, R441): posted children are dropped, and workgroups that were not
dispatched count as complete. A fill launch's job block is checked and freed (R484). -/
def State.closeScope (s : State) (c : Conf) : State :=
  let sel (p : Pending) : Bool :=
    if c.level = 1 then s.launches.any (fun l => c.launches.contains l.id && l.vf == p.vf && l.ctx == p.ctx && l.addr == p.parent)
    else c.coversCtx p.part p.vf p.ctx
  let s := s.dropChildren sel c.coversLaunch
  (s.launches.filter c.coversLaunch).foldl (fun s l =>
    let s := s.closeLaunch l.id
    match l.job with
    | some b => if l.next * l.size < l.total then s.freeJobs l.part 0x60 b else s
    | none => s) s

/-- Drops the entries of a map of doorbell registers that `p` picks by function, context and offset. -/
def dropBells (p : Nat → Nat → Nat → Bool) (m : SMap Word) : SMap Word :=
  m.filter (fun e => !p (e.1 / 2 ^ 20) (e.1 / 4096 % 256) (e.1 % 4096))

/-- Clears what a reset of function `f` clears (R492 Table 5). -/
def State.clearVf (s : State) (part f : Nat) : State :=
  let queue (off : Nat) : Bool := off == 0x00C || off == 0x010 || off == 0x014
  let mine (base n : Nat) (k : Nat) : Bool :=
    decide (blockOff part base + n * 256 * f ≤ k) && decide (k < blockOff part base + n * 256 * (f + 1))
  let grants := s.regs.filter (fun e => mine 0x20000 4 e.1)
  let s := { s with
    dbell := (dropBells (fun g _ off => g == f && queue off) s.dbell).map (fun (e : Nat × Word) =>
      if e.1 / 2 ^ 20 = f ∧ e.1 % 4096 = 8 then (e.1, ((e.2 ^^^ 6) &&& 0x1F) ^^^ 6) else e)
    tlb := s.tlb.filter (fun t => t.vf != f)
    deficits := s.deficits.filter (fun e => e.1 % 64 != f)
    weights := s.weights.filter (fun e => e.1 % 64 != f)
    regs := s.regs.filter (fun e => !mine 0x10000 4 e.1)
    watches := s.watches.filter (fun w => !(decide (queueWatch f 0 ≤ w.wave) && decide (w.wave < queueWatch f 256))) }
  let s := { s with dbell := s.dbell.filter (fun e => e.2 != 0) }
  let s := grants.foldl (fun s e => s.logWrite (.grant part f ((e.1 - blockOff part 0x20000) / 4 - 256 * f) 0)) s
  s.setPreg part (0x6000 + 16 * f) 0

/-- Clears what a reset of a partition clears (R492 Table 5). -/
def State.clearPart (s : State) (part : Nat) : State :=
  let fs := (List.range 64).filter (fun f => s.partBit part 0x4020 f)
  let s := fs.foldl (fun s f => s.clearVf part f) s
  let s := s.scReset part
  let mine (sl : Nat) : Bool := decide (part ≤ sl) && decide (sl < part + s.partN part)
  let s := { s with jobBlocks := s.jobBlocks.filter (fun e => !mine (e.1 / 64)) }
  s.setPtCfg part (s.preg part 0x4000 % 2 ^ 31)

/-- Clears the whole device but what R498 Table 2 keeps: fuses, ceilings, health, the access log, SENT counts and
memory. `off` also unpowers the dies (R504). -/
def State.clearDevice (s : State) (off : Bool) : State :=
  let kept (k : Nat) : Bool :=
    (decide (0x0400 ≤ k) && decide (k < 0x0460)) || k == 0x0020 ||
    (decide (0x1900 ≤ k) && decide (k < 0x1910)) || (decide (0x3000 ≤ k) && decide (k < 0x3000 + 8 * 69)) ||
    (decide (0x2000 ≤ k) && decide (k < 0x2000 + 16 * 69) && decide (8 ≤ k % 16))
  let s := ((List.range 12).filter s.partEn).foldl State.leavePart s
  let s := s.dropPhys (fun _ => true)
  { State.reset with
    us := s.us, mem := s.mem, poison := s.poison, uncorr := s.uncorr, tags := s.tags, locs := s.locs, msc := s.msc
    below := s.below, tier := s.tier
    scrubbed := s.scrubbed, bootScrub := s.bootScrub, regs := s.regs.filter (fun e => kept e.1)
    logSeq := s.logSeq, logHash := s.logHash, sliceCeil := s.sliceCeil, sliceOut := s.sliceOut, sliceMHz := s.sliceMHz
    sliceHot := s.sliceHot, hotStacks := s.hotStacks, laneTaps := s.laneTaps, readEye := s.readEye, pcieUp := s.pcieUp
    hostMem := s.hostMem
    bauFailed := s.bauFailed, extReads := s.extReads, sent := s.sent, testIr := s.testIr, rbacc := s.rbacc
    bsr := s.bsr, testBypass := s.testBypass, agenda := s.agenda, free := s.free, nextId := s.nextId, powered := !off }

/-- Clears the scope (R423 step 4) and what its resets clear; level 5 stays until the device is reset (R420). -/
def State.clearScope (s : State) (c : Conf) : State :=
  let s := if c.level = 3 then s.setPreg c.part (0x6000 + 16 * c.vf) 0 else s
  let s := c.resets.foldl (fun s r =>
    if r.1 = 3 then s.clearVf ((s.partOfVf r.2).getD c.part) r.2 else if r.1 = 4 then s.clearPart r.2 else s) s
  let s := if c.level = 4 then s.setPtCfg c.part (s.preg c.part 0x4000 % 2 ^ 31) else s
  if c.level < 5 then { s with confs := s.confs.filter (fun x => x.id != c.id) }
  else if c.resets.any (fun r => r.1 == 6) then s.clearDevice true
  else if c.resets.any (fun r => r.1 == 5) then s.clearDevice false
  else s.modConf c.id (fun x => { x with phase := .captured })

/-- CONFINEMENT_CAPTURE (R423 steps 3 and 4): once the scope is quiet, and the pre-emptions that it met have ended (R447), its
waves are captured, the records are written, and the scope is cleared, its contexts' dump headers under the grants that its
workgroups had (R378, R424). A fault met in the capture does not restart it: inside the scope it is recorded with the causes, and a
wider one is confined after it (R428). -/
def execConfinementCapture (conf : Nat) (s : State) : Host.Outcome State Fault Refusal :=
  match s.confs.find? (fun c => c.id == conf) with
  | none => .next s
  | some c =>
    let s := s.unfocus
    let gs := s.wgs.filter (fun g => c.covers g && !g.finished)
    if c.phase ≠ .quiet ∨ gs.any (·.frozen) then .next s
    else
      let away := (s.saved.map (·.wg)).filter c.covers
      let ws := (s.scopeCtxs c).map (fun w => (w, s.ctxGrant w))
      let known := s.owed.length
      let r := gs.foldl State.captureGroup ([], s)
      let s := if c.level = 5 then r.1.foldl State.loseImages r.2 else r.2
      let s := ((s.confRecords c (gs ++ away)).recordMet c known).recordMet c known
      let s := ws.foldl (fun s w => s.setDumpState w.1 w.2 2) s
      let s := (gs ++ away).foldl State.endCaptured (s.closeScope c)
      let s := ws.foldl (fun s w => s.setDumpState w.1 w.2 3) s
      .next (((s.recordMet c known).progress c 1).clearScope c)

end Sys2Proof.Machine
end

