-- ==== Sys2Proof/Machine/Device.lean ====
section
/-!
DEFINITION. Power, boot and device reset (spec/16_host.md R393, spec/25_faults_device.md R496 to R499), the adaptive loops
(R395, R396), links (R500, R501), ageing, power and heat (R502 to R504).
-/

namespace Sys2Proof.Machine

/-- POWER_ON (R393, R504, R512): every field at its reset value but what stands outside the device. -/
def execPowerOn (s : State) : Host.Outcome State Fault Refusal :=
  .next { State.reset with hostMem := s.hostMem, agenda := s.agenda, free := s.free, nextId := s.nextId }

/-- BOOT_GO (R393, R497): GO starts the verification of the image, on a device that waits for one. -/
def execBootGo (s : State) : Host.Outcome State Fault Refusal :=
  .next (if s.bootState = 0 ∨ s.bootState = 3 then s.setReg 0x0000 1 else s)

/-- The image that the host wrote into BAR 4 (R388, R393). -/
def State.image (s : State) : List Byte := SMap.getList 0 stBase ((s.reg 0x0004).toNat % 2 ^ 23) s.mem

/-- The hardware accepts an image (R393 step 4): its vendor point has the fused hash, and its signature is valid. -/
def imageOk (b : List Byte) : Bool :=
  let n := b.length
  let q := (natOfBytesBE (slice b 0 48), natOfBytesBE (slice b 48 48))
  decide (n % 16 = 0) && decide (208 ≤ n) && decide (n ≤ 2 ^ 22) &&
  sha384 (b.take 96) == (List.range 48).map (fun i => fused (0xC0 + i)) &&
  ecdsaValid q (b.take (n - 96)) (natOfBytesBE (slice b (n - 96) 48)) (natOfBytesBE (slice b (n - 48) 48))

/-- BOOT_VERIFY_COMPLETE (R393 steps 4 and 5, R385): STATE becomes 2 or 3. After a device reset the acceptance is
logged. -/
def execBootVerifyComplete (s : State) : Host.Outcome State Fault Refusal :=
  if s.bootState ≠ 1 then .next s
  else if imageOk s.image then
    let t := State.setReg { s with imageHash := sha384 s.image } 0x0000 2
    .next (if t.logOn then t.logWrite .image else t)
  else .next (s.setReg 0x0000 3)

/-- A confinement of the device (R420): with a cause, or, for a reset that software asks for, with none of its own. -/
def State.confineDevice (s : State) (cause : Option FaultRec) : State :=
  match cause with
  | some r => s.confine 5 {} none r
  | none =>
    if s.confs.any (fun c => c.level == 5) then s
    else
      let t := s.confine 5 {} none {}
      { t with confs := t.confs.map (fun c => if c.level = 5 then { c with causes := c.causes.dropLast } else c) }

/-- What follows the confinement of the device is done at once where its capture has ended. -/
def State.afterCapture (s : State) (off : Bool) : State :=
  if s.confs.any (fun c => c.level == 5 && c.phase == .captured) then s.clearDevice off else s

/-- A device reset begins (R498): the device is confined at level 5, and is cleared after its capture. -/
def State.beginReset (s : State) (cause : Option FaultRec) : State :=
  if s.resetting 0 (5, 0) then s
  else (((s.confineDevice cause).withReset 5 0 0 (5, 0)).setReg 0x0018 1).afterCapture false

/-- DEVICE_RESET (R498): a write of DEV_RST.GO. -/
def execDeviceReset (s : State) : Host.Outcome State Fault Refusal :=
  .next (if s.openBar then s.beginReset none else s)

/-- PCIE_CONVENTIONAL_RESET (R498). -/
def execPcieConventionalReset (s : State) : Host.Outcome State Fault Refusal :=
  .next (State.beginReset { s with pcieUp := true } none)

/-- PERIOD of the watchdog, in ms (R496). -/
def State.period (s : State) : Nat := (s.reg 0x0010).toNat % 2 ^ 24

/-- WATCHDOG_KICK (R497). -/
def execWatchdogKick (s : State) : Host.Outcome State Fault Refusal :=
  .next (if s.openBar then { s with wdogStart := s.us } else s)

/-- WATCHDOG_PERIOD_WRITE (R497): once PERIOD is nonzero it is neither raised nor set to 0. -/
def execWatchdogPeriodWrite (val : Word) (s : State) : Host.Outcome State Fault Refusal :=
  let n := val.toNat % 2 ^ 24
  if !s.openBar || (s.period != 0 && (decide (n = 0) || decide (s.period < n))) then .next s
  else .next (State.setReg { s with wdogStart := if s.period = 0 then s.us else s.wdogStart } 0x0010 (BitVec.ofNat 32 n))

/-- WATCHDOG_EXPIRY (R497): PERIOD ms without a KICK. -/
def execWatchdogExpiry (s : State) : Host.Outcome State Fault Refusal :=
  .next (if s.period ≠ 0 ∧ s.wdogStart + 1000 * s.period ≤ s.us then
    s.beginReset (some { source := 4, code := 0x94 }) else s)

/-- The ceiling of a slice's ACLK, in MHz (R395, R504): it is held at 700 while the slice is hot. -/
def State.ceiling (s : State) (sl : Nat) : Nat :=
  min (SMap.get 1400 sl s.sliceCeil) (if SMap.get false sl s.sliceHot then 700 else 1400)

/-- Sets a slice's ACLK within its ceiling. -/
def State.setMhz (s : State) (sl n : Nat) : State :=
  { s with sliceMHz := SMap.set 1400 sl (min n (s.ceiling sl)) s.sliceMHz }

/-- VOLTAGE_FREQUENCY_LOOP (R395): a slice's ACLK moves by a step of 25 MHz. -/
def execVoltageFrequencyLoop (slice : Nat) (up : Bool) (s : State) : Host.Outcome State Fault Refusal :=
  let n := s.mhz slice
  .next (s.setMhz slice (if up then n + 25 else if 25 < n then n - 25 else n))

/-- LINK_EQUALISATION (R395): a lane's taps are retuned. -/
def execLinkEqualisation (lane taps : Nat) (s : State) : Host.Outcome State Fault Refusal :=
  .next { s with laneTaps := SMap.set 0 lane taps s.laneTaps }

/-- HBM_READ_EYE (R395): a pseudo-channel's strobe delay is retrained. -/
def execHbmReadEye (channel delay : Nat) (s : State) : Host.Outcome State Fault Refusal :=
  .next { s with readEye := SMap.set 0 channel delay s.readEye }

/-- REFRESH_THRESHOLD (R395, R504): a stack's refresh is doubled above 85 °C; `temp` is in units of 1/64 °C. -/
def execRefreshThreshold (stack : Nat) (temp : Int) (s : State) : Host.Outcome State Fault Refusal :=
  .next { s with hotStacks := SMap.set false stack (decide (85 * 64 < temp)) s.hotStacks }

/-- CEIL and MARGIN of a slice's telemetry (R396). -/
def State.putTelemetry (s : State) (sl ceil margin : Nat) : State :=
  s.setReg (0x0404 + 8 * sl) (BitVec.ofNat 32 (ceil % 2 ^ 11 * 2 ^ 16 + margin % 2 ^ 16))

/-- TEMP of a slice's telemetry (R396). -/
def State.putTemp (s : State) (sl : Nat) (temp : Int) : State :=
  s.setReg (0x0400 + 8 * sl) (BitVec.ofNat 32 (setField (s.reg (0x0400 + 8 * sl)).toNat 0 16 (unsigned 16 temp)))

/-- AGEING_LOOP (R395, R502): a slice's ceiling is lowered by 25 MHz steps to what it needs; a slice that needs less than
700 MHz goes out of service, and its partition is confined. -/
def execAgeingLoop (slice needMHz marginMV : Nat) (s : State) : Host.Outcome State Fault Refusal :=
  let old := SMap.get 1400 slice s.sliceCeil
  let new := if needMHz < old then max 700 (old - 25 * ceilDiv (old - needMHz) 25) else old
  let s := State.putTelemetry { s with sliceCeil := SMap.set 1400 slice new s.sliceCeil } slice new marginMV
  let s := s.setMhz slice (s.mhz slice)
  if 700 ≤ needMHz ∨ 12 ≤ slice then .next s
  else
    let s := { s with sliceOut := SMap.set false slice true s.sliceOut }
    match s.partOf slice with
    | none => .next s
    | some i => .next (s.confine 4 { part := i, core := 16 * i } none { source := 4, code := 0x93, part := i })

/-- POWER_LIMIT (R503): while the 10 ms average of module power exceeds 2,400 W, every slice's ACLK is lowered by a step. -/
def execPowerLimit (deciWatts : Nat) (s : State) : Host.Outcome State Fault Refusal :=
  if deciWatts ≤ 24000 then .next s
  else .next ((List.range 12).foldl (fun s i => s.setMhz i (if 25 < s.mhz i then s.mhz i - 25 else s.mhz i)) s)

/-- THERMAL_THROTTLE (R504): a die above 105 °C holds its slice at or below 700 MHz. -/
def execThermalThrottle (slice : Nat) (temp : Int) (s : State) : Host.Outcome State Fault Refusal :=
  let s := s.putTemp slice temp
  if 105 * 64 < temp then
    let s := { s with sliceHot := SMap.set false slice true s.sliceHot }
    .next (s.setMhz slice (s.mhz slice))
  else .next s

/-- THERMAL_THROTTLE_RELEASE (R504): the hold ends below 100 °C. -/
def execThermalThrottleRelease (slice : Nat) (temp : Int) (s : State) : Host.Outcome State Fault Refusal :=
  let s := s.putTemp slice temp
  .next (if temp < 100 * 64 then { s with sliceHot := SMap.set false slice false s.sliceHot } else s)

/-- THERMAL_TRIP (R504): a sensor above 115 °C sets THERM and confines the device, whose dies are then unpowered. -/
def execThermalTrip (temp : Int) (s : State) : Host.Outcome State Fault Refusal :=
  if temp ≤ 115 * 64 then .next s
  else
    let s := s.setReg 0x0020 0x80000000
    .next (((s.confineDevice (some { source := 4, code := 0x95 })).withReset 5 0 0 (6, 0)).afterCapture true)

/-- The microseconds of the replays of link or lane `k` within 1 ms, the present one included (R500, R501). -/
def replayed (us k : Nat) (times : SMap (List Nat)) : List Nat := us :: (SMap.get [] k times).filter (fun t => decide (us < t + 1000))

/-- SADDLE_FLIT_REPLAY (R500): a replay adds latency only; with the 64th within 1 ms the link retrains and holds its traffic. -/
def execSaddleFlitReplay (link : Nat) (s : State) : Host.Outcome State Fault Refusal :=
  let ts := replayed s.us link s.replays
  .next (if ts.length < 64 then { s with replays := SMap.set [] link ts s.replays }
    else { s with replays := SMap.set [] link [] s.replays, training := SMap.set false link true s.training })

/-- Sectors that waited for a link that is down go on by the window's other links, in their order; with none up they are
dropped, and the workgroups that posted them are confined (R500). What may pass then passes. -/
def State.linkLost (s : State) : State :=
  let s := { s with held := s.held.map s.reroute }
  let out := s.held.filter s.stranded
  let gs := (out.filterMap (fun h => (s.heldGroup h).map (fun g => (g.id, downCode ((h.window - 1) % 16), h.addr)))).foldl
    (fun l x => if l.any (fun (y : Nat × Nat × Nat) => y.1 == x.1) then l else l ++ [x]) []
  let s := gs.foldl (fun (s : State) x => match s.group x.1 with
    | some g => s.confine 1 g.who (some g) { s.groupRec g with source := 4, code := x.2.1, addr := x.2.2 }
    | none => s) { s with held := s.held.filter (fun h => !s.stranded h) }
  State.letPass (2 * s.held.length) s

/-- A partition's window names a link and expects another module than `id` behind it (R391). -/
def State.expectsOther (s : State) (link id : Nat) : Bool :=
  (List.range 12).any (fun i => (List.range 8).any (fun w =>
    let r := s.preg i (0x5000 + 8 * w)
    bitAt r 31 && bitAt r link && bitAt (s.preg i 0x4010) link && decide (field r 18 8 ≠ id)))

/-- SADDLE_LINK_RETRAIN (R500): training ends with the module id that the far end reported, or fails; a link that fails or
reports another module is down. -/
def execSaddleLinkRetrain (link : Nat) (trained : Option (BitVec 8)) (s : State) : Host.Outcome State Fault Refusal :=
  let s := { s with replays := SMap.set [] link [] s.replays, training := SMap.set false link false s.training }
  match trained with
  | none => .next (State.linkLost { s with linkDown := SMap.set false link true s.linkDown })
  | some id => .next (State.linkLost { s with
      linkIds := SMap.set 0 link (id.toNat + 1) s.linkIds
      linkDown := SMap.set false link (s.expectsOther link id.toNat) s.linkDown })

/-- COL_BRIDGE_REPLAY (R501): the 16th replay of a lane in a millisecond replaces the lane by a spare; with no spare left
in that direction it confines the device. -/
def execColBridgeReplay (dir : Bool) (lane : Nat) (s : State) : Host.Outcome State Fault Refusal :=
  let d := if dir then 1 else 0
  let k := 2 * lane + d
  let ts := replayed s.us k s.colReplays
  if ts.length < 16 then .next { s with colReplays := SMap.set [] k ts s.colReplays }
  else
    let s := { s with colReplays := SMap.set [] k [] s.colReplays }
    if SMap.get 0 d s.colSpares = 0 then .next { s with colSpares := SMap.set 0 d 1 s.colSpares }
    else .next (s.confineDevice (some { source := 4, code := 0x92 }))

/-- PCIE_LINK_DOWN (R500): host accesses and accesses to host memory fail while the link is down, with CODE 0x91. -/
def execPcieLinkDown (s : State) : Host.Outcome State Fault Refusal := .next (State.linkLost { s with pcieUp := false })

end Sys2Proof.Machine
end

