-- ==== Sys2Proof/Machine/Scrub.lean ====
section
/-!
DEFINITION. The scrubber (spec/22_faults_memory.md R458, R459, R512), the patrol scrubber (R452, R454) and error injection
(spec/26_programs_faults.md R507).
-/

namespace Sys2Proof.Machine

/-- A granule lies in a partition's HBM4E or LPDDR6 range, below the heap and the carve-out (R80, R82, R458). -/
def State.granuleIn (s : State) (i g : Nat) : Bool :=
  let a := g * 2 ^ 21
  (decide (i * 2 ^ 36 ≤ a) && decide (a + 2 ^ 21 ≤ i * 2 ^ 36 + s.partN i * s.partU i)) ||
  (decide (lpBase + i * 2 ^ 37 ≤ a) && decide (a + 2 ^ 21 ≤ lpBase + (i + s.partN i) * 2 ^ 37))

/-- Some line of a memory-side cache entry lies at a location that `p` picks. -/
def State.mscHolds (s : State) (p : Nat → Bool) (e : Nat × MscSector) : Bool :=
  let sl := e.1 / 2 ^ 24
  let first := tierPlace sl ((e.2.tag * (s.mscShape sl).1 + e.1 % 2 ^ 24) * 2048)
  e.2.v && (List.range 16).any (fun i => p (s.placeLoc (first + 128 * i)))

/-- The lines of L2 that `p` picks by their physical line count as clean: they leave without write-back. -/
def State.unwritten (s : State) (p : Nat → Bool) : State :=
  { s with l2 := s.l2.map (fun x => (x.1, x.2.map (fun l => if p l.line then { l with dirty := 0, valid := 0xFF } else l))) }

/-- Drops every L1, L2 and memory-side cache line whose location `p` picks; a line leaving an L2 raises its E. `back` says
whether dirty lines are written back first. -/
def State.dropLines (s : State) (back : Bool) (p : Nat → Bool) : State :=
  let mine (line : Nat) : Bool := p (line % 2 ^ 39 * 128)
  let s := (if back then s else s.unwritten mine).dropPhys mine
  (s.msc.filter (s.mscHolds p)).foldl (fun s e =>
    let sl := e.1 / 2 ^ 24
    let n := (s.mscShape sl).1
    if back ∧ e.2.lost = 0xFFFF then s.mscLose sl (e.1 % 2 ^ 24) n e.2
    else
      let m := if back then e.2 else { e.2 with dirty := 0, lost := 0, dLost := 0, bad := 0 }
      (s.mscDrop sl (e.1 % 2 ^ 24) n m).setMsc sl (e.1 % 2 ^ 24) {}) s

/-- A write of GO and SCOUNT (R458): a run starts unless one is in progress or a granule of it lies elsewhere. Its cached
lines are dropped and its granules' pending bits set; no older value of them is observed any more (R459). -/
def execScrubGo (part : Nat) (val : Word) (s : State) : Host.Outcome State Fault Refusal :=
  if !s.openBar then .next s
  else
    let count := val.toNat % 2 ^ 25
    let busy := bitAt (s.preg part 0x4034) 30
    let first := s.preg part 0x4030 % 2 ^ 25
    let gs := (List.range count).map (fun i => first + i)
    if bitAt val.toNat 31 ∧ !busy ∧ count ≠ 0 ∧ gs.all (s.granuleIn part) then
      let mine (a : Nat) : Bool := decide (first ≤ a / 2 ^ 21) && decide (a / 2 ^ 21 < first + count)
      let s := s.dropLines false mine
      .next ((State.setPreg { s with
        older := s.older.filter (fun e => decide (stBase ≤ e.place) || !mine (s.placeLoc e.place))
        scrubbed := gs.foldl (fun m g => SMap.set 0 g 2 m) s.scrubbed
        scrubs := s.scrubs ++ [{ part := part, first := first, count := count }] } part 0x4034 (2 ^ 30 + count)).setPreg
          part 0x4038 0)
    else .next (s.setPreg part 0x4034 (count + if busy then 2 ^ 30 else 0))

/-- The first granule of the run that is pending. -/
def State.runNext (s : State) (r : Scrub) : Option Nat :=
  ((List.range r.count).find? (fun i => decide (SMap.get 0 (r.first + i) s.scrubbed = 2))).map (r.first + ·)

/-- The next granule of the power-on scrub (R512): HBM4E, then LPDDR6. -/
def State.bootNext (s : State) : Option Nat :=
  let g := if 12 * 2 ^ 15 ≤ s.bootScrub ∧ s.bootScrub < lpBase / 2 ^ 21 then lpBase / 2 ^ 21 else s.bootScrub
  if g < lpBase / 2 ^ 21 + 12 * 2 ^ 16 then some g else none

/-- SCRUB_GRANULE (R458, R512): the scrubber zero-marks a pending granule: of the first run, else of the power-on scrub,
which goes on once firmware has trained the memory. -/
def execScrubGranule (s : State) : Host.Outcome State Fault Refusal :=
  match s.scrubs.findSome? s.runNext with
  | some g => .next (s.scrubNow g)
  | none =>
    match s.bootNext with
    | none => .next s
    | some g =>
      if s.bootState ≠ 2 then .next s
      else
        let t := if s.granulePending g then s.scrubNow g else s
        .next { t with bootScrub := g + 1, scrubbed := SMap.set 0 g 0 t.scrubbed }

/-- The patrol scrubber reads a sector of an array (R422, R452, R454): one beyond correction takes the poison marker there,
which its array counts and the firmware ring records; an entry of a shading heap becomes invalid. -/
def State.patrolSector (s : State) (sec : Nat) : State :=
  let p := 16 * sec
  let x := s.arrayStored sec
  if !x.uncorr || s.scrubPending p then s
  else if p < lpBase ∧ 0xFF0000000 ≤ p % 2 ^ 36 then s.scInvalidate (p / 2 ^ 36 * 2 ^ 19 + (p % 2 ^ 36 - 0xFF0000000) / 512)
  else ((s.setArray sec { x with pois := true, uncorr := false }).countUE (placeSlice p) (placeArray p)).writeFwRec
    { level := 0, source := 1, code := placeArray p, addr := if p < stBase then s.placeLoc p else p }

/-- The patrol scrubber reads a line of a carve-out (R422, R452, R456): a sector beyond correction is poisoned there. -/
def State.patrolCarve (s : State) (sl index line : Nat) : State :=
  let n := (s.mscShape sl).1
  let m := s.mscOf sl index
  let met := ((List.range 8).map (8 * line + ·)).filter (fun x => m.v && bitAt m.bad x)
  (met.foldl (fun s x => s.poisonMsc sl (mscFirst sl index n m.tag + x)) s).setMsc sl index
    { m with bad := met.foldl (fun b x => setField b x 1 0) m.bad }

/-- PATROL_SCRUB (R452, R454): the patrol scrubber reads the line at a storage place of HBM4E, LPDDR6, a carve-out or Steppe,
and poisons the sectors that it finds beyond correction. -/
def execPatrolScrub (addr : Nat) (s : State) : Host.Outcome State Fault Refusal :=
  let p := addr / 128 * 128
  let sl := placeSlice p
  let carve := s.mscShape sl
  .next (if p < lpBase ∧ carve.2 ≤ p ∧ p < carve.2 + 2048 * carve.1 then
      s.patrolCarve sl ((p - carve.2) / 2048) (p % 2048 / 128)
    else (List.range 8).foldl (fun s i => s.patrolSector (p / 16 + i)) s)

/-- The place of the sector that an injection names (R507): in HBM4E or LPDDR6, outside heaps and carve-outs. -/
def State.injectPlace (s : State) : Option Nat :=
  let loc := (s.reg 0x0A00).toNat / 16 * 16 + (s.reg 0x0A04).toNat % 2 ^ 14 * 2 ^ 32
  match s.resolve loc with
  | .mem p => if s.atTop p then none else some p
  | _ => none

/-- ERROR_INJECT (R507): GO starts an injection at the location as it stands, unless one is in progress or the location is none
that it serves. -/
def execErrorInject (s : State) : Host.Outcome State Fault Refusal :=
  if !s.openBar ∨ bitAt (s.reg 0x0A08).toNat 30 then .next s
  else match s.injectPlace with
    | none => .next s
    | some p => .next ({ s with injecting := p / 16 + 1 }.setReg 0x0A08 0x40000000)

/-- ERROR_INJECT_COMPLETE (R507): the line has been written back from and dropped by every cache, and the sector's next
read finds it beyond correction. -/
def execErrorInjectComplete (s : State) : Host.Outcome State Fault Refusal :=
  if !bitAt (s.reg 0x0A08).toNat 30 then .next s
  else
    let p := 16 * (s.injecting - 1)
    let s := State.setReg { s with injecting := 0 } 0x0A08 0
    let line := s.placeLoc p / 128
    let s := s.dropLines true (fun a => decide (a / 128 = line))
    .next (if s.scrubPending p then s else s.setArray (p / 16) { s.arrayStored (p / 16) with uncorr := true })

end Sys2Proof.Machine
end

