-- ==== Sys2Proof/Machine/Registers.lean ====
section
/-!
DEFINITION. A write to any register of the device register space or of a doorbell page (spec/00_scope.md R7, spec/16_host.md
R388 to R393): its fields by their access codes, or the row of its own that it has.
-/

namespace Sys2Proof.Machine

/-- What a write through BAR 0 does to a register with no row of its own (R7). -/
inductive WriteRule where
  /-- the offset names no register, or a read-only one -/
  | nothing
  /-- sets the fields of the mask; every other bit reads zero -/
  | fields (mask : Nat)
  /-- clears each bit of the mask that is written as 1 -/
  | clears (mask : Nat)
  deriving DecidableEq, Repr

/-- The rules of the root block's registers (R375, R383, R392, R427, R452, R482, R494, R496, R507). -/
def rootRule (off : Nat) : WriteRule :=
  if off = 0x0004 then .fields 0x7FFFFF
  else if off = 0x0020 then .clears 0x80000000
  else if 0x0200 ≤ off ∧ off < 0x0248 then .fields 0x800003FF
  else if 0x0600 ≤ off ∧ off < 0x0900 ∧ off % 0x40 < 0x30 then .clears 0xFF00FFFF
  else if 0x0900 ≤ off ∧ off < 0x0930 then .clears 0xFFFF
  else if off = 0x0A00 then .fields 0xFFFFFFF0
  else if off = 0x0A04 then .fields 0x3FFF
  else if 0x1800 ≤ off ∧ off < 0x1890 then .fields 0xFFFFFFFF
  else if off = 0x1900 then .fields 0xFF000000
  else if off = 0x190C then .fields 0xFFFFFFFF
  else if off = 0x3400 then .fields 0xFFFF0000
  else if off = 0x3404 then .fields 0x3FFF
  else if off = 0x340C then .fields 0xFFFFFFFF
  else if 0x3600 ≤ off ∧ off < 0x3600 + 4 * 69 then .clears 0x7FFFFFFF
  else .nothing

/-- The rules of a partition block's registers (R327, R328, R391, R450, R458, R485). -/
def partRule (off : Nat) : WriteRule :=
  if off = 0x008 ∨ off = 0x020 then .fields 0xFFFFF000
  else if off = 0x00C then .fields 0xFFFFF
  else if off = 0x010 ∨ off = 0x4030 then .fields 0x1FFFFFF
  else if off = 0x014 then .fields 0x3FFF
  else if off = 0x018 then .fields 0xFFFFFFF8
  else if off = 0x01C ∨ off = 0x024 then .fields 0xFFFFFF
  else if off = 0x028 then .fields 0x3F
  else if off = 0x030 then .clears 0xFFFF
  else if 0x5000 ≤ off ∧ off < 0x5040 ∧ off % 8 = 0 then .fields 0x83FFFFFF
  else if 0x7000 ≤ off ∧ off < 0x7400 ∧ off % 16 = 0 then .clears 0x8000FFFF
  else if 0x7000 ≤ off ∧ off < 0x7400 ∧ off % 16 = 12 then .clears 0xFFFF
  else if 0x10000 ≤ off ∧ off < 0x20000 then .fields 0xC0FFFFFF
  else .nothing

/-- Writes a register by its rule. -/
def State.writeBy (s : State) (off : Nat) (val : Word) : WriteRule → State
  | .nothing => s
  | .fields m => s.setReg off (val &&& BitVec.ofNat 32 m)
  | .clears m => s.setReg off (s.reg off &&& ~~~(val &&& BitVec.ofNat 32 m))

/-- A write to one half, at register offset `off`, of an RCB address register (R510). -/
def State.writeRcbHalf (s : State) (r : RcbReg) (off : Nat) (val : Word) : State :=
  if off % 8 = 0 then s.writeRcb r (some val) none else s.writeRcb r none (some val)

/-- A 64-bit register after a write of one of its halves. -/
def State.halfWrite (s : State) (base off : Nat) (val : Word) : BitVec 64 :=
  BitVec.ofNat 64 (if off = base then (s.reg64 base) / 2 ^ 32 * 2 ^ 32 + val.toNat
    else (s.reg64 base) % 2 ^ 32 + val.toNat * 2 ^ 32)

/-- A write of KS_CTLk (R373). -/
def writeKeySlot (k : Nat) (val : Word) (s : State) : Host.Outcome State Fault Refusal :=
  match val.toNat % 4 with
  | 0 => execKeySlotOff k s
  | 1 => execKeySlotOrdinary k s
  | 2 => execKeySlotSealedWrite k s
  | _ => execKeySlotPlain k s

/-- A write to the unwrap mailbox's control word (R375): SLOT, and GO. -/
def writeUnwrap (val : Word) (s : State) : Host.Outcome State Fault Refusal :=
  let old := (s.reg 0x1890).toNat
  let s := s.setReg 0x1890 (BitVec.ofNat 32 (old / 64 * 64 + val.toNat % 64))
  if bitAt val.toNat 31 then execSealUnwrap s else .next s

/-- A write to WDOG (R496, R497). -/
def writeWatchdog (val : Word) (s : State) : Host.Outcome State Fault Refusal :=
  match execWatchdogPeriodWrite val s with
  | .next t => if bitAt val.toNat 31 then execWatchdogKick t else .next t
  | o => o

/-- A write to a register of the root block on a booted device. -/
def writeRoot (off : Nat) (val : Word) (s : State) : Host.Outcome State Fault Refusal :=
  let go := bitAt val.toNat 31
  if off = 0x0010 then writeWatchdog val s
  else if off = 0x0018 then (if go then execDeviceReset s else .next s)
  else if off = 0x0030 ∨ off = 0x0034 then .next (s.writeRcbHalf .root off val)
  else if off = 0x0A08 then (if go then execErrorInject s else .next s)
  else if 0x1000 ≤ off ∧ off < 0x1100 then writeKeySlot ((off - 0x1000) / 4) val s
  else if off = 0x1890 then writeUnwrap val s
  else if off = 0x1900 ∧ s.logOn then .next s
  else if off = 0x1904 then execLogBaseCommit val s
  else if off = 0x1910 then (if bitAt val.toNat 0 then execLogCheckpoint s else .next s)
  else if 0x2000 ≤ off ∧ off < 0x2000 + 16 * 69 then execMeterWrite ((off - 0x2000) / 16) (off % 16) val s
  else .next (s.writeBy off val (rootRule off))

/-- A write to a register of partition block `i` on a booted device. -/
def writePart (i off : Nat) (val : Word) (s : State) : Host.Outcome State Fault Refusal :=
  let at_ := blockOff i off
  if off = 0x000 then execScCtlWrite i val s
  else if off = 0x4000 then execPtCfgWrite i val s
  else if off = 0x4004 then .next (s.barWrite (.part i off val))
  else if ownershipRegs.contains off then execOwnershipWrite i off val s
  else if off = 0x4034 then execScrubGo i val s
  else if off = 0x4040 then (if bitAt val.toNat 0 then execPartitionReset i s else .next s)
  else if off = 0x4050 ∨ off = 0x4054 then
    .next (s.writeRcbHalf (.part i) off val)
  else if 0x6000 ≤ off ∧ off < 0x6400 then
    (if off % 16 = 0 then execVfCtlWrite i ((off - 0x6000) / 16) val s
     else if off % 16 = 12 then .next s
     else .next (s.barWrite (.vf i ((off - 0x6000) / 16) (off % 16) val)))
  else if 0x6400 ≤ off ∧ off < 0x6600 then
    .next (s.writeRcbHalf (.vf i ((off - 0x6400) / 8)) off val)
  else if 0x8000 ≤ off ∧ off < 0x8100 then
    (if bitAt val.toNat 0 then execVfReset i ((off - 0x8000) / 4) s else .next s)
  else if 0x9000 ≤ off ∧ off < 0x9000 + 0x100 * s.partN i then
    .next (if s.partBit i 0x4020 (off % 0x100 / 4) then s.setReg at_ (val &&& 0xFFFF) else s)
  else if 0x20000 ≤ off ∧ off < 0x30000 then
    execSealGrantWrite i ((off - 0x20000) / 1024) ((off - 0x20000) / 4 % 256) val s
  else if 0x30000 ≤ off ∧ off < 0x50000 then
    execCtxBindWrite i ((off - 0x30000) / 2048) ((off - 0x30000) / 8 % 256) (s.halfWrite (at_ / 8 * 8) at_ val) s
  else .next (s.writeBy at_ val (partRule off))

/-- A write through BAR 0 (R388, R390, R393): until the device is booted it reaches BOOT_CTL and BOOT_LEN only. -/
def writeBar0 (off : Nat) (val : Word) (s : State) : Host.Outcome State Fault Refusal :=
  if off = 0x0000 then (if bitAt val.toNat 31 then execBootGo s else .next s)
  else if off = 0x0004 then .next (s.writeBy off val (rootRule off))
  else if !s.openBar then .next s
  else if off < 0x100000 then writeRoot off val s
  else if off < 0xD00000 then writePart (off / 0x100000 - 1) (off % 0x100000) val s
  else .next s

/-- A write to a doorbell page through BAR 2 (R55, R98, R216, R389, R445): BASE keeps its value while EN is 1 (R443). -/
def writeDoorbell (f c off : Nat) (val : Word) (s : State) : Host.Outcome State Fault Refusal :=
  let v := val.toNat
  if !s.openBar then .next s
  else if off = 0x000 then .next (if s.queueOn f c then s else s.setBell f c off (v / 32 * 32))
  else if off = 0x004 then .next (if s.queueOn f c then s else s.setBell f c off (v % 2 ^ 24))
  else if off = 0x008 then execQueueEnableWrite f c val s
  else if off = 0x00C then execDoorbellWrite f c val s
  else if off = 0x100 then .next (s.setBell f c off (v / 2 ^ 15 * 2 ^ 15))
  else if off = 0x104 then .next (s.setBell f c off (v % 2 ^ 14))
  else if off = 0x108 then .next (s.setBell f c off (v / 4096 * 4096))
  else if off = 0x10C then execTlbInvalidate f c val s
  else if off = 0x200 then .next (s.frameHost f c (some v))
  else if off = 0x300 then (if bitAt v 0 then execContextKill f c s else .next s)
  else .next s

/-- REGISTER_WRITE (R7): a write to a register sets its fields per access code. -/
def execRegisterWrite (t : RegTarget) (val : Word) (s : State) : Host.Outcome State Fault Refusal :=
  match t with
  | .bar0 off => writeBar0 (off / 4 * 4) val s
  | .doorbell f c off => if f < 64 ∧ c < 256 ∧ off < 4096 then writeDoorbell f c (off / 4 * 4) val s else .next s

end Sys2Proof.Machine
end

