-- ==== Sys2Proof/Machine/Incoming.lean ====
section
/-!
DEFINITION. Incoming accesses of the host and of peers as operations (spec/05_consistency.md R103, R112, spec/16_host.md R388 to
R392), and the completion of a key slot's change of mode, which releases those it held (R373).
-/

namespace Sys2Proof.Machine

/-- Register writes of an incoming write, word by word. The spec is silent on an access of fewer than four bytes and on an
unaligned one: the offset is aligned down, and a short word is extended by zeros (DESIGN CHOICE, log 89). -/
def writeWords (f : Nat → Word → State → Host.Outcome State Fault Refusal) : Nat → Nat → List Byte → State → State
  | 0, _, _, s => s
  | fuel + 1, off, bs, s =>
    match f off (BitVec.ofNat 32 (natAt bs 0 4)) s with
    | .next t => if bs.length ≤ 4 then t else writeWords f fuel (off + 4) (bs.drop 4) t
    | _ => s

/-- An incoming write (R112, R460). -/
def State.doWrite (s : State) (src : Source) (addr : Nat) (bs : List Byte) : State :=
  if bs.isEmpty then s
  else
    match s.landing src addr with
    | .refused => s
    | .bar0 off => writeWords writeBar0 bs.length (off / 4 * 4) bs s
    | .bar2 f off => if 2 ^ 20 < off + bs.length then s else writeWords (fun o v t => writeDoorbell f (o / 4096) (o % 4096) v t) bs.length (off / 4 * 4) bs s
    | .memory pa _ => s.memWrite src addr pa bs

/-- An incoming read (R103, R379, R460, R495, R513): its bytes go out at its port, or it ends without data. -/
def State.doRead (s : State) (src : Source) (addr n : Nat) : State :=
  match s.landing src addr with
  | .refused => s.abortRead src
  | .bar0 off =>
    let words := (List.range (ceilDiv n 4)).flatMap (fun i => bytesOf 4 (s.readReg (off / 4 * 4 + 4 * i)))
    s.answer src 0 (words.take n) false
  | .bar2 f off =>
    if 2 ^ 20 < off + n then s.abortRead src else
    let words := (List.range (ceilDiv n 4)).flatMap (fun i =>
      bytesOf 4 (s.readBell f ((off / 4 * 4 + 4 * i) / 4096) ((off / 4 * 4 + 4 * i) % 4096)))
    let pages := ((List.range (ceilDiv n 4)).filter (fun i => (off / 4 * 4 + 4 * i) % 4096 == 0x200)).map (fun i => (off / 4 * 4 + 4 * i) / 4096)
    (pages.foldl (fun s c => s.frameHost f c none) s).answer src 0 (words.take n) false
  | .memory pa _ => s.memRead src addr pa n

/-- INCOMING_WRITE (R112): a host or peer write performs at each line's home on path v. -/
def execIncomingWrite (src : Source) (addr : Nat) (data : List Byte) (s : State) : Host.Outcome State Fault Refusal :=
  .next (s.doWrite src addr data)

/-- INCOMING_READ (R103): a host or peer read is checked and served on path v. -/
def execIncomingRead (src : Source) (addr len : Nat) (s : State) : Host.Outcome State Fault Refusal :=
  .next (s.doRead src addr len)

/-- KEY_MODE_CHANGE_COMPLETE (R373, R460): the slot takes its mode, and what was held is made again. -/
def execKeyModeChangeComplete (slot : Nat) (s : State) : Host.Outcome State Fault Refusal :=
  let code := SMap.get 0 slot s.keyBusy
  if code = 0 then .next s
  else
    .next (s.modeDone slot code).admitHeld

end Sys2Proof.Machine
end

