-- ==== Sys2Proof/Machine/Auto.lean ====
section
/-!
DEFINITION. What moves when the agenda is empty: the ports that can issue, and the events that the device brings about
by itself. The spec orders neither among each other (spec/03_scheduling.md R61 lets the ports issue side by side); the
order here is the model's, and an agenda gives every other one.
-/

namespace Sys2Proof.Machine

/-- The instructions of Instr that are events of the device or the host: no word of a program, no step that is part of
another (R169, R414). -/
def isEvent (i : Instr) : Bool :=
  (encodeNat i).isNone &&
    (match i with
      | .unassignedOpcode _ => false
      | .handlerReturnContinue => false
      | .handlerReturnPc => false
      | .handlerReturnEnd => false
      | _ => true)

/-- The number of a port of the device (R20). -/
def portNo (p : Nat × Nat) : Nat := 4 * p.1 + p.2

/-- The ports that hold waves. -/
def State.ports (s : State) : List (Nat × Nat) := (s.boxes.map (fun b => (b.wave.core, b.wave.port))).eraseDups

/-- The ports whose turn is still to come, lowest first: with a fragment in focus, those above its port. -/
def State.portsLeft (s : State) : List (Nat × Nat) :=
  let start := if s.focus then portNo (s.wave.core, s.wave.port) + 1 else 0
  (sortBy (fun a b => decide (a ≤ b)) ((s.ports.map portNo).filter (fun n => decide (start ≤ n)))).map (fun n => (n / 4, n % 4))

/-- The fragment that issues when the agenda is empty, in focus: that of the next port with one to issue. -/
def State.nextIssue (s : State) : Option State := s.portsLeft.findSome? (fun p => s.select p.1 p.2)

/-- The state after an event, if the event changes more than which fragment is in focus. -/
def State.moves (s : State) (e : State → Host.Outcome State Fault Refusal) : Option State :=
  match e s with
  | .next t => if t.unfocus = s.unfocus then none else some t
  | .fault _ => none
  | .refused _ => none

/-- The first of a list of events that moves the machine. -/
def State.firstMove (s : State) (es : List (State → Host.Outcome State Fault Refusal)) : Option State := es.findSome? s.moves

/-- The events of the whole device that are due: the confinements, what waits for a log entry or a key slot, boot, the
watchdog. -/
def State.deviceMoves (s : State) : Option State :=
  s.firstMove
    ((s.confs.flatMap (fun c => (c.waiting.map (fun e => execQuiesceComplete c.id e)) ++ [execConfinementCapture c.id])) ++
     (s.keyBusy.map (fun e => execKeyModeChangeComplete e.1)) ++
     [execLogEntryWrite, execBootVerifyComplete, execErrorInjectComplete, execWatchdogExpiry] ++
     (s.pri.map (fun p => execPriTimeout p.id)) ++
     (s.extReads.map (fun r => execEgressReadAbort r.id)) ++
     (s.invs.map (fun v => execInvalidationComplete (v.1 / 256) (v.1 % 256))) ++
     (s.msc.filter (fun m => m.2.filling.isSome)).map (fun m => execMscFillComplete (m.1 / 2 ^ 24) (m.1 % 2 ^ 24)))

/-- The events of a command that is posted to an engine. -/
def Command.moves (c : Command) : List (State → Host.Outcome State Fault Refusal) :=
  if c.phase = .done then [execCommandComplete c.id]
  else
    [execMulticastStart c.id] ++
    (if c.kind.isCopy then [execPageMigration c.id, execCopyBytesLand c.id 1, execCopyCommandStart c.engine] else []) ++
    (if c.kind.isMatrix then [execMatrixEntryStart c.core, execMmatKstep c.core, execMatrixChunkComplete c.core 0] else []) ++
    (if c.kind = CmdKind.rast ∨ c.kind = CmdKind.ray then [execSightCommandRun (c.core / 16) (clusterOf c.core)] else []) ++
    (if c.kind = CmdKind.qpost then
      [execAttentionCommandStart c.id] ++ (List.range 1024).map (fun b => execBauRowRead c.id b false) ++
        [execAttentionResultWrite c.id]
    else [])

/-- The events of the engines. -/
def State.engineMoves (s : State) : Option State :=
  s.firstMove (s.cmds.flatMap Command.moves ++ s.sideQ.map (fun q => execHotRowSideQueue (q.1 / 4096) (q.1 / 64 % 64)))

/-- The events that end the wait of a fragment. -/
def Frag.moves (w : Wave) (f : Frag) : List (State → Host.Outcome State Fault Refusal) :=
  match f.wait with
  | none => []
  | some _ =>
    [execWaitRetest w.id f.slot, execScRelookup w.id f.slot, execScLookupRetry w.id f.slot, execFenceComplete w.id f.slot,
     execSleepExpiry w.id f.slot, execWaitPeriodicRetest w.id f.slot]

/-- The events of the resident waves and workgroups. -/
def State.waveMoves (s : State) : Option State :=
  s.firstMove
    (s.boxes.flatMap (fun b => b.frags.flatMap (Frag.moves b.wave) ++ b.wave.tokens.map (fun t => execRejoinTimeout b.wave.id t.1)) ++
     s.groups.map (fun g => execWorkgroupComplete g.id) ++
     s.ports.map (fun p => execPendingReadyReplace p.1 p.2))

/-- The contexts that a doorbell register has been written of. -/
def State.rungCtxs (s : State) : List (Nat × Nat) :=
  ((s.dbell.map (fun e => e.1 / 4096)).eraseDups).map (fun n => (n / 256, n % 256))

/-- The events of the queues, the distributor and pre-emption. -/
def State.distributorMoves (s : State) : Option State :=
  s.firstMove
    (s.boxes.flatMap (fun b => [execDeepPark b.wave.id, execWaveRestore b.wave.id, execWaveEviction b.wave.id]) ++
     (((s.groups.map (fun g => (g.vf, g.ctx))).eraseDups).flatMap
       (fun c => [execTimeSliceEnd c.1 c.2, execPreemptionSave c.1 c.2])) ++
     s.saved.map (fun g => execResumption g.wg.id) ++
     (List.range 12).map execShadeBatchDispatch ++
     s.rungCtxs.map (fun c => execQueueEntryRelease c.1 c.2) ++
     (List.range 12).map execWorkgroupDispatch ++
     s.launches.map (fun l => execLaunchPriorityAging l.id))

/-- The guard words that the front ends look at (R288). -/
def State.guardMoves (s : State) : Option State :=
  s.firstMove ((s.cmds.filter (fun c => c.phase == .guarded)).map (fun c => execGuardWordResolve c.id))

/-- The event that the device brings about by itself when nothing can issue: the first that moves it; the looks at guard words, which
read memory each time, and the scrubber go last. -/
def State.autoEvent (s : State) : Option State :=
  s.deviceMoves <|> s.engineMoves <|> s.waveMoves <|> s.distributorMoves <|> s.guardMoves <|> s.firstMove [execScrubGranule]

end Sys2Proof.Machine
end

