-- ==== Sys2Proof/Machine/Dispatch.lean ====
section
/-!
DEFINITION. The dispatcher: one arm per constructor of Instr, each a direct call of its meaning.
-/

namespace Sys2Proof.Machine

/-- The meaning of an instruction or event. -/
def exec (i : Instr) (s : State) : Host.Outcome State Fault Refusal :=
  match i with
  | .nop => Sys2Proof.Machine.execNop s
  | .br a0 => Sys2Proof.Machine.execBr a0 s
  | .brt a0 a1 => Sys2Proof.Machine.execBrt a0 a1 s
  | .brx a0 => Sys2Proof.Machine.execBrx a0 s
  | .call a0 a1 => Sys2Proof.Machine.execCall a0 a1 s
  | .ret a0 => Sys2Proof.Machine.execRet a0 s
  | .tok a0 => Sys2Proof.Machine.execTok a0 s
  | .rejoin a0 => Sys2Proof.Machine.execRejoin a0 s
  | .exit a0 => Sys2Proof.Machine.execExit a0 s
  | .yield => Sys2Proof.Machine.execYield s
  | .waitf a0 => Sys2Proof.Machine.execWaitf a0 s
  | .waitv a0 a1 a2 => Sys2Proof.Machine.execWaitv a0 a1 a2 s
  | .fpt a0 => Sys2Proof.Machine.execFpt a0 s
  | .sleep a0 => Sys2Proof.Machine.execSleep a0 s
  | .bar a0 => Sys2Proof.Machine.execBar a0 s
  | .barArrive a0 => Sys2Proof.Machine.execBarArrive a0 s
  | .barWait a0 => Sys2Proof.Machine.execBarWait a0 s
  | .lfsr a0 a1 => Sys2Proof.Machine.execLfsr a0 a1 s
  | .lfsrRd a0 => Sys2Proof.Machine.execLfsrRd a0 s
  | .modeSet a0 a1 => Sys2Proof.Machine.execModeSet a0 a1 s
  | .modeGet a0 => Sys2Proof.Machine.execModeGet a0 s
  | .modePut a0 => Sys2Proof.Machine.execModePut a0 s
  | .guard a0 a1 => Sys2Proof.Machine.execGuard a0 a1 s
  | .lrec a0 a1 => Sys2Proof.Machine.execLrec a0 a1 s
  | .launch a0 => Sys2Proof.Machine.execLaunch a0 s
  | .lit a0 => Sys2Proof.Machine.execLit a0 s
  | .lih a0 => Sys2Proof.Machine.execLih a0 s
  | .trap a0 => Sys2Proof.Machine.execTrap a0 s
  | .sysr a0 a1 => Sys2Proof.Machine.execSysr a0 a1 s
  | .sysw a0 a1 => Sys2Proof.Machine.execSysw a0 a1 s
  | .brk a0 => Sys2Proof.Machine.execBrk a0 s
  | .add a0 a1 a2 => Sys2Proof.Machine.execAdd a0 a1 a2 s
  | .sub a0 a1 a2 => Sys2Proof.Machine.execSub a0 a1 a2 s
  | .addc a0 a1 a2 => Sys2Proof.Machine.execAddc a0 a1 a2 s
  | .subb a0 a1 a2 => Sys2Proof.Machine.execSubb a0 a1 a2 s
  | .mul a0 a1 a2 => Sys2Proof.Machine.execMul a0 a1 a2 s
  | .mulh a0 a1 a2 => Sys2Proof.Machine.execMulh a0 a1 a2 s
  | .mad a0 a1 a2 => Sys2Proof.Machine.execMad a0 a1 a2 s
  | .madh a0 a1 a2 => Sys2Proof.Machine.execMadh a0 a1 a2 s
  | .div a0 a1 a2 => Sys2Proof.Machine.execDiv a0 a1 a2 s
  | .rem a0 a1 a2 => Sys2Proof.Machine.execRem a0 a1 a2 s
  | .neg a0 a1 => Sys2Proof.Machine.execNeg a0 a1 s
  | .abs a0 a1 => Sys2Proof.Machine.execAbs a0 a1 s
  | .min a0 a1 a2 => Sys2Proof.Machine.execMin a0 a1 a2 s
  | .max a0 a1 a2 => Sys2Proof.Machine.execMax a0 a1 a2 s
  | .and a0 a1 a2 => Sys2Proof.Machine.execAnd a0 a1 a2 s
  | .or a0 a1 a2 => Sys2Proof.Machine.execOr a0 a1 a2 s
  | .xor a0 a1 a2 => Sys2Proof.Machine.execXor a0 a1 a2 s
  | .not a0 a1 => Sys2Proof.Machine.execNot a0 a1 s
  | .andn a0 a1 a2 => Sys2Proof.Machine.execAndn a0 a1 a2 s
  | .shl a0 a1 a2 => Sys2Proof.Machine.execShl a0 a1 a2 s
  | .shr a0 a1 a2 => Sys2Proof.Machine.execShr a0 a1 a2 s
  | .sar a0 a1 a2 => Sys2Proof.Machine.execSar a0 a1 a2 s
  | .rol a0 a1 a2 => Sys2Proof.Machine.execRol a0 a1 a2 s
  | .bfx a0 a1 a2 => Sys2Proof.Machine.execBfx a0 a1 a2 s
  | .bfi a0 a1 a2 => Sys2Proof.Machine.execBfi a0 a1 a2 s
  | .popc a0 a1 => Sys2Proof.Machine.execPopc a0 a1 s
  | .clz a0 a1 => Sys2Proof.Machine.execClz a0 a1 s
  | .ctz a0 a1 => Sys2Proof.Machine.execCtz a0 a1 s
  | .brev a0 a1 => Sys2Proof.Machine.execBrev a0 a1 s
  | .cmp a0 a1 a2 a3 => Sys2Proof.Machine.execCmp a0 a1 a2 a3 s
  | .sel a0 a1 a2 => Sys2Proof.Machine.execSel a0 a1 a2 s
  | .mov a0 a1 => Sys2Proof.Machine.execMov a0 a1 s
  | .movi a0 a1 => Sys2Proof.Machine.execMovi a0 a1 s
  | .movs a0 a1 a2 => Sys2Proof.Machine.execMovs a0 a1 a2 s
  | .shflIdx a0 a1 a2 => Sys2Proof.Machine.execShflIdx a0 a1 a2 s
  | .shflXor a0 a1 a2 => Sys2Proof.Machine.execShflXor a0 a1 a2 s
  | .shflUp a0 a1 a2 => Sys2Proof.Machine.execShflUp a0 a1 a2 s
  | .shflDown a0 a1 a2 => Sys2Proof.Machine.execShflDown a0 a1 a2 s
  | .vote a0 a1 a2 => Sys2Proof.Machine.execVote a0 a1 a2 s
  | .ballot a0 a1 a2 => Sys2Proof.Machine.execBallot a0 a1 a2 s
  | .redux a0 a1 a2 => Sys2Proof.Machine.execRedux a0 a1 a2 s
  | .scan a0 a1 a2 a3 => Sys2Proof.Machine.execScan a0 a1 a2 a3 s
  | .pand a0 a1 a2 => Sys2Proof.Machine.execPand a0 a1 a2 s
  | .por a0 a1 a2 => Sys2Proof.Machine.execPor a0 a1 a2 s
  | .pxor a0 a1 a2 => Sys2Proof.Machine.execPxor a0 a1 a2 s
  | .pnot a0 a1 => Sys2Proof.Machine.execPnot a0 a1 s
  | .pcnt a0 a1 a2 => Sys2Proof.Machine.execPcnt a0 a1 a2 s
  | .fadd a0 a1 a2 => Sys2Proof.Machine.execFadd a0 a1 a2 s
  | .fsub a0 a1 a2 => Sys2Proof.Machine.execFsub a0 a1 a2 s
  | .fmul a0 a1 a2 => Sys2Proof.Machine.execFmul a0 a1 a2 s
  | .ffma a0 a1 a2 => Sys2Proof.Machine.execFfma a0 a1 a2 s
  | .fabs a0 a1 => Sys2Proof.Machine.execFabs a0 a1 s
  | .fneg a0 a1 => Sys2Proof.Machine.execFneg a0 a1 s
  | .fmin a0 a1 a2 => Sys2Proof.Machine.execFmin a0 a1 a2 s
  | .fmax a0 a1 a2 => Sys2Proof.Machine.execFmax a0 a1 a2 s
  | .fcmp a0 a1 a2 a3 => Sys2Proof.Machine.execFcmp a0 a1 a2 a3 s
  | .fcls a0 a1 => Sys2Proof.Machine.execFcls a0 a1 s
  | .frcp a0 a1 => Sys2Proof.Machine.execFrcp a0 a1 s
  | .frsq a0 a1 => Sys2Proof.Machine.execFrsq a0 a1 s
  | .fsqrt a0 a1 => Sys2Proof.Machine.execFsqrt a0 a1 s
  | .fdiv a0 a1 a2 => Sys2Proof.Machine.execFdiv a0 a1 a2 s
  | .fex2 a0 a1 => Sys2Proof.Machine.execFex2 a0 a1 s
  | .flg2 a0 a1 => Sys2Proof.Machine.execFlg2 a0 a1 s
  | .fsin a0 a1 => Sys2Proof.Machine.execFsin a0 a1 s
  | .fcos a0 a1 => Sys2Proof.Machine.execFcos a0 a1 s
  | .ffrac a0 a1 => Sys2Proof.Machine.execFfrac a0 a1 s
  | .fround a0 a1 => Sys2Proof.Machine.execFround a0 a1 s
  | .fscale a0 a1 a2 => Sys2Proof.Machine.execFscale a0 a1 a2 s
  | .cvtFi a0 a1 a2 => Sys2Proof.Machine.execCvtFi a0 a1 a2 s
  | .cvtIf a0 a1 a2 => Sys2Proof.Machine.execCvtIf a0 a1 a2 s
  | .cvtFfFrom a0 a1 a2 => Sys2Proof.Machine.execCvtFfFrom a0 a1 a2 s
  | .cvtFfTo a0 a1 a2 => Sys2Proof.Machine.execCvtFfTo a0 a1 a2 s
  | .pack8 a0 a1 a2 a3 => Sys2Proof.Machine.execPack8 a0 a1 a2 a3 s
  | .pack6 a0 a1 a2 a3 => Sys2Proof.Machine.execPack6 a0 a1 a2 a3 s
  | .pack4 a0 a1 a2 a3 => Sys2Proof.Machine.execPack4 a0 a1 a2 a3 s
  | .unpack a0 a1 a2 a3 => Sys2Proof.Machine.execUnpack a0 a1 a2 a3 s
  | .dot2 a0 a1 a2 => Sys2Proof.Machine.execDot2 a0 a1 a2 s
  | .dot4 a0 a1 a2 => Sys2Proof.Machine.execDot4 a0 a1 a2 s
  | .dot8 a0 a1 a2 => Sys2Proof.Machine.execDot8 a0 a1 a2 s
  | .rseed a0 => Sys2Proof.Machine.execRseed a0 s
  | .rnext a0 => Sys2Proof.Machine.execRnext a0 s
  | .rnextH a0 => Sys2Proof.Machine.execRnextH a0 s
  | .ipt a0 a1 a2 => Sys2Proof.Machine.execIpt a0 a1 a2 s
  | .ilo a0 a1 => Sys2Proof.Machine.execIlo a0 a1 s
  | .ihi a0 a1 => Sys2Proof.Machine.execIhi a0 a1 s
  | .imid a0 a1 => Sys2Proof.Machine.execImid a0 a1 s
  | .iwid a0 a1 => Sys2Proof.Machine.execIwid a0 a1 s
  | .ihull a0 a1 a2 => Sys2Proof.Machine.execIhull a0 a1 a2 s
  | .isect a0 a1 a2 => Sys2Proof.Machine.execIsect a0 a1 a2 s
  | .iin a0 a1 a2 => Sys2Proof.Machine.execIin a0 a1 a2 s
  | .ibis a0 a1 a2 => Sys2Proof.Machine.execIbis a0 a1 a2 s
  | .itake a0 a1 a2 => Sys2Proof.Machine.execItake a0 a1 a2 s
  | .bbox a0 a1 a2 => Sys2Proof.Machine.execBbox a0 a1 a2 s
  | .ldG a0 a1 a2 a3 => Sys2Proof.Machine.execLdG a0 a1 a2 a3 s
  | .ldL a0 a1 a2 a3 => Sys2Proof.Machine.execLdL a0 a1 a2 a3 s
  | .ldC a0 a1 a2 a3 => Sys2Proof.Machine.execLdC a0 a1 a2 a3 s
  | .ldS a0 a1 a2 a3 => Sys2Proof.Machine.execLdS a0 a1 a2 a3 s
  | .ldP a0 a1 a2 a3 => Sys2Proof.Machine.execLdP a0 a1 a2 a3 s
  | .stG a0 a1 a2 a3 => Sys2Proof.Machine.execStG a0 a1 a2 a3 s
  | .stL a0 a1 a2 a3 => Sys2Proof.Machine.execStL a0 a1 a2 a3 s
  | .stC a0 a1 a2 a3 => Sys2Proof.Machine.execStC a0 a1 a2 a3 s
  | .stS a0 a1 a2 a3 => Sys2Proof.Machine.execStS a0 a1 a2 a3 s
  | .stP a0 a1 a2 a3 => Sys2Proof.Machine.execStP a0 a1 a2 a3 s
  | .ldx a0 a1 a2 a3 => Sys2Proof.Machine.execLdx a0 a1 a2 a3 s
  | .stx a0 a1 a2 a3 => Sys2Proof.Machine.execStx a0 a1 a2 a3 s
  | .ild a0 a1 a2 a3 => Sys2Proof.Machine.execIld a0 a1 a2 a3 s
  | .ist a0 a1 a2 a3 => Sys2Proof.Machine.execIst a0 a1 a2 a3 s
  | .prf a0 a1 a2 => Sys2Proof.Machine.execPrf a0 a1 a2 s
  | .atomAdd a0 a1 a2 a3 => Sys2Proof.Machine.execAtomAdd a0 a1 a2 a3 s
  | .atomFadd a0 a1 a2 a3 => Sys2Proof.Machine.execAtomFadd a0 a1 a2 a3 s
  | .atomMin a0 a1 a2 a3 => Sys2Proof.Machine.execAtomMin a0 a1 a2 a3 s
  | .atomMax a0 a1 a2 a3 => Sys2Proof.Machine.execAtomMax a0 a1 a2 a3 s
  | .atomAnd a0 a1 a2 a3 => Sys2Proof.Machine.execAtomAnd a0 a1 a2 a3 s
  | .atomOr a0 a1 a2 a3 => Sys2Proof.Machine.execAtomOr a0 a1 a2 a3 s
  | .atomXor a0 a1 a2 a3 => Sys2Proof.Machine.execAtomXor a0 a1 a2 a3 s
  | .atomExch a0 a1 a2 a3 => Sys2Proof.Machine.execAtomExch a0 a1 a2 a3 s
  | .atomInc a0 a1 a2 a3 => Sys2Proof.Machine.execAtomInc a0 a1 a2 a3 s
  | .atomDec a0 a1 a2 a3 => Sys2Proof.Machine.execAtomDec a0 a1 a2 a3 s
  | .redAdd a0 a1 a2 a3 => Sys2Proof.Machine.execRedAdd a0 a1 a2 a3 s
  | .redFadd a0 a1 a2 a3 => Sys2Proof.Machine.execRedFadd a0 a1 a2 a3 s
  | .redMin a0 a1 a2 a3 => Sys2Proof.Machine.execRedMin a0 a1 a2 a3 s
  | .redMax a0 a1 a2 a3 => Sys2Proof.Machine.execRedMax a0 a1 a2 a3 s
  | .redAnd a0 a1 a2 a3 => Sys2Proof.Machine.execRedAnd a0 a1 a2 a3 s
  | .redOr a0 a1 a2 a3 => Sys2Proof.Machine.execRedOr a0 a1 a2 a3 s
  | .redXor a0 a1 a2 a3 => Sys2Proof.Machine.execRedXor a0 a1 a2 a3 s
  | .redExch a0 a1 a2 a3 => Sys2Proof.Machine.execRedExch a0 a1 a2 a3 s
  | .redInc a0 a1 a2 a3 => Sys2Proof.Machine.execRedInc a0 a1 a2 a3 s
  | .redDec a0 a1 a2 a3 => Sys2Proof.Machine.execRedDec a0 a1 a2 a3 s
  | .cas a0 a1 a2 a3 => Sys2Proof.Machine.execCas a0 a1 a2 a3 s
  | .ldf a0 a1 a2 => Sys2Proof.Machine.execLdf a0 a1 a2 s
  | .stf a0 a1 a2 => Sys2Proof.Machine.execStf a0 a1 a2 s
  | .cpy a0 => Sys2Proof.Machine.execCpy a0 s
  | .cpyCol a0 => Sys2Proof.Machine.execCpyCol a0 s
  | .cpyMc a0 => Sys2Proof.Machine.execCpyMc a0 s
  | .cpyThen a0 a1 => Sys2Proof.Machine.execCpyThen a0 a1 s
  | .sealBatch a0 => Sys2Proof.Machine.execSealBatch a0 s
  | .bwait a0 => Sys2Proof.Machine.execBwait a0 s
  | .slotFree a0 => Sys2Proof.Machine.execSlotFree a0 s
  | .tbarInit a0 a1 => Sys2Proof.Machine.execTbarInit a0 a1 s
  | .tbarExpect a0 a1 => Sys2Proof.Machine.execTbarExpect a0 a1 s
  | .tbarArrive a0 a1 => Sys2Proof.Machine.execTbarArrive a0 a1 s
  | .tbarWait a0 a1 => Sys2Proof.Machine.execTbarWait a0 a1 s
  | .fenceX a0 a1 => Sys2Proof.Machine.execFenceX a0 a1 s
  | .fenceH => Sys2Proof.Machine.execFenceH s
  | .spl a0 a1 a2 => Sys2Proof.Machine.execSpl a0 a1 a2 s
  | .fil a0 a1 a2 => Sys2Proof.Machine.execFil a0 a1 a2 s
  | .mma a0 a1 a2 => Sys2Proof.Machine.execMma a0 a1 a2 s
  | .mmaB a0 a1 a2 => Sys2Proof.Machine.execMmaB a0 a1 a2 s
  | .mmat a0 => Sys2Proof.Machine.execMmat a0 s
  | .accSwap a0 => Sys2Proof.Machine.execAccSwap a0 s
  | .accZero a0 => Sys2Proof.Machine.execAccZero a0 s
  | .accZeroV a0 => Sys2Proof.Machine.execAccZeroV a0 s
  | .accRd a0 a1 a2 a3 => Sys2Proof.Machine.execAccRd a0 a1 a2 a3 s
  | .accWr a0 a1 a2 a3 => Sys2Proof.Machine.execAccWr a0 a1 a2 a3 s
  | .tld a0 a1 a2 a3 => Sys2Proof.Machine.execTld a0 a1 a2 a3 s
  | .tldT a0 a1 a2 a3 => Sys2Proof.Machine.execTldT a0 a1 a2 a3 s
  | .tst a0 a1 a2 a3 => Sys2Proof.Machine.execTst a0 a1 a2 a3 s
  | .tscale a0 a1 a2 => Sys2Proof.Machine.execTscale a0 a1 a2 s
  | .fmtv a0 a1 => Sys2Proof.Machine.execFmtv a0 a1 s
  | .scq a0 a1 a2 => Sys2Proof.Machine.execScq a0 a1 a2 s
  | .scfill a0 a1 a2 => Sys2Proof.Machine.execScfill a0 a1 a2 s
  | .scinv a0 a1 => Sys2Proof.Machine.execScinv a0 a1 s
  | .scage a0 a1 a2 => Sys2Proof.Machine.execScage a0 a1 a2 s
  | .rast a0 => Sys2Proof.Machine.execRast a0 s
  | .ray a0 a1 => Sys2Proof.Machine.execRay a0 a1 s
  | .qpost a0 => Sys2Proof.Machine.execQpost a0 s
  | .amerge a0 a1 a2 => Sys2Proof.Machine.execAmerge a0 a1 a2 s
  | .afin a0 a1 => Sys2Proof.Machine.execAfin a0 a1 s
  | .unassignedOpcode a0 => Sys2Proof.Machine.execUnassignedOpcode a0 s
  | .handlerReturnContinue => Sys2Proof.Machine.execHandlerReturnContinue s
  | .handlerReturnPc => Sys2Proof.Machine.execHandlerReturnPc s
  | .handlerReturnEnd => Sys2Proof.Machine.execHandlerReturnEnd s
  | .rejoinTimeout a0 a1 => Sys2Proof.Machine.execRejoinTimeout a0 a1 s
  | .waitRetest a0 a1 => Sys2Proof.Machine.execWaitRetest a0 a1 s
  | .waitPeriodicRetest a0 a1 => Sys2Proof.Machine.execWaitPeriodicRetest a0 a1 s
  | .pendingReadyReplace a0 a1 => Sys2Proof.Machine.execPendingReadyReplace a0 a1 s
  | .fragmentRankAging a0 a1 => Sys2Proof.Machine.execFragmentRankAging a0 a1 s
  | .sleepExpiry a0 a1 => Sys2Proof.Machine.execSleepExpiry a0 a1 s
  | .loadDataReturn a0 a1 => Sys2Proof.Machine.execLoadDataReturn a0 a1 s
  | .fenceComplete a0 a1 => Sys2Proof.Machine.execFenceComplete a0 a1 s
  | .doorbellWrite a0 a1 a2 => Sys2Proof.Machine.execDoorbellWrite a0 a1 a2 s
  | .queueEnableWrite a0 a1 a2 => Sys2Proof.Machine.execQueueEnableWrite a0 a1 a2 s
  | .queueEntryRelease a0 a1 => Sys2Proof.Machine.execQueueEntryRelease a0 a1 s
  | .launchPriorityAging a0 => Sys2Proof.Machine.execLaunchPriorityAging a0 s
  | .workgroupDispatch a0 => Sys2Proof.Machine.execWorkgroupDispatch a0 s
  | .workgroupComplete a0 => Sys2Proof.Machine.execWorkgroupComplete a0 s
  | .ctxBindWrite a0 a1 a2 a3 => Sys2Proof.Machine.execCtxBindWrite a0 a1 a2 a3 s
  | .deepPark a0 => Sys2Proof.Machine.execDeepPark a0 s
  | .waveEviction a0 => Sys2Proof.Machine.execWaveEviction a0 s
  | .waveRestore a0 => Sys2Proof.Machine.execWaveRestore a0 s
  | .timeSliceEnd a0 a1 => Sys2Proof.Machine.execTimeSliceEnd a0 a1 s
  | .preemptionSave a0 a1 => Sys2Proof.Machine.execPreemptionSave a0 a1 s
  | .resumption a0 => Sys2Proof.Machine.execResumption a0 s
  | .pageWalk a0 a1 a2 a3 => Sys2Proof.Machine.execPageWalk a0 a1 a2 a3 s
  | .tlbInvalidate a0 a1 a2 => Sys2Proof.Machine.execTlbInvalidate a0 a1 a2 s
  | .invalidationComplete a0 a1 => Sys2Proof.Machine.execInvalidationComplete a0 a1 s
  | .mscRequest a0 a1 a2 => Sys2Proof.Machine.execMscRequest a0 a1 a2 s
  | .mscFillComplete a0 a1 => Sys2Proof.Machine.execMscFillComplete a0 a1 s
  | .ptsTick => Sys2Proof.Machine.execPtsTick s
  | .l1CopyExpiry a0 a1 => Sys2Proof.Machine.execL1CopyExpiry a0 a1 s
  | .incomingWrite a0 a1 a2 => Sys2Proof.Machine.execIncomingWrite a0 a1 a2 s
  | .incomingRead a0 a1 a2 => Sys2Proof.Machine.execIncomingRead a0 a1 a2 s
  | .pageMigration a0 => Sys2Proof.Machine.execPageMigration a0 s
  | .copyCommandStart a0 => Sys2Proof.Machine.execCopyCommandStart a0 s
  | .guardWordResolve a0 => Sys2Proof.Machine.execGuardWordResolve a0 s
  | .multicastStart a0 => Sys2Proof.Machine.execMulticastStart a0 s
  | .copyBytesLand a0 a1 => Sys2Proof.Machine.execCopyBytesLand a0 a1 s
  | .commandComplete a0 => Sys2Proof.Machine.execCommandComplete a0 s
  | .matrixEntryStart a0 => Sys2Proof.Machine.execMatrixEntryStart a0 s
  | .matrixChunkComplete a0 a1 => Sys2Proof.Machine.execMatrixChunkComplete a0 a1 s
  | .mmatKstep a0 => Sys2Proof.Machine.execMmatKstep a0 s
  | .sightCommandRun a0 a1 => Sys2Proof.Machine.execSightCommandRun a0 a1 s
  | .scCtlWrite a0 a1 => Sys2Proof.Machine.execScCtlWrite a0 a1 s
  | .scLookupRetry a0 a1 => Sys2Proof.Machine.execScLookupRetry a0 a1 s
  | .scRelookup a0 a1 => Sys2Proof.Machine.execScRelookup a0 a1 s
  | .shadeBatchDispatch a0 => Sys2Proof.Machine.execShadeBatchDispatch a0 s
  | .attentionCommandStart a0 => Sys2Proof.Machine.execAttentionCommandStart a0 s
  | .bauRowRead a0 a1 a2 => Sys2Proof.Machine.execBauRowRead a0 a1 a2 s
  | .attentionResultWrite a0 => Sys2Proof.Machine.execAttentionResultWrite a0 s
  | .refresh a0 a1 => Sys2Proof.Machine.execRefresh a0 a1 s
  | .hotRowThrottle a0 a1 a2 => Sys2Proof.Machine.execHotRowThrottle a0 a1 a2 s
  | .hotRowSideQueue a0 a1 => Sys2Proof.Machine.execHotRowSideQueue a0 a1 s
  | .hotRowWindowEnd => Sys2Proof.Machine.execHotRowWindowEnd s
  | .ptCfgWrite a0 a1 => Sys2Proof.Machine.execPtCfgWrite a0 a1 s
  | .ownershipWrite a0 a1 a2 => Sys2Proof.Machine.execOwnershipWrite a0 a1 a2 s
  | .vfCtlWrite a0 a1 a2 => Sys2Proof.Machine.execVfCtlWrite a0 a1 a2 s
  | .rcbAddressWrite a0 a1 => Sys2Proof.Machine.execRcbAddressWrite a0 a1 s
  | .keySlotOrdinary a0 => Sys2Proof.Machine.execKeySlotOrdinary a0 s
  | .keySlotOff a0 => Sys2Proof.Machine.execKeySlotOff a0 s
  | .keySlotPlain a0 => Sys2Proof.Machine.execKeySlotPlain a0 s
  | .keySlotSealedWrite a0 => Sys2Proof.Machine.execKeySlotSealedWrite a0 s
  | .keyModeChangeComplete a0 => Sys2Proof.Machine.execKeyModeChangeComplete a0 s
  | .sealUnwrap => Sys2Proof.Machine.execSealUnwrap s
  | .sealGrantWrite a0 a1 a2 a3 => Sys2Proof.Machine.execSealGrantWrite a0 a1 a2 a3 s
  | .meterWrite a0 a1 a2 => Sys2Proof.Machine.execMeterWrite a0 a1 a2 s
  | .meterTokenTick => Sys2Proof.Machine.execMeterTokenTick s
  | .egressReadAbort a0 => Sys2Proof.Machine.execEgressReadAbort a0 s
  | .logBaseCommit a0 => Sys2Proof.Machine.execLogBaseCommit a0 s
  | .logCheckpoint => Sys2Proof.Machine.execLogCheckpoint s
  | .logEntryWrite => Sys2Proof.Machine.execLogEntryWrite s
  | .scrubGo a0 a1 => Sys2Proof.Machine.execScrubGo a0 a1 s
  | .scrubGranule => Sys2Proof.Machine.execScrubGranule s
  | .patrolScrub a0 => Sys2Proof.Machine.execPatrolScrub a0 s
  | .errorInject => Sys2Proof.Machine.execErrorInject s
  | .contextKill a0 a1 => Sys2Proof.Machine.execContextKill a0 a1 s
  | .vfReset a0 a1 => Sys2Proof.Machine.execVfReset a0 a1 s
  | .partitionReset a0 => Sys2Proof.Machine.execPartitionReset a0 s
  | .quiesceComplete a0 a1 => Sys2Proof.Machine.execQuiesceComplete a0 a1 s
  | .confinementCapture a0 => Sys2Proof.Machine.execConfinementCapture a0 s
  | .powerOn => Sys2Proof.Machine.execPowerOn s
  | .bootGo => Sys2Proof.Machine.execBootGo s
  | .bootVerifyComplete => Sys2Proof.Machine.execBootVerifyComplete s
  | .deviceReset => Sys2Proof.Machine.execDeviceReset s
  | .pcieConventionalReset => Sys2Proof.Machine.execPcieConventionalReset s
  | .watchdogKick => Sys2Proof.Machine.execWatchdogKick s
  | .watchdogPeriodWrite a0 => Sys2Proof.Machine.execWatchdogPeriodWrite a0 s
  | .watchdogExpiry => Sys2Proof.Machine.execWatchdogExpiry s
  | .voltageFrequencyLoop a0 a1 => Sys2Proof.Machine.execVoltageFrequencyLoop a0 a1 s
  | .linkEqualisation a0 a1 => Sys2Proof.Machine.execLinkEqualisation a0 a1 s
  | .hbmReadEye a0 a1 => Sys2Proof.Machine.execHbmReadEye a0 a1 s
  | .refreshThreshold a0 a1 => Sys2Proof.Machine.execRefreshThreshold a0 a1 s
  | .ageingLoop a0 a1 a2 => Sys2Proof.Machine.execAgeingLoop a0 a1 a2 s
  | .powerLimit a0 => Sys2Proof.Machine.execPowerLimit a0 s
  | .thermalThrottle a0 a1 => Sys2Proof.Machine.execThermalThrottle a0 a1 s
  | .thermalTrip a0 => Sys2Proof.Machine.execThermalTrip a0 s
  | .saddleFlitReplay a0 => Sys2Proof.Machine.execSaddleFlitReplay a0 s
  | .saddleLinkRetrain a0 a1 => Sys2Proof.Machine.execSaddleLinkRetrain a0 a1 s
  | .colBridgeReplay a0 a1 => Sys2Proof.Machine.execColBridgeReplay a0 a1 s
  | .pcieLinkDown => Sys2Proof.Machine.execPcieLinkDown s
  | .priResponse a0 a1 => Sys2Proof.Machine.execPriResponse a0 a1 s
  | .priTimeout a0 => Sys2Proof.Machine.execPriTimeout a0 s
  | .stateReadback a0 a1 a2 => Sys2Proof.Machine.execStateReadback a0 a1 a2 s
  | .debugHaltControl a0 a1 a2 => Sys2Proof.Machine.execDebugHaltControl a0 a1 a2 s
  | .brkResume a0 a1 => Sys2Proof.Machine.execBrkResume a0 a1 s
  | .mgmtKill a0 a1 => Sys2Proof.Machine.execMgmtKill a0 a1 s
  | .rbacc a0 => Sys2Proof.Machine.execRbacc a0 s
  | .extest a0 => Sys2Proof.Machine.execExtest a0 s
  | .sample a0 => Sys2Proof.Machine.execSample a0 s
  | .preload a0 => Sys2Proof.Machine.execPreload a0 s
  | .bypass => Sys2Proof.Machine.execBypass s
  | .registerWrite a0 a1 => Sys2Proof.Machine.execRegisterWrite a0 a1 s
  | .l2MissReport a0 => Sys2Proof.Machine.execL2MissReport a0 s
  | .captureDr => Sys2Proof.Machine.execCaptureDr s
  | .thermalThrottleRelease a0 a1 => Sys2Proof.Machine.execThermalThrottleRelease a0 a1 s
  | .errorInjectComplete => Sys2Proof.Machine.execErrorInjectComplete s

end Sys2Proof.Machine
end

