-- ==== Sys2Proof/Machine/Errors.lean ====
section
/-!
DEFINITION. What befalls the device (spec/20_faults.md R422, spec/22_faults_memory.md R452, R455, R456, R463, spec/16_host.md
R396): errors in its arrays and in the state of its coherence, as they are met, and a measurement. An agenda says when.
-/

namespace Sys2Proof.Machine

/-- An error beyond correction in what a workgroup's core holds (R422): its array counts, and its context is told. -/
def State.coreError (s : State) (g : Workgroup) (code : Nat) : State :=
  (s.countUE (g.core / 16) code).tell (some g.who) (s.grantOf g) { s.groupRec g with code := code }

/-- An error beyond correction in a wave's registers or private store (R422): what it hits is poisoned. -/
def State.waveError (s : State) (id code : Nat) (f : Wave → Wave) : State :=
  match s.box id with
  | some b => (s.modWave id f).coreError (s.groupOf b.wave) code
  | none => s

/-- The workgroup whose region of a cluster bank holds a sector of it. -/
def State.bankGroup (s : State) (sec : Nat) : Option Workgroup :=
  s.groups.find? (fun g => (List.range 4).any (fun q =>
    decide (clusterCore g.core q * 2 ^ 20 + g.clusterBase ≤ 16 * sec) &&
    decide (16 * sec < clusterCore g.core q * 2 ^ 20 + g.clusterBase + g.cluster)))

/-- L2 meets an error in a sector that it holds (R422): a clean one comes from the level below, and a dirty one is beyond
correction until it is read or written back. -/
def State.l2Error (s : State) (sec : Nat) : State :=
  match s.l2At (16 * sec) with
  | none => s
  | some l =>
    if !bitAt l.valid (sec % 8) then s
    else if bitAt l.dirty (sec % 8) then { s with uncorr := SMap.set false sec true s.uncorr }
    else (s.l2Mod (placeSlice (16 * sec)) (l.line * 128) (fun l => { l with valid := setField l.valid (sec % 8) 1 0 })).countUE
      (placeSlice (16 * sec)) 0x06

/-- A core's copy of a line leaves its L1 (R422, R463): the next load asks the home. -/
def State.l1Forget (s : State) (core line : Nat) : State :=
  { s with l1 := SMap.set [] core ((SMap.get [] core s.l1).filter (fun c => c.line != line)) s.l1 }

/-- A lost lease of a line at its L2 home (R463 Table 5): wts and rts take TMAX. -/
def State.leaseLost (s : State) (slc line : Nat) : State :=
  (s.l2Mod slc (line * 128) (fun l => { l with lease := Lease.at_ (s.tmax slc) })).countCE slc 0x06

/-- What accesses of the S12's own have met is reported (R422, R454, R455, R513): a record of level 0 to the context that asked, or
to the firmware ring, and a higher one confines its owner. -/
def State.reportOwed (s : State) (r : FaultRec) : State :=
  if r.level = 0 then (if r.told then s.report (ctxWho r.part r.vf r.ctx) r.slot r else s.writeFwRec r)
  else (if r.code = 0x11 then s else s.noteLost r.addr).confine r.level (ctxWho r.part r.vf r.ctx) none r

/-- What is owed is reported once the step is over, and then what those reports have met; `fuel` bounds the rounds. -/
def State.flushOwed : Nat → State → State
  | 0, s => s
  | fuel + 1, s => if s.owed.isEmpty then s else State.flushOwed fuel (s.owed.foldl State.reportOwed { s with owed := [] })

/-- A logical clock holds at most 9 for each ACLK that its core has counted (R109): accesses that took more took more time. -/
def State.paceCore (s : State) (core : Nat) : State :=
  let need := ceilDiv (64 * SMap.get 0 core s.pts) 575
  if s.coreCyc core < need then s.pass (ceilDiv ((need - s.coreCyc core) * 1400) (max 1 (s.mhz (core / 16)))) else s

/-- The same for every core. -/
def State.pace (s : State) : State := s.pts.foldl (fun s e => s.paceCore e.1) s

/-- A watch is lost (R463): its fragment tests the line again by itself (R203). -/
def State.loseWatch (s : State) (wave slot line : Nat) : State :=
  let mine (w : Watch) : Bool := w.wave == wave && w.slot == slot && w.line == line
  if !s.watches.any mine then s
  else
    (State.modFrags { s with watches := s.watches.filter (fun w => !mine w) } (fun w f =>
      if w.id = wave ∧ f.slot = slot ∧ !f.left.contains line then { f with left := f.left ++ [line] } else f)).countCE
      (((s.box wave).map (·.wave.core)).getD 0 / 16) 0x06

/-- The host lays memory of its own at whole pages of locations that R79 leaves without backing (DESIGN CHOICE, log 19). -/
def State.layHost (s : State) (base n : Nat) : State :=
  let apart (b k : Nat) : Bool := decide (base + n ≤ b) || decide (b + k ≤ base)
  if n ≠ 0 ∧ base % 4096 = 0 ∧ n % 4096 = 0 ∧ base + n ≤ 2 ^ 46 ∧
      ([(0, 12 * 2 ^ 36), (lpBase, 12 * 2 ^ 37), (stBase, 12 * 2 ^ 22), (regBase, 2 ^ 39), (peerBase, 8 * 2 ^ 42)] ++ s.hostMem).all
        (fun r => apart r.1 r.2) then
    { s with hostMem := s.hostMem ++ [(base, n)] }
  else s

/-- What befalls the device (R396, R422, R452, R455, R457, R463, R505). -/
def State.befall (s : State) : Chance → State
  | .reg wave lane r => s.waveError wave 0x01 (fun w => { w with vpois := SMap.set false (32 * r + lane % 32) true w.vpois })
  | .priv wave sec => s.waveError wave 0x04 (fun w => { w with privPois := SMap.set false (sec % 256) true w.privPois })
  | .acc wg _ =>
    match s.group wg with
    | some g => (s.countUE (g.core / 16) 0x02).confine 1 g.who (some g) { s.groupRec g with source := 1, code := 0x02 }
    | none => s
  | .lmem wg sec =>
    match s.group wg with
    | some g => (s.modGroup wg (fun g => { g with lpois := SMap.set false sec true g.lpois })).coreError g 0x03
    | none => s
  | .bank sec =>
    let t := { s with cpois := SMap.set false sec true s.cpois }
    match s.bankGroup sec with
    | some g => t.coreError g 0x03
    | none => t.countUE (sec / 2 ^ 16 / 16) 0x03
  | .l1 core line => (s.l1Forget core line).countUE (core / 16) 0x05
  | .l2 sec => s.l2Error sec
  | .store sec => if s.scrubPending (16 * sec) then s else s.setArray sec { s.arrayStored sec with uncorr := true }
  | .carve slc index sec =>
    let m := s.mscOf slc index
    if m.v then s.setMsc slc index { m with bad := setField m.bad (sec % 128) 1 1 } else s
  | .carveTag slc index line dOnly =>
    let m := s.mscOf slc index
    if dOnly then (if m.v then s.setMsc slc index { m with dLost := setField m.dLost (line % 16) 1 1 } else s)
    else s.setMsc slc index { m with lost := setField m.lost (line % 16) 1 1 }
  | .tag key => ((s.setScTag key { s.scTag key with st := 0 }).wakeLine (heapPlace key / 128)).countUE (key / 2 ^ 19) 0x0B
  | .corrected slc code => if 1 ≤ code ∧ code ≤ 12 then s.countCE slc code else s
  | .leaseL1 core line => (s.l1Forget core line).countCE (core / 16) 0x05
  | .leaseHome slc line => s.leaseLost slc line
  | .bankE slc => State.countCE { s with l2E := SMap.set 0 slc (s.tmax slc) s.l2E } slc 0x06
  | .tmax slc copy v => (State.raiseTmax { s with l2Tmax := SMap.set 0 (4 * slc + copy % 3) v s.l2Tmax } slc 0).countCE slc 0x06
  | .pts core => (s.setPts core (s.tmax (core / 16))).countCE (core / 16) 0x05
  | .watch wave slot line => s.loseWatch wave slot line
  | .table wave =>
    match s.box wave with
    | some b =>
      let g := s.groupOf b.wave
      (s.countUE (g.core / 16) 0x01).confine 1 g.who (some g) { s.groupRec g with
        source := 1, code := 0x01, wave := b.wave.index, wpos := 16 * b.wave.port + b.wave.idx }
    | none => s
  | .partRegs part =>
    if s.partEn part then s.confine 4 { part := part, core := 16 * part } none { source := 1, code := 0x0F, part := part } else s
  | .device => s.confine 5 {} none { source := 1, code := 0x10 }
  | .lockBit cmd line => s.loseLock cmd line
  | .hostMemory base n => s.layHost base n
  | .power slc v => s.setReg (0x0400 + 8 * slc) (BitVec.ofNat 32 (setField (s.reg (0x0400 + 8 * slc)).toNat 16 16 v))

/-- What ends every step: what is owed is reported, and no clock runs ahead (R109). -/
def State.tidied (s : State) : State := (s.flushOwed 4).pace

/-- A turn that began at the reference count `a` is over: the microseconds that have passed since, of 1,400 cycles each (R6). -/
def State.turnOver (a : Nat) (s : State) : State :=
  let s := s.tidied
  State.passUs (s.aclk / 1400 - a / 1400) s

/-- Ends a step that has a next state. -/
def ended (f : State → State) : Host.Outcome State Fault Refusal → Host.Outcome State Fault Refusal
  | .next t => .next (f t)
  | .fault e => .fault e
  | .refused r => .refused r

end Sys2Proof.Machine
end

