-- ==== Sys2Proof/Machine/Step.lean ====
section
/-!
DEFINITION. One step of the device: the issue of one word by the fragment in focus, or one event. While a unit is
being formed the step goes on with it (no event falls inside a unit, R169); otherwise the agenda says who moves next,
and with an empty agenda the port in focus issues, else another port, else an event of the device itself.
-/

namespace Sys2Proof.Machine

/-- The next word of the focused fragment's unit: fetched, decoded and executed (R159, R464, R465). A fetch that a key slot
holds is made again (R460), and a word whose registers a load under way still writes waits for it (R62). -/
def stepUnit (s : State) : Host.Outcome State Fault Refusal :=
  match s.fetch with
  | .error e => .next (s.fetchTrap s.wAddr e)
  | .ok none => .next s.parkAgain
  | .ok (some w) =>
    let s := s.codeSeen s.wAddr
    let ids := s.awaits w
    if ids.isEmpty then
      let r := s.formed w
      exec r.1 r.2
    else .next (s.awaitLoads ids)

/-- The event of an agenda entry; an instruction word is no event. -/
def stepEvent (ev : Instr) (s : State) : Host.Outcome State Fault Refusal :=
  if isEvent ev then exec ev s else .next s

/-- The issue of a port: the fragment it chooses issues a word; with none ready an ACLK passes. -/
def stepPort (core port : Nat) (s : State) : Host.Outcome State Fault Refusal :=
  match s.select core port with
  | some s' => stepUnit s'
  | none => .next ((State.settlePort core port 65 s).cycle core)

/-- The device's own turn: fragments that meet a dependence on loads leave the ready state (R62), the event that is due, if any,
happens, and one cycle of the reference clock passes. -/
def deviceTurn (s : State) : State :=
  let s := s.ports.foldl (fun s p => State.settlePort p.1 p.2 65 s) s
  (s.autoEvent.getD s).unfocus.pass 1

/-- A step with nothing on the agenda: the ports issue in turn, lowest first, and then the device has its turn. -/
def stepAlone (s : State) : Host.Outcome State Fault Refusal :=
  match s.nextIssue with
  | some s' => stepUnit s'
  | none => .next (deviceTurn s)

/-- The events that need no power of the dies: power itself, and the management port, which a thermal trip leaves up (R504). -/
def needsNoPower : Instr → Bool
  | .powerOn => true
  | .stateReadback .. => true
  | .debugHaltControl .. => true
  | .brkResume .. => true
  | .mgmtKill .. => true
  | _ => false

/-- The dies are powered, or the next turn needs none of it (R504). -/
def State.canStep (s : State) : Bool :=
  s.powered || (match s.agenda with
    | .event _ _ ev :: _ => needsNoPower ev
    | _ => false)

/-- One step. An entry of the agenda that is an event says itself how many microseconds have passed. -/
def step (s : State) : Host.Outcome State Fault Refusal :=
  if !s.canStep then .fault .unpowered
  else if s.focus && s.iss.n ≠ 0 then ended (State.turnOver s.aclk) (stepUnit s)
  else
    match s.agenda with
    | .issue core port :: rest => ended (State.turnOver s.aclk) (stepPort core port { s with agenda := rest })
    | .event dt us ev :: rest => ended State.tidied (stepEvent ev (State.passUs us (State.pass { s with agenda := rest } dt)))
    | .chance dt us c :: rest => .next (((State.passUs us (State.pass { s with agenda := rest } dt)).befall c).tidied)
    | [] => ended (State.turnOver s.aclk) (stepAlone s)

/-- Location of the word that `withFetchWord` places: HBM4E, in a granule of its own. -/
def placedAt : Nat := 0x1000000

/-- The state with one word stored where the next step fetches it, and the wave that fetches it: one wave of 32 lanes
in a workgroup of its own on port 0 of core 0, whose page lies in partition 0 under the plain key id 1. Stands for a
load from outside the machine: boot, partition set-up, launch and dispatch. -/
def State.withFetchWord (s : State) (_nbits w : Nat) : State :=
  let s := (((s.setReg 0x0000 2).setPreg 0 0x4000 0x80000100).setPreg 0 0x4018 2).setReg 0x1004 3
  let bytes := bytesOf 4 w ++ List.replicate 12 0
  { s with
    powered := true
    agenda := []
    confs := []
    focus := false
    iss := {}
    frag := {}
    wave := {}
    sibs := []
    wg := {}
    others := [{
      wave := { id := s.nextId, wgId := s.nextId, present := 0xFFFFFFFF, live := 0xFFFFFFFF }
      frags := [{ pc := 0x1000, fbPc := 0x1000, mask := 0xFFFFFFFF, status := .ready }] }]
    wgs := [{ id := s.nextId, kbase := 0x1000 }]
    nextId := s.nextId + 1
    older := []
    pendLoads := []
    below := SMap.erase ((placedAt + 0x1000) / 16) s.below
    locs := SMap.set 0 ((placedAt + 0x1000) / 16) 0 s.locs
    tlb := [{ vf := 0, ctx := 0, base := 0, size := 0x100000, pa := 2 ^ 46 + placedAt, key := 1, w := true, x := true }]
    scrubbed := SMap.set 0 (s.granuleOf (placedAt + 0x1000)) (if s.granuleOf (placedAt + 0x1000) < s.bootScrub then 0 else 1)
      s.scrubbed
    poison := SMap.set false ((placedAt + 0x1000) / 16) false s.poison
    uncorr := SMap.set false ((placedAt + 0x1000) / 16) false s.uncorr
    tags := SMap.set 0 ((placedAt + 0x1000) / 16) 1 s.tags
    mem := SMap.setList 0 (placedAt + 0x1000) bytes s.mem }

end Sys2Proof.Machine
end

