-- ==== Sys2Proof/Safety.lean ====
section
/-!
DEFINITION. A safe run, and the terms in which claims are stated: a unit whose words are in order, what a unit that
retires leaves alone, and what writing a destination does to the wave's registers.
-/

namespace Sys2Proof

/-- `n` steps from `s` all answer a next state. -/
def Safe : Nat → Machine.State → Prop
  | 0, _ => True
  | n + 1, s => ∃ t, Machine.step s = .next t ∧ Safe n t

namespace Machine

/-- The words of the unit are in order (R135, R429, R436, R464, R468): none of the conditions that every unit is judged by
holds. -/
def State.wordsOk (s : State) (k : UnitKind) : Prop := s.unitConds k = []

/-- `t` is `s` after its unit has retired, but for the wave's registers, predicates and generators: memory, every
special register, every other fragment, wave and workgroup are as they were. -/
def Retired (k : UnitKind) (s t : State) : Prop :=
  t = { s.retire k with wave := { (s.retire k).wave with
    vregs := t.wave.vregs, vpois := t.wave.vpois, preds := t.wave.preds, xregs := t.wave.xregs, gens := t.wave.gens } }

/-- In the lanes `ls` registers `rd` to `rd + n - 1` hold the words of `val`, the lowest register first (R163), and its
poison; every other register of every lane is as it was. -/
def WroteV (s t : State) (rd n : Nat) (ls : List Nat) (val : Nat → Nat) (pois : Nat → Bool) : Prop :=
  ∀ r l, l < 32 →
    t.vreg r l = (if l ∈ ls ∧ rd ≤ r ∧ r < rd + n then BitVec.ofNat 32 (val l / 2 ^ (32 * (r - rd))) else s.vreg r l) ∧
    t.vpoison r l = (if l ∈ ls ∧ rd ≤ r ∧ r < rd + n then pois l else s.vpoison r l)

/-- Scalar registers `rd` to `rd + n - 1` hold the words of `val` of the lane that runs, if any; every other scalar register
is as it was. -/
def WroteX (s t : State) (rd n : Nat) (ls : List Nat) (val : Nat → Nat) : Prop :=
  ∀ r, t.xreg r = (match ls.head? with
    | some l => if rd ≤ r ∧ r < rd + n then BitVec.ofNat 32 (val l / 2 ^ (32 * (r - rd))) else s.xreg r
    | none => s.xreg r)

/-- In the lanes `ls` predicate `p` holds `val`; every other predicate of every lane is as it was. -/
def WroteP (s t : State) (p : Nat) (ls : List Nat) (val : Nat → Tri) : Prop :=
  ∀ q l, l < 32 → t.pred q l = if l ∈ ls ∧ q = p then val l else s.pred q l

/-- The vector registers and their poison are as they were. -/
def SameV (s t : State) : Prop := t.wave.vregs = s.wave.vregs ∧ t.wave.vpois = s.wave.vpois

/-- Destination `d` of `n` registers holds `val` and `pois` in the lanes `ls`, and nothing else of the wave's vector and
scalar registers and predicates has changed. -/
def Wrote (s t : State) (d : Operand) (n : Nat) (ls : List Nat) (val : Nat → Nat) (pois : Nat → Bool) : Prop :=
  match d with
  | .v r => WroteV s t r.val n ls val pois ∧ t.wave.xregs = s.wave.xregs ∧ t.wave.preds = s.wave.preds
  | .x r => WroteX s t r.val n ls val ∧ SameV s t ∧ t.wave.preds = s.wave.preds
  | .p r => WroteP s t r.val ls (fun l => triOf (val l)) ∧ SameV s t ∧ t.wave.xregs = s.wave.xregs
  | _ => SameV s t ∧ t.wave.xregs = s.wave.xregs ∧ t.wave.preds = s.wave.preds

/-- The generators of the lanes `ls` hold what `g` gives, if anything; the others are as they were. -/
def Stepped (s t : State) (ls : List Nat) (g : Nat → Option Word) : Prop :=
  ∀ l, l < 32 → t.gen l = if l ∈ ls then (g l).getD (s.gen l) else s.gen l

/-- A unit completes: it retires, destination `d` of `n` registers takes what `out` gives in the lanes `ls`, the generators
step as `out` says, and the causes that `out` names are logged (R416); nothing else changes. -/
def Gives (r : Host.Outcome State Fault Refusal) (s : State) (d : Operand) (n : Nat) (ls : List Nat) (out : Nat → LaneOut) :
    Prop :=
  ∃ t, Retired .plain s t ∧ Wrote s t d n ls (fun l => (out l).v) (fun l => (out l).pois) ∧
    Stepped s t ls (fun l => (out l).gen) ∧ r = .next (t.logLanes s.frag.pc (ls.map (fun l => (l, out l))))

/-- A unit completes and logs nothing: the same, and the generators are as they were. -/
def Writes (r : Host.Outcome State Fault Refusal) (s : State) (d : Operand) (n : Nat) (ls : List Nat) (val : Nat → Nat)
    (pois : Nat → Bool) : Prop :=
  ∃ t, r = .next t ∧ Retired .plain s t ∧ Wrote s t d n ls val pois ∧ t.wave.gens = s.wave.gens

/-- A unit completes, and its only effect is on predicate `p`. -/
def SetsPred (r : Host.Outcome State Fault Refusal) (s : State) (p : Nat) (ls : List Nat) (val : Nat → Tri) : Prop :=
  ∃ t, r = .next t ∧ Retired .plain s t ∧ WroteP s t p ls val ∧ SameV s t ∧ t.wave.xregs = s.wave.xregs ∧
    t.wave.gens = s.wave.gens

/-- The operands of a unit are in order: the words of the unit are, destination and sources are legal, and no poison would
reach a scalar or a predicate (R162 to R166, R222, R466). -/
def State.ready (s : State) (ok : Bool) (d : Operand) (nd : Nat) (srcs : List (Nat × Operand)) : Prop :=
  s.wordsOk .plain ∧ ok = true ∧ dstBad nd d = false ∧ (∀ x ∈ srcs, s.srcBad x.1 x.2 = false) ∧ s.poisonCond d srcs = []

/-- The same for a unit on the integer view (R221, R242); `readsD` says whether it reads its destination. -/
def State.intReady (s : State) (d : Operand) (srcs : List Operand) (readsD : Bool) : Prop :=
  s.wordsOk .plain ∧ (intView s.et).isSome = true ∧ dstBad s.view.1.regs d = false ∧
    (∀ o ∈ srcs, s.srcBad s.view.1.regs o = false) ∧
    s.poisonCond d ((if readsD then [(s.view.1.regs, d)] else []) ++ srcs.map (fun o => (s.view.1.regs, o))) = []

end Machine

end Sys2Proof
end

