-- ==== Sys2Proof/WellFormed.lean ====
section
/-!
DEFINITION. Well-formed instructions: the limits that the encoding tables set whatever the mode of the fragment is (kinds
of operand, numbered codes with assigned values), and, for the device's events, the numbers of the units that exist
(spec/01_device.md R5, R7, spec/07_encoding.md R162, R163, R166, spec/08_isa_control.md R189 to R218, and the tables R220,
R243, R271, R298, R336, R352). An ill-formed word still decodes, and raises the trap that its rule names.
-/

namespace Sys2Proof

/-- A vector or scalar register. -/
def Operand.okReg : Operand → Bool
  | .v _ => true
  | .x _ => true
  | _ => false

/-- A vector register. -/
def Operand.okVec : Operand → Bool
  | .v _ => true
  | _ => false

/-- A vector register whose number is a multiple of `n`. -/
def Operand.okVecN (n : Nat) : Operand → Bool
  | .v r => decide (r.val % n = 0)
  | _ => false

/-- A predicate register. -/
def Operand.okPred : Operand → Bool
  | .p _ => true
  | _ => false

/-- Anything but a predicate. -/
def Operand.okSrc (o : Operand) : Bool := !o.okPred

/-- An even register pair, vector or scalar (R200). -/
def Operand.okPair : Operand → Bool
  | .v r => decide (r.val % 2 = 0)
  | .x r => decide (r.val % 2 = 0)
  | _ => false

/-- An even scalar pair. -/
def Operand.okXPair : Operand → Bool
  | .x r => decide (r.val % 2 = 0)
  | _ => false

/-- Slices, cores, ports, clusters of a slice, key slots, functions, contexts, copy engines, Saddle links and stacks of
the device (R5, R7, R365, R372). -/
def okSlice (n : Nat) : Bool := decide (n < 12)
def okCore (n : Nat) : Bool := decide (n < 192)
def okPort (n : Nat) : Bool := decide (n < 4)
def okSlot (n : Nat) : Bool := decide (n < 64)
def okVf (n : Nat) : Bool := decide (n < 64)
def okCtx (n : Nat) : Bool := decide (n < 256)
def okEngine (n : Nat) : Bool := decide (n < 48)
def okLink (n : Nat) : Bool := decide (n < 18)
def okFrag (n : Nat) : Bool := decide (n < 64)

/-- A source of incoming accesses that exists. -/
def Source.ok : Source → Bool
  | .host fn => decide (fn ≤ 64)
  | .link j => okLink j

/-- An RCB address register that exists. -/
def RcbReg.ok : RcbReg → Bool
  | .root => true
  | .part i => okSlice i
  | .vf i f => okSlice i && okVf f

/-- A register that the host can name: a word of BAR 0's register space, or of a doorbell page. -/
def RegTarget.ok : RegTarget → Bool
  | .bar0 off => decide (off % 4 = 0)
  | .doorbell f c off => okVf f && okCtx c && decide (off % 4 = 0) && decide (off < 4096)

/-- Well-formed. -/
def Instr.wf : Instr → Bool
  | .nop | .br _ | .brt _ _ | .call _ _ | .ret _ | .tok _ | .rejoin _ | .yield | .fpt _ | .sleep _ | .bar _ | .barArrive _
  | .barWait _ | .lit _ | .lih _ | .trap _ | .brk _ | .bwait _ | .fenceH | .accSwap _ | .accZero _ | .accZeroV _ => true
  | .brx a | .exit a | .modePut a | .rseed a | .slotFree a | .cpy a | .cpyCol a | .cpyMc a | .mmat a | .rast a | .qpost a =>
    a.okSrc
  | .cpyThen a b | .tbarInit a b | .tbarExpect a b | .tbarWait a b => a.okSrc && b.okSrc
  | .waitf a => a.okPair
  | .waitv _ a b => a.okPair && b.okSrc
  | .lfsr d a | .scinv d a | .tbarArrive d a => d.okReg && a.okSrc
  | .lfsrRd d | .modeGet d | .rnext d | .rnextH d | .sealBatch d => d.okReg
  | .modeSet s v => decide (v.toNat < 2 ^ ([4, 3, 5, 3, 1, 1, 2, 1, 1].getD s.toNat 0)) && decide (s.toNat < 9)
  | .guard s _ => decide (s.val < 7)
  | .lrec a b => a.okPair && b.okPair
  | .launch a => a.okPair
  | .sysr d _ => d.okReg
  | .sysw d _ => d.okSrc
  | .add d a b | .sub d a b | .addc d a b | .subb d a b | .mul d a b | .mulh d a b | .mad d a b | .madh d a b | .div d a b
  | .rem d a b | .min d a b | .max d a b | .and d a b | .or d a b | .xor d a b | .andn d a b | .shl d a b | .shr d a b
  | .sar d a b | .rol d a b | .bfx d a b | .bfi d a b | .fadd d a b | .fsub d a b | .fmul d a b | .ffma d a b | .fmin d a b
  | .fmax d a b | .fdiv d a b | .fscale d a b | .ipt d a b | .ihull d a b | .isect d a b | .ibis d a b | .itake d a b =>
    d.okReg && a.okSrc && b.okSrc
  | .dot2 d a b | .dot4 d a b | .dot8 d a b => d.okReg && a.okPair && b.okPair
  | .neg d a | .abs d a | .not d a | .popc d a | .clz d a | .ctz d a | .brev d a | .fabs d a | .fneg d a | .fcls d a
  | .frcp d a | .frsq d a | .fsqrt d a | .fex2 d a | .flg2 d a | .fsin d a | .fcos d a | .ffrac d a | .fround d a
  | .ilo d a | .ihi d a | .imid d a | .iwid d a => d.okReg && a.okSrc
  | .cmp r _ a b => decide (r.val < 6) && a.okSrc && b.okSrc
  | .fcmp r _ a b => decide (r.val < 7) && a.okSrc && b.okSrc
  | .sel d a b => d.okReg && a.okSrc && b.okPred
  | .mov d _ => d.okReg || d.okPred
  | .movi d _ => d.okReg
  | .movs d a b | .shflIdx d a b | .shflXor d a b | .shflUp d a b | .shflDown d a b => d.okReg && a.okVec && b.okSrc
  | .vote d a k => (d.okReg || d.okPred) && a.okPred && decide (k.toNat < 3)
  | .ballot d a _ | .pcnt d a _ => d.okReg && a.okPred
  | .redux d a o => d.okReg && a.okVec && decide (o.toNat < 9)
  | .scan d a _ o => d.okReg && a.okVec && decide (o.val < 9)
  | .pand d a b | .por d a b | .pxor d a b => d.okPred && a.okPred && b.okPred
  | .pnot d a => d.okPred && a.okPred
  | .cvtFi d a c => d.okReg && a.okSrc && decide (c.val < 8)
  | .cvtIf d a c => d.okReg && a.okSrc && decide (c.val < 8)
  | .cvtFfFrom d a _ | .cvtFfTo d a _ | .pack8 d a _ _ | .pack6 d a _ _ | .pack4 d a _ _ | .unpack d a _ _ =>
    d.okReg && a.okSrc
  | .iin d a b => d.okPred && a.okSrc && b.okSrc
  | .bbox d a b => (d.okReg || d.okPred) && a.okReg && b.okReg
  | .ldG d w _ x | .ldL d w _ x | .ldC d w _ x | .ldS d w _ x | .ldP d w _ x | .ldx d w _ x =>
    d.okReg && decide (w.val < 7) && x.okSrc
  | .stG d w _ x | .stL d w _ x | .stC d w _ x | .stS d w _ x | .stP d w _ x | .stx d w _ x =>
    d.okSrc && decide (w.val < 7) && x.okSrc
  | .ild d w _ x => d.okReg && decide (w.val < 5) && x.okSrc
  | .ist d w _ x => d.okSrc && decide (w.val < 5) && x.okSrc
  | .prf w _ x => decide (w.val < 3) && x.okSrc
  | .atomAdd d _ _ x | .atomFadd d _ _ x | .atomMin d _ _ x | .atomMax d _ _ x | .atomAnd d _ _ x | .atomOr d _ _ x
  | .atomXor d _ _ x | .atomExch d _ _ x | .atomInc d _ _ x | .atomDec d _ _ x | .cas d _ _ x | .ldf d _ x | .stf d _ x =>
    d.okReg && x.okSrc
  | .redAdd d _ _ x | .redFadd d _ _ x | .redMin d _ _ x | .redMax d _ _ x | .redAnd d _ _ x | .redOr d _ _ x
  | .redXor d _ _ x | .redExch d _ _ x | .redInc d _ _ x | .redDec d _ _ x => d.okSrc && x.okSrc
  | .fenceX _ _ => true
  | .spl d a b | .fil d a b => d.okVec && a.okSrc && b.okXPair
  | .mma _ a b | .mmaB _ a b => a.okVec && b.okSrc
  | .accRd d a _ _ | .accWr d a _ _ => d.okVec && a.okSrc
  | .tld d w b x | .tldT d w b x | .tst d w b x => d.okVec && decide (w.val < 3) && decide (b.val % 4 = 0) && x.okSrc
  | .tscale d a _ => d.okVec && a.okVec
  | .fmtv d a => d.okReg && a.okVec
  | .scq d a b => d.okVecN 2 && a.okPair && b.okSrc
  | .scfill d a b => d.okVecN 4 && a.okXPair && b.okXPair
  | .scage d a b => d.okPred && a.okPair && b.okSrc
  | .ray a b => a.okVec && b.okSrc
  | .amerge d a b => d.okSrc && a.okSrc && b.okSrc
  | .afin d a => d.okSrc && a.okSrc
  | .unassignedOpcode _ | .handlerReturnContinue | .handlerReturnPc | .handlerReturnEnd => true
  | .rejoinTimeout _ k => decide (k < 16)
  | .waitRetest _ f | .waitPeriodicRetest _ f | .fragmentRankAging _ f | .sleepExpiry _ f | .fenceComplete _ f
  | .scLookupRetry _ f | .scRelookup _ f | .brkResume _ f => okFrag f
  | .pendingReadyReplace c p => okCore c && okPort p
  | .loadDataReturn _ _ | .l2MissReport _ | .priResponse _ _ | .priTimeout _ | .egressReadAbort _ => true
  | .doorbellWrite f c _ | .queueEnableWrite f c _ | .queueEntryRelease f c | .timeSliceEnd f c | .preemptionSave f c
  | .tlbInvalidate f c _ | .invalidationComplete f c | .contextKill f c | .debugHaltControl f c _ => okVf f && okCtx c
  | .launchPriorityAging _ | .workgroupComplete _ | .deepPark _ | .waveEviction _ | .waveRestore _ | .resumption _ => true
  | .workgroupDispatch i | .scCtlWrite i _ | .ptCfgWrite i _ | .ownershipWrite i _ _ | .scrubGo i _ | .partitionReset i
  | .shadeBatchDispatch i => okSlice i
  | .ctxBindWrite i f c _ | .sealGrantWrite i f c _ => okSlice i && okVf f && okCtx c
  | .vfCtlWrite i f _ | .vfReset i f => okSlice i && okVf f
  | .pageWalk f c _ _ => okVf f && okCtx c
  | .mscRequest i _ _ | .mscFillComplete i _ => okSlice i
  | .ptsTick | .hotRowWindowEnd | .meterTokenTick | .logCheckpoint | .logEntryWrite | .sealUnwrap | .scrubGranule
  | .errorInject | .errorInjectComplete | .powerOn | .bootGo | .bootVerifyComplete | .deviceReset | .pcieConventionalReset
  | .watchdogKick | .watchdogExpiry | .pcieLinkDown | .bypass | .captureDr => true
  | .l1CopyExpiry c _ => okCore c
  | .incomingWrite src _ _ => src.ok
  | .incomingRead src _ _ => src.ok
  | .pageMigration _ | .guardWordResolve _ | .multicastStart _ | .copyBytesLand _ _ | .commandComplete _
  | .attentionCommandStart _ | .attentionResultWrite _ => true
  | .copyCommandStart e => okEngine e
  | .matrixEntryStart c | .matrixChunkComplete c _ | .mmatKstep c => okCore c
  | .sightCommandRun i k => okSlice i && okPort k
  | .bauRowRead _ u _ => decide (u < 1024)
  | .refresh i k | .hotRowSideQueue i k => okSlice i && decide (k < 64)
  | .hotRowThrottle i _ _ => okSlice i
  | .rcbAddressWrite r _ => r.ok
  | .keySlotOrdinary n | .keySlotOff n | .keySlotPlain n | .keySlotSealedWrite n | .keyModeChangeComplete n => okSlot n
  | .meterWrite m _ _ => decide (m < 69)
  | .logBaseCommit _ | .watchdogPeriodWrite _ | .patrolScrub _ | .quiesceComplete _ _ | .confinementCapture _ => true
  | .voltageFrequencyLoop i _ | .ageingLoop i _ _ | .thermalThrottle i _ | .thermalThrottleRelease i _
  | .refreshThreshold i _ => okSlice i
  | .linkEqualisation _ _ | .hbmReadEye _ _ | .powerLimit _ | .thermalTrip _ => true
  | .saddleFlitReplay j | .saddleLinkRetrain j _ => okLink j
  | .colBridgeReplay _ _ => true
  | .stateReadback u _ _ => decide (u < 64)
  | .mgmtKill _ _ | .rbacc _ | .extest _ | .sample _ | .preload _ => true
  | .registerWrite t _ => t.ok

end Sys2Proof
end

