-- ==== Sys2Proof/Certificates/Slice0/Obligations.lean ====
section
/-!
DEFINITION. The statements for the provers. Those about a unit say when it completes and with what next state, so that they say
its frame as well: what `Writes`, `Gives` and `Retired` of Safety.lean leave equal is unchanged, and where a statement gives the
next state by an equation everything that the equation does not name is unchanged. The effects that several instructions share
are named by the model's own operations, which the laws say more of.
-/

open Sys2Proof Sys2Proof.Machine

/-! ### Terms of the statements about register instructions -/

/-- An instruction on the integer view completes: `f` gives the value and the causes of a lane (R221, R222, R416). -/
def Sys2Proof.Machine.IntGives (i : Instr) (s : State) (d : Operand) (srcs : List Operand) (readsD : Bool) (f : Nat → Nat × List Nat) : Prop :=
  s.intReady d srcs readsD →
    Gives (exec i s) s d s.view.1.regs (runLanes d s.exec) (fun l =>
      { v := (f l).1, ev := (f l).2
        pois := (readsD && s.srcPois s.view.1.regs d l) || srcs.any (fun o => s.srcPois s.view.1.regs o l) })

/-- The same for an instruction that logs nothing and steps no generator. -/
def Sys2Proof.Machine.IntWrites (i : Instr) (s : State) (d : Operand) (srcs : List Operand) (readsD : Bool) (f : Nat → Nat) : Prop :=
  s.intReady d srcs readsD →
    Writes (exec i s) s d s.view.1.regs (runLanes d s.exec) f (fun l =>
      (readsD && s.srcPois s.view.1.regs d l) || srcs.any (fun o => s.srcPois s.view.1.regs o l))

/-- Logic, shifts, bit fields and counts (R227 to R230): on the unsigned bits of the view. Shifts and bit fields (R228,
R229): the count is b[7:0]; a count of the width or more shifts everything out, sar fills with the sign, rol takes it modulo
the width. -/
def Obligations.LogicShiftsAndFields : Prop :=
  (∀ (d a b : Operand) (s : State),
     IntWrites (.and d a b) s d [a, b] false (fun l => s.viewU a l &&& s.viewU b l) ∧
     IntWrites (.or d a b) s d [a, b] false (fun l => s.viewU a l ||| s.viewU b l) ∧
     IntWrites (.xor d a b) s d [a, b] false (fun l => s.viewU a l ^^^ s.viewU b l) ∧
     IntWrites (.not d a) s d [a] false (fun l => notW s.view.1.bits (s.viewU a l)) ∧
     IntWrites (.andn d a b) s d [a, b] false (fun l => s.viewU a l &&& notW s.view.1.bits (s.viewU b l)) ∧
     IntWrites (.popc d a) s d [a] false (fun l => popCount s.view.1.bits (s.viewU a l)) ∧
     IntWrites (.clz d a) s d [a] false (fun l =>
       if s.viewU a l = 0 then s.view.1.bits else s.view.1.bits - 1 - Nat.log2 (s.viewU a l)) ∧
     IntWrites (.ctz d a) s d [a] false (fun l =>
       ((List.range s.view.1.bits).find? (bitAt (s.viewU a l))).getD s.view.1.bits) ∧
     IntWrites (.brev d a) s d [a] false (fun l => revBits s.view.1.bits (s.viewU a l))) ∧
  (∀ (d a b : Operand) (s : State),
     IntWrites (.shl d a b) s d [a, b] false (fun l => s.viewU a l * 2 ^ (s.viewU b l % 256) % 2 ^ s.view.1.bits) ∧
     IntWrites (.shr d a b) s d [a, b] false (fun l => s.viewU a l / 2 ^ (s.viewU b l % 256)) ∧
     IntWrites (.sar d a b) s d [a, b] false (fun l =>
       unsigned s.view.1.bits (signed s.view.1.bits (s.viewU a l) / (2 ^ (s.viewU b l % 256) : Nat))) ∧
     IntWrites (.rol d a b) s d [a, b] false (fun l =>
       (s.viewU a l * 2 ^ (s.viewU b l % 256 % s.view.1.bits) +
         s.viewU a l / 2 ^ (s.view.1.bits - s.viewU b l % 256 % s.view.1.bits)) % 2 ^ s.view.1.bits) ∧
     IntWrites (.bfx d a b) s d [a, b] false (fun l =>
       let f := field (s.viewU a l) (s.viewU b l % 256) (s.viewU b l / 256 % 256)
       if s.view.2 && decide (0 < s.viewU b l / 256 % 256) && bitAt f (s.viewU b l / 256 % 256 - 1) then
         unsigned s.view.1.bits ((f : Int) - (2 ^ (s.viewU b l / 256 % 256) : Nat))
       else f % 2 ^ s.view.1.bits) ∧
     IntWrites (.bfi d a b) s d [a, b] true (fun l =>
       let w := s.view.1.bits
       let m := (2 ^ (s.viewU b l / 256 % 256) - 1) * 2 ^ (s.viewU b l % 256) % 2 ^ w
       (s.viewU d l &&& notW w m) ||| (s.viewU a l * 2 ^ (s.viewU b l % 256) % 2 ^ w &&& m)))

/-- Integer arithmetic (R221, R222, R225): exact in the integers, then wrapped, or clamped under SAT; memory, flags of other
lanes, special registers and every register but the destination are as they were. div and rem (R226): toward zero; a zero
divisor gives all ones, or the dividend, and logs a division by zero. -/
def Obligations.IntegerArithmetic : Prop :=
  (∀ (d a b : Operand) (s : State),
     IntWrites (.add d a b) s d [a, b] false (fun l => s.narrowView (s.viewI a l + s.viewI b l)) ∧
     IntWrites (.sub d a b) s d [a, b] false (fun l => s.narrowView (s.viewI a l - s.viewI b l)) ∧
     IntWrites (.mul d a b) s d [a, b] false (fun l => s.narrowView (s.viewI a l * s.viewI b l)) ∧
     IntWrites (.mulh d a b) s d [a, b] false (fun l =>
       unsigned s.view.1.bits ((s.viewI a l * s.viewI b l) / (2 ^ s.view.1.bits : Nat))) ∧
     IntWrites (.mad d a b) s d [a, b] true (fun l => s.narrowView (s.viewI d l + s.viewI a l * s.viewI b l)) ∧
     IntWrites (.madh d a b) s d [a, b] true (fun l =>
       s.narrowView (s.viewI d l + (s.viewI a l * s.viewI b l) / (2 ^ s.view.1.bits : Nat))) ∧
     IntWrites (.neg d a) s d [a] false (fun l => s.narrowView (-s.viewI a l)) ∧
     IntWrites (.abs d a) s d [a] false (fun l => s.narrowView |s.viewI a l|) ∧
     IntWrites (.min d a b) s d [a, b] false (fun l => unsigned s.view.1.bits (min (s.viewI a l) (s.viewI b l))) ∧
     IntWrites (.max d a b) s d [a, b] false (fun l => unsigned s.view.1.bits (max (s.viewI a l) (s.viewI b l)))) ∧
  (∀ (d a b : Operand) (s : State),
     IntGives (.div d a b) s d [a, b] false (fun l =>
       if s.viewI b l = 0 then (2 ^ s.view.1.bits - 1, [evDivZero])
       else (s.narrowView ((s.viewI a l).tdiv (s.viewI b l)), [])) ∧
     IntGives (.rem d a b) s d [a, b] false (fun l =>
       if s.viewI b l = 0 then (s.viewU a l, [evDivZero])
       else (unsigned s.view.1.bits ((s.viewI a l).tmod (s.viewI b l)), [])))

/-- addc and subb (R224): the carry comes from p15, T counting as 1, and p15 takes the carry out in the lanes that run;
the destination takes the sum or the difference, wrapped. -/
def Obligations.CarryChains : Prop :=
  ∀ (d a b : Operand) (s : State), s.wordsOk .plain → (intView s.et).isSome = true → dstBad s.view.1.regs d = false →
    (∀ o ∈ [a, b], s.srcBad s.view.1.regs o = false) →
    s.poisonAt (runLanes d s.exec) [(s.view.1.regs, a), (s.view.1.regs, b)] = [] →
    let c (l : Nat) : Nat := if s.pred 15 l = .t then 1 else 0
    let ls := runLanes d s.exec
    (∃ u t, Writes (.next u) s d s.view.1.regs ls
          (fun l => (s.viewU a l + s.viewU b l + c l) % 2 ^ s.view.1.bits) (fun _ => false) ∧
        exec (.addc d a b) s = .next t ∧ t = { u with wave := { u.wave with preds := t.wave.preds } } ∧
        WroteP u t 15 ls (fun l => if 2 ^ s.view.1.bits ≤ s.viewU a l + s.viewU b l + c l then .t else .f)) ∧
    (∃ u t, Writes (.next u) s d s.view.1.regs ls
          (fun l => (s.viewU a l + 2 ^ s.view.1.bits * 2 - s.viewU b l - c l) % 2 ^ s.view.1.bits) (fun _ => false) ∧
        exec (.subb d a b) s = .next t ∧ t = { u with wave := { u.wave with preds := t.wave.preds } } ∧
        WroteP u t 15 ls (fun l => if s.viewU a l < s.viewU b l + c l then .t else .f))

/-- Compare, select and moves (R231 to R234): cmp writes T or F and nothing else; sel writes the lanes where its predicate
is T; mov and movi write the move width of the element type. -/
def Obligations.CompareSelectMove : Prop :=
  ∀ (d a b : Operand) (r p : Fin 16) (i : BitVec 16) (s : State), s.wordsOk .plain →
    ((intView s.et).isSome = true → r.val < 6 → (∀ o ∈ [a, b], s.srcBad s.view.1.regs o = false) →
      s.poisonCond (.p p) [(s.view.1.regs, a), (s.view.1.regs, b)] = [] →
      SetsPred (exec (.cmp r p a b) s) s p.val (lanesOf s.exec)
        (fun l => if cmpHolds r.val (s.viewI a l) (s.viewI b l) then .t else .f)) ∧
    (etOk s.et = true → dstBad s.moveSh.regs d = false → s.srcBad s.moveSh.regs a = false → b.isP = true →
      (d.isV = true ∨ ∀ l ∈ runLanes d s.exec, s.srcPois s.moveSh.regs a l = false) →
      Writes (exec (.sel d a b) s) s d s.moveSh.regs ((runLanes d s.exec).filter (fun l => s.pred b.num l == .t))
        (s.src s.moveSh a) (s.srcPois s.moveSh.regs a)) ∧
    (etOk s.et = true → (d.isReg = true ∨ d.isP = true) → d.aligned s.moveSh.regs = true → a.aligned s.moveSh.regs = true →
      s.noLit a = false → s.poisonCond d [(s.moveSh.regs, a)] = [] →
      Writes (exec (.mov d a) s) s d s.moveSh.regs (runLanes d s.exec) (s.src s.moveSh a) (s.srcPois s.moveSh.regs a)) ∧
    (etOk s.et = true → dstBad s.moveSh.regs d = false →
      Writes (exec (.movi d i) s) s d s.moveSh.regs (runLanes d s.exec) (fun _ => moviBits s.et i) (fun _ => false))

/-- An exchange completes: each lane takes its source's register as lane `from_ l` holds it (R223). -/
def Sys2Proof.Machine.Exchanges (i : Instr) (s : State) (d a b : Operand) (from_ idx : Nat → Nat) : Prop :=
  (∀ l ∈ runLanes d s.exec, d.isV = true ∨ ((s.laneSrc s.moveSh a (from_ l)).2 || s.srcPois 1 b (idx l)) = false) →
    Writes (exec i s) s d s.moveSh.regs (runLanes d s.exec) (fun l => (s.laneSrc s.moveSh a (from_ l)).1)
      (fun l => (s.laneSrc s.moveSh a (from_ l)).2 || s.srcPois 1 b (idx l))

/-- movs and shfl (R223, R234, R235): an absent lane reads as zero, a lane outside the execution mask reads its register. -/
def Obligations.LaneExchange : Prop :=
  ∀ (d a b : Operand) (s : State), s.wordsOk .plain → etOk s.et = true → dstBad s.moveSh.regs d = false → a.isV = true →
    a.aligned s.moveSh.regs = true → s.srcBad 1 b = false →
    Exchanges (.movs d a b) s d a b (fun _ => s.int b ((lowest s.exec).getD 0) % 32) (fun _ => (lowest s.exec).getD 0) ∧
    Exchanges (.shflIdx d a b) s d a b (fun l => s.int b l % 32) id ∧
    Exchanges (.shflXor d a b) s d a b (fun l => l ^^^ (s.int b l % 32)) id ∧
    Exchanges (.shflUp d a b) s d a b (fun l => if s.int b l ≤ l then l - s.int b l else l) id ∧
    Exchanges (.shflDown d a b) s d a b (fun l => if l + s.int b l < 32 then l + s.int b l else l) id

/-- vote, ballot and pcnt (R236, R237): over the predicate's values in the lanes of the execution mask. Predicate logic
(R134, R240): three-valued; F absorbs under pand, T under por, and U is absorbed by neither. -/
def Obligations.PredicatesAndVotes : Prop :=
  (∀ (d a : Operand) (k : BitVec 8) (q : Fin 4) (s : State), s.wordsOk .plain → a.isP = true →
     ((d.isReg = true ∨ d.isP = true) → k.toNat < 3 →
       Writes (exec (.vote d a k) s) s d 1 (runLanes d s.exec)
         (fun _ => (voteOf k.toNat ((lanesOf s.exec).map (s.pred a.num))).toNat) (fun _ => false)) ∧
     (etOk s.et = true → dstBad s.countRegs d = false →
       Writes (exec (.ballot d a q) s) s d s.countRegs (runLanes d s.exec)
         (fun _ => (lanesWhere s.exec (fun l => inSet q.val (s.pred a.num l))).toNat) (fun _ => false) ∧
       Writes (exec (.pcnt d a q) s) s d s.countRegs (runLanes d s.exec)
         (fun _ => ((lanesOf s.exec).filter (fun l => inSet q.val (s.pred a.num l))).length) (fun _ => false))) ∧
  (∀ (d a b : Operand) (s : State), s.wordsOk .plain → d.isP = true → a.isP = true → b.isP = true →
     SetsPred (exec (.pand d a b) s) s d.num (lanesOf s.exec) (fun l =>
       if s.pred a.num l = .f ∨ s.pred b.num l = .f then .f
       else if s.pred a.num l = .t ∧ s.pred b.num l = .t then .t else .u) ∧
     SetsPred (exec (.por d a b) s) s d.num (lanesOf s.exec) (fun l =>
       if s.pred a.num l = .t ∨ s.pred b.num l = .t then .t
       else if s.pred a.num l = .f ∧ s.pred b.num l = .f then .f else .u) ∧
     SetsPred (exec (.pxor d a b) s) s d.num (lanesOf s.exec) (fun l =>
       if s.pred a.num l = .u ∨ s.pred b.num l = .u then .u
       else if s.pred a.num l = s.pred b.num l then .f else .t) ∧
     SetsPred (exec (.pnot d a) s) s d.num (lanesOf s.exec) (fun l =>
       if s.pred a.num l = .t then .f else if s.pred a.num l = .f then .t else .u))

/-- A reduction's operands are in order (R238, R242): its operation, its type, its registers, no poison for a scalar, and
under EMPTY no empty interval. -/
def Sys2Proof.Machine.State.redReady (s : State) (d a : Operand) (op : Nat) (ls : List Nat) (out : Nat → LaneOut) : Prop :=
  s.wordsOk .plain ∧ s.redConds d a op = [] ∧
    s.emptyIn (s.redShape op) [a] ||| s.emptyOut (s.redShape op) (ls.map (fun l => (l, out l))) = 0 ∧
    (d.isV = true ∨ ∀ l ∈ lanesOf s.exec, s.srcPois (s.redShape op).regs a l = false)

/-- A reduction completes: it puts its results and the generators of its nodes in place, and logs what its nodes met. -/
def Sys2Proof.Machine.Reduces (i : Instr) (s : State) (d : Operand) (op : Nat) (out : Nat → LaneOut) (r : RedState) : Prop :=
  ∃ t, Retired .plain s t ∧ t.wave.gens = r.gens ∧
    Wrote s t d (s.redShape op).regs (runLanes d s.exec) (fun l => (out l).v) (fun l => (out l).pois) ∧
    exec i s = .next (t.logLanes s.frag.pc r.logs)

/-- redux and scan (R150, R238, R239): redux's tree over lanes 0 to 31, an absent operand passing its partner on, gives one
value that every lane of the destination takes, poisoned when any operand was; scan's five rounds give each lane the result
over the lanes up to it, or below it. -/
def Obligations.Reductions : Prop :=
  ∀ (d a : Operand) (o : BitVec 5) (e : Bool) (q : Fin 16) (s : State),
    (o.toNat < 16 →
      let res := s.redTree o.toNat 5 { gens := s.wave.gens } (s.redParts o.toNat a)
      let out (_ : Nat) : LaneOut :=
        { v := match res.1.head? with
            | some (some p) => p.v
            | _ => 0
          pois := (lanesOf s.exec).any (s.srcPois (s.redShape o.toNat).regs a) }
      s.redReady d a o.toNat (runLanes d s.exec) out → Reduces (.redux d a o) s d o.toNat out res.2) ∧
    (let res := [1, 2, 4, 8, 16].foldl (fun x k => s.scanRound q.val k x.2 x.1)
        (s.redParts q.val a, ({ gens := s.wave.gens } : RedState))
      let upTo (l : Nat) : Option Nat := (res.1.getD l none).map (·.v)
      let out (l : Nat) : LaneOut :=
        { v := if e then (if l = 0 then s.redIdent q.val else (upTo (l - 1)).getD (s.redIdent q.val)) else (upTo l).getD 0
          pois := ((lanesOf s.exec).filter (fun k => if e then decide (k < l) else decide (k ≤ l))).any
            (s.srcPois (s.redShape q.val).regs a) }
      s.redReady d a q.val (runLanes d s.exec) out → Reduces (.scan d a e q) s d q.val out res.2)

/-! ### Floating point, conversions, intervals -/

/-- An instruction of the floating chapter completes: `out` gives a lane's value, causes and generator, and the poison of
its sources goes with it (R244, R245). -/
def Sys2Proof.Machine.FloatGives (i : Instr) (s : State) (ok rounds : Bool) (d : Operand) (nd : Nat) (srcs : List (Nat × Operand))
    (more : List Cond) (out : Nat → LaneOut) : Prop :=
  s.ready ok d nd srcs → (rounds && decide (6 ≤ s.rnd)) = false → more = [] →
    Gives (exec i s) s d nd (runLanes d s.exec) (fun l => { out l with pois := srcs.any (fun x => s.srcPois x.1 x.2 l) })

/-- An operation on point elements, or on intervals, completes (R126, R137, R244): under a point type `pt` on each element
under the unit's mode, under an interval type `iv` on the operands, with no empty interval under EMPTY. -/
def Sys2Proof.Machine.ArithGives (i : Instr) (s : State) (d : Operand) (srcs : List Operand) (rounds flushes : Bool)
    (pt : Mode → FFmt → Word → List Nat → Elem) (iv : Mode → FFmt → List Ivl → IvlOut) : Prop :=
  let m := if flushes then s.mode else { s.mode with flush := false }
  let ivs (l : Nat) : List Ivl := srcs.map (fun o => m.readIvl (ivlFmt s.fsh) (s.src s.fsh o l))
  let out (l : Nat) : LaneOut :=
    if s.fsh.isIvl then (iv m (ivlFmt s.fsh) (ivs l)).out (ivlFmt s.fsh)
    else (pointOp s.fsh (pt m) (s.gen l) (srcs.map (fun o => s.src s.fsh o l))).out rounds
  FloatGives i s (fltOk s.et) (rounds && !s.fsh.isIvl) d s.fsh.regs (srcs.map (fun o => (s.fsh.regs, o)))
    (if s.fsh.isIvl then
      s.emptyCond d (fun l => (ivs l).any (Ivl.empty (ivlFmt s.fsh))) (fun l => (Ivl.ofRaw (ivlFmt s.fsh) (out l).v).empty (ivlFmt s.fsh))
    else []) out

/-- Floating arithmetic (R123, R130, R132, R137, R246): under a point type the exact result rounded once under RND, SAT and
FLUSH, with NaN operands first; under an interval type the outward bounds. Minimum, maximum, sign and integral parts (R247,
R248): fabs and fneg act on the sign bit of the raw encoding, and never flush or log. -/
def Obligations.FloatArithmetic : Prop :=
  (∀ (d a b : Operand) (s : State),
     ArithGives (.fadd d a b) s d [a, b] true true
       (fun m f g vs => m.roundTo f g (sumExact m.rnd [m.arg f vs 0, m.arg f vs 1]))
       (fun m f is => m.ivl f .add (ivArg is 0) (ivArg is 1)) ∧
     ArithGives (.fsub d a b) s d [a, b] true true
       (fun m f g vs => m.roundTo f g (sumExact m.rnd [m.arg f vs 0, (m.arg f vs 1).negated]))
       (fun m f is => m.ivl f .sub (ivArg is 0) (ivArg is 1)) ∧
     ArithGives (.fmul d a b) s d [a, b] true true
       (fun m f g vs => m.roundTo f g (mulExact (m.arg f vs 0) (m.arg f vs 1)))
       (fun m f is => m.ivl f .mul (ivArg is 0) (ivArg is 1)) ∧
     ArithGives (.fdiv d a b) s d [a, b] true true
       (fun m f g vs => m.roundTo f g (divExact (m.arg f vs 0) (m.arg f vs 1)))
       (fun m f is => m.ivl f .div (ivArg is 0) (ivArg is 1)) ∧
     ArithGives (.ffma d a b) s d [a, b, d] true true
       (fun m f g vs => m.roundTo f g (fmaExact m.rnd (m.arg f vs 0) (m.arg f vs 1) (m.arg f vs 2)))
       (fun m f is => m.ivlFma f (ivArg is 0) (ivArg is 1) (ivArg is 2)) ∧
     ArithGives (.fsqrt d a) s d [a] true true
       (fun m f g vs => m.roundTo f g (sqrtExact (m.arg f vs 0)))
       (fun m f is => m.ivl f .sqrt (ivArg is 0) (ivArg is 0))) ∧
  (∀ (d a b : Operand) (s : State),
     ArithGives (.fmin d a b) s d [a, b] false true (fun m f _ vs => m.minmax f false (vs.getD 0 0) (vs.getD 1 0))
       (fun m f is => m.ivl f .min (ivArg is 0) (ivArg is 1)) ∧
     ArithGives (.fmax d a b) s d [a, b] false true (fun m f _ vs => m.minmax f true (vs.getD 0 0) (vs.getD 1 0))
       (fun m f is => m.ivl f .max (ivArg is 0) (ivArg is 1)) ∧
     ArithGives (.fabs d a) s d [a] false false (fun _ f _ vs => { bits := vs.getD 0 0 % f.signBit })
       (fun m f is => m.ivl f .abs (ivArg is 0) (ivArg is 0)) ∧
     ArithGives (.fneg d a) s d [a] false false (fun _ f _ vs => { bits := (vs.getD 0 0 + f.signBit) % (2 * f.signBit) })
       (fun m f is => m.ivl f .neg (ivArg is 0) (ivArg is 0)) ∧
     ArithGives (.fround d a) s d [a] true true (fun m f g vs => m.froundElem f g (vs.getD 0 0))
       (fun m f is => if (ivArg is 0).empty f then { i := f.emptyIvl }
         else m.bounds f (((ivArg is 0).nums f).1.integral 2 0, ((ivArg is 0).nums f).2.integral 3 0)) ∧
     ArithGives (.ffrac d a) s d [a] false false
       (fun m f _ vs => m.put f (fracExact (m.arg f vs 0)).v (fracExact (m.arg f vs 0)).ev)
       (fun m f is => if (ivArg is 0).empty f then { i := f.emptyIvl } else m.bounds f (fracBounds ((ivArg is 0).nums f))) ∧
     FloatGives (.fscale d a b) s (fltOk s.et) (!s.fsh.isIvl) d s.fsh.regs [(s.fsh.regs, a), (1, b)]
       (if s.fsh.isIvl then
         s.emptyCond d (fun l => (s.mode.readIvl (ivlFmt s.fsh) (s.src s.fsh a l)).empty (ivlFmt s.fsh)) (fun _ => false) else [])
       (fun l =>
         let k : Int := signed 32 (s.int b l)
         let i := s.mode.readIvl (ivlFmt s.fsh) (s.src s.fsh a l)
         if s.fsh.isIvl then
           (if i.empty (ivlFmt s.fsh) then { i := (ivlFmt s.fsh).emptyIvl : IvlOut }
            else s.mode.bounds (ivlFmt s.fsh) ((i.nums (ivlFmt s.fsh)).1.shifted k, (i.nums (ivlFmt s.fsh)).2.shifted k)).out (ivlFmt s.fsh)
         else (pointOp s.fsh (fun f g vs => s.mode.fscaleElem f g (vs.getD 0 0) k) (s.gen l) [s.src s.fsh a l]).out true))

/-- Comparison (R139, R249): the predicate takes the relation of the two operands in each lane, T, F or, between intervals
that overlap, U; what it met is logged, and nothing else changes. Classes and the special functions (R152 to R157, R250,
R251). The factor 2^(E - 64) of the range reduction of fsin and fcos is the model's reading of the printed one (log 88), and
so is how the algorithms' steps are rounded (log 38). -/
def Obligations.FloatCompareAndSpecials : Prop :=
  (∀ (r p : Fin 16) (a b : Operand) (s : State), s.wordsOk .plain → wideOk s.et = true → r.val < 7 →
     (∀ o ∈ [a, b], s.srcBad s.fsh.regs o = false) → s.poisonCond (.p p) [(s.fsh.regs, a), (s.fsh.regs, b)] = [] →
     let iv (o : Operand) (l : Nat) : Ivl := s.mode.readIvl s.ptFmt (s.src s.fsh o l)
     let pt (o : Operand) (l : Nat) : Machine.Num := s.mode.read s.ptFmt (s.src s.fsh o l)
     let em (l : Nat) : Bool := (iv a l).empty s.ptFmt || (iv b l).empty s.ptFmt
     (s.fsh.isIvl = true → s.emptyCond (.p p) em (fun _ => false) = [] →
       SetsPred (exec (.fcmp r p a b) s) s p.val (lanesOf s.exec)
         (fun l => fcmpIvl r.val (em l) ((iv a l).nums s.ptFmt) ((iv b l).nums s.ptFmt))) ∧
     (s.fsh.isIvl = false → ∃ t, SetsPred (.next t) s p.val (lanesOf s.exec)
         (fun l => if fcmpPoint r.val (pt a l) (pt b l) then .t else .f) ∧
       exec (.fcmp r p a b) s = .next (t.logLanes s.frag.pc ((lanesOf s.exec).map (fun l =>
         (l, { ev := fcmpEv r.val (pt a l) (pt b l) : LaneOut })))))) ∧
  (∀ (d a : Operand) (s : State),
     FloatGives (.fcls d a) s (fltOk s.et) false d (if s.fsh = .f64 ∨ s.fsh = .if64 then 2 else 1) [(s.fsh.regs, a)] []
       (fun l => { v :=
         if s.fsh.isIvl then
           let i := Ivl.ofRaw (ivlFmt s.fsh) (s.src s.fsh a l)
           classBits (ivlFmt s.fsh) i.lo + 2 ^ 16 * classBits (ivlFmt s.fsh) i.hi + (if i.empty (ivlFmt s.fsh) then 2 ^ 31 else 0)
         else (pointOp s.fsh (fun f _ vs => { bits := classBits f (vs.getD 0 0) }) 0 [s.src s.fsh a l]).bits }) ∧
     (∀ x ∈ [(Instr.frcp d a, SpecFn.rcp), (.frsq d a, .rsq), (.fex2 d a, .ex2), (.flg2 d a, .lg2), (.fsin d a, .sin),
         (.fcos d a, .cos)],
       let iv (l : Nat) : Ivl := s.mode.readIvl .f32 (s.src s.fsh a l)
       let out (l : Nat) : LaneOut :=
         if s.fsh.isIvl then (s.mode.specialIvl x.2 (iv l)).out .f32 else (s.mode.special x.2 (s.src s.fsh a l)).out false
       FloatGives x.1 s (s.et == 4 || s.et == 6) false d s.fsh.regs [(s.fsh.regs, a)]
         (if s.fsh.isIvl then s.emptyCond d (fun l => (iv l).empty .f32) (fun l => (Ivl.ofRaw .f32 (out l).v).empty .f32) else [])
         out))

/-- Conversions between integers and floating types, and between floating formats (R252 to R254). -/
def Obligations.Conversions : Prop :=
  ∀ (d a : Operand) (c : Fin 16) (s : State),
    FloatGives (.cvtFi d a c) s ((s.et == 4 || s.et == 5) && decide (c.val < 8)) true d (intRegs c.val) [(s.fsh.regs, a)] []
      (fun l =>
        let r := roundInt (intCode c.val).1 (intCode c.val).2 s.rnd (if s.rnd = 5 then (stoStep (s.gen l)).2 else 0) s.satBit
          (s.mode.read s.ptFmt (s.src s.fsh a l))
        { v := if (intCode c.val).1 = 64 then r.bits else extend32 (intCode c.val).1 (intCode c.val).2 r.bits, ev := r.ev
          gen := some (if s.rnd = 5 then (stoStep (s.gen l)).1 else s.gen l) }) ∧
    FloatGives (.cvtIf d a c) s (wideOk s.et && decide (c.val < 8)) (!s.fsh.isIvl) d s.fsh.regs [(intRegs c.val, a)] []
      (fun l =>
        let w := intCode c.val
        let v := s.src (if w.1 = 64 then .int64 w.2 else .int32) a l % 2 ^ w.1
        s.intoType l (.ofInt (if w.2 then signed w.1 v else v)) []) ∧
    (let val (l : Nat) : Machine.Num := s.readAs (partner c.val) (partnerBits c.val (s.src (partnerShape c.val) a l))
     FloatGives (.cvtFfFrom d a c) s (wideOk s.et && decide (c.val < 5)) (!s.fsh.isIvl) d s.fsh.regs
       [((partnerShape c.val).regs, a)]
       (if s.fsh.isIvl then s.emptyCond d (fun _ => false) (fun l => (val l).isNan) else [])
       (fun l => s.intoType l (val l) (sigEv (val l)))) ∧
    FloatGives (.cvtFfTo d a c) s ((s.et == 4 || s.et == 5) && decide (c.val < 5)) true d (partnerShape c.val).regs
      [(s.fsh.regs, a)] []
      (fun l =>
        let v := s.mode.read s.ptFmt (s.src s.fsh a l)
        let e := s.flushAs (partner c.val) ({ s.mode with flush := false }.roundTo (partner c.val) (s.gen l) { v := v, ev := sigEv v })
        { e.out true with v := partnerReg c.val e.bits })

/-- Packing (R255): the element at place k of the destination takes the value in its narrow format; the destination's other
bits stay. Unpacking (R256) gives the element at place k in the unit's type. -/
def Obligations.PackAndUnpack : Prop :=
  ∀ (d a : Operand) (k : Fin 8) (f : Fin 32) (s : State),
    let isInt : Bool := s.et == 0 || s.et == 1
    let w := codeWidth f.val
    (∀ x ∈ [(Instr.pack8 d a k f, pack8Codes), (.pack6 d a k f, pack6Codes), (.pack4 d a k f, pack4Codes)],
      FloatGives x.1 s ((s.et == 4 || (isInt && (codeInt f.val).isSome)) && x.2.contains f.val && packPlace f.val k.val) true d 1
        [(1, a), (1, d)] []
        (fun l =>
          let v : Machine.Num :=
            if isInt then .ofInt (if s.et = 1 then signed 32 (s.int a l) else s.int a l)
            else s.mode.read .f32 (s.src .f32 a l)
          let e := s.mode.narrowTo f.val (s.gen l) v
          { e.out true with v := setField (s.int d l) (w * k.val) w e.bits })) ∧
    (let bits (l : Nat) : Nat := field (s.src .f32 a l) (w * k.val) w
     let val (l : Nat) : Machine.Num :=
       match codeFloat f.val, codeInt f.val with
       | some ff, _ => ff.decode (bits l)
       | _, some i => .ofInt (if i.2 then signed i.1 (bits l) else bits l)
       | _, _ => .fin false 0 0
     FloatGives (.unpack d a k f) s ((wideOk s.et || (isInt && (codeInt f.val).isSome)) &&
         (pack8Codes ++ pack6Codes ++ pack4Codes).contains f.val && packPlace f.val k.val) false d
       (if isInt then 1 else s.fsh.regs) [(1, a)]
       (if !isInt && s.fsh.isIvl then s.emptyCond d (fun _ => false) (fun l => (val l).isNan) else [])
       (fun l =>
         if isInt then { v := extend32 w ((codeInt f.val).map (·.2) == some true) (bits l) }
         else if s.fsh.isIvl then s.intoType l (val l) (sigEv (val l))
         else (s.mode.put s.ptFmt (val l) (sigEv (val l))).out false))

/-- Packed dots complete (R257, R258): legal lane descriptors, a register for the sum; only the destination, the
generators and the arithmetic log change, and the poison of all three operands goes with the result. An integer dot's sum is
exact and then narrowed; a floating dot's is the exact sum of the products of the scaled elements and of the addend, rounded
once (R146, R148; which NaN counts where several operands hold one is the model's choice, log 110). -/
def Obligations.PackedDots : Prop :=
  ∀ (d a b : Operand) (s : State), (s.et = 0 ∨ s.et = 1 ∨ s.et = 4) → a.isPair = true → b.isPair = true →
    s.ready true d 1 [(2, a), (2, b), (1, d)] → (s.et = 4 → s.rnd < 6) →
    ∀ x ∈ [(Instr.dot2 d a b, [3, 4, 11, 12], 2, 16), (.dot4 d a b, [5, 6, 7, 13, 14], 4, 8), (.dot8 d a b, [10, 15, 16], 8, 4)],
      let word (o : Operand) (l : Nat) : Nat := s.src (.int64 false) o l / 2 ^ 32
      let elems (o : Operand) (l : Nat) : List Nat := packedElems x.2.2.2 x.2.2.1 (s.src (.int64 false) o l % 2 ^ 32)
      let int (o : Operand) (l e : Nat) : Int :=
        if (codeInt (word o l % 32)).map (·.2) = some true then signed x.2.2.2 e else e
      let float (o : Operand) (l e : Nat) : Sys2Proof.Machine.Num :=
        let scale := field (word o l) 8 8
        s.mode.scaledElem ((codeFloat (word o l % 32)).getD .f16) ((scale : Int) - 127) (scale == 255) e
      (∀ l ∈ lanesOf s.exec, dotWordOk x.2.1 (word a l) = true ∧ dotWordOk x.2.1 (word b l) = true ∧
        (codeFloat (word a l % 32)).isSome = (codeFloat (word b l % 32)).isSome ∧
        (codeFloat (word a l % 32)).isSome = (s.et == 4)) →
      ∃ out : Nat → LaneOut, Gives (exec x.1 s) s d 1 (runLanes d s.exec) out ∧
        (∀ l, (out l).pois = (s.srcPois 2 a l || s.srcPois 2 b l || s.srcPois 1 d l)) ∧
        (∀ l, s.et ≠ 4 →
          let d0 : Int := if s.et = 1 then signed 32 (s.int d l) else s.int d l
          let ps := ((elems a l).zip (elems b l)).map (fun e => int a l e.1 * int b l e.2)
          let r := roundInt 32 (s.et == 1) 0 0 s.satBit (.ofInt (d0 + ps.sum))
          (out l).v = r.bits ∧ (out l).ev = r.ev ∧ (out l).gen = none) ∧
        (∀ l, s.et = 4 →
          let sum := dotSum s.rnd ((elems a l).map (float a l)) ((elems b l).map (float b l)) (s.mode.read .f32 (s.src .f32 d l))
          let r := s.mode.roundTo .f32 (s.gen l) sum
          (out l).v = r.bits ∧ (out l).ev = r.ev ∧ (out l).gen = some r.gen)

/-- Generators (R132, R259): rseed writes the generator of every lane of the execution mask; rnext and rnext.h step each
and give the stepped word, or its draw. -/
def Obligations.Generators : Prop :=
  ∀ (d a : Operand) (s : State), s.wordsOk .plain →
    (s.srcBad 1 a = false → s.cleanCond [(1, a)] = [] →
      ∃ t, exec (.rseed a) s = .next t ∧ t = { s.retire .plain with wave := { (s.retire .plain).wave with gens := t.wave.gens } } ∧
        ∀ l, l < 32 → t.gen l = if l ∈ lanesOf s.exec then BitVec.ofNat 32 (s.int a l) else s.gen l) ∧
    (dstBad 1 d = false → ∀ x ∈ [(Instr.rnext d, fun r : Word × Nat => r.1.toNat), (.rnextH d, fun r => r.2)],
      ∃ t, exec x.1 s = .next t ∧ Retired .plain s t ∧
        Wrote s t d 1 (runLanes d s.exec) (fun l => x.2 (stoStep (s.gen l))) (fun _ => false) ∧
        ∀ l, l < 32 → t.gen l = if l ∈ lanesOf s.exec then (stoStep (s.gen l)).1 else s.gen l)

/-- Intervals are made, read, joined and met (R260 to R263). bbox (R263): the hull of two boxes in registers, or in a
predicate whether they meet. -/
def Obligations.IntervalsAndBoxes : Prop :=
  (∀ (d a b : Operand) (s : State),
     (let made (l : Nat) : Ivl :=
        let i : Ivl := { lo := s.src s.boundSh a l, hi := s.src s.boundSh b l }
        if i.empty s.ptFmt then s.ptFmt.emptyIvl else s.mode.readIvl s.ptFmt (i.raw s.ptFmt)
      FloatGives (.ipt d a b) s (ivlOk s.et) false d s.fsh.regs [(s.boundSh.regs, a), (s.boundSh.regs, b)]
        (s.emptyCond d (fun _ => false) (fun l => (made l).empty s.ptFmt)) (fun l => { v := (made l).raw s.ptFmt })) ∧
     (∀ x ∈ [(Instr.ilo d a, fun (_ : Mode) (f : FFmt) (i : Ivl) => ({ bits := if i.empty f then f.emptyIvl.lo else i.lo } : Elem)),
         (.ihi d a, fun _ f i => { bits := if i.empty f then f.emptyIvl.hi else i.hi }), (.imid d a, Mode.mid), (.iwid d a, Mode.width)],
       FloatGives x.1 s (ivlOk s.et) false d s.boundSh.regs [(s.fsh.regs, a)]
         (s.emptyCond d (fun l => (s.ivl a l).empty s.ptFmt) (fun _ => false))
         (fun l => (x.2 s.mode s.ptFmt (s.ivl a l)).out false)) ∧
     (∀ x ∈ [(Instr.ihull d a b, Ivl.hull), (.isect d a b, Ivl.sect)],
       let out (l : Nat) : Ivl := x.2 s.ptFmt (s.ivl a l) (s.ivl b l)
       FloatGives x.1 s (ivlOk s.et) false d s.fsh.regs [(s.fsh.regs, a), (s.fsh.regs, b)]
         (s.emptyCond d (fun l => (s.ivl a l).empty s.ptFmt || (s.ivl b l).empty s.ptFmt) (fun l => (out l).empty s.ptFmt))
         (fun l => { v := (out l).raw s.ptFmt })) ∧
     (s.wordsOk .plain → ivlOk s.et = true → d.isP = true → (∀ o ∈ [a, b], s.srcBad s.fsh.regs o = false) →
       s.poisonCond d [(s.fsh.regs, a), (s.fsh.regs, b)] = [] →
       s.emptyCond d (fun l => (s.ivl a l).empty s.ptFmt || (s.ivl b l).empty s.ptFmt) (fun _ => false) = [] →
       SetsPred (exec (.iin d a b) s) s d.num (lanesOf s.exec) (fun l => (s.ivl a l).inside s.ptFmt (s.ivl b l)))) ∧
  (∀ (d a b : Operand) (s : State), s.wordsOk .plain → ivlOk s.et = true → boxOk s.fsh.regs a = true → boxOk s.fsh.regs b = true →
     s.poisonCond d [(3 * s.fsh.regs, a), (3 * s.fsh.regs, b)] = [] →
     s.emptyCond d (fun l => boxEmpty s.ptFmt (s.box3 a l) || boxEmpty s.ptFmt (s.box3 b l)) (fun _ => false) = [] →
     (d.isP = true → SetsPred (exec (.bbox d a b) s) s d.num (lanesOf s.exec)
       (fun l => boxMeets s.ptFmt (s.box3 a l) (s.box3 b l))) ∧
     (boxOk s.fsh.regs d = true → Writes (exec (.bbox d a b) s) s d (3 * s.fsh.regs) (runLanes d s.exec)
       (fun l => boxRaw s.ptFmt (boxHull s.ptFmt (s.box3 a l) (s.box3 b l)))
       (fun l => s.srcPois (3 * s.fsh.regs) a l || s.srcPois (3 * s.fsh.regs) b l)))

/-! ### Control, modes and waiting -/

/-- Lead-in words (R168, R169, R170, R464): guard, lih and lit join the unit that is being formed and act on nothing else;
a word out of order, and only that, marks the unit as bad (of two guards the first counts). The fourth word of a unit traps 0x01 instead. -/
def Obligations.LeadInWords : Prop :=
  ∀ (sense : Fin 8) (p : Fin 16) (h : BitVec 8) (l : BitVec 24) (s : State),
    (s.iss.n < 3 → s.iss.bad = none →
      exec (.guard sense p) s = .next { s with iss := { s.iss with
        n := s.iss.n + 1, guard := some (s.iss.guard.getD (sense.val, p.val))
        bad := if s.iss.n = 0 then none else some s.iss.word } } ∧
      exec (.lih h) s = .next { s with iss := { s.iss with
        n := s.iss.n + 1, lih := some h, bad := if s.iss.lih.isSome || s.iss.lit.isSome then some s.iss.word else none } } ∧
      exec (.lit l) s = .next { s with iss := { s.iss with
        n := s.iss.n + 1, lit := some l, bad := if s.iss.lit.isSome then some s.iss.word else none } }) ∧
    (3 ≤ s.iss.n → s.iss.bad = none → ∀ i ∈ [Instr.guard sense p, .lih h, .lit l], exec i s = .next (s.takeTrap s.exec
      { code := 0x01, lanes := s.exec, aux := s.iss.word.toNat }))

/-- nop only goes on; tok arms the address of its label; mode.set writes one field of mr, mode.put the whole of it, and
mode.get reads it (R172, R193, R208, R209). With an empty execution mask tok, mode.set and mode.put have no effect. A
reserved mode selector traps 0x01, a value too wide for its field 0x02 (R208, R468); neither has an effect. The path LFSR
(R39, R207): lfsr.rd reads it; lfsr gives its old value and writes the low 16 bits of its operand of the lowest lane. -/
def Obligations.ModesAndTokens : Prop :=
  (∀ (off : BitVec 20) (sel : BitVec 8) (v : BitVec 16) (d a : Operand) (s : State), s.wordsOk .plain →
     exec .nop s = .next (s.retire .plain) ∧
     (s.exec ≠ 0 → exec (.tok off) s = .next { s.retire .plain with
       frag := { (s.retire .plain).frag with armed := some (s.wAddr + 4 * off.signExtend 56) } }) ∧
     (s.exec = 0 → exec (.tok off) s = .next (s.retire .plain)) ∧
     (∀ f, modeField sel.toNat = some f → v.toNat < 2 ^ f.2 → s.exec ≠ 0 →
       exec (.modeSet sel v) s = .next { s.retire .plain with frag := { (s.retire .plain).frag with
         mr := BitVec.ofNat 32 (setField s.frag.mr.toNat f.1 f.2 v.toNat) } }) ∧
     (dstBad 1 d = false →
       Writes (exec (.modeGet d) s) s d 1 (runLanes d s.exec) (fun _ => s.frag.mr.toNat) (fun _ => false)) ∧
     (s.srcBad 1 a = false → s.exec ≠ 0 → (∀ l, lowest s.exec = some l → s.srcPois 1 a l = false) →
       exec (.modePut a) s = .next { s.retire .plain with frag := { (s.retire .plain).frag with
         mr := BitVec.ofNat 32 (s.int a ((lowest s.exec).getD 0) % 2 ^ 21) } })) ∧
  (∀ (sel : BitVec 8) (v : BitVec 16) (s : State), s.wordsOk .plain →
     (modeField sel.toNat = none → ∃ c : Cond, c.code = 0x01 ∧ c.aux = s.iss.word.toNat ∧
       exec (.modeSet sel v) s = .next (s.takeTrap s.exec c)) ∧
     (∀ f, modeField sel.toNat = some f → 2 ^ f.2 ≤ v.toNat → ∃ c : Cond, c.code = 0x02 ∧ c.lanes = s.exec ∧
       exec (.modeSet sel v) s = .next (s.takeTrap s.exec c))) ∧
  (∀ (d a : Operand) (s : State), s.wordsOk .plain → dstBad 1 d = false → s.exec ≠ 0 →
     Writes (exec (.lfsrRd d) s) s d 1 (runLanes d s.exec) (fun _ => s.wave.lfsr.toNat) (fun _ => false) ∧
     (s.srcBad 1 a = false → (∀ l, lowest s.exec = some l → s.srcPois 1 a l = false) →
       ∃ u t, Writes (.next u) s d 1 (runLanes d s.exec) (fun _ => s.wave.lfsr.toNat) (fun _ => false) ∧
         exec (.lfsr d a) s = .next t ∧
         t = { u with wave := { u.wave with lfsr := BitVec.ofNat 16 (s.int a ((lowest s.exec).getD 0)) } }))

/-- Branches in which every lane goes one way (R37, R190 to R192): the fragment goes to the target, or to W + 4, its armed
token is dropped, and nothing divides. call leaves W + 4 - KBASE in the link register of the lanes it takes. -/
def Obligations.UniformBranches : Prop :=
  ∀ (off : BitVec 20) (r : Fin 16) (s : State), s.frag.mask ≠ 0 →
    (s.wordsOk s.brKind → s.exec = s.frag.mask →
      exec (.br off) s = .next { s.retire s.brKind with frag := { (s.retire s.brKind).frag with
        pc := s.wAddr + 4 * off.signExtend 56, armed := none } }) ∧
    (s.wordsOk s.brKind → s.exec = 0 →
      exec (.br off) s = .next { s.retire s.brKind with frag := { (s.retire s.brKind).frag with pc := s.wAddr + 4, armed := none } }) ∧
    (s.wordsOk .plain → s.exec = s.frag.mask → ∃ t, exec (.call r off) s = .next t ∧
      t.frag.pc = s.wAddr + 4 * off.signExtend 56 ∧ t.frag.mask = s.frag.mask ∧ t.mem = s.mem ∧
      WroteV s t r.val 1 (lanesOf s.exec) (fun _ => (s.wAddr + 4 - s.wg.kbase).toNat % 2 ^ 32) (fun _ => false) ∧
      t.wave.xregs = s.wave.xregs ∧ t.wave.preds = s.wave.preds)

/-- Every branch completes (R37, R38, R42 to R44, R190 to R192): while no ninth deferral entry would be held and no target
is misaligned, its sides divide the fragment. -/
def Obligations.BranchesDivide : Prop :=
  ∀ (off : BitVec 20) (p r : Fin 16) (a : Operand) (s : State),
    (s.wordsOk s.brKind → s.overflows (s.plainSides off) false = false →
      exec (.br off) s = .next ((s.retire s.brKind).divide
        [{ pc := s.target off, mask := s.exec }, { pc := s.wAddr + 4, mask := s.frag.mask &&& ~~~s.exec }] false)) ∧
    (s.wordsOk .plain → s.lanesAt p.val .u = 0 → s.overflows (s.brtSides p.val off) false = false →
      exec (.brt p off) s = .next ((s.retire .plain).divide (s.brtSides p.val off) false)) ∧
    (s.wordsOk .plain → s.lanesAt p.val .u ≠ 0 → s.und ≠ 2 →
      s.overflows (s.brtSides p.val off) (decide (s.und = 3)) = false →
      exec (.brt p off) s = .next ((s.retire .plain).divide (s.brtSides p.val off) (decide (s.und = 3)))) ∧
    (∀ w, (s.codeSeen (s.wAddr + 4)).wordsOk .plain → s.lanesAt p.val .u ≠ 0 → s.und = 2 → s.guardOf.1 ≠ 7 →
      s.codeWord (s.wAddr + 4) = .ok (some w) → isLeadIn w = false →
      (s.codeSeen (s.wAddr + 4)).overflows (s.brtSides p.val off) false = false →
      exec (.brt p off) s = .next (((s.codeSeen (s.wAddr + 4)).retire .plain).divide (s.brtSides p.val off) false)) ∧
    (s.wordsOk .plain → s.overflows (s.plainSides off) false = false →
      exec (.call r off) s = .next (((lanesOf s.exec).foldl
        (fun t l => t.setV r.val l 1 ((s.wAddr + 4 - s.wg.kbase).toNat % 2 ^ 32) false) (s.retire .plain)).divide
          (s.plainSides off) false)) ∧
    (s.wordsOk .plain → s.srcBad 1 a = false → (∀ l ∈ lanesOf s.exec, s.srcPois 1 a l = false) →
      let dest (l : Nat) : VAddr := s.wAddr + (BitVec.ofNat 32 (s.int a l)).signExtend 56
      (∀ l ∈ lanesOf s.exec, (dest l).toNat % 4 = 0) → s.overflows (s.targetSides dest) false = false →
      exec (.brx a) s = .next ((s.retire .plain).divide (s.targetSides dest) false)) ∧
    (s.wordsOk .plain → (∀ l ∈ lanesOf s.exec, s.vpoison r.val l = false) →
      let dest (l : Nat) : VAddr := s.wg.kbase + BitVec.ofNat 56 (s.vreg r.val l).toNat
      (∀ l ∈ lanesOf s.exec, (dest l).toNat % 4 = 0) → s.overflows (s.targetSides dest) false = false →
      exec (.ret r) s = .next ((s.retire .plain).divide (s.targetSides dest) false))

/-- rejoin (R41, R42, R194): with no deferral entry and no token record of its address it only goes on; at the record of
its address the fragment arrives and parks, or merges the record's fragments when it is the last; where the record's count has
expired the record merges and the fragment passes; at its deferral entry it goes on with the next pending side. -/
def Obligations.Rejoin : Prop :=
  ∀ (k : Fin 16) (s : State), s.wordsOk .plain →
    ((∀ e ∈ s.frag.defers.head?, e.token ≠ some s.frag.pc) → s.topToken s.frag.pc = none →
      exec (.rejoin k) s = .next (s.retire .plain)) ∧
    (∀ key r, (∀ e ∈ s.frag.defers.head?, e.token ≠ some s.frag.pc ∧ e.token.isSome = true) →
      s.topToken s.frag.pc = some (key, r) →
      (s.overdue r = false →
        exec (.rejoin k) s = .next ((s.retire .plain).arrive s.frag.pc key r (s.deadline r k.val))) ∧
      (s.overdue r = true → exec (.rejoin k) s = .next ((s.retire .plain).mergeToken key))) ∧
    (∀ e es f, s.frag.defers = e :: es → e.token = some s.frag.pc →
      (s.retire .plain).frag.advance s.wave.live ({ e with resume := (s.retire .plain).frag.pc } :: es) = some f →
      exec (.rejoin k) s = .next { s.retire .plain with frag := f })

/-- exit, yield, sleep and the barriers complete (R45, R46, R198, R199, R204 to R206): exit ends the lanes of the execution
mask with their statuses; yield makes the fragment pending-ready; sleep parks it until its core's ACLK + n; bar arrives and
waits. Inside a trap handler a unit that would wait traps 0x0F in every lane of its execution mask (R435). -/
def Obligations.EndsAndBarriers : Prop :=
  (∀ (a : Operand) (n : BitVec 24) (b : Fin 4) (s : State), s.wordsOk .plain → s.exec ≠ 0 →
     (s.srcBad 1 a = false → (∀ l ∈ lanesOf s.exec, s.srcPois 1 a l = false) →
       exec (.exit a) s = .next ((s.retire .plain).endLanes s.exec (s.int a))) ∧
     exec (.barArrive b) s = .next ((s.retire .plain).barArrive b.val s.exec) ∧
     (s.wave.hx = none →
       exec .yield s = .next { s.retire .plain with frag := { (s.retire .plain).frag with
         status := .pendingReady, since := (s.retire .plain).now } } ∧
       (n ≠ 0 → exec (.sleep n) s = .next ((s.retire .plain).park s.frag.pc (.sleep (s.now + n.toNat)))) ∧
       exec (.sleep 0) s = .next (s.retire .plain) ∧
       exec (.barWait b) s = .next ((s.retire .plain).barWait s.frag.pc b.val) ∧
       exec (.bar b) s = .next (((s.retire .plain).barArrive b.val s.exec).barWait s.frag.pc b.val))) ∧
  (∀ (n : BitVec 24) (b : Fin 4) (s : State), s.wordsOk .plain → s.exec ≠ 0 → s.wave.hx.isSome = true → n ≠ 0 →
     ∀ i ∈ [Instr.yield, .sleep n, .barWait b, .bar b], ∃ c : Cond, c.code = 0x0F ∧ c.lanes = s.exec ∧
       exec i s = .next (s.takeTrap s.exec c))

/-- fpt k (R69, R196, R415): outside a handler it moves the flashback point to W + 4 with entry k and takes the generators of
its lanes as the anchor; inside one it only goes on; k outside the table traps 0x0C in the fragment mask. -/
def Obligations.FlashbackPoint : Prop :=
  ∀ (k : BitVec 16) (s : State), s.wordsOk .fpt →
    (s.wave.hx = none → k.toNat < s.wg.fbCount → ∃ t, exec (.fpt k) s = .next t ∧
      t = { s.retire .fpt with frag := { (s.retire .fpt).frag with
        fbPc := (s.retire .fpt).frag.pc, fbEntry := some k.toNat, shadow := t.frag.shadow } } ∧
      ∀ l, l < 32 → SMap.get 0 l t.frag.shadow = if l ∈ lanesOf s.frag.mask then s.gen l else SMap.get 0 l s.frag.shadow) ∧
    (s.wave.hx.isSome = true → exec (.fpt k) s = .next (s.retire .fpt)) ∧
    (s.wave.hx = none → s.wg.fbCount ≤ k.toNat → s.frag.mask ≠ 0 → ∃ c : Cond, c.code = 0x0C ∧ c.lanes = s.frag.mask ∧
      exec (.fpt k) s = .next (s.takeTrap s.exec c))

/-- waitf and waitv (R116, R200 to R203): with their cells readable in this device's memory and outside a handler the
fragment goes on at once when every cell is full or holds its count, and parks on its lines when not. -/
def Obligations.MemoryWaits : Prop :=
  ∀ (a b : Operand) (c : Fin 4) (s : State), s.wordsOk .plain → a.isPair = true → s.wave.hx = none → s.exec ≠ 0 →
    (∀ l ∈ lanesOf s.exec, s.srcPois 2 a l = false) →
    (∀ l ∈ lanesOf s.exec, ∀ n ∈ [4, 8], s.addr56 a l % n = 0 → ∃ i, s.judgeLane .g .read n l (s.addr56 a l) n = .ok i ∧
      s.heldItem i = false ∧ s.peerSpot i = none) →
    let cells (f : Nat → Word) : List Cell :=
      (lanesOf s.exec).map (fun l => { lane := l, addr := BitVec.ofNat 56 (s.addr56 a l), val := f l })
    ((∀ l ∈ lanesOf s.exec, s.addr56 a l % 8 = 0) →
      exec (.waitf a) s = .next ((s.retire .plain).beginWait s.frag.pc (.cells (cells (fun _ => 0))))) ∧
    ((∀ l ∈ lanesOf s.exec, s.addr56 a l % 4 = 0) → s.srcBad 1 b = false → (∀ l ∈ lanesOf s.exec, s.srcPois 1 b l = false) →
      exec (.waitv c a b) s = .next ((s.retire .plain).beginWait s.frag.pc
        (.counters c.val (cells (fun l => BitVec.ofNat 32 (s.int b l))))))

/-! ### Launches, traps and system registers -/

/-- lrec (R212): with every lane's template and RCB accessible, it reads each lane's template line and writes the 256 bytes
of its child RCB, in lane order: KIND 5, STATE 0, the launch's own RCB as PARENT, and the template's fields. launch (R58,
R213, R214): with every lane's RCB readable, of KIND 5, STATE 0 and with this launch as PARENT, and with room in the queue
budget for them all, the RCBs are read and the children are posted in lane order. -/
def Obligations.LaunchRecordsAndChildren : Prop :=
  (∀ (a b : Operand) (r x y : Nat → Item) (s : State), s.wordsOk .plain → a.isPair = true → b.isPair = true →
     let ls := s.passLanes [a, b]
     let is := ls.flatMap (fun l => [r l, x l, y l])
     (∀ l ∈ ls, s.srcPois 2 a l = false ∧ s.srcPois 2 b l = false ∧ s.addr56 a l % 256 = 0 ∧
       s.judgeLane .g .read 128 l (s.addr56 b l) 128 = .ok (r l) ∧ s.judgeLane .g .write 256 l (s.addr56 a l) 128 = .ok (x l) ∧
       s.judgeLane .g .write 128 l (s.addr56 a l + 128) 128 = .ok (y l) ∧ (s.homeItem (r l)).2 = false) →
     (∀ i ∈ is, s.heldItem i = false) →
     exec (.lrec a b) s = .next (lrecLanes s.wg.launchAddr.toNat (s.sharedItems is) (s.begun is))) ∧
  (∀ (a : Operand) (r : Nat → List Item) (s : State), s.wordsOk .plain → a.isPair = true →
     let ls := s.passLanes [a]
     let is := ls.flatMap r
     (∀ l ∈ ls, s.srcPois 2 a l = false ∧ s.rcbItems l (s.addr56 a l) = (r l).map .ok ∧
       (∀ i ∈ r l, (s.homeItem i).2 = false ∧ s.heldItem i = false) ∧
       postOk ((r l).flatMap (fun i => (s.homeItem i).1)) s.wg.launchAddr.toNat = true) →
     s.rcbGet s.who s.wg.launchAddr.toNat 5 1 + ls.length ≤ s.wg.budget.lqdepth →
     exec (.launch a) s = .next (ls.foldl (fun t l => t.postChild t.who s.wg.launchAddr.toNat (s.addr56 a l))
       (readItems (s.sharedItems is) ((s.begun is).meetLoads (s.sharedItems is))).2))

/-- trap c and a word that is no instruction (R217, R467): trap 0x10 with SWCODE c in every lane of the execution mask, trap
0x01 that reports the word; trap c with no lane goes on. brk c (R218): while its context's debug halt is on, the fragment
halts at the unit; else it goes on. -/
def Obligations.TrapsAndBreakpoints : Prop :=
  (∀ (c : BitVec 8) (w : Word) (s : State), s.wordsOk .plain →
     (s.exec ≠ 0 → exec (.trap c) s = .next (s.takeTrap s.exec { code := 0x10, lanes := s.exec, sw := c.toNat })) ∧
     (s.exec = 0 → exec (.trap c) s = .next (s.retire .plain)) ∧
     exec (.unassignedOpcode w) s = .next (s.takeTrap s.exec { code := 0x01, lanes := s.exec, aux := w.toNat })) ∧
  (∀ (c : BitVec 8) (s : State), s.wordsOk .plain → s.exec ≠ 0 →
     (SMap.get false (256 * s.wg.vf + s.wg.ctx) s.halts = false → exec (.brk c) s = .next (s.retire .plain)) ∧
     (SMap.get false (256 * s.wg.vf + s.wg.ctx) s.halts = true → ∃ t, exec (.brk c) s = .next t ∧
       t.frag.status = .waiting ∧ t.frag.wait = some (.halt c.toNat) ∧ t.frag.pc = s.frag.pc ∧
       t.halted = s.halted ++ [(64 * s.wave.id + s.frag.slot, c.toNat)] ∧ t.mem = s.mem ∧ t.wave.vregs = s.wave.vregs ∧
       t.wave.xregs = s.wave.xregs ∧ t.wave.preds = s.wave.preds))

/-- sysr (R165, R215, R216, R413): every listed selector gives its register, TICK_LO and PTS_LO latch their high words and
FRAME is read as an event of path v; inside a handler every handler register gives its value. With an empty execution mask
nothing happens. Handler registers are privileged (R215, R413): outside a handler a read or a write of selectors 0x8000 and
above traps 0x04, and sysw to a register that is not writable does so everywhere. sysw (R165, R215, R216, R413, R414): FRAME
is written as an event of path v; inside a handler HX_PC, HX_MR and HX_RET are written as their registers lay out, HX_RET
being a return from the handler. With an empty execution mask nothing happens. -/
def Obligations.SystemRegisters : Prop :=
  (∀ (d : Operand) (k : BitVec 16) (s : State), s.wordsOk .plain → dstBad 1 d = false →
     let ls := runLanes d s.exec
     let reads (v : Nat) : Prop := Writes (exec (.sysr d k) s) s d 1 ls (fun _ => v) (fun _ => false)
     (s.exec ≠ 0 →
       (∀ x ∈ [(0x0000, devCfg), (0x0011, s.wave.tickHi.toNat), (0x0013, s.wave.ptsHi.toNat), (0x0014, s.mhz (s.wave.core / 16))] ++
         (List.range 12).map (fun i => (0x0001 + i, 0xFFFF)), k.toNat = x.1 → reads x.2) ∧
       (k = 0x0010 → ∃ u t, Writes (.next u) s d 1 ls (fun _ => s.now % 2 ^ 32) (fun _ => false) ∧ exec (.sysr d k) s = .next t ∧
         t = { u with wave := { u.wave with tickHi := BitVec.ofNat 32 (s.now / 2 ^ 32) } }) ∧
       (k = 0x0012 → ∃ u t, Writes (.next u) s d 1 ls (fun _ => s.ptsOf s.wave.core % 2 ^ 32) (fun _ => false) ∧
         exec (.sysr d k) s = .next t ∧
         t = { u with wave := { u.wave with ptsHi := BitVec.ofNat 32 (s.ptsOf s.wave.core / 2 ^ 32) } }) ∧
       (k = 0x0020 → exec (.sysr d k) s =
         .next (((s.retire .plain).frameLoad s.wg.vf s.wg.ctx s.wave.core).putAll d s.exec (s.frameOf s.wg))) ∧
       (∀ h, s.wave.hx = some h →
         ∀ x ∈ [(0, h.cause), (1, h.swcode), (2, h.pc.toNat % 2 ^ 32 / 4 * 4), (3, h.pc.toNat / 2 ^ 32), (4, h.exec.toNat),
           (5, h.lanes.toNat), (6, h.addr.toNat % 2 ^ 32), (7, h.addr.toNat / 2 ^ 32), (8, h.aux.toNat),
           (9, h.mr.toNat % 2 ^ 21), (10, 0)], k.toNat = 0x8000 + x.1 → reads x.2)) ∧
     (s.exec = 0 → (s.wave.hx = none ∧ 0x8000 ≤ k.toNat ∨ k.toNat ≤ 0x000C ∨ (0x0010 ≤ k.toNat ∧ k.toNat ≤ 0x0014) ∨ k = 0x0020) →
       exec (.sysr d k) s = .next (s.retire .plain))) ∧
  (∀ (d a : Operand) (k : BitVec 16) (s : State), s.wordsOk .plain → s.exec ≠ 0 → s.wave.hx = none → 0x8000 ≤ k.toNat →
     (dstBad 1 d = false → ∃ c : Cond, c.code = 0x04 ∧ c.lanes = s.exec ∧ exec (.sysr d k) s = .next (s.takeTrap s.exec c)) ∧
     (s.srcBad 1 a = false → ∃ c : Cond, c.code = 0x04 ∧ exec (.sysw a k) s = .next (s.takeTrap s.exec c))) ∧
  (∀ (a : Operand) (s : State), s.wordsOk .plain → s.srcBad 1 a = false →
     (s.exec ≠ 0 → (∀ l, lowest s.exec = some l → s.srcPois 1 a l = false) →
       let v := s.int a ((lowest s.exec).getD 0)
       exec (.sysw a 0x0020) s = .next ((s.retire .plain).frameStore s.wg.vf s.wg.ctx s.wave.core v) ∧
       (∀ h, s.wave.hx = some h →
         let puts (k : BitVec 16) (x : Handler) : Prop :=
           exec (.sysw a k) s = .next { s.retire .plain with wave := { (s.retire .plain).wave with hx := some x } }
         puts 0x8002 { h with pc := BitVec.ofNat 56 (h.pc.toNat / 2 ^ 32 * 2 ^ 32 + v / 4 * 4) } ∧
         puts 0x8003 { h with pc := BitVec.ofNat 56 (v % 2 ^ 24 * 2 ^ 32 + h.pc.toNat % 2 ^ 32) } ∧
         puts 0x8009 { h with mr := BitVec.ofNat 32 (v % 2 ^ 21) } ∧
         (h.cause ≠ 0x11 → v % 4 = 0 → exec (.sysw a 0x800A) s = .next ((s.retire .plain).leaveHandler h (h.w + 4))) ∧
         (h.cause ≠ 0x11 → v % 4 = 1 → exec (.sysw a 0x800A) s = .next ((s.retire .plain).leaveHandler h h.pc)) ∧
         (h.cause = 0x11 ∨ 2 ≤ v % 4 → exec (.sysw a 0x800A) s = .next ((s.retire .plain).endInHandler h)))) ∧
     (s.exec = 0 → exec (.sysw a 0x0020) s = .next (s.retire .plain) ∧
       (s.wave.hx.isSome = true → ∀ k ∈ [(0x8002 : BitVec 16), 0x8003, 0x8009, 0x800A], exec (.sysw a k) s = .next (s.retire .plain))))

/-- The return from a trap handler (R414): actions 0 and 1 give back HX_MR, and go to the unit after the trapped one, or to the
unit that HX_PC names; the wave's other fragments may issue again, and a unit that broke a rewind hold and is gone back to
breaks it again (R429, R474). Action 2 ends the workgroup with the record of the
handled trap; after trap 0x11 every action does (R474; log entry 20). -/
def Obligations.HandlerReturns : Prop :=
  ∀ (s : State) (h : Handler), s.wave.hx = some h →
    let hold (pc : VAddr) : Hold := if h.breachAt = some pc then .fptUnheld else h.hold
    (h.cause ≠ 0x11 →
      exec .handlerReturnContinue s = .next { s with
        wave := { s.wave with hx := none }, iss := {}
        frag := { s.frag with mr := h.mr &&& 0x1FFFFF, pc := h.w + 4, hold := hold (h.w + 4) } } ∧
      exec .handlerReturnPc s = .next { s with
        wave := { s.wave with hx := none }, iss := {}
        frag := { s.frag with mr := h.mr &&& 0x1FFFFF, pc := h.pc, hold := hold h.pc } } ∧
      exec .handlerReturnEnd s = .next (s.endInHandler h)) ∧
    (h.cause = 0x11 → ∀ i ∈ [Instr.handlerReturnContinue, .handlerReturnPc, .handlerReturnEnd],
      exec i s = .next (s.endInHandler h))

/-- Taking a precise trap (R410 to R413): outside a handler and a recipe, with a handler whose header can be read now and is
legal, the state after that read is changed only so: the handler registers take the trap, mr becomes zero, the fragment goes
to ENTRY_OFF of the handler, and an answer of the host that the unit has met is done with. Traps that no handler takes (R410,
R411, R420): a trap inside a handler is a nested trap and confines the workgroup at level 1 with SOURCE 5; one in a recipe,
or without a handler, does so with SOURCE 0. -/
def Obligations.TrapEntryAndNesting : Prop :=
  (∀ (s : State) (exec_ : LaneMask) (c : Cond) (bs : List Byte), c.ipas = [] → c.ue = none → s.frag.recipe = none →
     s.wave.hx = none → s.headerHeld c = false → s.ctxBad s.wg.part s.wg.vf s.wg.ctx 80 8 = none →
     let h := s.handlerOf s.wg.part s.wg.vf s.wg.ctx
     let v := s.useCtx s.who 80 8
     h ≠ 0 → v.ctxRead v.who 1 h 64 .fetch = .ok (bs, false) →
     natAt bs 0 4 = 0x314B4D45 → natAt bs 4 2 ≠ 0 → natAt bs 4 2 ≤ 3 →
     let u := v.seen v.who 1 h 64 .fetch
     ∃ t x, s.takeTrap exec_ c = t ∧ t.wave.hx = some x ∧
       t = { u with wave := { u.wave with hx := some x }, iss := {}
                    frag := { u.frag with mr := 0, pc := BitVec.ofNat 56 (h + natAt bs 44 4) }
                    pri := u.pri.filter (fun p => p.wave != u.wave.id || p.slot != u.frag.slot || p.cmd != 0) } ∧
       x.slot = u.frag.slot ∧ x.cause = c.code ∧ x.swcode = c.sw ∧ x.pc = u.frag.pc ∧ x.exec = exec_ ∧ x.lanes = c.lanes ∧
       x.mr = u.frag.mr &&& 0x1FFFFF ∧
       x.addr = (if c.code ∈ [0x07, 0x08, 0x09, 0x0B, 0x11] then BitVec.ofNat 56 c.addr else 0) ∧
       x.aux = (if c.code ≤ 3 ∨ c.code = 0x0A then BitVec.ofNat 32 c.aux else 0)) ∧
  (∀ (s : State) (exec_ : LaneMask) (c : Cond), c.ipas = [] → c.ue = none →
     let confines (u : State) (source : Nat) : Prop :=
       s.takeTrap exec_ c = State.confine { u with iss := {} } 1 u.who (some u.wg) (u.trapRec source c)
     (s.frag.recipe.isSome = true → confines s 0) ∧
     (s.frag.recipe = none → s.wave.hx.isSome = true → confines s 5) ∧
     (s.frag.recipe = none → s.wave.hx = none → s.ctxBad s.wg.part s.wg.vf s.wg.ctx 80 8 = none →
       s.handlerOf s.wg.part s.wg.vf s.wg.ctx = 0 → confines (s.useCtx s.who 80 8) 0))

/-- Of the conditions that hold in a unit the lowest code is raised, in every lane in which a condition of that code holds
(R409). -/
def Obligations.LowestCode : Prop :=
  ∀ (cs : List Cond) (c : Cond), raised cs = some c →
    (∀ x ∈ cs, c.code ≤ x.code) ∧ (∃ x ∈ cs, x.code = c.code) ∧
    ∀ l, l < 32 → (c.lanes.getLsbD l = true ↔ ∃ x ∈ cs, x.code = c.code ∧ x.lanes.getLsbD l = true)

/-! ### Memory -/

/-- A memory instruction's accesses are in order: its words are, and the lanes' accesses `rs` are the accesses `is`, none
held by a key slot's mode change (R272, R460). -/
def Sys2Proof.Machine.State.accesses (s : State) (rs : List (Except Cond Item)) (is : List Item) : Prop :=
  s.wordsOk .plain ∧ rs = is.map .ok ∧ ∀ i ∈ is, s.heldItem i = false

/-- Loads (R92, R117, R174, R272, R274, R275): with every lane's access in order and no poison in an address, the accesses are
made, or asked of a peer; where none lies in a peer's memory, each lane's access is read in ascending lane order and its value,
extended as the width says, goes to the destination with the poison of its bytes; a poisoned read gives 0. Nothing else is
written. -/
def Obligations.Loads : Prop :=
  ∀ (d x : Operand) (w : Fin 8) (b : Fin 32) (is : List Item) (s : State), s.srcBad 1 x = false →
    (∀ l ∈ lanesOf s.exec, s.srcPois 1 x l = false) →
    (∀ i ∈ is, d.isV = true ∨ (s.peerOf i).isSome = true ∨ (s.readItem i).1.2 = false) →
    let ls := runLanes d s.exec
    let gives (i : Instr) (sp : Space) (addr : Nat → Nat) (wd : Width) : Prop :=
      dstBad wd.regs d = false → s.accesses (ls.map (fun l => s.judgeLane sp .read wd.bytes l (addr l) wd.bytes)) is →
        let js := s.sharedItems is
        let r := readItems js ((s.begun is).meetLoads js)
        exec i s = .next (State.loadItems d wd js (s.begun is)) ∧
        ((∀ i ∈ is, (s.begun is).peerOf i = none) →
          exec i s = .next (r.2.writeLanes d wd.regs (r.1.map (fun v => (v.1, { v := wd.value v.2.1 v.2.2, pois := v.2.2 : LaneOut })))))
    (w.val ≠ 7 →
      (∀ y ∈ [(Instr.ldG d w b x, Space.g), (.ldS d w b x, .s), (.ldL d w b x, .l), (.ldC d w b x, .c), (.ldP d w b x, .p)],
        (y.2.pair = true → b.val % 2 = 0) → gives y.1 y.2 (s.spaceAddr y.2 b x) (widthOf w.val)) ∧
      (b.val % 2 = 0 → (∀ l ∈ lanesOf s.exec, s.srcPois 2 (vecBase b) l = false) →
        gives (.ldx d w b x) .g (s.vecAddr b x) (widthOf w.val))) ∧
    (w.val < 5 → (s.et = 6 ∨ s.et = 7) → ((spaceOf w.val).pair = true → b.val % 2 = 0) →
      gives (.ild d w b x) (spaceOf w.val) (s.spaceAddr (spaceOf w.val) b x)
        (if s.et = 7 then { bytes := 16, regs := 4 } else { bytes := 8, regs := 2 }))

/-- Loads from local memory (R73, R76, R174, R272): while no write of another path is in doubt, every lane takes the bytes that
local memory holds at its address; local memory, storage and every other register are as they were. -/
def Obligations.LocalLoads : Prop :=
  ∀ (d x : Operand) (w : Fin 8) (b : Fin 32) (s : State), s.wordsOk .plain → w.val ≠ 7 → dstBad (widthOf w.val).regs d = false →
    s.srcBad 1 x = false → (∀ l ∈ lanesOf s.exec, s.srcPois 1 x l = false) →
    (∀ e ∈ s.older, e.known 0 s.wave.id = true) →
    let wd := widthOf w.val
    let addr (l : Nat) : Nat := ((s.xreg b.val).toNat + s.int x l) % 2 ^ 32
    let bad (l : Nat) : Bool := corePois s.wg.lpois (addr l) wd.bytes
    (∀ l ∈ runLanes d s.exec, addr l % wd.bytes = 0 ∧ addr l + wd.bytes ≤ s.wg.localBytes ∧ (d.isV = true ∨ bad l = false)) →
    ∃ t, exec (.ldL d w b x) s = .next t ∧
      Wrote s t d wd.regs (runLanes d s.exec)
        (fun l => if bad l then 0
          else if wd.sgn then unsigned 32 (signed (8 * wd.bytes) (natOfBytes (SMap.getList 0 (addr l) wd.bytes s.wg.lmem)))
          else natOfBytes (SMap.getList 0 (addr l) wd.bytes s.wg.lmem)) bad ∧
      t.wg.lmem = s.wg.lmem ∧ t.wg.lpois = s.wg.lpois ∧ t.mem = s.mem ∧ t.wave.gens = s.wave.gens ∧ t.others = s.others ∧ t.wgs = s.wgs

/-- Stores (R174, R272 to R275, R281): with every lane's access in order and no poison in data or address, the lanes store
in ascending order, each the low bytes of its data at its own address; no register is written. -/
def Obligations.Stores : Prop :=
  ∀ (d x : Operand) (w : Fin 8) (b : Fin 32) (is : List Item) (s : State), s.srcBad 1 x = false →
    (∀ l ∈ lanesOf s.exec, s.srcPois 1 x l = false) →
    let ls := runLanes d s.exec
    let puts (i : Instr) (sp : Space) (addr : Nat → Nat) (wd : Width) (data : Nat → Nat) : Prop :=
      s.srcBad wd.regs d = false → (∀ l ∈ lanesOf s.exec, s.srcPois wd.regs d l = false) →
      s.accesses (ls.map (fun l => s.judgeLane sp .write wd.bytes l (addr l) wd.bytes)) is →
        let js := s.sharedItems is
        exec i s = .next (js.foldl (fun t i => t.writeItem i (bytesOf wd.bytes (data i.lane))) ((s.begun is).askUnit partMask js))
    (w.val ≠ 7 → (widthOf w.val).sgn = false →
      (∀ y ∈ [(Instr.stG d w b x, Space.g), (.stS d w b x, .s), (.stL d w b x, .l), (.stC d w b x, .c), (.stP d w b x, .p)],
        (y.2.pair = true → b.val % 2 = 0) →
        puts y.1 y.2 (s.spaceAddr y.2 b x) (widthOf w.val) (s.dataOf d (widthOf w.val))) ∧
      (b.val % 2 = 0 → (∀ l ∈ lanesOf s.exec, s.srcPois 2 (vecBase b) l = false) →
        puts (.stx d w b x) .g (s.vecAddr b x) (widthOf w.val) (s.dataOf d (widthOf w.val)))) ∧
    (w.val < 5 → (s.et = 6 ∨ s.et = 7) → ((spaceOf w.val).pair = true → b.val % 2 = 0) →
      puts (.ist d w b x) (spaceOf w.val) (s.spaceAddr (spaceOf w.val) b x)
        (if s.et = 7 then { bytes := 16, regs := 4 } else { bytes := 8, regs := 2 }) (s.src (if s.et = 7 then .if64 else .if32) d))

/-- Stores to local memory (R73, R76, R174, R272): every byte of local memory that no lane's access covers is as it was, and a byte
that accesses cover is that of the highest such lane; storage and every register are as they were. -/
def Obligations.LocalStores : Prop :=
  ∀ (d x : Operand) (w : Fin 8) (b : Fin 32) (s : State), s.wordsOk .plain → s.focus = true → (∀ g ∈ s.wgs, g.id ≠ s.wg.id) →
    w.val ≠ 7 → (widthOf w.val).sgn = false → s.srcBad (widthOf w.val).regs d = false → s.srcBad 1 x = false →
    (∀ l ∈ lanesOf s.exec, s.srcPois 1 x l = false ∧ s.srcPois (widthOf w.val).regs d l = false) →
    let n := (widthOf w.val).bytes
    let addr (l : Nat) : Nat := ((s.xreg b.val).toNat + s.int x l) % 2 ^ 32
    (∀ l ∈ runLanes d s.exec, addr l % n = 0 ∧ addr l + n ≤ s.wg.localBytes) →
    ∃ t, exec (.stL d w b x) s = .next t ∧
      (∀ a, SMap.get 0 a t.wg.lmem = (runLanes d s.exec).foldl (fun v l =>
        if addr l ≤ a ∧ a < addr l + n then BitVec.ofNat 8 (s.dataOf d (widthOf w.val) l / 2 ^ (8 * (a - addr l))) else v)
        (SMap.get 0 a s.wg.lmem)) ∧
      t.mem = s.mem ∧ t.wgs = s.wgs ∧ t.others = s.others ∧ SameV s t ∧ t.wave.xregs = s.wave.xregs ∧
      t.wave.preds = s.wave.preds ∧ t.wave.gens = s.wave.gens

/-- Accesses that are not in order trap (R272, R409): of a local load or store whose words and operands are in order, 0x07 in
every lane whose address is not aligned to the width; with all aligned, 0x0B in every lane that reaches beyond the
workgroup's local memory. No lane's access takes effect. -/
def Obligations.LocalAccessTraps : Prop :=
  ∀ (d x : Operand) (w : Fin 8) (b : Fin 32) (s : State), s.wordsOk .plain → w.val ≠ 7 → (widthOf w.val).sgn = false →
    d.isV = true → d.aligned (widthOf w.val).regs = true → s.srcBad 1 x = false →
    (∀ l ∈ lanesOf s.exec, s.srcPois 1 x l = false ∧ s.srcPois (widthOf w.val).regs d l = false) →
    let n := (widthOf w.val).bytes
    let addr (l : Nat) : Nat := ((s.xreg b.val).toNat + s.int x l) % 2 ^ 32
    ∀ i ∈ [Instr.ldL d w b x, .stL d w b x],
      ((∃ l ∈ lanesOf s.exec, addr l % n ≠ 0) → ∃ c : Cond, c.code = 0x07 ∧
        (∀ l, l < 32 → (c.lanes.getLsbD l = true ↔ l ∈ lanesOf s.exec ∧ addr l % n ≠ 0)) ∧ exec i s = .next (s.takeTrap s.exec c)) ∧
      ((∀ l ∈ lanesOf s.exec, addr l % n = 0) → (∃ l ∈ lanesOf s.exec, s.wg.localBytes < addr l + n) → ∃ c : Cond, c.code = 0x0B ∧
        (∀ l, l < 32 → (c.lanes.getLsbD l = true ↔ l ∈ lanesOf s.exec ∧ s.wg.localBytes < addr l + n)) ∧
        exec i s = .next (s.takeTrap s.exec c))

/-- A read-modify-write unit completes: `f` gives, for a lane and the old value, the new value or none to leave it, and the
causes it logs; atom and cas then write the old values to the destination, red writes no register (R106, R277). -/
def Sys2Proof.Machine.Exchanged (i : Instr) (s : State) (d : Operand) (n : Nat) (red : Bool) (is : List Item)
    (f : Nat → Nat → Option Nat × List Nat) : Prop :=
  let r := rmwItems red f (s.sharedItems is) ((s.retire .plain).askRmw (s.sharedItems is))
  let outs := r.1.map (fun o => (o.1, { v := o.2.old, pois := o.2.pois, ev := o.2.ev : LaneOut }))
  exec i s = .next ((if red then r.2 else r.2.writeLanes d (n / 4) outs).logLanes s.frag.pc outs)

/-- The same where every access lies in a peer's memory (R117, R278, R279): operation `op` and the operand of `m` registers of
each lane are sent to the peer, in ascending lane order, and red goes on; atom and cas then wait for the old values. -/
def Asked (i : Instr) (s : State) (d : Operand) (n m op : Nat) (red : Bool) (is : List Item) : Prop :=
  let js := s.sharedItems is
  let t := js.foldl (fun t i => t.sendRmw op i (bytesOf (4 * m) (s.dataOf d { bytes := 4 * m, regs := m } i.lane)))
    (s.retire .plain)
  exec i s = .next (if red then t
    else t.takeLanes d { bytes := n, regs := n / 4 } true (js.filter (fun i => (t.peerOf i).isSome)) [])

/-- Atomics (R106, R117, R277 to R279): each lane of the execution mask is an event of its own, in ascending order, on the latest
value; the new value is that of the operation, in the operand's width, signed under s32 and s64. cas writes its new value where
the old one equals its compare value. A peer performs the operation on its own memory. -/
def Obligations.Atomics : Prop :=
  ∀ (d x : Operand) (q : Bool) (b : Fin 32) (is : List Item) (s : State), s.srcBad 1 x = false → b.val % 2 = 0 →
    let ls := runLanes d s.exec
    let n := if q then 8 else 4
    let fits (regs : Nat) (red : Bool) : Prop :=
      (if red then s.srcBad regs d else dstBad regs d) = false ∧
      (∀ l ∈ lanesOf s.exec, s.srcPois 1 x l = false ∧ s.srcPois regs d l = false) ∧
      s.accesses (ls.map (fun l => s.judgeRmw n l (s.baseAddr b x l) n)) is
    let near (red : Bool) : Prop := ∀ i ∈ is, s.peerSpot i = none ∧ (d.isV = true ∨ red = true ∨ (s.homeItem i).2 = false)
    let far : Prop := ∀ i ∈ is, (s.peerOf i).isSome = true
    let v (l : Nat) : Nat := s.dataOf d { bytes := n, regs := n / 4 } l
    let val (y : Nat) : Int := if s.et = 1 ∨ s.et = 3 then signed (8 * n) y else y
    let does (i : Instr) (red : Bool) (f : Nat → Nat → Nat) : Prop :=
      fits (n / 4) red → near red → Exchanged i s d n red is (fun l old => (some (f old (v l)), []))
    (etOk s.et = true → s.et ≠ 6 → s.et ≠ 7 →
      (∀ y ∈ [(Instr.atomAdd d q b x, false), (.redAdd d q b x, true)], does y.1 y.2 (fun old v => (old + v) % 2 ^ (8 * n))) ∧
      (∀ y ∈ [(Instr.atomMin d q b x, false), (.redMin d q b x, true)], does y.1 y.2 (fun old v => if val v < val old then v else old)) ∧
      (∀ y ∈ [(Instr.atomMax d q b x, false), (.redMax d q b x, true)], does y.1 y.2 (fun old v => if val old < val v then v else old)) ∧
      (∀ y ∈ [(Instr.atomInc d q b x, false), (.redInc d q b x, true)], does y.1 y.2 (fun old v => if v ≤ old then 0 else old + 1)) ∧
      (∀ y ∈ [(Instr.atomDec d q b x, false), (.redDec d q b x, true)],
        does y.1 y.2 (fun old v => if old = 0 ∨ v < old then v else old - 1))) ∧
    (∀ y ∈ [(Instr.atomAnd d q b x, false), (.redAnd d q b x, true)], does y.1 y.2 (fun old v => old &&& v)) ∧
    (∀ y ∈ [(Instr.atomOr d q b x, false), (.redOr d q b x, true)], does y.1 y.2 (fun old v => old ||| v)) ∧
    (∀ y ∈ [(Instr.atomXor d q b x, false), (.redXor d q b x, true)], does y.1 y.2 (fun old v => old ^^^ v)) ∧
    (∀ y ∈ [(Instr.atomExch d q b x, false), (.redExch d q b x, true)], does y.1 y.2 (fun _ v => v)) ∧
    ((if q then s.et = 5 else s.et = 4 ∨ s.et = 8 ∨ s.et = 9) →
      ∀ y ∈ [(Instr.atomFadd d q b x, false), (.redFadd d q b x, true)], fits (n / 4) y.2 → near y.2 →
        Exchanged y.1 s d n y.2 is (fun l old =>
          let r := atomFadd s.et old (s.src (if q then .f64 else (floatShape s.et).getD .f32) d l)
          (some r.1, r.2))) ∧
    (fits (n / 2) false → near false → Exchanged (.cas d q b x) s d n false is (fun l old =>
      let cv := s.dataOf d { bytes := 2 * n, regs := n / 2 } l
      (if old = cv % 2 ^ (8 * n) then some (cv / 2 ^ (8 * n)) else none, []))) ∧
    (far → fits (n / 2) false → Asked (.cas d q b x) s d n (n / 2) 0x99 false is) ∧
    (far → ∀ y ∈ [(Instr.atomAnd d q b x, 0x93, false), (.redAnd d q b x, 0x93, true), (.atomOr d q b x, 0x94, false),
        (.redOr d q b x, 0x94, true), (.atomXor d q b x, 0x95, false), (.redXor d q b x, 0x95, true),
        (.atomExch d q b x, 0x96, false), (.redExch d q b x, 0x96, true)],
      fits (n / 4) y.2.2 → Asked y.1 s d n (n / 4) y.2.1 y.2.2 is) ∧
    (far → etOk s.et = true → s.et ≠ 6 → s.et ≠ 7 →
      ∀ y ∈ [(Instr.atomAdd d q b x, 0x8F, false), (.redAdd d q b x, 0x8F, true), (.atomMin d q b x, 0x91, false),
        (.redMin d q b x, 0x91, true), (.atomMax d q b x, 0x92, false), (.redMax d q b x, 0x92, true),
        (.atomInc d q b x, 0x97, false), (.redInc d q b x, 0x97, true), (.atomDec d q b x, 0x98, false),
        (.redDec d q b x, 0x98, true)],
      fits (n / 4) y.2.2 → Asked y.1 s d n (n / 4) (y.2.1 + 256 * s.et) y.2.2 is) ∧
    (far → (if q then s.et = 5 else s.et = 4 ∨ s.et = 8 ∨ s.et = 9) →
      ∀ y ∈ [(Instr.atomFadd d q b x, false), (.redFadd d q b x, true)], fits (n / 4) y.2 →
        Asked y.1 s d n (n / 4) (0x90 + 256 * s.et) y.2 is)

/-- Futures and prefetch (R276, R280, R281): ldf outside a handler waits on its cells in every lane and takes them when all
are full; stf stores its low 63 bits with the full bit set; prf makes no access and only moves lines. -/
def Obligations.FuturesAndPrefetch : Prop :=
  ∀ (d x : Operand) (w : Fin 8) (b : Fin 32) (is : List Item) (s : State), s.srcBad 1 x = false → b.val % 2 = 0 → s.exec ≠ 0 →
    (dstBad 2 d = false → s.wave.hx = none → (∀ l ∈ lanesOf s.exec, s.srcPois 1 x l = false) →
      s.accesses ((runLanes d s.exec).map (fun l => s.judgeLane .g .read 8 l (s.baseAddr b x l) 8)) is →
      (∀ i ∈ is, s.peerSpot i = none ∧ (d.isV = true ∨ (s.homeItem i).2 = false)) →
      exec (.ldf d b x) s = .next ((s.retire .plain).beginWait s.frag.pc (.future d.code
        ((runLanes d s.exec).map (fun l => { lane := l, addr := BitVec.ofNat 56 (s.baseAddr b x l) }))))) ∧
    (dstBad 2 d = false → (∀ l ∈ lanesOf s.exec, s.srcPois 1 x l = false ∧ s.srcPois 2 d l = false) →
      s.accesses ((lanesOf s.exec).map (fun l => s.judgeLane .g .write 8 l (s.baseAddr b x l) 8)) is →
      exec (.stf d b x) s = .next ((s.sharedItems is).foldl (fun t i => t.writeItem i (bytesOf 8
        (s.dataOf d { bytes := 8, regs := 2 } i.lane % 2 ^ 63 + 2 ^ 63))) ((s.retire .plain).askUnit partMask (s.sharedItems is)))) ∧
    (s.wordsOk .plain → w.val < 3 → exec (.prf w b x) s = .next (((lanesOf s.exec).filter (fun l => !s.srcPois 1 x l)).foldl
      (fun t l => t.prefetch w.val l (s.baseAddr b x l)) (s.retire .plain)))

/-! ### Engines -/

/-- What posts from a descriptor of `n` bytes is in order (R283, R297): its words and operand are, and the descriptor, with
the other blocks `more`, lies aligned and unpoisoned in local memory. -/
def Sys2Proof.Machine.State.describes (s : State) (a : Operand) (n : Nat) (more : List (Nat × Nat)) : Prop :=
  s.wordsOk .plain ∧ s.exec ≠ 0 ∧ s.srcBad 1 a = false ∧ s.cleanCond [(1, a)] = [] ∧
    ∀ x ∈ (s.lowInt a, n) :: more, x.1 % x.2 = 0 ∧ x.1 + x.2 ≤ s.wg.localBytes ∧ corePois s.wg.lpois x.1 x.2 = false

/-- The descriptor's bytes as path v observes them. -/
def Sys2Proof.Machine.State.descriptor (s : State) (a : Operand) (n : Nat) : List Byte :=
  (s.localBytes s.wg 0 s.wave.id (s.lowInt a) n).1

/-- The state after the unit has retired and read its descriptor and the other blocks, each as one path-v access (R114). -/
def Sys2Proof.Machine.State.reads (s : State) (a : Operand) (n : Nat) (more : List (Nat × Nat)) : State :=
  ((s.lowInt a, n) :: more).foldl (fun t x => (t.readItem (s.descItem x.1 x.2)).2) (s.retire .plain)

/-- Copies are posted (R282 to R287): while the partition owns a copy engine and COPYQ has room, a descriptor that no check
fails becomes a command of its kind in the wave's open batch, a migration where it says so; cpy.mc names its receivers, and
cpy.then carries its follow-on block. A full queue makes the post wait: no command is posted, and the fragment is to issue
the unit again, parked where COPYQ is full, outside a handler, and blocked where the core's matrix queue is (R283, R297,
R306, R460). -/
def Obligations.CopiesPosted : Prop :=
  (∀ (a b : Operand) (s : State), 0 < s.copyqOf s.wg → s.copyqFull s.wg = false →
     let d := s.descriptor a 64
     let t := s.reads a 64 []
     (s.describes a 64 [] → s.copyCodes s.wg .cpy d = [] → exec (.cpy a) s = .next (t.post
       (t.newCmd s.frag.pc (if (CopyDesc.ofBytes d).mig then .migrate else .cpy) d))) ∧
     (s.describes a 64 [] → s.copyCodes s.wg .cpyCol d = [] → exec (.cpyCol a) s = .next (t.post (t.newCmd s.frag.pc .cpyCol d))) ∧
     (s.describes a 64 [] → s.copyCodes s.wg .cpyMc d = [] → exec (.cpyMc a) s = .next (t.post
       { t.newCmd s.frag.pc .cpyMc d with args := ((t.receivers t.wg (CopyDesc.ofBytes d).mask).filterMap id).map (·.id) })) ∧
     (let k := s.lowInt b
      let block := (s.localBytes s.wg 0 s.wave.id k 32).1
      s.describes a 64 [(k, 32)] → s.srcBad 1 b = false → s.cleanCond [(1, b)] = [] → s.copyCodes s.wg .cpyThen d = [] →
        s.blockCodes s.wg true block (.ofBytes block true 0 0 false false) = [] →
        exec (.cpyThen a b) s = .next ((s.reads a 64 [(k, 32)]).post
          { (s.reads a 64 [(k, 32)]).newCmd s.frag.pc .cpyThen d with follow := block }))) ∧
  (∀ (n : Fin 4) (a b : Operand) (s : State),
     let waits (i : Instr) (how : Status) : Prop := ∃ t, exec i s = .next t ∧ t.cmds = s.cmds ∧ t.matq = s.matq ∧ t.frag.status = how ∧
       t.frag.wait = some .again ∧ t.frag.pc = s.frag.pc ∧ t.mem = s.mem ∧ t.wave = s.wave ∧ t.wg = s.wg
     (s.wave.hx = none → 0 < s.copyqOf s.wg → s.copyqFull s.wg = true →
       (s.describes a 64 [] → ∀ x ∈ [(Instr.cpy a, CmdKind.cpy), (.cpyCol a, .cpyCol), (.cpyMc a, .cpyMc)],
         s.copyCodes s.wg x.2 (s.descriptor a 64) = [] → waits x.1 .waiting) ∧
       (let k := s.lowInt b
        let block := (s.localBytes s.wg 0 s.wave.id k 32).1
        s.describes a 64 [(k, 32)] → s.srcBad 1 b = false → s.cleanCond [(1, b)] = [] → s.copyCodes s.wg .cpyThen (s.descriptor a 64) = [] →
          s.blockCodes s.wg true block (.ofBytes block true 0 0 false false) = [] → waits (.cpyThen a b) .waiting) ∧
       (s.describes a 128 [] → (MmatDesc.ofBytes (s.descriptor a 128)).codes s.wg (s.descriptor a 128) = [] → waits (.mmat a) .waiting)) ∧
     (s.matqFull = true →
       (a.isV = true → s.voteCond a fmtOk = [] → s.describes b 32 [] →
         ∀ x ∈ [(Instr.mma n a b, CmdKind.mma), (.mmaB n a b, .mmaB)],
           s.blockCodes s.wg false (s.descriptor b 32)
             (.ofBytes (s.descriptor b 32) false n.val (s.lowInt a) (x.2 == .mmaB) s.flushBit) = [] → waits x.1 .blocked) ∧
       (s.describes a 128 [] → 0 < s.copyqOf s.wg → s.copyqFull s.wg = false →
         (MmatDesc.ofBytes (s.descriptor a 128)).codes s.wg (s.descriptor a 128) = [] → waits (.mmat a) .blocked)))

/-- Batches and slots (R286, R289): seal closes the wave's open batch and gives its number while fewer than sixteen stay
incomplete; bwait k waits until every batch but the last k is complete; slot.free adds to the freed slots. -/
def Obligations.BatchesAndSlots : Prop :=
  ∀ (d a : Operand) (k : Fin 16) (s : State), s.wordsOk .plain → s.exec ≠ 0 →
    (dstBad 1 d = false → (s.openBatches s.wave.id).length < 16 →
      ∃ u t, Writes (.next u) s d 1 (runLanes d s.exec) (fun _ => s.wave.batch % 256) (fun _ => false) ∧
        exec (.sealBatch d) s = .next t ∧ t = { u with wave := { u.wave with batch := s.wave.batch + 1 } }) ∧
    (s.wave.hx = none → exec (.bwait k) s =
      .next ((s.retire .plain).beginWait s.frag.pc (.batch (s.wave.batch - k.val)))) ∧
    (s.srcBad 1 a = false → s.cleanCond [(1, a)] = [] → s.lowInt a ≤ 15 → s.wg.fsc + s.lowInt a ≤ 15 →
      let t := (s.retire .plain).markSeen (fun e => e.path == 0 || e.path == 3) 2 (some s.wave.id)
      exec (.slotFree a) s = .next { t with wg := { t.wg with
        fsc := s.wg.fsc + s.lowInt a
        frees := if s.lowInt a = 0 then t.wg.frees else t.wg.frees ++ [(t.nextId, s.lowInt a)] } })

/-- Transaction barriers (R291, R292): init sets CNT and DUE; expect adds to PEND and arrive takes one from DUE, and the phase
completes when both are zero; arrive gives the phase it arrived in; wait waits while the phase is the one named. -/
def Obligations.TransactionBarriers : Prop :=
  ∀ (d a b : Operand) (s : State), s.wordsOk .plain → s.exec ≠ 0 → s.srcBad 1 a = false → s.cleanCond [(1, a)] = [] →
    s.lowInt a % 8 = 0 → s.wg.tbarIn (s.lowInt a) = true → (s.tbarAt (s.lowInt a)).2 = false →
    let p := s.lowInt a
    let x := (s.tbarAt p).1
    let n := s.lowInt b
    let r := s.retire .plain
    let done (y : Tbar) : Tbar := if y.due = 0 ∧ y.pend = 0 then { y with phase := !y.phase, due := y.cnt } else y
    (dstBad 1 d = false → x.due ≠ 0 →
      exec (.tbarArrive d a) s = .next ((r.putTbar p (done { x with due := x.due - 1 })).putAll d s.exec (if x.phase then 1 else 0))) ∧
    (s.srcBad 1 b = false → s.cleanCond [(1, b)] = [] →
      (1 ≤ n → n ≤ 255 → exec (.tbarInit a b) s = .next (r.putTbar p { phase := false, cnt := n, due := n, pend := 0 })) ∧
      (n < 2 ^ 27 → x.pend + n < 2 ^ 27 → exec (.tbarExpect a b) s = .next (r.putTbar p (done { x with pend := x.pend + n }))) ∧
      (s.wave.hx = none → x.cnt ≠ 0 →
        exec (.tbarWait a b) s = .next (r.beginWait s.frag.pc (.tbar p (decide (n % 2 = 1))))))

/-- Fences (R110, R111, R294): while a fence is not of path v with itself nor its before set of path i, the after set observes
the before set and the fragment blocks until it completes; with no lane a fence has no effect. -/
def Obligations.Fences : Prop :=
  ∀ (p q : Fin 8) (wave slot : Nat) (s : State), s.wordsOk .plain →
    (s.exec ≠ 0 → (p.val ≠ 0 ∨ q.val ≠ 0) → p.val ≠ 1 →
      exec (.fenceX p q) s = .next (((s.retire .plain).fence s.wave.core p.val q.val s.wave.id).block s.frag.pc (.fence p.val q.val false))) ∧
    (s.exec ≠ 0 → (p.val = 0 ∧ q.val = 0) ∨ p.val = 1 → exec (.fenceX p q) s = .next (s.retire .plain)) ∧
    (s.exec ≠ 0 → exec .fenceH s = .next ((s.retire .plain).block s.frag.pc (.fence 7 7 true))) ∧
    (s.exec = 0 → ∀ i ∈ [Instr.fenceX p q, .fenceH], exec i s = .next (s.retire .plain)) ∧
    exec (.fenceComplete wave slot) s = .next (s.wakeIf (fun w f => w.id == wave && f.slot == slot && (match f.wait with
      | some (.fence p _ whole) => s.fenceReady wave p whole
      | _ => false)))

/-- Spill and fill (R100, R101, R295): spl stores the image of the registers from d on, each in its smallest form, piece by
piece in ascending address; fil reads such an image back and gives every lane of the execution mask what its form restores. -/
def Obligations.SpillAndFill : Prop :=
  ∀ (d a b : Operand) (l : Nat) (is js ss : List Item) (s : State), s.wordsOk .plain → s.spillConds d a b (s.lowInt a) = [] →
    lowest s.exec = some l → s.addr56 b l % 16 = 0 → (∀ i ∈ is ++ js, s.heldItem i = false) →
    let n := s.lowInt a
    let va := s.addr56 b l
    (let image := spillImage s.wave.present ((List.range n).map (fun i => (List.range 32).map (fun k =>
        if s.wave.present.getLsbD k then (s.vreg (d.num + i) k).toNat else 0)))
     (∀ k ∈ lanesOf s.wave.present, ∀ i < n, s.vpoison (d.num + i) k = false) → s.runItems .write l va image.length = is.map .ok →
       exec (.spl d a b) s = .next (((s.sharedItems is).zip (pieces va image.length)).foldl
         (fun t x => t.writeItem x.1 ((image.drop x.2.2.1).take x.2.2.2)) ((s.begun is).askUnit partMask (s.sharedItems is)))) ∧
    (let head := ceilDiv n 16 * 16
     let codes := ((readRun ss s).1.take n).map (fun x => x.1.toNat)
     s.runItems .read l va head = is.map .ok → s.sectorItems .read l va head = ss.map .ok → (∀ x ∈ (readRun ss s).1, x.2 = false) → (∀ c ∈ codes, c ≤ 5) →
       s.runItems .read l (va + head) ((codes.map spillSize).foldl (· + ·) 0) = js.map .ok →
       let r := readRun (s.sharedItems (is ++ js)) (s.begun (is ++ js))
       exec (.fil d a b) s = .next ((spillOffsets head codes).zipIdx.foldl (fun t x =>
         let p := slice (r.1.map (·.1)) x.1.2 (spillSize x.1.1)
         let bad := ((r.1.drop x.1.2).take (spillSize x.1.1)).any (·.2)
         (lanesOf s.exec).foldl (fun t k => t.setV (d.num + x.2) k 1 (spillLane x.1.1 p k) bad) t) r.2))

/-- What spl stores of a register, fil gives back in every present lane (R100, R101). -/
def Obligations.SpillRestores : Prop :=
  ∀ (present : LaneMask) (vals : List Nat) (l : Nat), vals.length = 32 → (∀ v ∈ vals, v < 2 ^ 32) →
    (∀ k, k < 32 → present.getLsbD k = false → vals.getD k 0 = 0) → l ∈ lanesOf present →
    let f := spillForm present vals
    f.2.length = spillSize f.1 ∧ spillLane f.1 f.2 l = vals.getD l 0

/-- Matrix commands are posted (R299, R301, R306 to R308, R314): with every lane agreed on a legal format word and a block, or a
descriptor, that no check fails, and room in the queues, the command joins its core's matrix queue with its operands. -/
def Obligations.MatrixPosted : Prop :=
  ∀ (n : Fin 4) (a b : Operand) (s : State), s.matqFull = false →
    (a.isV = true → s.voteCond a fmtOk = [] → s.describes b 32 [] →
      let word := s.lowInt a
      let d := s.descriptor b 32
      let t := s.reads b 32 []
      ∀ x ∈ [(Instr.mma n a b, CmdKind.mma), (.mmaB n a b, .mmaB)],
        s.blockCodes s.wg false d (.ofBytes d false n.val word (x.2 == .mmaB) s.flushBit) = [] →
        exec x.1 s = .next (t.postMatrix { t.newCmd s.frag.pc x.2 d with args := [n.val, word, if s.flushBit then 1 else 0] })) ∧
    (s.describes a 128 [] → 0 < s.copyqOf s.wg → s.copyqFull s.wg = false →
      let d := s.descriptor a 128
      let t := s.reads a 128 []
      (MmatDesc.ofBytes d).codes s.wg d = [] → exec (.mmat a) s = .next (t.postMatrix (t.newCmd s.frag.pc .mmat d)))

/-- Accumulators (R310 to R312): for a tile below ACCUM, acc.swap exchanges its banks once no older entry works on it,
acc.zero posts an entry, acc.zero.v clears the view bank, acc.rd reads rows of it into registers and acc.wr writes
them. -/
def Obligations.Accumulators : Prop :=
  ∀ (n r : Fin 4) (d a : Operand) (s : State), s.wordsOk .plain → s.exec ≠ 0 → n.val < s.wg.accum →
    let t := s.retire .plain
    let k := r.val + 1
    (t.entryBefore t.wg n.val t.nextId = false → exec (.accSwap n) s = .next { t with wg := t.wg.swapTile n.val }) ∧
    (t.entryBefore t.wg n.val t.nextId = true → exec (.accSwap n) s = .next (State.block
      { t with nextId := t.nextId + 1, wg := { t.wg with swaps := t.wg.swaps ++ [(t.nextId, n.val)] } } s.frag.pc (.swap t.nextId))) ∧
    (s.matqFull = false → exec (.accZero n) s = .next (t.postMatrix { t.newCmd s.frag.pc .accZero [] with args := [n.val] })) ∧
    exec (.accZeroV n) s = .next { t with wg := t.wg.clearBank 0 n.val } ∧
    (d.isV = true → d.num + 4 * k ≤ 128 → s.srcBad 1 a = false → s.lowCond 1 a = [] → s.lowInt a + k ≤ 128 →
      (∃ u, exec (.accRd d a r n) s = .next u ∧ Retired .plain s u ∧ u.wave.xregs = s.wave.xregs ∧
        u.wave.preds = s.wave.preds ∧ u.wave.gens = s.wave.gens ∧
        ∀ q l, l < 32 → u.vreg q l = if l ∈ lanesOf s.exec ∧ d.num ≤ q ∧ q < d.num + 4 * k then
            SMap.get 0 (128 * s.lowInt a + 32 * (q - d.num) + l) (s.wg.bankOfTile 0 n.val) else s.vreg q l) ∧
      ((∀ l ∈ lanesOf s.exec, ∀ q, q < 4 * k → s.vpoison (d.num + q) l = false) →
        exec (.accWr d a r n) s = .next { t with wg := t.wg.putBankOfTile 0 n.val ((List.range (4 * k)).foldl (fun m q =>
          (lanesOf s.exec).foldl (fun m l => SMap.set 0 (128 * s.lowInt a + 32 * q + l) (s.vreg (d.num + q) l) m) m)
            (t.wg.bankOfTile 0 n.val)) }))

/-- Tiles in registers (R141, R142, R147, R223, R300, R317 to R320). tld and tld.t read a tile's sectors and its header at one
timestamp into the payload registers and the header register d + m: its lane 0 takes the scale, lanes 1 and 2 the row and
column words, exchanged by tld.t, and the other lanes zero; no other register changes, and no lane outside the execution mask.
tst stores a tile and its header at one timestamp; tscale scales 256 values into a tile, with its header in d + m; in both, an
absent lane gives zero without poison (log entry 41, the model's reading). fmtv gives the word that every lane agrees on and,
in p15, whether they do. -/
def Obligations.Tiles : Prop :=
  ∀ (d a x : Operand) (w : Fin 8) (b f : Fin 32) (is : List Item) (s : State), s.wordsOk .plain → s.exec ≠ 0 →
    let word (r l : Nat) : Nat := if s.wave.present.getLsbD l then (s.vreg r l).toNat else 0
    let clean (r l : Nat) : Prop := s.wave.present.getLsbD l = true → s.vpoison r l = false
    let keeps (m : Nat) (v t : State) : Prop :=
      ∀ q l, l < 32 → (l ∉ lanesOf s.exec ∨ q < d.num ∨ d.num + m < q) → t.vreg q l = v.vreg q l ∧ t.vpoison q l = v.vpoison q l
    (s.tileConds d w.val b x = [] → (∀ i ∈ is, s.heldItem i = false) →
      let n := classBits_ w.val
      let m := classRegs w.val
      (s.tileItems .read w.val b x = is.map .ok →
        let r := readRunTogether (s.sharedItems is) (s.begun is)
        ∀ y ∈ [(Instr.tld d w b x, false), (.tldT d w b x, true)], ∃ t, exec y.1 s = .next t ∧
          t = { r.2 with wave := { r.2.wave with vregs := t.wave.vregs, vpois := t.wave.vpois } } ∧ keeps m r.2 t ∧
          ((∀ z ∈ r.1, z.2 = false) →
            let run := natOfBytes ((r.1.take (32 * n)).map (·.1))
            let h := (r.1.drop (32 * n)).map (·.1)
            let out := bytesOf (32 * n) (((List.range 256).map (fun k => field run (n * tileSource y.2 k) n)).foldr (fun e v => e + 2 ^ n * v) 0)
            ∀ l ∈ lanesOf s.exec, (∀ q, q < m → (t.vreg (d.num + q) l).toNat = natAt out (128 * q + 4 * l) 4) ∧
              (t.vreg (d.num + m) l).toNat =
                [natAt h 0 2, natAt h (if y.2 then 6 else 2) 4, natAt h (if y.2 then 2 else 6) 4].getD l 0 ∧
              ∀ q, q ≤ m → t.vpoison (d.num + q) l = false)) ∧
      (s.tileItems .write w.val b x = is.map .ok →
        (∀ l, l < 32 → (∀ q, q < m → clean (d.num + q) l) ∧ (l < 3 → clean (d.num + m) l)) →
        let pay := (List.range m).flatMap (fun q => (List.range 32).flatMap (fun l => bytesOf 4 (word (d.num + q) l)))
        let h (l : Nat) : Nat := word (d.num + m) l
        let image := pay.take (32 * n) ++ bytesOf 2 (h 0) ++ bytesOf 4 (h 1) ++ bytesOf 4 (h 2) ++ List.replicate 6 0
        exec (.tst d w b x) s = .next ((s.begun is).writeTogether
          ((s.sharedItems is).zipIdx.map (fun i => (i.1, (image.drop (16 * i.2)).take 16)))))) ∧
    (let n := fmtBits f.val
     let m := if n = 4 then 1 else 2
     s.et = 4 → s.rnd < 6 → fmtTiled f.val = true → d.isV = true → d.num + m + 1 ≤ 128 → a.isV = true → a.num + 8 ≤ 128 →
       let t := requant f.val s.rnd s.flushBit
         ((List.range 256).map (fun k => s.mode.read .f32 (word (a.num + k / 32) (k % 32))))
         ((List.range 256).map (fun k => if s.rnd = 5 then (drawSteps (s.gen (k % 32)) 8).1.getD (k / 32) 0 else 0))
       ∃ u, exec (.tscale d a f) s =
           .next (u.logLanes s.frag.pc (t.elems.zipIdx.map (fun e => (e.2 % 32, { ev := e.1.ev : LaneOut })))) ∧
         Retired .plain s u ∧ u.wave.xregs = s.wave.xregs ∧ u.wave.preds = s.wave.preds ∧ keeps m s u ∧
         (∀ l, l < 32 → u.gen l =
           if s.rnd = 5 ∧ l ∈ lanesOf s.wave.present then (drawSteps (s.gen l) 8).2 else s.gen l) ∧
         ((∀ r, r < 8 → ∀ l, l < 32 → clean (a.num + r) l) →
           let pay := bytesOf (32 * n) (t.elems.foldr (fun e v => e.bits + 2 ^ n * v) 0)
           ∀ l ∈ lanesOf s.exec, (∀ q, q < m → (u.vreg (d.num + q) l).toNat = natAt pay (128 * q + 4 * l) 4) ∧
             u.vreg (d.num + m) l = BitVec.ofNat 32 ([t.s + 256 * f.val, t.rho, t.gam].getD l 0) ∧
             ∀ q, q ≤ m → u.vpoison (d.num + q) l = false)) ∧
    (d.isReg = true → a.isV = true → s.cleanCond [(1, a)] = [] →
      let agree := (s.voteCond a fmtOk).isEmpty
      ∃ u t, Writes (.next u) s d 1 (runLanes d s.exec) (fun _ => if agree then s.lowInt a else 0xFFFFFFFF) (fun _ => false) ∧
        exec (.fmtv d a) s = .next t ∧ t = { u with wave := { u.wave with preds := t.wave.preds } } ∧
        WroteP u t 15 (lanesOf s.exec) (fun _ => if agree then .t else .f))

/-- Rings of boxes (R264 to R267): with a legal ring in local memory, ibis bisects as many lanes as the ring has room for,
pushes the upper halves and keeps the lower, and itake takes as many records as the ring holds; p15 says which lanes did. -/
def Obligations.Rings : Prop :=
  ∀ (d a b : Operand) (s : State), s.wordsOk .plain → s.exec ≠ 0 → ivlOk s.et = true → dstBad s.fsh.regs d = false →
    s.srcBad 1 a = false → s.ringConds a = [] →
    let f := s.ptFmt
    let n := s.fsh.regs
    let ls := runLanes d s.exec
    let r := s.ringOr a
    let flags (ds : List Nat) (t : State) : State := ls.foldl (fun t l => t.setP 15 l (if ds.contains l then .t else .f)) t
    (let cut := s.bisects d (2 ^ r.log2n - r.held) ls
     s.srcBad 1 b = false → s.emptyCond d (fun l => (s.ivl d l).empty f) (fun _ => false) = [] →
       (∀ x ∈ cut, s.srcPois n d x.1 = false ∧ s.srcPois 1 b x.1 = false) →
       let recs := cut.zipIdx.flatMap (fun x =>
         scratchWrites (r.recAt (r.tail + x.2)) (ringRecord f { lo := x.1.2, hi := (s.ivl d x.1.1).hi } (s.int b x.1.1)))
       let up := if cut.isEmpty then [] else [(scratchItem (r.off + 4) 4, bytesOf 4 (r.tail + cut.length))]
       exec (.ibis d a b) s = .next
         (((flags (cut.map (·.1)) ((s.retire .plain).ringAccess [scratchItem r.off 16] (recs ++ up))).writeLanes d n
           (cut.map (fun x => (x.1, { v := Ivl.raw f { lo := (s.ivl d x.1).lo, hi := x.2 } })))).logLanes s.frag.pc
             (ls.map (fun l => (l, { ev := (s.mode.mid f (s.ivl d l)).ev : LaneOut }))))) ∧
    (let took := ((ls.take r.held).zipIdx).map (fun x => (x.1, s.ringRead r (r.head + x.2)))
     b.isV = true → (∀ x ∈ took, (s.emptyTraps = false ∨ (Ivl.ofRaw f x.2.1).empty f = false) ∧ (d.isV = true ∨ x.2.2.2 = false)) →
       let reads := scratchItem r.off 16 :: took.zipIdx.flatMap (fun x => scratchReads (r.recAt (r.head + x.2)) r.size)
       let up := if took.isEmpty then [] else [(scratchItem r.off 4, bytesOf 4 (r.head + took.length))]
       exec (.itake d a b) s = .next
         (((flags (took.map (·.1)) ((s.retire .plain).ringAccess reads up)).writeLanes d n
           (took.map (fun x => (x.1, { v := x.2.1, pois := x.2.2.2 })))).writeLanes b 1
             (took.map (fun x => (x.1, { v := x.2.2.1, pois := x.2.2.2 })))))

/-- The shading cache from a wave (R336 to R340, R378): with the cache enabled, the context's grant bit, and the keys' objects
readable and admitted, scq looks every lane's texel up and gives those at once or parks; for a workgroup that is not sealed,
scfill writes a row, scinv raises objects' versions and scage ages keys. -/
def Obligations.ShadingUnits : Prop :=
  ∀ (d a b : Operand) (s : State), s.wordsOk .plain → s.exec ≠ 0 → s.scEn s.wg.part = true →
    let grant := s.scGrant s.wg.part s.wg.vf s.wg.ctx
    let t := s.retire .plain
    let obj (l : Nat) : Nat := keyObj (s.addr56 a l)
    (bitAt grant 31 = true → d.isV = true → d.aligned 2 = true → a.isPair = true → s.srcBad 1 b = false → s.scBarred a grant = (0, 0) →
      s.cleanCond [(2, a), (1, b)] = [] → s.scBadRec obj = none →
      let xs : List Texel := (lanesOf s.exec).map (fun l => { lane := l, key := s.addr56 a l, sel := 8 * (s.int b l % 64) })
      let r := State.scAskAll s.wg.part s.wave.id (s.frameOf s.wg) xs (t.frameLoad s.wg.vf s.wg.ctx s.wave.core)
      (r.1.all Texel.done = true → exec (.scq d a b) s = .next (r.2.texelsOut d r.1)) ∧
      (r.1.all Texel.done = false → exec (.scq d a b) s =
        .next ((r.2.park s.frag.pc (.texels d.code grant (s.frameOf s.wg) r.1)).watchLines (texelLines r.1)))) ∧
    (bitAt grant 30 = true → s.grantOf s.wg = none →
      (d.isV = true → d.aligned 4 = true → a.isX = true → a.aligned 2 = true → b.isX = true → b.aligned 2 = true → s.fillPois d = 0 →
        let r := t.scFillRow s.wg.part (s.addr56 a 0) ((s.xreg b.num).toNat % 2 ^ 16) (s.xreg (b.num + 1)).toNat (s.fillBytes d)
        exec (.scfill d a b) s = .next ((lanesOf s.exec).foldl (fun t l => t.setP 15 l (if r.1 then .t else .f)) r.2)) ∧
      (dstBad 1 d = false → s.srcBad 1 a = false → (∀ l ∈ lanesOf s.exec, s.int a l % 2 ^ 24 < s.objN s.wg.part) →
        s.cleanCond [(1, a)] = [] → s.scBadRec (fun l => s.int a l % 2 ^ 24) = none →
        let r := State.scBumps s.wg.part ((runLanes d s.exec).map (fun l => (l, s.int a l % 2 ^ 24))) t
        exec (.scinv d a) s = .next (r.2.writeLanes d 1 r.1)) ∧
      (d.isP = true → a.isPair = true → s.srcBad 1 b = false → (∀ l ∈ lanesOf s.exec, obj l < s.objN s.wg.part) →
        s.cleanCond [(2, a), (1, b)] = [] → s.scBadRec obj = none →
        exec (.scage d a b) s = .next ((lanesOf s.exec).foldl (fun t l =>
          let r := t.scAge s.wg.part s.wave.id (s.addr56 a l) (s.int b l)
          r.2.setP d.num l (if r.1 then .t else .f)) t)))

/-- Sight and attention are posted, and triples joined in registers' place (R342, R343, R346, R354, R363, R364): rast and ray
post with the operands of their units, qpost with its regions on their stack; amerge merges two triples and afin divides one by its
sum, in local memory, read at one timestamp and written at one; a destination that meets a source holds the next unit to an fpt. -/
def Obligations.SightAndAttention : Prop :=
  ∀ (d a b : Operand) (s : State),
    (s.copyqFull s.wg = false →
      (s.describes a 64 [] → rastCodes s.wg.localBytes (s.descriptor a 64) = [] →
        let t := s.reads a 64 []
        exec (.rast a) s = .next (t.post { t.newCmd s.frag.pc .rast (s.descriptor a 64) with args := [s.lowInt a] })) ∧
      (s.describes b 16 [] → a.isV = true → a.num ≤ 121 → s.cleanCond [(7, a)] = [] →
        rayCodes s.wg.localBytes ((lanesOf s.exec).getLastD 0 + 1) (s.descriptor b 16) = [] →
        let t := s.reads b 16 []
        exec (.ray a b) s = .next (t.post { t.newCmd s.frag.pc .ray (s.descriptor b 16) with
          args := lanesOf s.exec, acc := (lanesOf s.exec).flatMap (s.rayWords a) })) ∧
      (let q := s.descriptor a 64
       let j := s.judgeRegions (.ofBytes q) q
       let stack := (j.2.headD (0, { pa := 0, size := 0, w := false, x := false })).1 / 2 ^ 36
       s.describes a 64 [] → j.1 = [] → s.queryCodes q = [] → s.stackFull stack = false →
         let t := j.2.foldl (fun t r => t.mark t.who r.2.marks) (s.reads a 64 [])
         exec (.qpost a) s = .next (t.post { t.newCmd s.frag.pc .qpost q with
           engine := stack, args := j.2.flatMap (fun r => [r.1, r.2.pa]) }))) ∧
    (s.wordsOk .plain → s.exec ≠ 0 → (∀ o ∈ [d, a, b], s.srcBad 1 o = false ∧ s.lowCond 1 o = []) → s.lowInt d % 16 = 0 →
      s.tripleConds a = [] →
      let dc (o : Operand) : Nat := field (s.statusAt (s.lowInt o)) 24 2
      let n := dimOf (dc a)
      let size := 16 + 4 * n
      let joins (i : Instr) (os : List Operand) (len : Nat) (f : List Triple → List Byte × List (Nat × Nat)) : Prop :=
        s.lowInt d + len ≤ s.wg.localBytes →
        let x := readRunTogether (os.flatMap (fun o => s.localRun (s.lowInt o) size)) (s.retire .plain)
        let r := f ((List.range os.length).map (fun k => Triple.ofBytes (slice (x.1.map (·.1)) (k * size) size)))
        let t := x.2.writeTogether ((s.localRun (s.lowInt d) r.1.length).zipIdx.map (fun k => (k.1, slice r.1 (16 * k.2) 16)))
        let t := r.2.foldl (fun t e => t.alog t.who (t.grantOf t.wg) (s.unitAlog s.frag.pc e.1 e.2 s.lowMask)) t
        exec i s = .next (if os.any (fun o => decide (s.lowInt d < s.lowInt o + size) &&
          decide (s.lowInt o < s.lowInt d + r.1.length)) then { t with frag := { t.frag with hold := .fpt } } else t)
      (s.tripleConds b = [] → dc b = dc a →
        joins (.amerge d a b) [a, b] size (fun ts =>
          let r := (ts.getD 0 {}).merge (ts.getD 1 {})
          (r.1.bytes, countCauses [evOverflow, evInvalid, evScale] r.2))) ∧
      joins (.afin d a) [a] (4 * n) (fun ts =>
        let t := ts.getD 0 {}
        let out : List Elem := t.acc.map (fun x =>
          if t.nonfin then { bits := nan32 } else if t.nrows = 0 then { bits := 0 }
          else Mode.roundTo {} .f32 0 (divExact (FFmt.f32.decode x) (FFmt.f32.decode t.s)))
        (out.flatMap (fun e => bytesOf 4 e.bits), countCauses [1, 2, 3, 4, 5] (out.flatMap (·.ev)))))

/-! ### Events -/

/-- Waits end, and fragments and waves move (R41, R62, R63, R66 to R69, R92, R199, R203, R431): each event, where what it needs
holds, has its effect: a rejoin timeout merges its record, a woken or timed wait is tested again, a fragment that has waited
takes an active one's place or ages, a sleep ends, a load's data lands; a wave is deep-parked, evicted and restored, and a
context's waves are frozen, saved and resumed. -/
def Obligations.FragmentEvents : Prop :=
  ∀ (s t : State) (wave slot : Nat),
    (∀ k r, s.focusWave wave = some t → t.wave.tokens.find? (fun x => x.1 == k) = some (k, r) →
      (∃ d, r.deadline = some d ∧ d < t.now) → t.served t.wave = true →
      exec (.rejoinTimeout wave k) s = .next (t.mergeToken k)) ∧
    ((s.watchesOf wave slot).any (·.woken) = true → s.focusOn wave slot = some t → t.wave.away = false → t.served t.wave = true →
      exec (.waitRetest wave slot) s = .next t.retestAny) ∧
    (∀ w, s.focusOn wave slot = some t → t.frag.wait = some w → w.watches = true → t.frag.left ≠ [] →
      t.served { t.wave with away := false } = true → max t.frag.since t.frag.retested + 1024 ≤ t.now →
      exec (.waitPeriodicRetest wave slot) s = .next (State.retestDue { t with frag := { t.frag with retested := t.now } })) ∧
    (∀ core port w f v g, State.refill core port 8 s = t →
      bestOf t.outranks (t.portFrags core port (fun _ f => f.status == .pendingReady && decide (f.since + 256 ≤ t.coreCyc core))) = some (w, f) →
      bestOf replacedFirst (t.portFrags core port (fun _ f => f.active)) = some (v, g) →
      exec (.pendingReadyReplace core port) s =
        .next ((t.setStatus v.id g.slot .pendingReady).setStatus w.id f.slot (if f.wait.isSome then .blocked else .ready))) ∧
    exec (.fragmentRankAging wave slot) s = .next (s.modFrags (fun w f =>
      if w.id = wave ∧ f.slot = slot ∧ 512 ≤ s.readied w.core f then { f with aged := true } else f)) ∧
    exec (.sleepExpiry wave slot) s = .next (s.wakeIf (fun w f => w.id == wave && f.slot == slot && (match f.wait with
      | some (.sleep stop) => decide (stop ≤ s.coreCyc w.core)
      | _ => false))) ∧
    (∀ load data p, s.pendLoads.find? (fun p => p.id == load) = some p → s.focusWave p.wave = some t → t.wave.away = false →
      (∀ h ∈ s.held, h.id ∉ p.behind) →
      let u := { t with pendLoads := t.pendLoads.filter (fun x => x.id != load) }
      let vals := p.got.map (fun v => (v.1, { v := v.2.1, pois := v.2.2 : LaneOut })) ++
        p.answers data (fun w => (u.peerLinks u.wg.part w).isEmpty)
      let u := u.writeLanes (.ofCode p.dest) p.regs vals
      exec (.loadDataReturn load data) s = .next (u.wakeIf (fun w f => w.id == p.wave && (match f.wait with
        | some (.loads ids) => ids.all (fun i => i == load || !u.pendLoads.any (fun x => x.id == i))
        | _ => false)))) ∧
    (∀ load p b, s.pendLoads.find? (fun p => p.id == load) = some p →
      State.modFrags { s with pendLoads := s.pendLoads.map (fun (x : PendLoad) => if x.id = load then { x with missed := true } else x) }
        (fun w f => if w.id = p.wave ∧ f.status = Status.blocked ∧ (match f.wait with
            | some (.loads ids) => ids.contains load
            | _ => false) = true then
          { f with status := .waiting, since := s.coreCyc w.core } else f) = t →
      t.box p.wave = some b → exec (.l2MissReport load) s = .next (State.refill b.wave.core b.wave.port 8 t)) ∧
    (∀ b, s.box wave = some b → b.wave.away = false → (parkedSince b.frags).isSome = true → b.wave.parkSince ≠ parkedSince b.frags →
      s.ctxBad (s.groupOf b.wave).part (s.groupOf b.wave).vf (s.groupOf b.wave).ctx 72 4 = none → s.parkDue b = true →
      exec (.deepPark wave) s = .next ((s.useCtx (s.groupOf b.wave).who 72 4).modWave wave
        (fun w => { w with parkSince := parkedSince b.frags }))) ∧
    (∀ b, s.box wave = some b → s.longestParked b.wave.core b.wave.port = some wave →
      s.roomWanted (s.groupOf b.wave).part b.wave.core b.wave.port = true → (s.groupOf b.wave).frozen = false →
      s.confined (s.groupOf b.wave) = false → exec (.waveEviction wave) s = .next (s.evict b)) ∧
    (∀ b priv pois, s.unfocus = t → t.box wave = some b → (t.nextRestore b.wave.core b.wave.port).map (·.wave.id) = some wave →
      t.waveFits b = true → t.slotHeld (t.groupOf b.wave) b.wave = false → t.readSlot (t.groupOf b.wave) b.wave = .ok priv pois →
      exec (.waveRestore wave) s = .next ((t.seenSlot (t.groupOf b.wave) b.wave).comeBack b priv pois)) ∧
    (∀ vf ctx part, s.partOfVf vf = some part →
      let cores := (((s.groups.filter (fun g => g.vf == vf && g.ctx == ctx)).map (·.core)).eraseDups).filter (s.sliceEnds part vf ctx)
      let ids := (cores.flatMap (s.running vf ctx)).map (·.id)
      ids ≠ [] → (∃ x, s.ctxBudget part vf ctx = .ok x) → exec (.timeSliceEnd vf ctx) s = .next (s.freeze ids)) ∧
    (∀ vf ctx, let gs := s.unfocus.wgs.filter (fun g => g.vf == vf && g.ctx == ctx && g.frozen)
      s.unfocus.withdraw (gs.map (·.id)) = t → gs ≠ [] → gs.all t.settled = true →
      let cores := (gs.map (·.core)).eraseDups
      let u := (gs.foldl State.saveGroup t).unqueue vf ctx cores (gs.findSome? t.grantOf)
      exec (.preemptionSave vf ctx) s =
        .next { u with sliceTime := u.sliceTime.filter (fun e => !(cores.map (sliceKey · vf ctx)).contains e.1) }) ∧
    (∀ wg x m base, s.unfocus = t → t.saved.find? (fun g => g.wg.id == wg) = some x →
      t.images.find? (fun m => m.wg == wg && m.preempted) = some m → t.resumable x.wg m.boxes = some base →
      t.slotFails x.wg m.boxes = none →
      let g : Workgroup := { x.wg with clusterBase := base, frozen := false }
      m.boxes.any (fun b => !b.wave.away && b.frags.any (fun f => (t.fbEntryOf g f).isNone)) = false →
      let u := (t.beginSlice g.core g.vf g.ctx).dropStale g.core
      let one := decide (g.tuple.length ≤ 1)
      let u := { u with
        wgs := insertWg g u.wgs
        saved := u.saved.filter (fun y => y.wg.id != wg)
        images := u.images.filter (fun y => y.wg != wg)
        cmem := if one then giveBank g.core base g.cluster 1 x.bank u.cmem else u.cmem
        cpois := if one then giveBank g.core base g.cluster 16 x.bpois u.cpois else u.cpois }
      exec (.resumption wg) s = .next ((m.boxes.foldl (State.resumeBox g) u).repost wg))

/-- Queues, launches and dispatch (R48, R49, R51, R55 to R58, R72, R442): a doorbell moves WIDX and checks the queue, an enable
checks its configuration, a released entry starts its launch, a launch ages, a partition starts a workgroup of the first
candidate that fits, and a workgroup whose fragments have ended completes. CTX_BIND is written while its queue is off. -/
def Obligations.QueueEvents : Prop :=
  ∀ (s t : State) (vf ctx part : Nat),
    (∀ widx, s.openBar = true → (s.setBell vf ctx 0x00C widx.toNat).syncEmpty vf ctx = t →
      exec (.doorbellWrite vf ctx widx) s = .next (if t.queueOver vf ctx then t.haltQueue vf ctx 0x01 else t)) ∧
    (∀ val : Word, s.openBar = true →
      let n := if s.queueOn vf ctx then s.log2n vf ctx else val.toNat % 32
      let u := s.setBell vf ctx 0x008 (n + if bitAt val.toNat 31 then 2 ^ 31 else 0)
      let v := if s.queueOn vf ctx then u else State.setBell { u with watches := u.watches.filter (fun w => w.wave != queueWatch vf ctx) }
        vf ctx 0x014 (setField (u.bell vf ctx 0x014) 0 1 0)
      (bitAt val.toNat 31 = false → exec (.queueEnableWrite vf ctx val) s = .next u) ∧
      (bitAt val.toNat 31 = true → 6 ≤ n → n ≤ 16 → v.s1root vf ctx ≠ 0 →
        (∃ i, v.partOfVf vf = some i ∧ (v.ctxRcb i vf ctx).isSome = true) →
        exec (.queueEnableWrite vf ctx val) s = .next v) ∧
      (bitAt val.toNat 31 = true → n < 6 ∨ 16 < n ∨ v.s1root vf ctx = 0 →
        exec (.queueEnableWrite vf ctx val) s = .next (v.haltQueue vf ctx 0x04))) ∧
    (∀ rcb wait val serial, s.partOfVf vf = some part → s.queueLive (ctxWho part vf ctx) = true →
      s.watches.any (fun w => w.wave == queueWatch vf ctx && !w.woken) = false →
      let who := ctxWho part vf ctx
      let i := s.ridx vf ctx
      let place := s.queueBase vf ctx + 32 * (i % 2 ^ s.log2n vf ctx)
      s.ctxHeld who place 32 .read = false →
      { s with watches := s.watches.filter (fun w => w.wave != queueWatch vf ctx) } = t → t.queueOver vf ctx = false →
      t.queueEntry who i = .good rcb wait val serial →
      let u := t.seen who 0 place 32 .read
      let v := if wait = 0 then u else u.seen who 0 wait 4 .read
      u.launchHeld who rcb = false → (wait ≠ 0 → u.ctxHeld who wait 4 .read = false ∧ val ≤ (u.vaNat who wait 4).getD 0) →
      (serial = true → v.serialHeld vf ctx i = false) →
      exec (.queueEntryRelease vf ctx) s = .next (v.release who rcb i)) ∧
    (∀ launch, let due (now t step : Nat) : Bool := decide (t + 65536 * (step + 1) ≤ now) && decide (step < 7)
      let old (p : Pending) : Pending := if p.id = launch ∧ due (s.cyc p.part) p.postedAt p.ageStep then { p with ageStep := p.ageStep + 1 } else p
      exec (.launchPriorityAging launch) s = .next { s with
        launches := s.launches.map (fun l =>
          if l.id = launch ∧ l.next * l.size < l.total ∧ due (s.cyc l.part) l.releasedAt l.ageStep then { l with ageStep := l.ageStep + 1 } else l)
        pending := s.pending.map old, listed := s.listed.map old }) ∧
    (∀ c core, s.partEn part = true → s.unfocus = t →
      (t.candidates part).findSome? (fun c => c.fail.map (fun e => (c, e))) = none → t.firstStart (t.candidates part) [] = some (c, core) →
      exec (.workgroupDispatch part) s = .next (t.startCand c core)) ∧
    (∀ wg g, s.unfocus = t → t.wgs.find? (fun g => g.id == wg) = some g → t.groupDone g = true →
      exec (.workgroupComplete wg) s = .next (t.endGroup g g.statOr g.statMax g.nzLanes false)) ∧
    (∀ val : BitVec 64, s.queueOn vf ctx = false → s.openBar = true → exec (.ctxBindWrite part vf ctx val) s =
      .next (s.setReg64 (blockOff part (0x30000 + 8 * (256 * vf + ctx)))
        (field val.toNat 8 44 * 256 + if bitAt val.toNat 63 then 2 ^ 63 else 0)))

/-- Translation, caches and accesses from outside (R84, R86, R94 to R99, R103, R108, R112, R288): a walk that succeeds installs
its translation; an invalidation marks its page and is complete when no use of it is left; the memory-side cache and the
L1 copies follow their rules; the clock reaches its next tick; host and peer accesses are served; a migration
begins at a leaf of its page, locks and copies it line by line, swaps the leaf entry, waits for the accesses that used the old
translation, and moves the leases and frees the locks (R118, R284, R457). -/
def Obligations.TranslationAndCacheEvents : Prop :=
  ∀ (s t : State) (vf ctx : Nat),
    (∀ va acc i, s.partOfVf vf = some i → (∀ x, s.walk i vf ctx va.toNat acc = .ok x → s.marksHeld x.marks = false →
        exec (.pageWalk vf ctx va acc) s = .next ((s.mark (ctxWho i vf ctx) x.marks).install i vf ctx va.toNat acc x)) ∧
      (∀ e, s.walk i vf ctx va.toNat acc = .error e → exec (.pageWalk vf ctx va acc) s = .next (s.walkFails i vf ctx e))) ∧
    (∀ val : Word, s.openBar = true →
      let a := s.bell vf ctx 0x108 / 4096 * 4096 + val.toNat % 2 ^ 24 * 2 ^ 32
      exec (.tlbInvalidate vf ctx val) s = .next { s.setBell vf ctx 0x110 1 with
        invs := s.invs ++ [(256 * vf + ctx, if bitAt val.toNat 31 then invEvery else a)] }) ∧
    (s.invs.filter (fun x => x.1 == 256 * vf + ctx) ≠ [] → s.usesOld vf ctx = false → exec (.invalidationComplete vf ctx) s =
      .next (State.setBell { s with
        tlb := s.tlb.filter (fun t => !(s.invs.filter (fun x => x.1 == 256 * vf + ctx)).any (fun v => invCovers v t))
        invs := s.invs.filter (fun x => x.1 != 256 * vf + ctx) } vf ctx 0x110 0)) ∧
    (∀ sl p wr, let n := (s.mscShape sl).1
      let index := p / 2048 % n
      let m := s.mscOf sl index
      let r : Nat × Nat × Option (BitVec 8) := (p / 128 * 128, if wr.isSome then 0 else 0xFF, wr)
      n ≠ 0 → sl < 12 → p < 2 ^ 37 →
      (m.lost = 0xFFFF → exec (.mscRequest sl p wr) s = .next (State.mscServe sl index n [r] {} (s.mscLose sl index n m))) ∧
      (m.lost ≠ 0xFFFF → m.filling = none → exec (.mscRequest sl p wr) s = .next (State.mscServe sl index n [r] m s)) ∧
      (m.lost ≠ 0xFFFF → m.filling.isSome = true → exec (.mscRequest sl p wr) s =
        .next (s.setMsc sl index { m with queue := m.queue ++ [r] }))) ∧
    (∀ sl index tag, let n := (s.mscShape sl).1
      let m := s.mscOf sl index
      let first := mscFirst sl index n tag
      let lost := (((s.uncorr.map (·.1)) ++ (s.below.map (·.1))).eraseDups).filter
        (fun x => (decide (first ≤ x) && decide (x < first + 128)) && (s.belowStored x).uncorr)
      m.filling = some tag →
      lost.foldl (fun u x => ((u.keepTier x).owe sl 0x09 x).poisonBelow x) s = t →
      exec (.mscFillComplete sl index) s = .next (State.mscServe sl index n m.queue { v := true, tag := tag } t)) ∧
    (exec .ptsTick s = .next (s.pass (64 - s.aclk % 64)) ∧ (s.pass (64 - s.aclk % 64)).aclk = (s.aclk / 64 + 1) * 64) ∧
    (∀ core line, exec (.l1CopyExpiry core line) s = .next { s with l1 := SMap.set [] core ((SMap.get [] core s.l1).filter
      (fun c => !(c.line == line && decide (c.grant + 448 ≤ s.coreCyc core)))) s.l1 }) ∧
    (∀ src addr data, exec (.incomingWrite src addr data) s = .next (s.doWrite src addr data)) ∧
    (∀ src addr len, exec (.incomingRead src addr len) s = .next (s.doRead src addr len)) ∧
    (∀ cmd c, s.cmd cmd = some c → c.phase = .running → c.kind = .migrate →
      let d := CopyDesc.ofBytes c.desc
      let gives (u : State) : Prop := exec (.pageMigration cmd) s = .next u
      (s.cmdStopped c = false → c.total = 0 → c.progress = 0 → s.leafHeld c = false →
        ∀ l ms, s.walk1 c.part c.vf d.src 0 4 (s.s1root c.vf c.ctx) [] = .ok (l, ms) →
        (s.leafEntry c = .ok none → gives (s.abortMigration c 0x21 d.leaf)) ∧
        (∀ ea e, s.leafEntry c = .ok (some (ea, e)) → (l.size = 2 ^ 12 ∨ l.size = 2 ^ 16 ∨ l.size = 2 ^ 21) → bitAt e 7 = true →
          ea = (if l.size = 2 ^ 16 then l.at_ / 128 * 128 else l.at_) → d.src % l.size = 0 → d.dst % l.size = 0 →
          gives (s.putCmd { c with total := l.size / 128, acc := [e, ea, l.addr d.src] }))) ∧
      (s.cmdStopped c = false → c.progress < c.total → c.broken = none → ∀ x a b,
        let i := c.progress
        s.engXlate (s.cmdGroup c) .read (d.src + 128 * i) = .ok x → s.frameAt c (c.pageFrom + 128 * i) = .ok a →
        s.frameAt c (d.dst + 128 * i) = .ok b → s.lockedBy c.id a = false → s.lockedBy c.id b = false →
        s.keyBusyBit (b / 2 ^ 46 % 64) = false →
        ((s.mark c.who x.marks).setLock (s.placeOf a) (c.id + 1)) = t →
        let u := (List.range 8).foldl (fun u j =>
          let r := u.engLatest c (s.cmdGroup c) (a + 16 * j) 16
          r.2.engWritePa 2 c (s.cmdGroup c) { pa := b + 16 * j, size := 128, w := true, x := false } r.1.1 r.1.2)
          (t.setLock (s.placeOf b) (c.id + 1))
        gives ((u.freshLine b).putCmd { c with progress := i + 1 })) ∧
      (s.cmdStopped c = false → 0 < c.total → c.progress = c.total → c.broken = none → s.leafHeld c = false →
        ∀ ea e, s.leafEntry c = .ok (some (ea, e)) →
        let flat (x : Nat) : Nat := x &&& (2 ^ 64 - 1 - 0x60)
        let es := (List.range (leafCount (128 * c.total))).map (fun i => (ea + 8 * i, natOfBytes (s.physBytes (ea + 8 * i) 8).1))
        ((∃ x ∈ es, flat x.2 ≠ flat (c.acc.headD 0)) → gives (s.abortMigration c 0x20 d.leaf)) ∧
        ((∀ x ∈ es, flat x.2 = flat (c.acc.headD 0)) → gives ((es.foldl (fun (t : State) x =>
          let t := t.physWrite 0 c.vf x.1 (bytesOf 8 (setField x.2 12 40 (d.dst / 4096)))
          t.setHome x.1 (t.homeLease x.1).next) s).putCmd { c with progress := c.total + 1 }))) ∧
      (0 < c.total → c.progress = c.total + 1 →
        (s.usesOld c.vf c.ctx = true → gives s) ∧
        (s.usesOld c.vf c.ctx = false → gives ((s.dropTlb c.vf c.ctx d.src (128 * c.total)).putCmd { c with progress := c.total + 2 }))) ∧
      (0 < c.total → c.total + 1 < c.progress →
        gives (((List.range c.total).foldl (fun t i => t.settleLine c i) s).freeHeld.putCmd { c with phase := .done })))

/-- Copy, matrix and sight engines (R283 to R289, R306 to R316, R342): a copy without a guard word starts at once, a resolved
guard lets its command go on, a multicast starts when every receiver has a slot, bytes land in their sectors, and a done
command retires; the head of a matrix queue starts, applies its chunks and drains, an mmat K-step by K-step, of which a frozen
workgroup begins none; a sight unit takes up its next command and runs it pixel by pixel, or ray by ray (R446). -/
def Obligations.CommandEvents : Prop :=
  ∀ (s t : State) (c : Command) (cmd core : Nat),
    (∀ engine, s.nextCopy engine = some c → exec (.copyCommandStart engine) s =
      .next (if (CopyDesc.ofBytes c.desc).guard = 0 then s.runCopy c
        else s.judgeGuard c (CopyDesc.ofBytes c.desc).guard 2 (fun t => t.runCopy c))) ∧
    (s.cmd cmd = some c → s.cmdStopped c = false →
      (c.phase = .guarded → c.copies = true → exec (.guardWordResolve cmd) s =
        .next (s.judgeGuard c (CopyDesc.ofBytes c.desc).guard 2 (fun t => t.runCopy c))) ∧
      (c.phase = .guarded → c.copies = false → exec (.guardWordResolve cmd) s =
        .next (s.putCmd { c with phase := if c.kind = .cpyThen then .landed else .posted })) ∧
      (c.phase = .slotless → s.mcBusy c = false → (∀ id ∈ c.args, ∃ g, s.group id = some g ∧ s.confined g = false ∧ g.finished = false ∧ g.fscPois = false ∧ 1 ≤ s.slotsOf g) →
        exec (.multicastStart cmd) s = .next ((c.args.foldl (fun s id => s.takeSlot id) s).putCmd { c with phase := .running })) ∧
      (∀ n c', c.phase = .running → c.copies = true → c.kind ≠ .migrate →
        (landSectors (CopyDesc.ofBytes c.desc) cmd n s).1.cmd cmd = some c' →
        let d := CopyDesc.ofBytes c.desc
        let r := landSectors d cmd n s
        exec (.copyBytesLand cmd n) s = .next (if d.rows ≤ c'.progress / 2 ^ 24 then (r.1.lowerAll c' d r.2).endCopy c' d
          else r.1.lowerAll c' d r.2)) ∧
      (c.phase = .done → exec (.commandComplete cmd) s = .next (s.retireCmd c))) ∧
    (s.matHead core = some c → s.cmdStopped c = false →
      ((c.phase = .posted ∨ c.phase = .landed) → s.swapFirst c = false → s.withdrawnFirst c = false →
        ((c.kind ≠ .mma ∧ c.kind ≠ .mmaB ∧ c.kind ≠ .cpyThen) ∨ bitAt c.block.guard 31 = false) →
        exec (.matrixEntryStart core) s = .next (s.beginEntry c)) ∧
      ((c.phase = .posted ∨ c.phase = .landed) → s.swapFirst c = false → s.withdrawnFirst c = false → (c.kind = .mma ∨ c.kind = .mmaB ∨ c.kind = .cpyThen) →
        bitAt c.block.guard 31 = true →
        let a := c.block.guard % 2 ^ 19
        let r := s.localBytes (s.cmdGroup c) 0 c.wave a 4
        let v := if r.2 then 0 else natOfBytes r.1
        let u := s.observe 0 c.wave (scratchPlace c.wg a) 4
        exec (.matrixEntryStart core) s = .next (if v = 0 then u.putCmd { c with phase := .guarded }
          else if v = 1 then (u.fence c.core 0 3 c.wave).beginEntry c else u.endEntry c)) ∧
      (∀ c', c.phase = .running → c.kind ≠ .mmat →
        s.applyChunk c (.ofNat c.block.word) c.block.acc c.block.fl c.block.bd (c.block.za && c.progress == 0)
          (s.blockOps (s.cmdGroup c) c.block) c.progress = t → t.cmd c.id = some c' →
        let e := { c' with progress := c'.progress + 1, retries := 0 }
        exec (.matrixChunkComplete core 0) s = .next (if e.progress < e.total then t.putCmd e else (t.putCmd e).endEntry e)) ∧
      (∀ n, c.phase = .running → 0 < n →
        (c.kind = .mmat → ∃ x, c.chunksDone = some x ∧ x < (MmatDesc.ofBytes c.desc).ks / 16) →
        exec (.matrixChunkComplete core n) s = .next (s.mismatched c n)) ∧
      (c.phase = .running → c.kind = .mmat →
        let d := MmatDesc.ofBytes c.desc
        let f := FmtWord.ofNat d.word
        let ks := c.progress % d.ksteps
        let mb := c.progress / d.ksteps % d.mb
        let nb := c.progress / d.ksteps / d.mb
        (c.chunksDone = none → (s.cmdGroup c).frozen = true → exec (.mmatKstep core) s = .next s) ∧
        (∀ u, c.chunksDone = none → (s.cmdGroup c).frozen = false →
          let z := if ks = 0 then s.modGroup c.wg (fun g => (accTiles f.acc d.acc).foldl (fun g n => g.clearBank 1 n) g) else s
          z.stagePanels c d mb nb ks = (none, u) →
          exec (.mmatKstep core) s = .next ((u.markSeen (fun e => e.cmd == c.id) 3 (some c.wave)).putCmd { c with query := [0] })) ∧
        (∀ x c', c.chunksDone = some x → x < d.ks / 16 →
          s.applyChunk c f d.acc d.fl false false (d.ops (s.cmdGroup c) ks) x = t → t.cmd c.id = some c' →
          exec (.matrixChunkComplete core 0) s = .next (t.putCmd { c' with query := [x + 1], retries := 0 })) ∧
        (∀ x v c', c.chunksDone = some x → d.ks / 16 ≤ x →
          (if ks + 1 = d.ksteps then s.drain c d mb nb else (none, s)) = (none, v) → v.cmd c.id = some c' →
          let e := { c' with progress := c'.progress + 1, query := [] }
          exec (.mmatKstep core) s = .next (if e.progress < e.total then v.putCmd e else (v.putCmd e).endEntry e)))) ∧
    (∀ sl k, s.sightRuns sl k = none → s.nextSight sl k = some c → exec (.sightCommandRun sl k) s =
      .next (if c.kind = .rast then s.beginRast c else s.putCmd { c with phase := .running, progress := 0 })) ∧
    (∀ sl k, s.sightRuns sl k = some c →
      (c.kind = .rast → (RastDesc.ofBytes c.desc).w * (RastDesc.ofBytes c.desc).h ≤ c.progress → exec (.sightCommandRun sl k) s =
        .next ((s.sightWrite c (c.args.getD 0 0 + 24) (bytesOf 4 c.total) false).putCmd { c with phase := .done })) ∧
      (c.kind = .rast → c.progress < (RastDesc.ofBytes c.desc).w * (RastDesc.ofBytes c.desc).h →
        exec (.sightCommandRun sl k) s = .next (s.rastStep c)) ∧
      (c.kind ≠ .rast → c.rays.length ≤ c.progress → exec (.sightCommandRun sl k) s = .next (s.putCmd { c with phase := .done })) ∧
      (c.kind ≠ .rast → ∀ l ws rest u, c.rays.drop c.progress = (l, ws) :: rest →
        State.runRay c (natAt c.desc 0 8 % 2 ^ 56) (natAt c.desc 8 4) (natAt c.desc 12 4) l ws s = .ok u →
        exec (.sightCommandRun sl k) s = .next (u.putCmd { c with progress := c.progress + 1 })))

/-- Shading and attention (R327, R331, R334, R335, R355, R361, R362, R461): enabling the cache resets it, held and woken lanes
look their keys up again, a batch of jobs is posted; an attention command starts, reads a row unless its function is throttled there, which its side queue then does,
and writes its result when every bank is done; a refresh counts; hot rows throttle until their window ends. -/
def Obligations.ShadingAndAttentionEvents : Prop :=
  ∀ (s t : State) (c : Command) (wave slot cmd bau : Nat),
    (∀ part val, s.openBar = true → s.setPreg part 0x000 (val.toNat &&& 0xFF01) = t →
      exec (.scCtlWrite part val) s = .next (if !s.scEn part && t.scEn part then t.scReset part else t)) ∧
    (s.focusOn wave slot = some t →
      exec (.scLookupRetry wave slot) s = .next (t.scRetry (fun _ x => x.at_ == .held)) ∧
      exec (.scRelookup wave slot) s = .next (t.scRetry State.texelWoken)) ∧
    (∀ slice part cls i va, s.partOf slice = some part → s.nextClass part slice = some cls →
      (List.range 64).find? (fun i => (SMap.get [] (slice * 64 + i) s.jobBlocks).isEmpty) = some i → s.scEn part = true →
      s.confs.any (fun d => d.coversCtx part (s.filler part).vf (s.filler part).ctx) = false →
      s.batchHeld (s.filler part) (slice * 64 + i) cls = false →
      let w := s.filler part
      let b := slice * 64 + i
      let js := (s.classJobs slice cls).take 16
      let u := { s with jobs := dropJobs slice cls 16 s.jobs, jobBlocks := SMap.set [] b js s.jobBlocks }
      u.ctxPutOn 5 w none (u.jobBlockAt part b) (js.flatMap Job.bytes) = (none, t) →
      let v := t.jobsSeen u.oseq
      v.classLaunch w cls = .ok (some va) →
      exec (.shadeBatchDispatch slice) s = .next ((v.seen w 5 (v.classEntry w cls) 8 .read).postFill w b va)) ∧
    (s.cmd cmd = some c → c.kind = .qpost → s.cmdStopped c = false →
      (c.phase = .posted → s.mayStart c = true → s.scanning c.engine < 16 →
        let q := c.asked
        let r := s.localBytes (s.cmdGroup c) 6 c.wave q.qoff (4 * q.dim)
        let e := { c with phase := .running, total := q.units, query := (List.range q.dim).map (fun k => natAt r.1 (4 * k) 4) }
        let u := (s.observe 6 c.wave (scratchPlace (s.cmdGroup c).id q.qoff) (4 * q.dim)).putCmd e
        exec (.attentionCommandStart cmd) s = .next (if r.2 then u.breakTriple e 0x70 q.qoff else u)) ∧
      (∀ u, c.phase = .running → s.scanHeld c = false → (c.scan bau).ends ≤ s.aclk →
        (c.rowUnits bau (c.scan bau).next).head? = some u →
        let ps := c.rowPlaces u
        (∀ q ∈ s.sideQ, (cmd, bau) ∉ q.2) → (∀ p ∈ ps, s.sideFull c.vf p = false) →
        ((∀ p ∈ ps, s.throttledAt c.vf p = false) → exec (.bauRowRead cmd bau false) s = .next (s.readRow c bau)) ∧
        (∀ p, ps.find? (s.throttledAt c.vf) = some p → let ch := 64 * channelOf p + c.vf
          exec (.bauRowRead cmd bau false) s =
            .next { s with sideQ := SMap.set [] ch (SMap.get [] ch s.sideQ ++ [(cmd, bau)]) s.sideQ })) ∧
      (c.phase = .running → s.aclk < (c.scan bau).ends → ∀ fault, exec (.bauRowRead cmd bau fault) s = .next s) ∧
      (c.phase = .running → s.scanHeld c = false → (c.scan bau).ends ≤ s.aclk → SMap.get false (1024 * c.engine + bau) s.bauFailed = false →
        exec (.bauRowRead cmd bau true) s = .next (s.rescanBau c bau)) ∧
      (c.phase = .running → c.total ≤ c.progress → (∀ b ∈ c.scans, b.2.ends ≤ s.aclk) →
        let r := c.result
        let e := c.noteCauses r.2
        let g := s.cmdGroup e
        let u := (s.putTriple e g e.asked.roff r.1.bytes e.broken.isSome).logCmd e 2
        let u := (u.markSeen (fun x => x.cmd == e.id) 8 none).lowerBar e g e.asked.tbar (16 + 4 * e.asked.dim)
        exec (.attentionResultWrite cmd) s = .next (u.putCmd { e with phase := .done }))) ∧
    (∀ stack channel, (∀ c ∈ s.cmds, c.kind ≠ .qpost) → exec (.refresh stack channel) s = .next { s with
      refreshes := SMap.set 0 (stack * 64 + channel) (SMap.get 0 (stack * 64 + channel) s.refreshes + 1) s.refreshes }) ∧
    (∀ stack bank row part, s.partOf stack = some part →
      let place := stack * 2 ^ 36 + row * 2 ^ 21 + bank / 64 % 16 * 2 ^ 17 + bank % 64 * 2 ^ 11
      let acts (f : Nat) : Nat := SMap.get 0 (rowKey place f) s.rowActs + (Config.freeWord (s.free + f)).toNat
      let fs := (List.range 64).filter (fun f => s.partBit part 0x4020 f)
      ∀ f, bestOf (fun a b => decide (acts b < acts a)) fs = some f →
        (2048 ≤ (fs.map acts).sum → SMap.get 0 (place / 2048) s.throttled = 0 →
          let u := s.setPreg part (0x7000 + 16 * f + 0xC) (min (s.preg part (0x7000 + 16 * f + 0xC) % 65536 + 1) 0xFFFF)
          exec (.hotRowThrottle stack bank row) s =
            .next { u with throttled := SMap.set 0 (place / 2048) (f + 1) u.throttled, free := u.free + 64 }) ∧
        ((fs.map acts).sum < 2048 ∨ SMap.get 0 (place / 2048) s.throttled ≠ 0 →
          exec (.hotRowThrottle stack bank row) s = .next { s with free := s.free + 64 })) ∧
    (∀ stack channel, exec (.hotRowSideQueue stack channel) s =
      .next ((List.range 64).foldl (fun s f => s.serveSide (64 * (stack * 64 + channel) + f)) s)) ∧
    (∀ key rest, SMap.get [] key s.sideQ = (cmd, bau) :: rest → { s with sideQ := SMap.set [] key rest s.sideQ } = t →
      t.cmd cmd = some c → t.scanHeld c = false → c.phase = .running → t.cmdStopped c = false → s.serveSide key = t.readRow c bau) ∧
    exec .hotRowWindowEnd s = .next { s with rowActs := [], throttled := [], sideQ := [] }

/-- Partitions, keys, seals, meters and the access log (R367 to R388, R460, R495, R510): on a booted device each of these writes
is one that the access log records before it takes effect; on a device that is not booted none has an effect. When it takes
effect, an ownership register gets its bits but those that another partition holds (R369), RATE and BURST are set and CRATE and
CBURST only lowered (R381), MODE 2 does nothing (R373) and another mode makes the slot busy, EN of a function stays 0 without a
valid RCB address (R510), and a grant is set (R377). A mode change completes, the meters gain their tokens, a read held too
long ends, and the log takes its base and its oldest entry. -/
def Obligations.TenancyEvents : Prop :=
  ∀ (s : State) (part vf ctx slot : Nat) (val : Word), part < 12 → vf < 64 →
    let writes : List (Instr × Logged) :=
      [(.ptCfgWrite part val, .part part 0x4000 val),
       (.vfCtlWrite part vf val, .vf part vf 0 val), (.keySlotOrdinary slot, .key slot 1), (.keySlotOff slot, .key slot 0),
       (.keySlotPlain slot, .key slot 3), (.keySlotSealedWrite slot, .key slot 2), (.sealGrantWrite part vf ctx val, .grant part vf ctx val),
       (.logCheckpoint, .checkpoint)] ++
      [0x4008, 0x400C, 0x4010, 0x4018, 0x401C, 0x4020, 0x4024].map (fun off => (.ownershipWrite part off val, .part part off val)) ++
      (List.range 69).flatMap (fun m => [0, 4, 8, 12].map (fun off => (.meterWrite m off val, .meter m off val)))
    (s.bootState = 2 → ∀ x ∈ writes, exec x.1 s = .next (s.logWrite x.2)) ∧
    (∀ w, s.logPending = [] → s.logRoom w.isCheckpoint w.entries = true → s.logWrite w = s.applyLogged w) ∧
    (∀ x ∈ [(0x4008, 32), (0x400C, 16), (0x4010, 18), (0x4018, 32), (0x401C, 32), (0x4020, 32), (0x4024, 32)], ∀ k, k < 32 →
      (bitAt ((s.applyLogged (.part part x.1 val)).preg part x.1) k = true ↔
        bitAt val.toNat k = true ∧ k < x.2 ∧ ¬(x.1 = 0x4018 ∧ k = 0) ∧
        ∀ j, j < 12 → j ≠ part → bitAt (s.preg j x.1) k = false)) ∧
    (∀ m, m < 69 →
      let at_ (off : Nat) : Nat := 0x2000 + 16 * m + off
      let puts (off : Nat) : Nat := ((s.applyLogged (.meter m off val)).reg (at_ off)).toNat
      puts 0 = val.toNat % 2 ^ 16 ∧ puts 4 = val.toNat % 2 ^ 24 ∧
      puts 8 = min (s.reg (at_ 8)).toNat (val.toNat % 2 ^ 16) ∧ puts 12 = min (s.reg (at_ 12)).toNat (val.toNat % 2 ^ 24)) ∧
    ((∃ arg, s.applyLogged (.key slot 2) = s.appendEntry 0x0030 0xFF 0xFF 0xFF arg) ∧
      ∀ mode ∈ [0, 1, 3], SMap.get 0 slot (s.applyLogged (.key slot mode)).keyBusy = mode + 1 ∧
        bitAt ((s.applyLogged (.key slot mode)).reg (0x1000 + 4 * slot)).toNat 2 = true) ∧
    ((s.applyLogged (.vf part vf 0 val)).preg part (0x6000 + 16 * vf) =
      if bitAt val.toNat 31 && bitAt (s.preg part (0x6400 + 8 * vf + 4)) 31 then 2 ^ 31 else 0) ∧
    ((s.applyLogged (.grant part vf ctx val)).preg part (0x20000 + 4 * (256 * vf + ctx)) = val.toNat &&& 0x8000003F) ∧
    (s.bootState ≠ 2 → ∀ x ∈ writes, exec x.1 s = .next s) ∧
    (s.bootState = 2 → bitAt (s.reg 0x1890).toNat 30 = false → exec .sealUnwrap s = .next (s.logWrite .unwrap)) ∧
    (∀ v : BitVec 64, s.bootState = 2 → let lo := v.extractLsb' 0 32; let hi := v.extractLsb' 32 32
      (s.rcbOpen .root = true → exec (.rcbAddressWrite .root v) s =
        .next ((s.setReg 0x0030 (lo &&& 0xFFFFFF00)).setReg 0x0034 (hi &&& 0x800FFFFF))) ∧
      (∀ r ∈ [RcbReg.part part, .vf part vf], s.rcbOpen r = true →
        exec (.rcbAddressWrite r v) s = .next (s.logWrite (.rcb r (some lo) (some hi)))) ∧
      (∀ r, s.rcbOpen r = false → exec (.rcbAddressWrite r v) s = .next s)) ∧
    (SMap.get 0 slot s.keyBusy ≠ 0 →
      exec (.keyModeChangeComplete slot) s = .next (s.modeDone slot (SMap.get 0 slot s.keyBusy)).admitHeld) ∧
    exec .meterTokenTick s = .next s.oneUs ∧
    (∀ id, s.extReads.any (fun r => r.id == id && r.result == .waiting && decide (r.meter < 19)) = true →
      s.held.any (fun h => h.read && h.id == id && h.charged && decide (h.since + 50 ≤ s.us)) = true →
      let u := { s with
        held := s.held.filter (fun h => !(h.read && h.id == id))
        extReads := s.extReads.map (fun r => if r.id = id then { r with result := ReadEnd.aborted, bytes := [] } else r) }
      exec (.egressReadAbort id) s = .next ((State.letPass (2 * u.held.length) u).writeFwRec { level := 0, source := 4, code := 0x80 })) ∧
    (s.logOn = false → s.bootState = 2 →
      let t := s.setReg 0x1904 (BitVec.ofNat 32 (val.toNat % 2 ^ 14))
      exec (.logBaseCommit val) s = .next (if t.backed t.logBase then t.applyLogged .image else s.noteLost t.logBase)) ∧
    (∀ w ws, s.logPending = w :: ws → s.logRoom w.isCheckpoint w.entries = true →
      exec .logEntryWrite s = .next (State.applyLogged { s with logPending := ws } w))

/-- Boot, resets, scrubbing, injection and confinement (R393, R421 to R426, R445, R454, R458, R491 to R498, R507, R512): each with
its own effect where it may act. -/
def Obligations.BootResetAndFaultEvents : Prop :=
  ∀ (s : State) (part vf ctx : Nat) (val : Word),
    exec .powerOn s = .next { State.reset with hostMem := s.hostMem, agenda := s.agenda, free := s.free, nextId := s.nextId } ∧
    (s.bootState = 0 ∨ s.bootState = 3 → exec .bootGo s = .next (s.setReg 0x0000 1)) ∧
    (s.bootState = 1 → imageOk s.image = true → s.logOn = false →
      exec .bootVerifyComplete s = .next (State.setReg { s with imageHash := sha384 s.image } 0x0000 2)) ∧
    (s.bootState = 1 → imageOk s.image = false → exec .bootVerifyComplete s = .next (s.setReg 0x0000 3)) ∧
    (s.bootState = 2 →
      exec .deviceReset s = .next (s.beginReset none) ∧
      exec .watchdogKick s = .next { s with wdogStart := s.us } ∧
      (0 < val.toNat % 2 ^ 24 → (s.period = 0 ∨ val.toNat % 2 ^ 24 ≤ s.period) →
        exec (.watchdogPeriodWrite val) s = .next (State.setReg { s with wdogStart := if s.period = 0 then s.us else s.wdogStart } 0x0010
          (BitVec.ofNat 32 (val.toNat % 2 ^ 24)))) ∧
      (s.period ≠ 0 → (val.toNat % 2 ^ 24 = 0 ∨ s.period < val.toNat % 2 ^ 24) → exec (.watchdogPeriodWrite val) s = .next s) ∧
      (s.partOfVf vf = some part → s.confs.any (fun c => c.coversCtx part vf ctx &&
          c.causes.any (fun r => r.source == 2 && r.code == 0x30 && r.vf == vf && r.ctx == ctx)) = false →
        exec (.contextKill vf ctx) s = .next (s.confine 2 (ctxWho part vf ctx) none
          { source := 2, code := 0x30, vf := vf, ctx := ctx, part := part })) ∧
      (s.resetting part (3, vf) = false → exec (.vfReset part vf) s = .next (((s.setPreg part (0x8000 + 4 * vf) 0).confine 3
        (ctxWho part vf 0) none { source := 2, code := 0x31, vf := vf, part := part }).withReset 3 part vf (3, vf))) ∧
      (s.resetting part (4, part) = false → exec (.partitionReset part) s = .next (((s.setPreg part 0x4040 0).confine 4
        { part := part, core := 16 * part } none { source := 2, code := 0x32, part := part }).withReset 4 part 0 (4, part))) ∧
      (∀ p, bitAt (s.reg 0x0A08).toNat 30 = false → s.injectPlace = some p →
        exec .errorInject s = .next ({ s with injecting := p / 16 + 1 }.setReg 0x0A08 0x40000000)) ∧
      (∀ first count, s.preg part 0x4030 % 2 ^ 25 = first → val.toNat % 2 ^ 25 = count → bitAt val.toNat 31 = true →
        bitAt (s.preg part 0x4034) 30 = false → count ≠ 0 → (∀ i < count, s.granuleIn part (first + i) = true) →
        let mine (a : Nat) : Bool := decide (first ≤ a / 2 ^ 21) && decide (a / 2 ^ 21 < first + count)
        let u := s.dropLines false mine
        exec (.scrubGo part val) s = .next ((State.setPreg { u with
          older := u.older.filter (fun e => decide (stBase ≤ e.place) || !mine (u.placeLoc e.place))
          scrubbed := ((List.range count).map (fun i => first + i)).foldl (fun m g => SMap.set 0 g 2 m) u.scrubbed
          scrubs := u.scrubs ++ [{ part := part, first := first, count := count }] } part 0x4034 (2 ^ 30 + count)).setPreg part 0x4038 0))) ∧
    exec .pcieConventionalReset s = .next (State.beginReset { s with pcieUp := true } none) ∧
    (s.period ≠ 0 → s.wdogStart + 1000 * s.period ≤ s.us →
      exec .watchdogExpiry s = .next (s.beginReset (some { source := 4, code := 0x94 }))) ∧
    (∀ g, s.scrubs.findSome? s.runNext = some g → exec .scrubGranule s = .next (s.scrubNow g)) ∧
    (∀ g, s.scrubs.findSome? s.runNext = none → s.bootNext = some g → s.bootState = 2 →
      let t := if s.granulePending g then s.scrubNow g else s
      exec .scrubGranule s = .next { t with bootScrub := g + 1, scrubbed := SMap.set 0 g 0 t.scrubbed }) ∧
    (∀ addr, let p := addr / 128 * 128
      let sl := placeSlice p
      let n := (s.mscShape sl).1
      let first := (s.mscShape sl).2
      (first ≤ p → p < first + 2048 * n → p < lpBase →
        exec (.patrolScrub addr) s = .next (s.patrolCarve sl ((p - first) / 2048) (p % 2048 / 128))) ∧
      (p < first ∨ first + 2048 * n ≤ p ∨ lpBase ≤ p →
        exec (.patrolScrub addr) s = .next ((List.range 8).foldl (fun s i => s.patrolSector (p / 16 + i)) s))) ∧
    (∀ sec, ((s.arrayStored sec).uncorr = false ∨ s.scrubPending (16 * sec) = true → s.patrolSector sec = s) ∧
      ((s.arrayStored sec).uncorr = true → s.scrubPending (16 * sec) = false → lpBase ≤ 16 * sec → 16 * sec < stBase →
        s.patrolSector sec = ((s.setArray sec { s.arrayStored sec with pois := true, uncorr := false }).countUE (placeSlice (16 * sec)) 0x09).writeFwRec
          { level := 0, source := 1, code := 0x09, addr := s.placeLoc (16 * sec) })) ∧
    (∀ sec u, bitAt (s.reg 0x0A08).toNat 30 = true → s.injecting = sec + 1 →
      let v := State.setReg { s with injecting := 0 } 0x0A08 0
      v.dropLines true (fun a => decide (a / 128 = v.placeLoc (16 * sec) / 128)) = u →
      exec .errorInjectComplete s =
        .next (if u.scrubPending (16 * sec) then u else u.setArray sec { u.arrayStored sec with uncorr := true })) ∧
    (∀ c eng, s.confs.find? (fun x => x.id == c.id) = some c → eng ∈ c.waiting →
      (∀ x ∈ s.cmds, c.coversCmd x = true → x.kind.engineClass = eng → x.kind ≠ .migrate) →
      let left := c.waiting.filter (fun e => e != eng)
      ∃ t, exec (.quiesceComplete c.id eng) s = .next t ∧
        (∀ x ∈ t.cmds, (c.coversCmd x && x.kind.engineClass == eng) = false) ∧
        (∀ d ∈ t.confs, d.id = c.id → (∃ e ∈ s.confs, e.id = c.id ∧ d = { e with
          waiting := left, phase := if left = [] then .quiet else e.phase })) ∧
        (left = [] → 2 ≤ c.level → ∀ w ∈ s.scopeCtxs c, bitAt (t.bell w.vf w.ctx 0x304) 0 = true) ∧
        (left = [] → t.regs = (c.resets.foldl (fun u r => u.markReset 0 r) s).regs) ∧
        (left ≠ [] → t.regs = s.regs ∧ t.dbell = s.dbell) ∧
        t.mem = s.mem ∧ t.wave = s.wave ∧ t.wgs = s.wgs ∧ t.others = s.others) ∧
    (∀ c, s.confs.find? (fun x => x.id == c.id) = some c → c.phase = .quiet →
      let t := s.unfocus
      let gs := t.wgs.filter (fun g => c.covers g && !g.finished)
      gs.any (·.frozen) = false →
      let away := (t.saved.map (·.wg)).filter c.covers
      let ws := (t.scopeCtxs c).map (fun w => (w, t.ctxGrant w))
      let known := t.owed.length
      let r := gs.foldl State.captureGroup ([], t)
      let t := if c.level = 5 then r.1.foldl State.loseImages r.2 else r.2
      let t := ((t.confRecords c (gs ++ away)).recordMet c known).recordMet c known
      let t := ws.foldl (fun s w => s.setDumpState w.1 w.2 2) t
      let t := (gs ++ away).foldl State.endCaptured (t.closeScope c)
      let t := ws.foldl (fun s w => s.setDumpState w.1 w.2 3) t
      exec (.confinementCapture c.id) s = .next (((t.recordMet c known).progress c 1).clearScope c))

/-- The device around the dies (R395, R397 to R399, R451, R500, R503, R504, R506, R218): clocks and trims, temperatures and power,
links, page requests, readback, debug and the test port. -/
def Obligations.DeviceEvents : Prop :=
  ∀ (s : State) (n k wave slot : Nat) (cells : List Bool),
    (∀ up, exec (.voltageFrequencyLoop n up) s =
      .next (s.setMhz n (if up then s.mhz n + 25 else if 25 < s.mhz n then s.mhz n - 25 else s.mhz n))) ∧
    exec (.linkEqualisation n k) s = .next { s with laneTaps := SMap.set 0 n k s.laneTaps } ∧
    exec (.hbmReadEye n k) s = .next { s with readEye := SMap.set 0 n k s.readEye } ∧
    (∀ temp, exec (.refreshThreshold n temp) s = .next { s with hotStacks := SMap.set false n (decide (85 * 64 < temp)) s.hotStacks }) ∧
    (∀ need margin, 700 ≤ need →
      let old := SMap.get 1400 n s.sliceCeil
      let new := if need < old then max 700 (old - 25 * ceilDiv (old - need) 25) else old
      let t := State.putTelemetry { s with sliceCeil := SMap.set 1400 n new s.sliceCeil } n new margin
      exec (.ageingLoop n need margin) s = .next (t.setMhz n (t.mhz n))) ∧
    (∀ dw, 24000 < dw → exec (.powerLimit dw) s =
      .next ((List.range 12).foldl (fun s i => s.setMhz i (if 25 < s.mhz i then s.mhz i - 25 else s.mhz i)) s)) ∧
    (∀ dw, dw ≤ 24000 → exec (.powerLimit dw) s = .next s) ∧
    (∀ temp, 105 * 64 < temp → let t := s.putTemp n temp
      exec (.thermalThrottle n temp) s = .next (State.setMhz { t with sliceHot := SMap.set false n true t.sliceHot } n
        (State.mhz { t with sliceHot := SMap.set false n true t.sliceHot } n))) ∧
    (∀ temp, temp < 100 * 64 → exec (.thermalThrottleRelease n temp) s =
      .next { s.putTemp n temp with sliceHot := SMap.set false n false (s.putTemp n temp).sliceHot }) ∧
    (∀ temp, 115 * 64 < temp → exec (.thermalTrip temp) s = .next (((((s.setReg 0x0020 0x80000000).confineDevice
      (some { source := 4, code := 0x95 })).withReset 5 0 0 (6, 0))).afterCapture true)) ∧
    ((replayed s.us n s.replays).length < 64 →
      exec (.saddleFlitReplay n) s = .next { s with replays := SMap.set [] n (replayed s.us n s.replays) s.replays }) ∧
    (64 ≤ (replayed s.us n s.replays).length → exec (.saddleFlitReplay n) s = .next { s with
      replays := SMap.set [] n [] s.replays, training := SMap.set false n true s.training }) ∧
    (∀ id : Option (BitVec 8), exec (.saddleLinkRetrain n id) s = .next (State.linkLost { s with
      replays := SMap.set [] n [] s.replays, training := SMap.set false n false s.training
      linkIds := match id with
        | none => s.linkIds
        | some x => SMap.set 0 n (x.toNat + 1) s.linkIds
      linkDown := SMap.set false n (match id with
        | none => true
        | some x => s.expectsOther n x.toNat) s.linkDown })) ∧
    (∀ dir lane, let key := 2 * lane + (if dir then 1 else 0)
      (replayed s.us key s.colReplays).length < 16 → exec (.colBridgeReplay dir lane) s =
        .next { s with colReplays := SMap.set [] key (replayed s.us key s.colReplays) s.colReplays }) ∧
    (∀ dir lane, let key := 2 * lane + (if dir then 1 else 0)
      let d := if dir then 1 else 0
      16 ≤ (replayed s.us key s.colReplays).length →
      (SMap.get 0 d s.colSpares = 0 → exec (.colBridgeReplay dir lane) s =
        .next { s with colReplays := SMap.set [] key [] s.colReplays, colSpares := SMap.set 0 d 1 s.colSpares }) ∧
      (SMap.get 0 d s.colSpares ≠ 0 → exec (.colBridgeReplay dir lane) s =
        .next (State.confineDevice { s with colReplays := SMap.set [] key [] s.colReplays } (some { source := 4, code := 0x92 })))) ∧
    exec .pcieLinkDown s = .next (State.linkLost { s with pcieUp := false }) ∧
    exec (.priResponse n .success) s = .next (s.priEnds n none) ∧ exec (.priResponse n .failure) s = .next (s.priEnds n (some 0x08)) ∧
    exec (.priResponse n .malformed) s = .next (s.priEnds n (some 0x09)) ∧
    (s.pri.any (fun p => p.id == n && p.code == 0 && decide (p.sentAt + 100000 ≤ s.us)) = true →
      exec (.priTimeout n) s = .next (s.priEnds n (some 0x09))) ∧
    (∀ off, exec (.stateReadback n k off) s = .next (s.readBack 67 n k (off / 4 * 4))) ∧
    (∀ on, exec (.debugHaltControl n k on) s = .next (s.logWrite (.halt n k on))) ∧
    exec (.brkResume wave slot) s = .next (State.wakeIf { s with halted := s.halted.filter (fun h => h.1 != 64 * wave + slot) }
      (fun w f => w.id == wave && f.slot == slot && (match f.wait with
        | some (.halt _) => true
        | _ => false))) ∧
    (∀ h t, s.focusOn wave (h.1 % 64) = some t →
      (s.halted.find? (fun h => h.1 / 64 == wave && h.1 % 64 == slot) = some h →
        exec (.mgmtKill wave (some slot)) s = .next (State.endLanes { t with
          halted := t.halted.filter (fun h => !(h.1 / 64 == wave && h.1 % 64 == slot))
          watches := t.watches.filter (fun w => !(w.wave == wave && w.slot == slot)) } t.frag.mask (fun _ => 0xFFFF))) ∧
      (s.halted.find? (fun h => h.1 / 64 == wave) = some h →
        exec (.mgmtKill wave none) s = .next (State.endLanes { t with
          halted := t.halted.filter (fun h => h.1 / 64 != wave)
          watches := t.watches.filter (fun w => w.wave != wave) } t.wave.live (fun _ => 0xFFFF)))) ∧
    (∀ dr : BitVec 96, exec (.rbacc dr) s = .next (State.readBack
      { s with testIr := 0x40, rbacc := BitVec.ofNat 96 (dr.toNat / 2 ^ 40 * 2 ^ 40) } 68 (field dr.toNat 88 8) (field dr.toNat 72 16)
        (field dr.toNat 42 30 * 4))) ∧
    exec (.extest cells) s = .next { s with testIr := 0x00, bsr := cells } ∧
    exec (.sample cells) s = .next { s with testIr := 0x01, bsr := cells } ∧
    exec (.preload cells) s = .next { s with testIr := 0x02, bsr := cells } ∧
    exec .bypass s = .next { s with testIr := 0xFF, testBypass := false } ∧
    (s.testIr ≠ 0x40 → exec .captureDr s = .next { s with testBypass := false }) ∧
    (∀ r, s.testIr = 0x40 → s.logPending = [] → s.extReads.find? (fun r => r.meter == 68) = some r → exec .captureDr s = .next { s with
      rbacc := BitVec.ofNat 96 (s.rbacc.toNat / 2 ^ 40 * 2 ^ 40 + if r.result = .done then 2 ^ 32 + natOfBytes r.bytes else 0) }) ∧
    (s.bootState = 2 → n < 64 → k < 256 → ∀ v : Word,
      exec (.registerWrite (.doorbell n k 0x200) v) s = .next (s.frameHost n k (some v.toNat)) ∧
      exec (.registerWrite (.doorbell n k 0x108) v) s = .next (s.setBell n k 0x108 (v.toNat / 4096 * 4096)))

/-! ### The machine -/

/-- What power-on leaves (R55, R368, R373, R393, R420, R512): no work is resident and no confinement is open; every byte of
memory reads zero without poison under every key id; the device waits for an image, no partition is enabled, the fields
J and K of every partition hold 40 and 8, key slot 0 is plain and every other one off, and a queue has 64 entries, is
disabled and empty. -/
def Obligations.ResetValues : Prop :=
  let s := State.reset
  Memory.wf s.mem = true ∧ s.others = [] ∧ s.wgs = [] ∧ s.images = [] ∧ s.confs = [] ∧ s.launches = [] ∧ s.cmds = [] ∧
    s.focus = false ∧
    (∀ k p n, s.placeBytes k p n = List.replicate n 0 ∧ s.placeBad p n = false) ∧
    s.bootState = 0 ∧ s.openBar = false ∧
    (∀ i, i < 12 → s.partEn i = false ∧ s.partN i = 0 ∧ s.partJ i = 40 * 2 ^ 30 ∧ s.partK i = 8 * 2 ^ 30) ∧
    (∀ i f, i < 12 → f < 64 → s.vfEn i f = false) ∧
    (∀ k, k < 64 → s.keyMode k = (if k = 0 then 3 else 0) ∧ s.keyBusyBit k = false) ∧
    (∀ f c, s.bell f c 0x008 = 6 ∧ s.bell f c 0x014 = 2 ∧
      ∀ off, off = 0x000 ∨ off = 0x004 ∨ off = 0x00C ∨ off = 0x010 → s.bell f c off = 0)

/-- Words read from the encoding tables (R162, R168, R189, R220, R243, R271, R298, R336, R352, R415): the handler that R415
lists, the fence that R271 gives, and a word of every other family. -/
def Obligations.DecodeWords : Prop :=
  decode 0xF3BC8000 = .ok (.sysr (.x 60) 0x8000) ∧
  decode 0x40BD0002 = .ok (.movi (.x 61) 2) ∧
  decode 0x3D0FBCF8 = .ok (.cmp 0 15 (.x 60) (.k 24)) ∧
  decode 0x1500001F = .ok (.guard 1 15) ∧
  decode 0xF4BD800A = .ok (.sysw (.x 61) 0x800A) ∧
  decode 0xF2000007 = .ok (.trap 7) ∧
  decode 0xA7000010 = .ok (.fenceX 2 0) ∧
  decode 0x02300004 = .ok (.brt 3 4) ∧
  decode 0x530102FF = .ok (.ffma (.v 1) (.v 2) .lit) ∧
  decode 0x800542D3 = .ok (.ldG (.v 5) 2 2 (.sp 3)) ∧
  decode 0x8F0582D3 = .ok (.atomAdd (.v 5) false 2 (.sp 3)) ∧
  decode 0x8F0502D3 = .ok (.redAdd (.v 5) false 2 (.sp 3)) ∧
  decode 0xB0010280 = .ok (.mma 1 (.v 2) (.x 0)) ∧
  decode 0xD1048082 = .ok (.scfill (.v 4) (.x 0) (.x 2)) ∧
  decode 0xE2010200 = .ok (.afin (.v 1) (.v 2))

/-- Decoding and encoding agree (R160 to R178, R189, R220, R243, R271, R298, R336, R352): every instruction that has a
word is read back from it, whatever its operands, and a word that decodes is the word of the instruction it gives, so
that no bit of a word is dropped. -/
def Obligations.DecodeEncodeAgree : Prop :=
  (∀ (i : Instr) (w : Word), encode i = some w → decode w = .ok i) ∧
  (∀ (w : Word) (i : Instr), decode w = .ok i → encode i = some w)

/-- A step runs the decoded instruction (R62, R64, R159, R169, R460, R467, R468, R504): while a unit is being formed the step is
`exec` of the instruction that the next word decodes to, at the state that has read the word and noted it; a reserved field that is
not zero is noted too, an unassigned word runs as one, and a word that cannot be fetched takes the fetch's trap. A fetch that a key
slot holds is made again, and a word whose registers a load under way still writes waits for it, as a fragment whose next unit
meets one leaves the ready state before a port selects. Otherwise the agenda says who
moves: a port issues the first word of the unit of the fragment it selects, or an event or an error happens after the time it
gives; with nothing on the agenda the next port issues, or the device has its turn. What a step owes is reported, and time that has
passed counted, once it is over. With the dies unpowered nothing runs. The agenda is the model's own (note 1). -/
def Obligations.StepRunsDecoded : Prop :=
  ∀ (s : State),
    let turn := ended (State.turnOver s.aclk)
    let later (dt us : Nat) (rest : List Turn) : State := State.passUs us (State.pass { s with agenda := rest } dt)
    (s.canStep = false → step s = .fault .unpowered) ∧
    (s.canStep = true →
      (∀ (u : State) (w : Word), u.fetch = .ok (some w) →
        let v : State := u.codeSeen u.wAddr
        (v.awaits w = [] →
          let x : State := { v with iss := { v.iss with word := w } }
          (∀ i, decodeVersion v.version w = .ok i → stepUnit u = exec i x) ∧
          (∀ i, decodeVersion v.version w = .reservedField i → stepUnit u = exec i { x with iss := { x.iss with resv := true } }) ∧
          (decodeVersion v.version w = .unassigned → stepUnit u = exec (.unassignedOpcode w) x)) ∧
        (v.awaits w ≠ [] → stepUnit u = .next (v.awaitLoads (v.awaits w)))) ∧
      (∀ (u : State), u.fetch = .ok none → stepUnit u = .next u.parkAgain) ∧
      (∀ (u : State) (e : XFail), u.fetch = .error e → stepUnit u = .next (u.fetchTrap u.wAddr e)) ∧
      (s.focus = true → s.iss.n ≠ 0 → step s = turn (stepUnit s)) ∧
      (s.focus = false ∨ s.iss.n = 0 →
        (∀ core port rest, s.agenda = .issue core port :: rest →
          (∀ u, State.select { s with agenda := rest } core port = some u → step s = turn (stepUnit u)) ∧
          (State.select { s with agenda := rest } core port = none →
            step s = turn (.next ((State.settlePort core port 65 { s with agenda := rest }).cycle core)))) ∧
        (∀ dt us ev rest, s.agenda = .event dt us ev :: rest →
          step s = ended State.tidied (if isEvent ev then exec ev (later dt us rest) else .next (later dt us rest))) ∧
        (∀ dt us c rest, s.agenda = .chance dt us c :: rest → step s = .next (((later dt us rest).befall c).tidied)) ∧
        (s.agenda = [] →
          (∀ u, s.nextIssue = some u → step s = turn (stepUnit u)) ∧
          (s.nextIssue = none → step s = turn (.next (deviceTurn s))))))

/-- Memory keeps its canonical form (R159, R512): whatever the state, if a step answers a next state, storage places stay in
rising order and no entry holds the zero that an unlisted place reads as. The form is the model's own; ResetValues says that it
holds after power-on. -/
def Obligations.MemoryKept : Prop :=
  ∀ s t : State, Memory.wf s.mem = true → step s = .next t → Memory.wf t.mem = true
end

