-- ==== Sys2Proof/Laws/Map.lean ====
section
/-!
SUPPORT. Laws of the sparse maps: a read after a write, and the canonical form kept by every write.
-/

namespace Sys2Proof.Machine

theorem SMap.get_insert_same {α : Type} (d : α) (k : Nat) (v : α) (m : SMap α) :
    SMap.get d k (SMap.insert k v m) = v := by
  induction m with
  | nil => simp [SMap.insert, SMap.get]
  | cons e m ih =>
    obtain ⟨i, w⟩ := e
    unfold SMap.insert
    split
    · simp [SMap.get]
    · split
      · simp [SMap.get]
      · rename_i h
        simp [SMap.get, Ne.symm h, ih]

theorem SMap.get_insert_other {α : Type} (d : α) {k k' : Nat} (h : k' ≠ k) (v : α) (m : SMap α) :
    SMap.get d k' (SMap.insert k v m) = SMap.get d k' m := by
  induction m with
  | nil => simp [SMap.insert, SMap.get, Ne.symm h]
  | cons e m ih =>
    obtain ⟨i, w⟩ := e
    unfold SMap.insert
    split
    · simp [SMap.get, Ne.symm h]
    · split
      · rename_i hk
        subst hk
        simp [SMap.get, Ne.symm h]
      · simp [SMap.get, ih]

theorem SMap.get_erase_same {α : Type} (d : α) (k : Nat) (m : SMap α) :
    SMap.get d k (SMap.erase k m) = d := by
  induction m with
  | nil => rfl
  | cons e m ih =>
    obtain ⟨i, w⟩ := e
    unfold SMap.erase
    split
    · exact ih
    · rename_i h
      simp [SMap.get, h, ih]

theorem SMap.get_erase_other {α : Type} (d : α) {k k' : Nat} (h : k' ≠ k) (m : SMap α) :
    SMap.get d k' (SMap.erase k m) = SMap.get d k' m := by
  induction m with
  | nil => rfl
  | cons e m ih =>
    obtain ⟨i, w⟩ := e
    unfold SMap.erase
    split
    · rename_i hk
      subst hk
      simp [SMap.get, Ne.symm h, ih]
    · simp [SMap.get, ih]

/-- A read of the key just written gives the value written. -/
@[simp] theorem SMap.get_set_same {α : Type} [DecidableEq α] (d : α) (k : Nat) (v : α) (m : SMap α) :
    SMap.get d k (SMap.set d k v m) = v := by
  unfold SMap.set
  split
  · rename_i h
    rw [SMap.get_erase_same, h]
  · exact SMap.get_insert_same d k v m

/-- A write leaves every other key alone. -/
theorem SMap.get_set_other {α : Type} [DecidableEq α] (d : α) {k k' : Nat} (h : k' ≠ k) (v : α) (m : SMap α) :
    SMap.get d k' (SMap.set d k v m) = SMap.get d k' m := by
  unfold SMap.set
  split
  · exact SMap.get_erase_other d h m
  · exact SMap.get_insert_other d h v m

theorem SMap.wfFrom_mono {α : Type} [DecidableEq α] (d : α) {b c : Nat} (h : b ≤ c) {m : SMap α}
    (hm : SMap.wfFrom d c m = true) : SMap.wfFrom d b m = true := by
  cases m with
  | nil => rfl
  | cons e m =>
    obtain ⟨i, v⟩ := e
    simp only [SMap.wfFrom, Bool.and_eq_true, decide_eq_true_eq] at hm ⊢
    exact ⟨⟨le_trans h hm.1.1, hm.1.2⟩, hm.2⟩

theorem SMap.wfFrom_insert {α : Type} [DecidableEq α] (d : α) {b k : Nat} {v : α} (hv : v ≠ d) (hb : b ≤ k)
    {m : SMap α} (hm : SMap.wfFrom d b m = true) : SMap.wfFrom d b (SMap.insert k v m) = true := by
  induction m generalizing b with
  | nil => simp [SMap.insert, SMap.wfFrom, hv, hb]
  | cons e m ih =>
    obtain ⟨i, w⟩ := e
    simp only [SMap.wfFrom, Bool.and_eq_true, decide_eq_true_eq] at hm
    unfold SMap.insert
    split
    · rename_i hk
      simp only [SMap.wfFrom, Bool.and_eq_true, decide_eq_true_eq]
      exact ⟨⟨hb, hv⟩, ⟨hk, hm.1.2⟩, hm.2⟩
    · split
      · rename_i hk
        subst hk
        simp only [SMap.wfFrom, Bool.and_eq_true, decide_eq_true_eq]
        exact ⟨⟨hb, hv⟩, hm.2⟩
      · simp only [SMap.wfFrom, Bool.and_eq_true, decide_eq_true_eq]
        exact ⟨hm.1, ih (by omega) hm.2⟩

theorem SMap.wfFrom_erase {α : Type} [DecidableEq α] (d : α) {b k : Nat}
    {m : SMap α} (hm : SMap.wfFrom d b m = true) : SMap.wfFrom d b (SMap.erase k m) = true := by
  induction m generalizing b with
  | nil => rfl
  | cons e m ih =>
    obtain ⟨i, w⟩ := e
    simp only [SMap.wfFrom, Bool.and_eq_true, decide_eq_true_eq] at hm
    unfold SMap.erase
    split
    · exact SMap.wfFrom_mono d (le_trans hm.1.1 (Nat.le_succ i)) (ih hm.2)
    · simp only [SMap.wfFrom, Bool.and_eq_true, decide_eq_true_eq]
      exact ⟨hm.1, ih hm.2⟩

/-- A write keeps the canonical form. -/
theorem SMap.wf_set {α : Type} [DecidableEq α] (d : α) (k : Nat) (v : α) {m : SMap α}
    (hm : SMap.wf d m = true) : SMap.wf d (SMap.set d k v m) = true := by
  unfold SMap.set
  split
  · exact SMap.wfFrom_erase d hm
  · rename_i hv
    exact SMap.wfFrom_insert d hv (Nat.zero_le k) hm

/-- A write of consecutive keys keeps the canonical form. -/
theorem SMap.wf_setList {α : Type} [DecidableEq α] (d : α) (k : Nat) (vs : List α) {m : SMap α}
    (hm : SMap.wf d m = true) : SMap.wf d (SMap.setList d k vs m) = true := by
  induction vs generalizing k m with
  | nil => exact hm
  | cons v vs ih => exact ih (k + 1) (SMap.wf_set d k v hm)

/-- A write of consecutive keys leaves every key outside them alone. -/
theorem SMap.get_setList_other {α : Type} [DecidableEq α] (d : α) (k : Nat) (vs : List α) (m : SMap α) {j : Nat}
    (h : j < k ∨ k + vs.length ≤ j) : SMap.get d j (SMap.setList d k vs m) = SMap.get d j m := by
  induction vs generalizing k m with
  | nil => rfl
  | cons v vs ih =>
    simp only [List.length_cons] at h
    rw [SMap.setList, ih (k + 1) _ (by omega), SMap.get_set_other d (by omega)]

end Sys2Proof.Machine
end

