-- ==== Sys2Proof/Laws/State.lean ====
section
/-!
SUPPORT. One lemma per field per update: what retiring a unit, parking, blocking and the plainest writes leave alone.
-/

namespace Sys2Proof.Machine

variable (s : State)

@[simp] theorem State.frameRead_focus : s.frameRead.focus = s.focus := by unfold State.frameRead; split <;> rfl
@[simp] theorem State.frameRead_frag : s.frameRead.frag = s.frag := by unfold State.frameRead; split <;> rfl
@[simp] theorem State.frameRead_wave : s.frameRead.wave = s.wave := by unfold State.frameRead; split <;> rfl
@[simp] theorem State.frameRead_sibs : s.frameRead.sibs = s.sibs := by unfold State.frameRead; split <;> rfl
@[simp] theorem State.frameRead_wg : s.frameRead.wg = s.wg := by unfold State.frameRead; split <;> rfl
@[simp] theorem State.frameRead_iss : s.frameRead.iss = s.iss := by unfold State.frameRead; split <;> rfl
@[simp] theorem State.frameRead_others : s.frameRead.others = s.others := by unfold State.frameRead; split <;> rfl
@[simp] theorem State.frameRead_wgs : s.frameRead.wgs = s.wgs := by unfold State.frameRead; split <;> rfl
@[simp] theorem State.frameRead_saved : s.frameRead.saved = s.saved := by unfold State.frameRead; split <;> rfl
@[simp] theorem State.frameRead_images : s.frameRead.images = s.images := by unfold State.frameRead; split <;> rfl
@[simp] theorem State.frameRead_aclk : s.frameRead.aclk = s.aclk := by unfold State.frameRead; split <;> rfl
@[simp] theorem State.frameRead_us : s.frameRead.us = s.us := by unfold State.frameRead; split <;> rfl
@[simp] theorem State.frameRead_mem : s.frameRead.mem = s.mem := by unfold State.frameRead; split <;> rfl
@[simp] theorem State.frameRead_poison : s.frameRead.poison = s.poison := by unfold State.frameRead; split <;> rfl
@[simp] theorem State.frameRead_uncorr : s.frameRead.uncorr = s.uncorr := by unfold State.frameRead; split <;> rfl
@[simp] theorem State.frameRead_tags : s.frameRead.tags = s.tags := by unfold State.frameRead; split <;> rfl
@[simp] theorem State.frameRead_locs : s.frameRead.locs = s.locs := by unfold State.frameRead; split <;> rfl
@[simp] theorem State.frameRead_below : s.frameRead.below = s.below := by unfold State.frameRead; split <;> rfl
@[simp] theorem State.frameRead_tier : s.frameRead.tier = s.tier := by unfold State.frameRead; split <;> rfl
@[simp] theorem State.frameRead_cmem : s.frameRead.cmem = s.cmem := by unfold State.frameRead; split <;> rfl
@[simp] theorem State.frameRead_l1 : s.frameRead.l1 = s.l1 := by unfold State.frameRead; split <;> rfl
@[simp] theorem State.frameRead_l2 : s.frameRead.l2 = s.l2 := by unfold State.frameRead; split <;> rfl
@[simp] theorem State.frameRead_msc : s.frameRead.msc = s.msc := by unfold State.frameRead; split <;> rfl
@[simp] theorem State.frameRead_tlb : s.frameRead.tlb = s.tlb := by unfold State.frameRead; split <;> rfl
@[simp] theorem State.frameRead_older : s.frameRead.older = s.older := by unfold State.frameRead; split <;> rfl
@[simp] theorem State.frameRead_watches : s.frameRead.watches = s.watches := by unfold State.frameRead; split <;> rfl
@[simp] theorem State.frameRead_pendLoads : s.frameRead.pendLoads = s.pendLoads := by unfold State.frameRead; split <;> rfl
@[simp] theorem State.frameRead_regs : s.frameRead.regs = s.regs := by unfold State.frameRead; split <;> rfl
@[simp] theorem State.frameRead_dbell : s.frameRead.dbell = s.dbell := by unfold State.frameRead; split <;> rfl
@[simp] theorem State.frameRead_launches : s.frameRead.launches = s.launches := by unfold State.frameRead; split <;> rfl
@[simp] theorem State.frameRead_pending : s.frameRead.pending = s.pending := by unfold State.frameRead; split <;> rfl
@[simp] theorem State.frameRead_cmds : s.frameRead.cmds = s.cmds := by unfold State.frameRead; split <;> rfl
@[simp] theorem State.frameRead_doneCmds : s.frameRead.doneCmds = s.doneCmds := by unfold State.frameRead; split <;> rfl
@[simp] theorem State.frameRead_matq : s.frameRead.matq = s.matq := by unfold State.frameRead; split <;> rfl
@[simp] theorem State.frameRead_scTags : s.frameRead.scTags = s.scTags := by unfold State.frameRead; split <;> rfl
@[simp] theorem State.frameRead_jobs : s.frameRead.jobs = s.jobs := by unfold State.frameRead; split <;> rfl
@[simp] theorem State.frameRead_confs : s.frameRead.confs = s.confs := by unfold State.frameRead; split <;> rfl
@[simp] theorem State.frameRead_owed : s.frameRead.owed = s.owed := by unfold State.frameRead; split <;> rfl
@[simp] theorem State.frameRead_held : s.frameRead.held = s.held := by unfold State.frameRead; split <;> rfl
@[simp] theorem State.frameRead_logPending : s.frameRead.logPending = s.logPending := by unfold State.frameRead; split <;> rfl
@[simp] theorem State.frameRead_sent : s.frameRead.sent = s.sent := by unfold State.frameRead; split <;> rfl
@[simp] theorem State.frameRead_linkDown : s.frameRead.linkDown = s.linkDown := by unfold State.frameRead; split <;> rfl
@[simp] theorem State.frameRead_powered : s.frameRead.powered = s.powered := by unfold State.frameRead; split <;> rfl
@[simp] theorem State.frameRead_halted : s.frameRead.halted = s.halted := by unfold State.frameRead; split <;> rfl
@[simp] theorem State.frameRead_agenda : s.frameRead.agenda = s.agenda := by unfold State.frameRead; split <;> rfl
@[simp] theorem State.frameRead_hostMem : s.frameRead.hostMem = s.hostMem := by unfold State.frameRead; split <;> rfl
@[simp] theorem State.frameRead_atc : s.frameRead.atc = s.atc := by unfold State.frameRead; split <;> rfl
@[simp] theorem State.frameRead_pri : s.frameRead.pri = s.pri := by unfold State.frameRead; split <;> rfl
@[simp] theorem State.frameRead_pcieUp : s.frameRead.pcieUp = s.pcieUp := by unfold State.frameRead; split <;> rfl
@[simp] theorem State.frameRead_training : s.frameRead.training = s.training := by unfold State.frameRead; split <;> rfl
@[simp] theorem State.frameRead_locks : s.frameRead.locks = s.locks := by unfold State.frameRead; split <;> rfl
@[simp] theorem State.frameRead_heldIn : s.frameRead.heldIn = s.heldIn := by unfold State.frameRead; split <;> rfl
@[simp] theorem State.frameRead_heldOut : s.frameRead.heldOut = s.heldOut := by unfold State.frameRead; split <;> rfl
@[simp] theorem State.frameRead_keyBusy : s.frameRead.keyBusy = s.keyBusy := by unfold State.frameRead; split <;> rfl
@[simp] theorem State.frameRead_withdrawn : s.frameRead.withdrawn = s.withdrawn := by unfold State.frameRead; split <;> rfl
@[simp] theorem State.frameRead_ended : s.frameRead.ended = s.ended := by unfold State.frameRead; split <;> rfl
@[simp] theorem State.frameRead_free : s.frameRead.free = s.free := by unfold State.frameRead; split <;> rfl
@[simp] theorem State.frameRead_nextId : s.frameRead.nextId = s.nextId := by unfold State.frameRead; split <;> rfl

@[simp] theorem State.pass_focus (n : Nat) : (s.pass n).focus = s.focus := rfl
@[simp] theorem State.pass_frag (n : Nat) : (s.pass n).frag = s.frag := rfl
@[simp] theorem State.pass_wave (n : Nat) : (s.pass n).wave = s.wave := rfl
@[simp] theorem State.pass_sibs (n : Nat) : (s.pass n).sibs = s.sibs := rfl
@[simp] theorem State.pass_wg (n : Nat) : (s.pass n).wg = s.wg := rfl
@[simp] theorem State.pass_iss (n : Nat) : (s.pass n).iss = s.iss := rfl
@[simp] theorem State.pass_others (n : Nat) : (s.pass n).others = s.others := rfl
@[simp] theorem State.pass_wgs (n : Nat) : (s.pass n).wgs = s.wgs := rfl
@[simp] theorem State.pass_saved (n : Nat) : (s.pass n).saved = s.saved := rfl
@[simp] theorem State.pass_images (n : Nat) : (s.pass n).images = s.images := rfl
@[simp] theorem State.pass_us (n : Nat) : (s.pass n).us = s.us := rfl
@[simp] theorem State.pass_pts (n : Nat) : (s.pass n).pts = s.pts := rfl
@[simp] theorem State.pass_mem (n : Nat) : (s.pass n).mem = s.mem := rfl
@[simp] theorem State.pass_poison (n : Nat) : (s.pass n).poison = s.poison := rfl
@[simp] theorem State.pass_uncorr (n : Nat) : (s.pass n).uncorr = s.uncorr := rfl
@[simp] theorem State.pass_tags (n : Nat) : (s.pass n).tags = s.tags := rfl
@[simp] theorem State.pass_locs (n : Nat) : (s.pass n).locs = s.locs := rfl
@[simp] theorem State.pass_below (n : Nat) : (s.pass n).below = s.below := rfl
@[simp] theorem State.pass_tier (n : Nat) : (s.pass n).tier = s.tier := rfl
@[simp] theorem State.pass_cmem (n : Nat) : (s.pass n).cmem = s.cmem := rfl
@[simp] theorem State.pass_l1 (n : Nat) : (s.pass n).l1 = s.l1 := rfl
@[simp] theorem State.pass_l2 (n : Nat) : (s.pass n).l2 = s.l2 := rfl
@[simp] theorem State.pass_msc (n : Nat) : (s.pass n).msc = s.msc := rfl
@[simp] theorem State.pass_tlb (n : Nat) : (s.pass n).tlb = s.tlb := rfl
@[simp] theorem State.pass_older (n : Nat) : (s.pass n).older = s.older := rfl
@[simp] theorem State.pass_watches (n : Nat) : (s.pass n).watches = s.watches := rfl
@[simp] theorem State.pass_pendLoads (n : Nat) : (s.pass n).pendLoads = s.pendLoads := rfl
@[simp] theorem State.pass_regs (n : Nat) : (s.pass n).regs = s.regs := rfl
@[simp] theorem State.pass_dbell (n : Nat) : (s.pass n).dbell = s.dbell := rfl
@[simp] theorem State.pass_launches (n : Nat) : (s.pass n).launches = s.launches := rfl
@[simp] theorem State.pass_pending (n : Nat) : (s.pass n).pending = s.pending := rfl
@[simp] theorem State.pass_cmds (n : Nat) : (s.pass n).cmds = s.cmds := rfl
@[simp] theorem State.pass_doneCmds (n : Nat) : (s.pass n).doneCmds = s.doneCmds := rfl
@[simp] theorem State.pass_matq (n : Nat) : (s.pass n).matq = s.matq := rfl
@[simp] theorem State.pass_scTags (n : Nat) : (s.pass n).scTags = s.scTags := rfl
@[simp] theorem State.pass_jobs (n : Nat) : (s.pass n).jobs = s.jobs := rfl
@[simp] theorem State.pass_confs (n : Nat) : (s.pass n).confs = s.confs := rfl
@[simp] theorem State.pass_owed (n : Nat) : (s.pass n).owed = s.owed := rfl
@[simp] theorem State.pass_held (n : Nat) : (s.pass n).held = s.held := rfl
@[simp] theorem State.pass_logPending (n : Nat) : (s.pass n).logPending = s.logPending := rfl
@[simp] theorem State.pass_sent (n : Nat) : (s.pass n).sent = s.sent := rfl
@[simp] theorem State.pass_linkDown (n : Nat) : (s.pass n).linkDown = s.linkDown := rfl
@[simp] theorem State.pass_powered (n : Nat) : (s.pass n).powered = s.powered := rfl
@[simp] theorem State.pass_halted (n : Nat) : (s.pass n).halted = s.halted := rfl
@[simp] theorem State.pass_agenda (n : Nat) : (s.pass n).agenda = s.agenda := rfl
@[simp] theorem State.pass_hostMem (n : Nat) : (s.pass n).hostMem = s.hostMem := rfl
@[simp] theorem State.pass_atc (n : Nat) : (s.pass n).atc = s.atc := rfl
@[simp] theorem State.pass_pri (n : Nat) : (s.pass n).pri = s.pri := rfl
@[simp] theorem State.pass_pcieUp (n : Nat) : (s.pass n).pcieUp = s.pcieUp := rfl
@[simp] theorem State.pass_training (n : Nat) : (s.pass n).training = s.training := rfl
@[simp] theorem State.pass_locks (n : Nat) : (s.pass n).locks = s.locks := rfl
@[simp] theorem State.pass_heldIn (n : Nat) : (s.pass n).heldIn = s.heldIn := rfl
@[simp] theorem State.pass_heldOut (n : Nat) : (s.pass n).heldOut = s.heldOut := rfl
@[simp] theorem State.pass_keyBusy (n : Nat) : (s.pass n).keyBusy = s.keyBusy := rfl
@[simp] theorem State.pass_withdrawn (n : Nat) : (s.pass n).withdrawn = s.withdrawn := rfl
@[simp] theorem State.pass_ended (n : Nat) : (s.pass n).ended = s.ended := rfl
@[simp] theorem State.pass_free (n : Nat) : (s.pass n).free = s.free := rfl
@[simp] theorem State.pass_nextId (n : Nat) : (s.pass n).nextId = s.nextId := rfl

@[simp] theorem State.retire_focus (k : UnitKind) : (s.retire k).focus = s.focus := s.frameRead_focus
@[simp] theorem State.retire_sibs (k : UnitKind) : (s.retire k).sibs = s.sibs := s.frameRead_sibs
@[simp] theorem State.retire_wg (k : UnitKind) : (s.retire k).wg = s.wg := s.frameRead_wg
@[simp] theorem State.retire_others (k : UnitKind) : (s.retire k).others = s.others := s.frameRead_others
@[simp] theorem State.retire_wgs (k : UnitKind) : (s.retire k).wgs = s.wgs := s.frameRead_wgs
@[simp] theorem State.retire_saved (k : UnitKind) : (s.retire k).saved = s.saved := s.frameRead_saved
@[simp] theorem State.retire_images (k : UnitKind) : (s.retire k).images = s.images := s.frameRead_images
@[simp] theorem State.retire_us (k : UnitKind) : (s.retire k).us = s.us := s.frameRead_us
@[simp] theorem State.retire_mem (k : UnitKind) : (s.retire k).mem = s.mem := s.frameRead_mem
@[simp] theorem State.retire_poison (k : UnitKind) : (s.retire k).poison = s.poison := s.frameRead_poison
@[simp] theorem State.retire_uncorr (k : UnitKind) : (s.retire k).uncorr = s.uncorr := s.frameRead_uncorr
@[simp] theorem State.retire_tags (k : UnitKind) : (s.retire k).tags = s.tags := s.frameRead_tags
@[simp] theorem State.retire_locs (k : UnitKind) : (s.retire k).locs = s.locs := s.frameRead_locs
@[simp] theorem State.retire_below (k : UnitKind) : (s.retire k).below = s.below := s.frameRead_below
@[simp] theorem State.retire_tier (k : UnitKind) : (s.retire k).tier = s.tier := s.frameRead_tier
@[simp] theorem State.retire_cmem (k : UnitKind) : (s.retire k).cmem = s.cmem := s.frameRead_cmem
@[simp] theorem State.retire_l1 (k : UnitKind) : (s.retire k).l1 = s.l1 := s.frameRead_l1
@[simp] theorem State.retire_l2 (k : UnitKind) : (s.retire k).l2 = s.l2 := s.frameRead_l2
@[simp] theorem State.retire_msc (k : UnitKind) : (s.retire k).msc = s.msc := s.frameRead_msc
@[simp] theorem State.retire_tlb (k : UnitKind) : (s.retire k).tlb = s.tlb := s.frameRead_tlb
@[simp] theorem State.retire_older (k : UnitKind) : (s.retire k).older = s.older := s.frameRead_older
@[simp] theorem State.retire_watches (k : UnitKind) : (s.retire k).watches = s.watches := s.frameRead_watches
@[simp] theorem State.retire_pendLoads (k : UnitKind) : (s.retire k).pendLoads = s.pendLoads := s.frameRead_pendLoads
@[simp] theorem State.retire_regs (k : UnitKind) : (s.retire k).regs = s.regs := s.frameRead_regs
@[simp] theorem State.retire_dbell (k : UnitKind) : (s.retire k).dbell = s.dbell := s.frameRead_dbell
@[simp] theorem State.retire_launches (k : UnitKind) : (s.retire k).launches = s.launches := s.frameRead_launches
@[simp] theorem State.retire_pending (k : UnitKind) : (s.retire k).pending = s.pending := s.frameRead_pending
@[simp] theorem State.retire_cmds (k : UnitKind) : (s.retire k).cmds = s.cmds := s.frameRead_cmds
@[simp] theorem State.retire_doneCmds (k : UnitKind) : (s.retire k).doneCmds = s.doneCmds := s.frameRead_doneCmds
@[simp] theorem State.retire_matq (k : UnitKind) : (s.retire k).matq = s.matq := s.frameRead_matq
@[simp] theorem State.retire_scTags (k : UnitKind) : (s.retire k).scTags = s.scTags := s.frameRead_scTags
@[simp] theorem State.retire_jobs (k : UnitKind) : (s.retire k).jobs = s.jobs := s.frameRead_jobs
@[simp] theorem State.retire_confs (k : UnitKind) : (s.retire k).confs = s.confs := s.frameRead_confs
@[simp] theorem State.retire_owed (k : UnitKind) : (s.retire k).owed = s.owed := s.frameRead_owed
@[simp] theorem State.retire_held (k : UnitKind) : (s.retire k).held = s.held := s.frameRead_held
@[simp] theorem State.retire_logPending (k : UnitKind) : (s.retire k).logPending = s.logPending := s.frameRead_logPending
@[simp] theorem State.retire_sent (k : UnitKind) : (s.retire k).sent = s.sent := s.frameRead_sent
@[simp] theorem State.retire_linkDown (k : UnitKind) : (s.retire k).linkDown = s.linkDown := s.frameRead_linkDown
@[simp] theorem State.retire_powered (k : UnitKind) : (s.retire k).powered = s.powered := s.frameRead_powered
@[simp] theorem State.retire_halted (k : UnitKind) : (s.retire k).halted = s.halted := s.frameRead_halted
@[simp] theorem State.retire_agenda (k : UnitKind) : (s.retire k).agenda = s.agenda := s.frameRead_agenda
@[simp] theorem State.retire_hostMem (k : UnitKind) : (s.retire k).hostMem = s.hostMem := s.frameRead_hostMem
@[simp] theorem State.retire_atc (k : UnitKind) : (s.retire k).atc = s.atc := s.frameRead_atc
@[simp] theorem State.retire_pri (k : UnitKind) : (s.retire k).pri = s.pri := s.frameRead_pri
@[simp] theorem State.retire_pcieUp (k : UnitKind) : (s.retire k).pcieUp = s.pcieUp := s.frameRead_pcieUp
@[simp] theorem State.retire_training (k : UnitKind) : (s.retire k).training = s.training := s.frameRead_training
@[simp] theorem State.retire_locks (k : UnitKind) : (s.retire k).locks = s.locks := s.frameRead_locks
@[simp] theorem State.retire_heldIn (k : UnitKind) : (s.retire k).heldIn = s.heldIn := s.frameRead_heldIn
@[simp] theorem State.retire_heldOut (k : UnitKind) : (s.retire k).heldOut = s.heldOut := s.frameRead_heldOut
@[simp] theorem State.retire_keyBusy (k : UnitKind) : (s.retire k).keyBusy = s.keyBusy := s.frameRead_keyBusy
@[simp] theorem State.retire_withdrawn (k : UnitKind) : (s.retire k).withdrawn = s.withdrawn := s.frameRead_withdrawn
@[simp] theorem State.retire_ended (k : UnitKind) : (s.retire k).ended = s.ended := s.frameRead_ended
@[simp] theorem State.retire_free (k : UnitKind) : (s.retire k).free = s.free := s.frameRead_free
@[simp] theorem State.retire_nextId (k : UnitKind) : (s.retire k).nextId = s.nextId := s.frameRead_nextId

@[simp] theorem State.park_focus (u : VAddr) (w : Wait) : (s.park u w).focus = s.focus := rfl
@[simp] theorem State.park_wave (u : VAddr) (w : Wait) : (s.park u w).wave = s.wave := rfl
@[simp] theorem State.park_sibs (u : VAddr) (w : Wait) : (s.park u w).sibs = s.sibs := rfl
@[simp] theorem State.park_wg (u : VAddr) (w : Wait) : (s.park u w).wg = s.wg := rfl
@[simp] theorem State.park_iss (u : VAddr) (w : Wait) : (s.park u w).iss = s.iss := rfl
@[simp] theorem State.park_others (u : VAddr) (w : Wait) : (s.park u w).others = s.others := rfl
@[simp] theorem State.park_wgs (u : VAddr) (w : Wait) : (s.park u w).wgs = s.wgs := rfl
@[simp] theorem State.park_saved (u : VAddr) (w : Wait) : (s.park u w).saved = s.saved := rfl
@[simp] theorem State.park_images (u : VAddr) (w : Wait) : (s.park u w).images = s.images := rfl
@[simp] theorem State.park_aclk (u : VAddr) (w : Wait) : (s.park u w).aclk = s.aclk := rfl
@[simp] theorem State.park_us (u : VAddr) (w : Wait) : (s.park u w).us = s.us := rfl
@[simp] theorem State.park_pts (u : VAddr) (w : Wait) : (s.park u w).pts = s.pts := rfl
@[simp] theorem State.park_mem (u : VAddr) (w : Wait) : (s.park u w).mem = s.mem := rfl
@[simp] theorem State.park_poison (u : VAddr) (w : Wait) : (s.park u w).poison = s.poison := rfl
@[simp] theorem State.park_uncorr (u : VAddr) (w : Wait) : (s.park u w).uncorr = s.uncorr := rfl
@[simp] theorem State.park_tags (u : VAddr) (w : Wait) : (s.park u w).tags = s.tags := rfl
@[simp] theorem State.park_locs (u : VAddr) (w : Wait) : (s.park u w).locs = s.locs := rfl
@[simp] theorem State.park_below (u : VAddr) (w : Wait) : (s.park u w).below = s.below := rfl
@[simp] theorem State.park_tier (u : VAddr) (w : Wait) : (s.park u w).tier = s.tier := rfl
@[simp] theorem State.park_cmem (u : VAddr) (w : Wait) : (s.park u w).cmem = s.cmem := rfl
@[simp] theorem State.park_l1 (u : VAddr) (w : Wait) : (s.park u w).l1 = s.l1 := rfl
@[simp] theorem State.park_l2 (u : VAddr) (w : Wait) : (s.park u w).l2 = s.l2 := rfl
@[simp] theorem State.park_msc (u : VAddr) (w : Wait) : (s.park u w).msc = s.msc := rfl
@[simp] theorem State.park_tlb (u : VAddr) (w : Wait) : (s.park u w).tlb = s.tlb := rfl
@[simp] theorem State.park_older (u : VAddr) (w : Wait) : (s.park u w).older = s.older := rfl
@[simp] theorem State.park_watches (u : VAddr) (w : Wait) : (s.park u w).watches = s.watches := rfl
@[simp] theorem State.park_pendLoads (u : VAddr) (w : Wait) : (s.park u w).pendLoads = s.pendLoads := rfl
@[simp] theorem State.park_regs (u : VAddr) (w : Wait) : (s.park u w).regs = s.regs := rfl
@[simp] theorem State.park_dbell (u : VAddr) (w : Wait) : (s.park u w).dbell = s.dbell := rfl
@[simp] theorem State.park_launches (u : VAddr) (w : Wait) : (s.park u w).launches = s.launches := rfl
@[simp] theorem State.park_pending (u : VAddr) (w : Wait) : (s.park u w).pending = s.pending := rfl
@[simp] theorem State.park_cmds (u : VAddr) (w : Wait) : (s.park u w).cmds = s.cmds := rfl
@[simp] theorem State.park_doneCmds (u : VAddr) (w : Wait) : (s.park u w).doneCmds = s.doneCmds := rfl
@[simp] theorem State.park_matq (u : VAddr) (w : Wait) : (s.park u w).matq = s.matq := rfl
@[simp] theorem State.park_scTags (u : VAddr) (w : Wait) : (s.park u w).scTags = s.scTags := rfl
@[simp] theorem State.park_jobs (u : VAddr) (w : Wait) : (s.park u w).jobs = s.jobs := rfl
@[simp] theorem State.park_confs (u : VAddr) (w : Wait) : (s.park u w).confs = s.confs := rfl
@[simp] theorem State.park_owed (u : VAddr) (w : Wait) : (s.park u w).owed = s.owed := rfl
@[simp] theorem State.park_held (u : VAddr) (w : Wait) : (s.park u w).held = s.held := rfl
@[simp] theorem State.park_logPending (u : VAddr) (w : Wait) : (s.park u w).logPending = s.logPending := rfl
@[simp] theorem State.park_sent (u : VAddr) (w : Wait) : (s.park u w).sent = s.sent := rfl
@[simp] theorem State.park_linkDown (u : VAddr) (w : Wait) : (s.park u w).linkDown = s.linkDown := rfl
@[simp] theorem State.park_powered (u : VAddr) (w : Wait) : (s.park u w).powered = s.powered := rfl
@[simp] theorem State.park_halted (u : VAddr) (w : Wait) : (s.park u w).halted = s.halted := rfl
@[simp] theorem State.park_agenda (u : VAddr) (w : Wait) : (s.park u w).agenda = s.agenda := rfl
@[simp] theorem State.park_hostMem (u : VAddr) (w : Wait) : (s.park u w).hostMem = s.hostMem := rfl
@[simp] theorem State.park_atc (u : VAddr) (w : Wait) : (s.park u w).atc = s.atc := rfl
@[simp] theorem State.park_pri (u : VAddr) (w : Wait) : (s.park u w).pri = s.pri := rfl
@[simp] theorem State.park_pcieUp (u : VAddr) (w : Wait) : (s.park u w).pcieUp = s.pcieUp := rfl
@[simp] theorem State.park_training (u : VAddr) (w : Wait) : (s.park u w).training = s.training := rfl
@[simp] theorem State.park_locks (u : VAddr) (w : Wait) : (s.park u w).locks = s.locks := rfl
@[simp] theorem State.park_heldIn (u : VAddr) (w : Wait) : (s.park u w).heldIn = s.heldIn := rfl
@[simp] theorem State.park_heldOut (u : VAddr) (w : Wait) : (s.park u w).heldOut = s.heldOut := rfl
@[simp] theorem State.park_keyBusy (u : VAddr) (w : Wait) : (s.park u w).keyBusy = s.keyBusy := rfl
@[simp] theorem State.park_withdrawn (u : VAddr) (w : Wait) : (s.park u w).withdrawn = s.withdrawn := rfl
@[simp] theorem State.park_ended (u : VAddr) (w : Wait) : (s.park u w).ended = s.ended := rfl
@[simp] theorem State.park_free (u : VAddr) (w : Wait) : (s.park u w).free = s.free := rfl
@[simp] theorem State.park_nextId (u : VAddr) (w : Wait) : (s.park u w).nextId = s.nextId := rfl

@[simp] theorem State.block_focus (u : VAddr) (w : Wait) : (s.block u w).focus = s.focus := rfl
@[simp] theorem State.block_wave (u : VAddr) (w : Wait) : (s.block u w).wave = s.wave := rfl
@[simp] theorem State.block_sibs (u : VAddr) (w : Wait) : (s.block u w).sibs = s.sibs := rfl
@[simp] theorem State.block_wg (u : VAddr) (w : Wait) : (s.block u w).wg = s.wg := rfl
@[simp] theorem State.block_iss (u : VAddr) (w : Wait) : (s.block u w).iss = s.iss := rfl
@[simp] theorem State.block_others (u : VAddr) (w : Wait) : (s.block u w).others = s.others := rfl
@[simp] theorem State.block_wgs (u : VAddr) (w : Wait) : (s.block u w).wgs = s.wgs := rfl
@[simp] theorem State.block_saved (u : VAddr) (w : Wait) : (s.block u w).saved = s.saved := rfl
@[simp] theorem State.block_images (u : VAddr) (w : Wait) : (s.block u w).images = s.images := rfl
@[simp] theorem State.block_aclk (u : VAddr) (w : Wait) : (s.block u w).aclk = s.aclk := rfl
@[simp] theorem State.block_us (u : VAddr) (w : Wait) : (s.block u w).us = s.us := rfl
@[simp] theorem State.block_pts (u : VAddr) (w : Wait) : (s.block u w).pts = s.pts := rfl
@[simp] theorem State.block_mem (u : VAddr) (w : Wait) : (s.block u w).mem = s.mem := rfl
@[simp] theorem State.block_poison (u : VAddr) (w : Wait) : (s.block u w).poison = s.poison := rfl
@[simp] theorem State.block_uncorr (u : VAddr) (w : Wait) : (s.block u w).uncorr = s.uncorr := rfl
@[simp] theorem State.block_tags (u : VAddr) (w : Wait) : (s.block u w).tags = s.tags := rfl
@[simp] theorem State.block_locs (u : VAddr) (w : Wait) : (s.block u w).locs = s.locs := rfl
@[simp] theorem State.block_below (u : VAddr) (w : Wait) : (s.block u w).below = s.below := rfl
@[simp] theorem State.block_tier (u : VAddr) (w : Wait) : (s.block u w).tier = s.tier := rfl
@[simp] theorem State.block_cmem (u : VAddr) (w : Wait) : (s.block u w).cmem = s.cmem := rfl
@[simp] theorem State.block_l1 (u : VAddr) (w : Wait) : (s.block u w).l1 = s.l1 := rfl
@[simp] theorem State.block_l2 (u : VAddr) (w : Wait) : (s.block u w).l2 = s.l2 := rfl
@[simp] theorem State.block_msc (u : VAddr) (w : Wait) : (s.block u w).msc = s.msc := rfl
@[simp] theorem State.block_tlb (u : VAddr) (w : Wait) : (s.block u w).tlb = s.tlb := rfl
@[simp] theorem State.block_older (u : VAddr) (w : Wait) : (s.block u w).older = s.older := rfl
@[simp] theorem State.block_watches (u : VAddr) (w : Wait) : (s.block u w).watches = s.watches := rfl
@[simp] theorem State.block_pendLoads (u : VAddr) (w : Wait) : (s.block u w).pendLoads = s.pendLoads := rfl
@[simp] theorem State.block_regs (u : VAddr) (w : Wait) : (s.block u w).regs = s.regs := rfl
@[simp] theorem State.block_dbell (u : VAddr) (w : Wait) : (s.block u w).dbell = s.dbell := rfl
@[simp] theorem State.block_launches (u : VAddr) (w : Wait) : (s.block u w).launches = s.launches := rfl
@[simp] theorem State.block_pending (u : VAddr) (w : Wait) : (s.block u w).pending = s.pending := rfl
@[simp] theorem State.block_cmds (u : VAddr) (w : Wait) : (s.block u w).cmds = s.cmds := rfl
@[simp] theorem State.block_doneCmds (u : VAddr) (w : Wait) : (s.block u w).doneCmds = s.doneCmds := rfl
@[simp] theorem State.block_matq (u : VAddr) (w : Wait) : (s.block u w).matq = s.matq := rfl
@[simp] theorem State.block_scTags (u : VAddr) (w : Wait) : (s.block u w).scTags = s.scTags := rfl
@[simp] theorem State.block_jobs (u : VAddr) (w : Wait) : (s.block u w).jobs = s.jobs := rfl
@[simp] theorem State.block_confs (u : VAddr) (w : Wait) : (s.block u w).confs = s.confs := rfl
@[simp] theorem State.block_owed (u : VAddr) (w : Wait) : (s.block u w).owed = s.owed := rfl
@[simp] theorem State.block_held (u : VAddr) (w : Wait) : (s.block u w).held = s.held := rfl
@[simp] theorem State.block_logPending (u : VAddr) (w : Wait) : (s.block u w).logPending = s.logPending := rfl
@[simp] theorem State.block_sent (u : VAddr) (w : Wait) : (s.block u w).sent = s.sent := rfl
@[simp] theorem State.block_linkDown (u : VAddr) (w : Wait) : (s.block u w).linkDown = s.linkDown := rfl
@[simp] theorem State.block_powered (u : VAddr) (w : Wait) : (s.block u w).powered = s.powered := rfl
@[simp] theorem State.block_halted (u : VAddr) (w : Wait) : (s.block u w).halted = s.halted := rfl
@[simp] theorem State.block_agenda (u : VAddr) (w : Wait) : (s.block u w).agenda = s.agenda := rfl
@[simp] theorem State.block_hostMem (u : VAddr) (w : Wait) : (s.block u w).hostMem = s.hostMem := rfl
@[simp] theorem State.block_atc (u : VAddr) (w : Wait) : (s.block u w).atc = s.atc := rfl
@[simp] theorem State.block_pri (u : VAddr) (w : Wait) : (s.block u w).pri = s.pri := rfl
@[simp] theorem State.block_pcieUp (u : VAddr) (w : Wait) : (s.block u w).pcieUp = s.pcieUp := rfl
@[simp] theorem State.block_training (u : VAddr) (w : Wait) : (s.block u w).training = s.training := rfl
@[simp] theorem State.block_locks (u : VAddr) (w : Wait) : (s.block u w).locks = s.locks := rfl
@[simp] theorem State.block_heldIn (u : VAddr) (w : Wait) : (s.block u w).heldIn = s.heldIn := rfl
@[simp] theorem State.block_heldOut (u : VAddr) (w : Wait) : (s.block u w).heldOut = s.heldOut := rfl
@[simp] theorem State.block_keyBusy (u : VAddr) (w : Wait) : (s.block u w).keyBusy = s.keyBusy := rfl
@[simp] theorem State.block_withdrawn (u : VAddr) (w : Wait) : (s.block u w).withdrawn = s.withdrawn := rfl
@[simp] theorem State.block_ended (u : VAddr) (w : Wait) : (s.block u w).ended = s.ended := rfl
@[simp] theorem State.block_free (u : VAddr) (w : Wait) : (s.block u w).free = s.free := rfl
@[simp] theorem State.block_nextId (u : VAddr) (w : Wait) : (s.block u w).nextId = s.nextId := rfl

@[simp] theorem State.parkAgain_focus : (s.parkAgain).focus = s.focus := rfl
@[simp] theorem State.parkAgain_wave : (s.parkAgain).wave = s.wave := rfl
@[simp] theorem State.parkAgain_sibs : (s.parkAgain).sibs = s.sibs := rfl
@[simp] theorem State.parkAgain_wg : (s.parkAgain).wg = s.wg := rfl
@[simp] theorem State.parkAgain_others : (s.parkAgain).others = s.others := rfl
@[simp] theorem State.parkAgain_wgs : (s.parkAgain).wgs = s.wgs := rfl
@[simp] theorem State.parkAgain_saved : (s.parkAgain).saved = s.saved := rfl
@[simp] theorem State.parkAgain_images : (s.parkAgain).images = s.images := rfl
@[simp] theorem State.parkAgain_us : (s.parkAgain).us = s.us := rfl
@[simp] theorem State.parkAgain_pts : (s.parkAgain).pts = s.pts := rfl
@[simp] theorem State.parkAgain_mem : (s.parkAgain).mem = s.mem := rfl
@[simp] theorem State.parkAgain_poison : (s.parkAgain).poison = s.poison := rfl
@[simp] theorem State.parkAgain_uncorr : (s.parkAgain).uncorr = s.uncorr := rfl
@[simp] theorem State.parkAgain_tags : (s.parkAgain).tags = s.tags := rfl
@[simp] theorem State.parkAgain_locs : (s.parkAgain).locs = s.locs := rfl
@[simp] theorem State.parkAgain_below : (s.parkAgain).below = s.below := rfl
@[simp] theorem State.parkAgain_tier : (s.parkAgain).tier = s.tier := rfl
@[simp] theorem State.parkAgain_cmem : (s.parkAgain).cmem = s.cmem := rfl
@[simp] theorem State.parkAgain_l1 : (s.parkAgain).l1 = s.l1 := rfl
@[simp] theorem State.parkAgain_l2 : (s.parkAgain).l2 = s.l2 := rfl
@[simp] theorem State.parkAgain_msc : (s.parkAgain).msc = s.msc := rfl
@[simp] theorem State.parkAgain_tlb : (s.parkAgain).tlb = s.tlb := rfl
@[simp] theorem State.parkAgain_older : (s.parkAgain).older = s.older := rfl
@[simp] theorem State.parkAgain_watches : (s.parkAgain).watches = s.watches := rfl
@[simp] theorem State.parkAgain_pendLoads : (s.parkAgain).pendLoads = s.pendLoads := rfl
@[simp] theorem State.parkAgain_regs : (s.parkAgain).regs = s.regs := rfl
@[simp] theorem State.parkAgain_dbell : (s.parkAgain).dbell = s.dbell := rfl
@[simp] theorem State.parkAgain_launches : (s.parkAgain).launches = s.launches := rfl
@[simp] theorem State.parkAgain_pending : (s.parkAgain).pending = s.pending := rfl
@[simp] theorem State.parkAgain_cmds : (s.parkAgain).cmds = s.cmds := rfl
@[simp] theorem State.parkAgain_doneCmds : (s.parkAgain).doneCmds = s.doneCmds := rfl
@[simp] theorem State.parkAgain_matq : (s.parkAgain).matq = s.matq := rfl
@[simp] theorem State.parkAgain_scTags : (s.parkAgain).scTags = s.scTags := rfl
@[simp] theorem State.parkAgain_jobs : (s.parkAgain).jobs = s.jobs := rfl
@[simp] theorem State.parkAgain_confs : (s.parkAgain).confs = s.confs := rfl
@[simp] theorem State.parkAgain_owed : (s.parkAgain).owed = s.owed := rfl
@[simp] theorem State.parkAgain_held : (s.parkAgain).held = s.held := rfl
@[simp] theorem State.parkAgain_logPending : (s.parkAgain).logPending = s.logPending := rfl
@[simp] theorem State.parkAgain_sent : (s.parkAgain).sent = s.sent := rfl
@[simp] theorem State.parkAgain_linkDown : (s.parkAgain).linkDown = s.linkDown := rfl
@[simp] theorem State.parkAgain_powered : (s.parkAgain).powered = s.powered := rfl
@[simp] theorem State.parkAgain_halted : (s.parkAgain).halted = s.halted := rfl
@[simp] theorem State.parkAgain_agenda : (s.parkAgain).agenda = s.agenda := rfl
@[simp] theorem State.parkAgain_hostMem : (s.parkAgain).hostMem = s.hostMem := rfl
@[simp] theorem State.parkAgain_atc : (s.parkAgain).atc = s.atc := rfl
@[simp] theorem State.parkAgain_pri : (s.parkAgain).pri = s.pri := rfl
@[simp] theorem State.parkAgain_pcieUp : (s.parkAgain).pcieUp = s.pcieUp := rfl
@[simp] theorem State.parkAgain_training : (s.parkAgain).training = s.training := rfl
@[simp] theorem State.parkAgain_locks : (s.parkAgain).locks = s.locks := rfl
@[simp] theorem State.parkAgain_heldIn : (s.parkAgain).heldIn = s.heldIn := rfl
@[simp] theorem State.parkAgain_heldOut : (s.parkAgain).heldOut = s.heldOut := rfl
@[simp] theorem State.parkAgain_keyBusy : (s.parkAgain).keyBusy = s.keyBusy := rfl
@[simp] theorem State.parkAgain_withdrawn : (s.parkAgain).withdrawn = s.withdrawn := rfl
@[simp] theorem State.parkAgain_ended : (s.parkAgain).ended = s.ended := rfl
@[simp] theorem State.parkAgain_free : (s.parkAgain).free = s.free := rfl
@[simp] theorem State.parkAgain_nextId : (s.parkAgain).nextId = s.nextId := rfl

@[simp] theorem State.blockAgain_focus : (s.blockAgain).focus = s.focus := rfl
@[simp] theorem State.blockAgain_wave : (s.blockAgain).wave = s.wave := rfl
@[simp] theorem State.blockAgain_sibs : (s.blockAgain).sibs = s.sibs := rfl
@[simp] theorem State.blockAgain_wg : (s.blockAgain).wg = s.wg := rfl
@[simp] theorem State.blockAgain_others : (s.blockAgain).others = s.others := rfl
@[simp] theorem State.blockAgain_wgs : (s.blockAgain).wgs = s.wgs := rfl
@[simp] theorem State.blockAgain_saved : (s.blockAgain).saved = s.saved := rfl
@[simp] theorem State.blockAgain_images : (s.blockAgain).images = s.images := rfl
@[simp] theorem State.blockAgain_us : (s.blockAgain).us = s.us := rfl
@[simp] theorem State.blockAgain_pts : (s.blockAgain).pts = s.pts := rfl
@[simp] theorem State.blockAgain_mem : (s.blockAgain).mem = s.mem := rfl
@[simp] theorem State.blockAgain_poison : (s.blockAgain).poison = s.poison := rfl
@[simp] theorem State.blockAgain_uncorr : (s.blockAgain).uncorr = s.uncorr := rfl
@[simp] theorem State.blockAgain_tags : (s.blockAgain).tags = s.tags := rfl
@[simp] theorem State.blockAgain_locs : (s.blockAgain).locs = s.locs := rfl
@[simp] theorem State.blockAgain_below : (s.blockAgain).below = s.below := rfl
@[simp] theorem State.blockAgain_tier : (s.blockAgain).tier = s.tier := rfl
@[simp] theorem State.blockAgain_cmem : (s.blockAgain).cmem = s.cmem := rfl
@[simp] theorem State.blockAgain_l1 : (s.blockAgain).l1 = s.l1 := rfl
@[simp] theorem State.blockAgain_l2 : (s.blockAgain).l2 = s.l2 := rfl
@[simp] theorem State.blockAgain_msc : (s.blockAgain).msc = s.msc := rfl
@[simp] theorem State.blockAgain_tlb : (s.blockAgain).tlb = s.tlb := rfl
@[simp] theorem State.blockAgain_older : (s.blockAgain).older = s.older := rfl
@[simp] theorem State.blockAgain_watches : (s.blockAgain).watches = s.watches := rfl
@[simp] theorem State.blockAgain_pendLoads : (s.blockAgain).pendLoads = s.pendLoads := rfl
@[simp] theorem State.blockAgain_regs : (s.blockAgain).regs = s.regs := rfl
@[simp] theorem State.blockAgain_dbell : (s.blockAgain).dbell = s.dbell := rfl
@[simp] theorem State.blockAgain_launches : (s.blockAgain).launches = s.launches := rfl
@[simp] theorem State.blockAgain_pending : (s.blockAgain).pending = s.pending := rfl
@[simp] theorem State.blockAgain_cmds : (s.blockAgain).cmds = s.cmds := rfl
@[simp] theorem State.blockAgain_doneCmds : (s.blockAgain).doneCmds = s.doneCmds := rfl
@[simp] theorem State.blockAgain_matq : (s.blockAgain).matq = s.matq := rfl
@[simp] theorem State.blockAgain_scTags : (s.blockAgain).scTags = s.scTags := rfl
@[simp] theorem State.blockAgain_jobs : (s.blockAgain).jobs = s.jobs := rfl
@[simp] theorem State.blockAgain_confs : (s.blockAgain).confs = s.confs := rfl
@[simp] theorem State.blockAgain_owed : (s.blockAgain).owed = s.owed := rfl
@[simp] theorem State.blockAgain_held : (s.blockAgain).held = s.held := rfl
@[simp] theorem State.blockAgain_logPending : (s.blockAgain).logPending = s.logPending := rfl
@[simp] theorem State.blockAgain_sent : (s.blockAgain).sent = s.sent := rfl
@[simp] theorem State.blockAgain_linkDown : (s.blockAgain).linkDown = s.linkDown := rfl
@[simp] theorem State.blockAgain_powered : (s.blockAgain).powered = s.powered := rfl
@[simp] theorem State.blockAgain_halted : (s.blockAgain).halted = s.halted := rfl
@[simp] theorem State.blockAgain_agenda : (s.blockAgain).agenda = s.agenda := rfl
@[simp] theorem State.blockAgain_hostMem : (s.blockAgain).hostMem = s.hostMem := rfl
@[simp] theorem State.blockAgain_atc : (s.blockAgain).atc = s.atc := rfl
@[simp] theorem State.blockAgain_pri : (s.blockAgain).pri = s.pri := rfl
@[simp] theorem State.blockAgain_pcieUp : (s.blockAgain).pcieUp = s.pcieUp := rfl
@[simp] theorem State.blockAgain_training : (s.blockAgain).training = s.training := rfl
@[simp] theorem State.blockAgain_locks : (s.blockAgain).locks = s.locks := rfl
@[simp] theorem State.blockAgain_heldIn : (s.blockAgain).heldIn = s.heldIn := rfl
@[simp] theorem State.blockAgain_heldOut : (s.blockAgain).heldOut = s.heldOut := rfl
@[simp] theorem State.blockAgain_keyBusy : (s.blockAgain).keyBusy = s.keyBusy := rfl
@[simp] theorem State.blockAgain_withdrawn : (s.blockAgain).withdrawn = s.withdrawn := rfl
@[simp] theorem State.blockAgain_ended : (s.blockAgain).ended = s.ended := rfl
@[simp] theorem State.blockAgain_free : (s.blockAgain).free = s.free := rfl
@[simp] theorem State.blockAgain_nextId : (s.blockAgain).nextId = s.nextId := rfl

@[simp] theorem State.setP_focus (p l : Nat) (v : Tri) : (s.setP p l v).focus = s.focus := rfl
@[simp] theorem State.setP_frag (p l : Nat) (v : Tri) : (s.setP p l v).frag = s.frag := rfl
@[simp] theorem State.setP_sibs (p l : Nat) (v : Tri) : (s.setP p l v).sibs = s.sibs := rfl
@[simp] theorem State.setP_wg (p l : Nat) (v : Tri) : (s.setP p l v).wg = s.wg := rfl
@[simp] theorem State.setP_iss (p l : Nat) (v : Tri) : (s.setP p l v).iss = s.iss := rfl
@[simp] theorem State.setP_others (p l : Nat) (v : Tri) : (s.setP p l v).others = s.others := rfl
@[simp] theorem State.setP_wgs (p l : Nat) (v : Tri) : (s.setP p l v).wgs = s.wgs := rfl
@[simp] theorem State.setP_saved (p l : Nat) (v : Tri) : (s.setP p l v).saved = s.saved := rfl
@[simp] theorem State.setP_images (p l : Nat) (v : Tri) : (s.setP p l v).images = s.images := rfl
@[simp] theorem State.setP_aclk (p l : Nat) (v : Tri) : (s.setP p l v).aclk = s.aclk := rfl
@[simp] theorem State.setP_us (p l : Nat) (v : Tri) : (s.setP p l v).us = s.us := rfl
@[simp] theorem State.setP_pts (p l : Nat) (v : Tri) : (s.setP p l v).pts = s.pts := rfl
@[simp] theorem State.setP_mem (p l : Nat) (v : Tri) : (s.setP p l v).mem = s.mem := rfl
@[simp] theorem State.setP_poison (p l : Nat) (v : Tri) : (s.setP p l v).poison = s.poison := rfl
@[simp] theorem State.setP_uncorr (p l : Nat) (v : Tri) : (s.setP p l v).uncorr = s.uncorr := rfl
@[simp] theorem State.setP_tags (p l : Nat) (v : Tri) : (s.setP p l v).tags = s.tags := rfl
@[simp] theorem State.setP_locs (p l : Nat) (v : Tri) : (s.setP p l v).locs = s.locs := rfl
@[simp] theorem State.setP_below (p l : Nat) (v : Tri) : (s.setP p l v).below = s.below := rfl
@[simp] theorem State.setP_tier (p l : Nat) (v : Tri) : (s.setP p l v).tier = s.tier := rfl
@[simp] theorem State.setP_cmem (p l : Nat) (v : Tri) : (s.setP p l v).cmem = s.cmem := rfl
@[simp] theorem State.setP_l1 (p l : Nat) (v : Tri) : (s.setP p l v).l1 = s.l1 := rfl
@[simp] theorem State.setP_l2 (p l : Nat) (v : Tri) : (s.setP p l v).l2 = s.l2 := rfl
@[simp] theorem State.setP_msc (p l : Nat) (v : Tri) : (s.setP p l v).msc = s.msc := rfl
@[simp] theorem State.setP_tlb (p l : Nat) (v : Tri) : (s.setP p l v).tlb = s.tlb := rfl
@[simp] theorem State.setP_older (p l : Nat) (v : Tri) : (s.setP p l v).older = s.older := rfl
@[simp] theorem State.setP_watches (p l : Nat) (v : Tri) : (s.setP p l v).watches = s.watches := rfl
@[simp] theorem State.setP_pendLoads (p l : Nat) (v : Tri) : (s.setP p l v).pendLoads = s.pendLoads := rfl
@[simp] theorem State.setP_regs (p l : Nat) (v : Tri) : (s.setP p l v).regs = s.regs := rfl
@[simp] theorem State.setP_dbell (p l : Nat) (v : Tri) : (s.setP p l v).dbell = s.dbell := rfl
@[simp] theorem State.setP_launches (p l : Nat) (v : Tri) : (s.setP p l v).launches = s.launches := rfl
@[simp] theorem State.setP_pending (p l : Nat) (v : Tri) : (s.setP p l v).pending = s.pending := rfl
@[simp] theorem State.setP_cmds (p l : Nat) (v : Tri) : (s.setP p l v).cmds = s.cmds := rfl
@[simp] theorem State.setP_doneCmds (p l : Nat) (v : Tri) : (s.setP p l v).doneCmds = s.doneCmds := rfl
@[simp] theorem State.setP_matq (p l : Nat) (v : Tri) : (s.setP p l v).matq = s.matq := rfl
@[simp] theorem State.setP_scTags (p l : Nat) (v : Tri) : (s.setP p l v).scTags = s.scTags := rfl
@[simp] theorem State.setP_jobs (p l : Nat) (v : Tri) : (s.setP p l v).jobs = s.jobs := rfl
@[simp] theorem State.setP_confs (p l : Nat) (v : Tri) : (s.setP p l v).confs = s.confs := rfl
@[simp] theorem State.setP_owed (p l : Nat) (v : Tri) : (s.setP p l v).owed = s.owed := rfl
@[simp] theorem State.setP_held (p l : Nat) (v : Tri) : (s.setP p l v).held = s.held := rfl
@[simp] theorem State.setP_logPending (p l : Nat) (v : Tri) : (s.setP p l v).logPending = s.logPending := rfl
@[simp] theorem State.setP_sent (p l : Nat) (v : Tri) : (s.setP p l v).sent = s.sent := rfl
@[simp] theorem State.setP_linkDown (p l : Nat) (v : Tri) : (s.setP p l v).linkDown = s.linkDown := rfl
@[simp] theorem State.setP_powered (p l : Nat) (v : Tri) : (s.setP p l v).powered = s.powered := rfl
@[simp] theorem State.setP_halted (p l : Nat) (v : Tri) : (s.setP p l v).halted = s.halted := rfl
@[simp] theorem State.setP_agenda (p l : Nat) (v : Tri) : (s.setP p l v).agenda = s.agenda := rfl
@[simp] theorem State.setP_hostMem (p l : Nat) (v : Tri) : (s.setP p l v).hostMem = s.hostMem := rfl
@[simp] theorem State.setP_atc (p l : Nat) (v : Tri) : (s.setP p l v).atc = s.atc := rfl
@[simp] theorem State.setP_pri (p l : Nat) (v : Tri) : (s.setP p l v).pri = s.pri := rfl
@[simp] theorem State.setP_pcieUp (p l : Nat) (v : Tri) : (s.setP p l v).pcieUp = s.pcieUp := rfl
@[simp] theorem State.setP_training (p l : Nat) (v : Tri) : (s.setP p l v).training = s.training := rfl
@[simp] theorem State.setP_locks (p l : Nat) (v : Tri) : (s.setP p l v).locks = s.locks := rfl
@[simp] theorem State.setP_heldIn (p l : Nat) (v : Tri) : (s.setP p l v).heldIn = s.heldIn := rfl
@[simp] theorem State.setP_heldOut (p l : Nat) (v : Tri) : (s.setP p l v).heldOut = s.heldOut := rfl
@[simp] theorem State.setP_keyBusy (p l : Nat) (v : Tri) : (s.setP p l v).keyBusy = s.keyBusy := rfl
@[simp] theorem State.setP_withdrawn (p l : Nat) (v : Tri) : (s.setP p l v).withdrawn = s.withdrawn := rfl
@[simp] theorem State.setP_ended (p l : Nat) (v : Tri) : (s.setP p l v).ended = s.ended := rfl
@[simp] theorem State.setP_free (p l : Nat) (v : Tri) : (s.setP p l v).free = s.free := rfl
@[simp] theorem State.setP_nextId (p l : Nat) (v : Tri) : (s.setP p l v).nextId = s.nextId := rfl

@[simp] theorem State.setReg_focus (a : Nat) (v : Word) : (s.setReg a v).focus = s.focus := rfl
@[simp] theorem State.setReg_frag (a : Nat) (v : Word) : (s.setReg a v).frag = s.frag := rfl
@[simp] theorem State.setReg_wave (a : Nat) (v : Word) : (s.setReg a v).wave = s.wave := rfl
@[simp] theorem State.setReg_sibs (a : Nat) (v : Word) : (s.setReg a v).sibs = s.sibs := rfl
@[simp] theorem State.setReg_wg (a : Nat) (v : Word) : (s.setReg a v).wg = s.wg := rfl
@[simp] theorem State.setReg_iss (a : Nat) (v : Word) : (s.setReg a v).iss = s.iss := rfl
@[simp] theorem State.setReg_others (a : Nat) (v : Word) : (s.setReg a v).others = s.others := rfl
@[simp] theorem State.setReg_wgs (a : Nat) (v : Word) : (s.setReg a v).wgs = s.wgs := rfl
@[simp] theorem State.setReg_saved (a : Nat) (v : Word) : (s.setReg a v).saved = s.saved := rfl
@[simp] theorem State.setReg_images (a : Nat) (v : Word) : (s.setReg a v).images = s.images := rfl
@[simp] theorem State.setReg_aclk (a : Nat) (v : Word) : (s.setReg a v).aclk = s.aclk := rfl
@[simp] theorem State.setReg_us (a : Nat) (v : Word) : (s.setReg a v).us = s.us := rfl
@[simp] theorem State.setReg_pts (a : Nat) (v : Word) : (s.setReg a v).pts = s.pts := rfl
@[simp] theorem State.setReg_mem (a : Nat) (v : Word) : (s.setReg a v).mem = s.mem := rfl
@[simp] theorem State.setReg_poison (a : Nat) (v : Word) : (s.setReg a v).poison = s.poison := rfl
@[simp] theorem State.setReg_uncorr (a : Nat) (v : Word) : (s.setReg a v).uncorr = s.uncorr := rfl
@[simp] theorem State.setReg_tags (a : Nat) (v : Word) : (s.setReg a v).tags = s.tags := rfl
@[simp] theorem State.setReg_locs (a : Nat) (v : Word) : (s.setReg a v).locs = s.locs := rfl
@[simp] theorem State.setReg_below (a : Nat) (v : Word) : (s.setReg a v).below = s.below := rfl
@[simp] theorem State.setReg_tier (a : Nat) (v : Word) : (s.setReg a v).tier = s.tier := rfl
@[simp] theorem State.setReg_cmem (a : Nat) (v : Word) : (s.setReg a v).cmem = s.cmem := rfl
@[simp] theorem State.setReg_l1 (a : Nat) (v : Word) : (s.setReg a v).l1 = s.l1 := rfl
@[simp] theorem State.setReg_l2 (a : Nat) (v : Word) : (s.setReg a v).l2 = s.l2 := rfl
@[simp] theorem State.setReg_msc (a : Nat) (v : Word) : (s.setReg a v).msc = s.msc := rfl
@[simp] theorem State.setReg_tlb (a : Nat) (v : Word) : (s.setReg a v).tlb = s.tlb := rfl
@[simp] theorem State.setReg_older (a : Nat) (v : Word) : (s.setReg a v).older = s.older := rfl
@[simp] theorem State.setReg_watches (a : Nat) (v : Word) : (s.setReg a v).watches = s.watches := rfl
@[simp] theorem State.setReg_pendLoads (a : Nat) (v : Word) : (s.setReg a v).pendLoads = s.pendLoads := rfl
@[simp] theorem State.setReg_dbell (a : Nat) (v : Word) : (s.setReg a v).dbell = s.dbell := rfl
@[simp] theorem State.setReg_launches (a : Nat) (v : Word) : (s.setReg a v).launches = s.launches := rfl
@[simp] theorem State.setReg_pending (a : Nat) (v : Word) : (s.setReg a v).pending = s.pending := rfl
@[simp] theorem State.setReg_cmds (a : Nat) (v : Word) : (s.setReg a v).cmds = s.cmds := rfl
@[simp] theorem State.setReg_doneCmds (a : Nat) (v : Word) : (s.setReg a v).doneCmds = s.doneCmds := rfl
@[simp] theorem State.setReg_matq (a : Nat) (v : Word) : (s.setReg a v).matq = s.matq := rfl
@[simp] theorem State.setReg_scTags (a : Nat) (v : Word) : (s.setReg a v).scTags = s.scTags := rfl
@[simp] theorem State.setReg_jobs (a : Nat) (v : Word) : (s.setReg a v).jobs = s.jobs := rfl
@[simp] theorem State.setReg_confs (a : Nat) (v : Word) : (s.setReg a v).confs = s.confs := rfl
@[simp] theorem State.setReg_owed (a : Nat) (v : Word) : (s.setReg a v).owed = s.owed := rfl
@[simp] theorem State.setReg_held (a : Nat) (v : Word) : (s.setReg a v).held = s.held := rfl
@[simp] theorem State.setReg_logPending (a : Nat) (v : Word) : (s.setReg a v).logPending = s.logPending := rfl
@[simp] theorem State.setReg_sent (a : Nat) (v : Word) : (s.setReg a v).sent = s.sent := rfl
@[simp] theorem State.setReg_linkDown (a : Nat) (v : Word) : (s.setReg a v).linkDown = s.linkDown := rfl
@[simp] theorem State.setReg_powered (a : Nat) (v : Word) : (s.setReg a v).powered = s.powered := rfl
@[simp] theorem State.setReg_halted (a : Nat) (v : Word) : (s.setReg a v).halted = s.halted := rfl
@[simp] theorem State.setReg_agenda (a : Nat) (v : Word) : (s.setReg a v).agenda = s.agenda := rfl
@[simp] theorem State.setReg_hostMem (a : Nat) (v : Word) : (s.setReg a v).hostMem = s.hostMem := rfl
@[simp] theorem State.setReg_atc (a : Nat) (v : Word) : (s.setReg a v).atc = s.atc := rfl
@[simp] theorem State.setReg_pri (a : Nat) (v : Word) : (s.setReg a v).pri = s.pri := rfl
@[simp] theorem State.setReg_pcieUp (a : Nat) (v : Word) : (s.setReg a v).pcieUp = s.pcieUp := rfl
@[simp] theorem State.setReg_training (a : Nat) (v : Word) : (s.setReg a v).training = s.training := rfl
@[simp] theorem State.setReg_locks (a : Nat) (v : Word) : (s.setReg a v).locks = s.locks := rfl
@[simp] theorem State.setReg_heldIn (a : Nat) (v : Word) : (s.setReg a v).heldIn = s.heldIn := rfl
@[simp] theorem State.setReg_heldOut (a : Nat) (v : Word) : (s.setReg a v).heldOut = s.heldOut := rfl
@[simp] theorem State.setReg_keyBusy (a : Nat) (v : Word) : (s.setReg a v).keyBusy = s.keyBusy := rfl
@[simp] theorem State.setReg_withdrawn (a : Nat) (v : Word) : (s.setReg a v).withdrawn = s.withdrawn := rfl
@[simp] theorem State.setReg_ended (a : Nat) (v : Word) : (s.setReg a v).ended = s.ended := rfl
@[simp] theorem State.setReg_free (a : Nat) (v : Word) : (s.setReg a v).free = s.free := rfl
@[simp] theorem State.setReg_nextId (a : Nat) (v : Word) : (s.setReg a v).nextId = s.nextId := rfl

@[simp] theorem State.setBell_focus (f c off v : Nat) : (s.setBell f c off v).focus = s.focus := rfl
@[simp] theorem State.setBell_frag (f c off v : Nat) : (s.setBell f c off v).frag = s.frag := rfl
@[simp] theorem State.setBell_wave (f c off v : Nat) : (s.setBell f c off v).wave = s.wave := rfl
@[simp] theorem State.setBell_sibs (f c off v : Nat) : (s.setBell f c off v).sibs = s.sibs := rfl
@[simp] theorem State.setBell_wg (f c off v : Nat) : (s.setBell f c off v).wg = s.wg := rfl
@[simp] theorem State.setBell_iss (f c off v : Nat) : (s.setBell f c off v).iss = s.iss := rfl
@[simp] theorem State.setBell_others (f c off v : Nat) : (s.setBell f c off v).others = s.others := rfl
@[simp] theorem State.setBell_wgs (f c off v : Nat) : (s.setBell f c off v).wgs = s.wgs := rfl
@[simp] theorem State.setBell_saved (f c off v : Nat) : (s.setBell f c off v).saved = s.saved := rfl
@[simp] theorem State.setBell_images (f c off v : Nat) : (s.setBell f c off v).images = s.images := rfl
@[simp] theorem State.setBell_aclk (f c off v : Nat) : (s.setBell f c off v).aclk = s.aclk := rfl
@[simp] theorem State.setBell_us (f c off v : Nat) : (s.setBell f c off v).us = s.us := rfl
@[simp] theorem State.setBell_pts (f c off v : Nat) : (s.setBell f c off v).pts = s.pts := rfl
@[simp] theorem State.setBell_mem (f c off v : Nat) : (s.setBell f c off v).mem = s.mem := rfl
@[simp] theorem State.setBell_poison (f c off v : Nat) : (s.setBell f c off v).poison = s.poison := rfl
@[simp] theorem State.setBell_uncorr (f c off v : Nat) : (s.setBell f c off v).uncorr = s.uncorr := rfl
@[simp] theorem State.setBell_tags (f c off v : Nat) : (s.setBell f c off v).tags = s.tags := rfl
@[simp] theorem State.setBell_locs (f c off v : Nat) : (s.setBell f c off v).locs = s.locs := rfl
@[simp] theorem State.setBell_below (f c off v : Nat) : (s.setBell f c off v).below = s.below := rfl
@[simp] theorem State.setBell_tier (f c off v : Nat) : (s.setBell f c off v).tier = s.tier := rfl
@[simp] theorem State.setBell_cmem (f c off v : Nat) : (s.setBell f c off v).cmem = s.cmem := rfl
@[simp] theorem State.setBell_l1 (f c off v : Nat) : (s.setBell f c off v).l1 = s.l1 := rfl
@[simp] theorem State.setBell_l2 (f c off v : Nat) : (s.setBell f c off v).l2 = s.l2 := rfl
@[simp] theorem State.setBell_msc (f c off v : Nat) : (s.setBell f c off v).msc = s.msc := rfl
@[simp] theorem State.setBell_tlb (f c off v : Nat) : (s.setBell f c off v).tlb = s.tlb := rfl
@[simp] theorem State.setBell_older (f c off v : Nat) : (s.setBell f c off v).older = s.older := rfl
@[simp] theorem State.setBell_watches (f c off v : Nat) : (s.setBell f c off v).watches = s.watches := rfl
@[simp] theorem State.setBell_pendLoads (f c off v : Nat) : (s.setBell f c off v).pendLoads = s.pendLoads := rfl
@[simp] theorem State.setBell_regs (f c off v : Nat) : (s.setBell f c off v).regs = s.regs := rfl
@[simp] theorem State.setBell_launches (f c off v : Nat) : (s.setBell f c off v).launches = s.launches := rfl
@[simp] theorem State.setBell_pending (f c off v : Nat) : (s.setBell f c off v).pending = s.pending := rfl
@[simp] theorem State.setBell_cmds (f c off v : Nat) : (s.setBell f c off v).cmds = s.cmds := rfl
@[simp] theorem State.setBell_doneCmds (f c off v : Nat) : (s.setBell f c off v).doneCmds = s.doneCmds := rfl
@[simp] theorem State.setBell_matq (f c off v : Nat) : (s.setBell f c off v).matq = s.matq := rfl
@[simp] theorem State.setBell_scTags (f c off v : Nat) : (s.setBell f c off v).scTags = s.scTags := rfl
@[simp] theorem State.setBell_jobs (f c off v : Nat) : (s.setBell f c off v).jobs = s.jobs := rfl
@[simp] theorem State.setBell_confs (f c off v : Nat) : (s.setBell f c off v).confs = s.confs := rfl
@[simp] theorem State.setBell_owed (f c off v : Nat) : (s.setBell f c off v).owed = s.owed := rfl
@[simp] theorem State.setBell_held (f c off v : Nat) : (s.setBell f c off v).held = s.held := rfl
@[simp] theorem State.setBell_logPending (f c off v : Nat) : (s.setBell f c off v).logPending = s.logPending := rfl
@[simp] theorem State.setBell_sent (f c off v : Nat) : (s.setBell f c off v).sent = s.sent := rfl
@[simp] theorem State.setBell_linkDown (f c off v : Nat) : (s.setBell f c off v).linkDown = s.linkDown := rfl
@[simp] theorem State.setBell_powered (f c off v : Nat) : (s.setBell f c off v).powered = s.powered := rfl
@[simp] theorem State.setBell_halted (f c off v : Nat) : (s.setBell f c off v).halted = s.halted := rfl
@[simp] theorem State.setBell_agenda (f c off v : Nat) : (s.setBell f c off v).agenda = s.agenda := rfl
@[simp] theorem State.setBell_hostMem (f c off v : Nat) : (s.setBell f c off v).hostMem = s.hostMem := rfl
@[simp] theorem State.setBell_atc (f c off v : Nat) : (s.setBell f c off v).atc = s.atc := rfl
@[simp] theorem State.setBell_pri (f c off v : Nat) : (s.setBell f c off v).pri = s.pri := rfl
@[simp] theorem State.setBell_pcieUp (f c off v : Nat) : (s.setBell f c off v).pcieUp = s.pcieUp := rfl
@[simp] theorem State.setBell_training (f c off v : Nat) : (s.setBell f c off v).training = s.training := rfl
@[simp] theorem State.setBell_locks (f c off v : Nat) : (s.setBell f c off v).locks = s.locks := rfl
@[simp] theorem State.setBell_heldIn (f c off v : Nat) : (s.setBell f c off v).heldIn = s.heldIn := rfl
@[simp] theorem State.setBell_heldOut (f c off v : Nat) : (s.setBell f c off v).heldOut = s.heldOut := rfl
@[simp] theorem State.setBell_keyBusy (f c off v : Nat) : (s.setBell f c off v).keyBusy = s.keyBusy := rfl
@[simp] theorem State.setBell_withdrawn (f c off v : Nat) : (s.setBell f c off v).withdrawn = s.withdrawn := rfl
@[simp] theorem State.setBell_ended (f c off v : Nat) : (s.setBell f c off v).ended = s.ended := rfl
@[simp] theorem State.setBell_free (f c off v : Nat) : (s.setBell f c off v).free = s.free := rfl
@[simp] theorem State.setBell_nextId (f c off v : Nat) : (s.setBell f c off v).nextId = s.nextId := rfl

@[simp] theorem State.retire_iss (k : UnitKind) : (s.retire k).iss = {} := rfl
@[simp] theorem State.retire_wave (k : UnitKind) : (s.retire k).wave = { s.wave with place := none } := by
  rw [← s.frameRead_wave]; rfl
@[simp] theorem State.retire_frag_slot (k : UnitKind) : (s.retire k).frag.slot = s.frag.slot := by rw [← s.frameRead_frag]; rfl
@[simp] theorem State.retire_frag_mask (k : UnitKind) : (s.retire k).frag.mask = s.frag.mask := by rw [← s.frameRead_frag]; rfl
@[simp] theorem State.retire_frag_mr (k : UnitKind) : (s.retire k).frag.mr = s.frag.mr := by rw [← s.frameRead_frag]; rfl
@[simp] theorem State.retire_frag_fbPc (k : UnitKind) : (s.retire k).frag.fbPc = s.frag.fbPc := by rw [← s.frameRead_frag]; rfl
@[simp] theorem State.retire_frag_fbEntry (k : UnitKind) : (s.retire k).frag.fbEntry = s.frag.fbEntry := by rw [← s.frameRead_frag]; rfl
@[simp] theorem State.retire_frag_shadow (k : UnitKind) : (s.retire k).frag.shadow = s.frag.shadow := by rw [← s.frameRead_frag]; rfl
@[simp] theorem State.retire_frag_defers (k : UnitKind) : (s.retire k).frag.defers = s.frag.defers := by rw [← s.frameRead_frag]; rfl
@[simp] theorem State.retire_frag_armed (k : UnitKind) : (s.retire k).frag.armed = s.frag.armed := by rw [← s.frameRead_frag]; rfl
@[simp] theorem State.retire_frag_chain (k : UnitKind) : (s.retire k).frag.chain = s.frag.chain := by rw [← s.frameRead_frag]; rfl
@[simp] theorem State.retire_frag_status (k : UnitKind) : (s.retire k).frag.status = s.frag.status := by rw [← s.frameRead_frag]; rfl
@[simp] theorem State.retire_frag_wait (k : UnitKind) : (s.retire k).frag.wait = s.frag.wait := by rw [← s.frameRead_frag]; rfl
@[simp] theorem State.parkAgain_iss : s.parkAgain.iss = {} := rfl
@[simp] theorem State.parkAgain_pc : s.parkAgain.frag.pc = s.frag.pc := rfl
@[simp] theorem State.park_pc (u : VAddr) (w : Wait) : (s.park u w).frag.pc = u := rfl
@[simp] theorem State.park_status (u : VAddr) (w : Wait) : (s.park u w).frag.status = .waiting := rfl
@[simp] theorem State.park_wait (u : VAddr) (w : Wait) : (s.park u w).frag.wait = some w := rfl
@[simp] theorem State.block_status (u : VAddr) (w : Wait) : (s.block u w).frag.status = .blocked := rfl
@[simp] theorem State.block_wait (u : VAddr) (w : Wait) : (s.block u w).frag.wait = some w := rfl

end Sys2Proof.Machine
end

