-- ==== Sys2Proof/Laws/Unit.lean ====
section
/-!
SUPPORT. What the shared form of a meaning can do: the unit traps, or it retires and has its effect; and what writing
a destination lane by lane does to the wave's registers.
-/

namespace Sys2Proof.Machine

theorem raised_nil : raised [] = none := rfl

/-- A unit whose conditions are not empty raises one of them. -/
theorem raised_isSome {cs : List Cond} (h : cs ≠ []) : (raised cs).isSome = true := by
  cases cs with
  | nil => exact absurd rfl h
  | cons c cs => simp [raised, bestOf]

/-- A unit is judged free of traps exactly when no condition holds. -/
theorem judged_none_iff (s : State) (k : UnitKind) (cs : List Cond) :
    s.judged k cs = none ↔ s.unitConds k = [] ∧ cs = [] := by
  constructor
  · intro h
    by_cases hc : s.unitConds k ++ cs = []
    · simpa using hc
    · have := raised_isSome hc
      simp only [State.judged] at h
      simp [h] at this
  · rintro ⟨h1, h2⟩
    simp [State.judged, h1, h2, raised_nil]

/-- A unit with no condition retires and has its effect. -/
theorem issueK_next {s : State} {k : UnitKind} {cs : List Cond} {eff : State → State}
    (h : s.unitConds k = []) (hc : cs = []) : s.issueK k cs eff = .next (eff (s.retire k)) := by
  simp [State.issueK, (judged_none_iff s k cs).mpr ⟨h, hc⟩]

theorem issue_next {s : State} {cs : List Cond} {eff : State → State}
    (h : s.unitConds .plain = []) (hc : cs = []) : s.issue cs eff = .next (eff (s.retire .plain)) :=
  issueK_next h hc

/-- A unit that raises a condition takes its trap, and has no effect of its own. -/
theorem issueK_trap {s : State} {k : UnitKind} {cs : List Cond} {eff : State → State} {c : Cond}
    (h : s.judged k cs = some c) : s.issueK k cs eff = .next (s.takeTrap s.exec c) := by
  simp [State.issueK, h]

/-- All that the shared form can do. -/
theorem issueK_cases {s t : State} {k : UnitKind} {cs : List Cond} {eff : State → State}
    (h : s.issueK k cs eff = .next t) :
    (∃ c, s.judged k cs = some c ∧ t = s.takeTrap s.exec c) ∨ (s.judged k cs = none ∧ t = eff (s.retire k)) := by
  unfold State.issueK at h
  split at h
  · next c hc => exact .inl ⟨c, hc, by simpa using h.symm⟩
  · next hc => exact .inr ⟨hc, by simpa using h.symm⟩

theorem encCond_nil {s : State} {b : Bool} {c : Nat} : s.encCond b c = [] ↔ b = false := by
  unfold State.encCond; split <;> simp_all

theorem laneCond_nil {c : Nat} {m : LaneMask} {a x : Nat} : laneCond c m a x = [] ↔ m = 0 := by
  unfold laneCond; split <;> simp_all

theorem mem_lanesOf {m : LaneMask} {l : Nat} : l ∈ lanesOf m ↔ l < 32 ∧ m.getLsbD l = true := by
  simp [lanesOf]

theorem nodup_lanesOf (m : LaneMask) : (lanesOf m).Nodup := List.Nodup.filter _ List.nodup_range

theorem runLanes_subset {d : Operand} {m : LaneMask} {l : Nat} (h : l ∈ runLanes d m) : l ∈ lanesOf m := by
  unfold runLanes at h
  split at h
  · exact List.mem_of_mem_take h
  · exact h

theorem nodup_runLanes (d : Operand) (m : LaneMask) : (runLanes d m).Nodup := by
  unfold runLanes
  split
  · exact (nodup_lanesOf m).sublist (List.take_sublist _ _)
  · exact nodup_lanesOf m

/-- A lane lies in the mask of a list exactly when the list names it. -/
theorem getLsbD_maskOf (ls : List Nat) (l : Nat) : (maskOf ls).getLsbD l = (decide (l < 32) && decide (l ∈ ls)) := by
  induction ls with
  | nil => simp [maskOf]
  | cons k ls ih =>
    simp only [maskOf, BitVec.getLsbD_or, BitVec.getLsbD_twoPow, ih, List.mem_cons]
    by_cases h : l < 32 <;> by_cases h' : l = k
    · subst h'; simp [h]
    · simp [h', Ne.symm h']
    · simp [h']; omega
    · simp [h, Ne.symm h']

theorem lanesOf_lanesWhere (m : LaneMask) (p : Nat → Bool) : lanesOf (lanesWhere m p) = (lanesOf m).filter p := by
  unfold lanesOf lanesWhere
  rw [List.filter_filter]
  refine List.filter_congr ?_
  intro l hl
  have h32 : l < 32 := List.mem_range.mp hl
  rw [getLsbD_maskOf]
  have : l ∈ (lanesOf m).filter p ↔ m.getLsbD l = true ∧ p l = true := by
    simp [lanesOf, h32, and_comm]
  simp only [this, h32, decide_true, Bool.true_and]
  by_cases a : m.getLsbD l <;> by_cases b : p l <;> simp [a, b]

theorem maskOf_nil : maskOf [] = 0 := rfl

/-- No lane satisfies a test exactly when the mask of those that do is empty. -/
theorem lanesWhere_zero {m : LaneMask} {p : Nat → Bool} (h : ∀ l ∈ lanesOf m, p l = false) : lanesWhere m p = 0 := by
  unfold lanesWhere
  have : (lanesOf m).filter p = [] := by
    simp only [List.filter_eq_nil_iff, Bool.not_eq_true]
    exact h
  rw [this]; rfl

end Sys2Proof.Machine
end

