-- ==== Sys2Proof/Laws/Lanes.lean ====
section
/-!
SUPPORT. Everything that writing a destination lane by lane does (Operands.lean): the registers written hold the words
of the value, and nothing else of the wave changes.
-/

namespace Sys2Proof.Machine

/-- A write of one lane of one register group. -/
theorem setV_reads (s : State) (rd l n v : Nat) (p : Bool) (hl : l < 32) (r l' : Nat) (hl' : l' < 32) :
    (s.setV rd l n v p).vreg r l' =
      (if l' = l ∧ rd ≤ r ∧ r < rd + n then BitVec.ofNat 32 (v / 2 ^ (32 * (r - rd))) else s.vreg r l') ∧
    (s.setV rd l n v p).vpoison r l' = (if l' = l ∧ rd ≤ r ∧ r < rd + n then p else s.vpoison r l') := by
  unfold State.setV
  induction n with
  | zero =>
    have : ¬(l' = l ∧ rd ≤ r ∧ r < rd + 0) := by omega
    simp only [this, if_false]; exact ⟨rfl, rfl⟩
  | succ n ih =>
    rw [List.range_succ, List.foldl_append]
    simp only [List.foldl_cons, List.foldl_nil, State.vreg, State.vpoison] at ih ⊢
    by_cases h : 32 * r + l' = 32 * (rd + n) + l
    · have h1 : l' = l := by omega
      have h2 : r = rd + n := by omega
      subst h1 h2
      simp
    · rw [SMap.get_set_other _ h, SMap.get_set_other _ h, ih.1, ih.2]
      have : (l' = l ∧ rd ≤ r ∧ r < rd + (n + 1)) ↔ (l' = l ∧ rd ≤ r ∧ r < rd + n) := by omega
      simp only [this, and_self]

theorem setV_frame (s : State) (rd l n v : Nat) (p : Bool) :
    s.setV rd l n v p = { s with wave := { s.wave with
      vregs := (s.setV rd l n v p).wave.vregs, vpois := (s.setV rd l n v p).wave.vpois } } := by
  unfold State.setV
  induction n with
  | zero => rfl
  | succ n ih =>
    rw [List.range_succ, List.foldl_append]
    simp only [List.foldl_cons, List.foldl_nil]
    rw [ih]

/-- A write of scalar registers. -/
theorem setX_reads (s : State) (rd n v r : Nat) :
    (s.setX rd n v).xreg r = if rd ≤ r ∧ r < rd + n then BitVec.ofNat 32 (v / 2 ^ (32 * (r - rd))) else s.xreg r := by
  unfold State.setX
  induction n with
  | zero =>
    have : ¬(rd ≤ r ∧ r < rd + 0) := by omega
    simp only [this, if_false]; rfl
  | succ n ih =>
    rw [List.range_succ, List.foldl_append]
    simp only [List.foldl_cons, List.foldl_nil, State.xreg] at ih ⊢
    by_cases h : r = rd + n
    · subst h; simp
    · rw [SMap.get_set_other _ h, ih]
      have : (rd ≤ r ∧ r < rd + (n + 1)) ↔ (rd ≤ r ∧ r < rd + n) := by omega
      simp only [this]

theorem setX_frame (s : State) (rd n v : Nat) :
    s.setX rd n v = { s with wave := { s.wave with xregs := (s.setX rd n v).wave.xregs } } := by
  unfold State.setX
  induction n with
  | zero => rfl
  | succ n ih =>
    rw [List.range_succ, List.foldl_append]
    simp only [List.foldl_cons, List.foldl_nil]
    rw [ih]

theorem setP_reads (s : State) (p l : Nat) (v : Tri) (hl : l < 32) (q l' : Nat) (hl' : l' < 32) :
    (s.setP p l v).pred q l' = if l' = l ∧ q = p then v else s.pred q l' := by
  simp only [State.setP, State.pred]
  by_cases h : 32 * q + l' = 32 * p + l
  · have h1 : l' = l := by omega
    have h2 : q = p := by omega
    subst h1 h2; simp
  · rw [SMap.get_set_other _ h]
    have : ¬(l' = l ∧ q = p) := by omega
    simp [this]

/-- A write of one lane's generator. -/
def State.setGen (s : State) (l : Nat) (g : Option Word) : State :=
  match g with
  | some g => { s with wave := { s.wave with gens := SMap.set 0 l g s.wave.gens } }
  | none => s

theorem setGen_reads (s : State) (l : Nat) (g : Option Word) (k : Nat) :
    (s.setGen l g).gen k = if k = l then g.getD (s.gen k) else s.gen k := by
  cases g with
  | none => simp [State.setGen]
  | some g =>
    simp only [State.setGen, State.gen, Option.getD_some]
    by_cases h : k = l
    · subst h; simp
    · rw [SMap.get_set_other _ h]; simp [h]

theorem setGen_frame (s : State) (l : Nat) (g : Option Word) :
    s.setGen l g = { s with wave := { s.wave with gens := (s.setGen l g).wave.gens } } := by
  cases g <;> rfl

theorem writeLanes_nil (s : State) (d : Operand) (n : Nat) : s.writeLanes d n [] = s := rfl

theorem writeLanes_cons (s : State) (d : Operand) (n l : Nat) (o : LaneOut) (os : List (Nat × LaneOut)) :
    s.writeLanes d n ((l, o) :: os) = ((s.setD d l n o.v o.pois).setGen l o.gen).writeLanes d n os := by
  cases h : o.gen <;> simp [State.writeLanes, State.setGen, h]

/-- A destination's write touches only the wave's registers and predicates. -/
theorem setD_frame (s : State) (d : Operand) (l n v : Nat) (p : Bool) :
    s.setD d l n v p = { s with wave := { s.wave with
      vregs := (s.setD d l n v p).wave.vregs, vpois := (s.setD d l n v p).wave.vpois
      preds := (s.setD d l n v p).wave.preds, xregs := (s.setD d l n v p).wave.xregs } } := by
  cases d with
  | v r => simp only [State.setD]; rw [setV_frame]
  | x r => simp only [State.setD]; rw [setX_frame]
  | p r => rfl
  | sp r => rfl
  | k r => rfl
  | lit => rfl

/-- Writing the lanes touches only the wave's registers, predicates and generators. -/
theorem writeLanes_frame (s : State) (d : Operand) (n : Nat) (os : List (Nat × LaneOut)) :
    s.writeLanes d n os = { s with wave := { s.wave with
      vregs := (s.writeLanes d n os).wave.vregs, vpois := (s.writeLanes d n os).wave.vpois
      preds := (s.writeLanes d n os).wave.preds, xregs := (s.writeLanes d n os).wave.xregs
      gens := (s.writeLanes d n os).wave.gens } } := by
  induction os generalizing s with
  | nil => rfl
  | cons o os ih =>
    obtain ⟨l, o⟩ := o
    rw [writeLanes_cons, ih, setGen_frame, setD_frame]

theorem writeLanes_wave (s : State) (d : Operand) (n : Nat) (os : List (Nat × LaneOut)) :
    (s.writeLanes d n os).wave = { s.wave with
      vregs := (s.writeLanes d n os).wave.vregs, vpois := (s.writeLanes d n os).wave.vpois
      preds := (s.writeLanes d n os).wave.preds, xregs := (s.writeLanes d n os).wave.xregs
      gens := (s.writeLanes d n os).wave.gens } := by
  conv => lhs; rw [writeLanes_frame]

/-- The reads of a state's wave depend on nothing else of the state. -/
theorem reads_congr {s t : State} (hv : t.wave.vregs = s.wave.vregs) (hp : t.wave.vpois = s.wave.vpois) :
    (∀ r l, t.vreg r l = s.vreg r l) ∧ (∀ r l, t.vpoison r l = s.vpoison r l) := by
  simp [State.vreg, State.vpoison, hv, hp]

/-- What the lanes write to a vector destination. -/
theorem writeLanes_v (s : State) (r : Fin 128) (n : Nat) (ls : List Nat) (o : Nat → LaneOut) (hls : ∀ l ∈ ls, l < 32)
    (hnd : ls.Nodup) :
    let t := s.writeLanes (.v r) n (ls.map (fun l => (l, o l)))
    WroteV s t r.val n ls (fun l => (o l).v) (fun l => (o l).pois) ∧
      t.wave.xregs = s.wave.xregs ∧ t.wave.preds = s.wave.preds ∧
      Stepped s t ls (fun l => (o l).gen) := by
  induction ls generalizing s with
  | nil => simp [writeLanes_nil, WroteV, Stepped]
  | cons l ls ih =>
    have hl : l < 32 := hls l (by simp)
    have hnd' := List.nodup_cons.mp hnd
    obtain ⟨h1, h2, h3, h4⟩ := ih ((s.setD (.v r) l n (o l).v (o l).pois).setGen l (o l).gen)
      (fun x hx => hls x (by simp [hx])) hnd'.2
    simp only [List.map_cons, writeLanes_cons]
    have hw : ((s.setD (.v r) l n (o l).v (o l).pois).setGen l (o l).gen).wave.vregs
        = (s.setV r.val l n (o l).v (o l).pois).wave.vregs := by rw [setGen_frame]; rfl
    have hw2 : ((s.setD (.v r) l n (o l).v (o l).pois).setGen l (o l).gen).wave.vpois
        = (s.setV r.val l n (o l).v (o l).pois).wave.vpois := by rw [setGen_frame]; rfl
    have hg : ∀ k, (s.setD (.v r) l n (o l).v (o l).pois).gen k = s.gen k := by
      intro k; simp only [State.setD, State.gen]; rw [setV_frame]
    refine ⟨?_, ?_, ?_, ?_⟩
    · intro r' l' hl'
      have e := setV_reads s r.val l n (o l).v (o l).pois hl r' l' hl'
      have c := reads_congr hw hw2
      have a := h1 r' l' hl'
      rw [c.1, c.2, e.1, e.2] at a
      rw [a.1, a.2]
      by_cases hm : l' ∈ ls
      · have : l' ≠ l := fun hh => hnd'.1 (hh ▸ hm)
        simp [hm, this]
      · by_cases he : l' = l
        · subst he; simp [hm]
        · simp [hm, he]
    · rw [h2, setGen_frame]; simp only [State.setD]; rw [setV_frame]
    · rw [h3, setGen_frame]; simp only [State.setD]; rw [setV_frame]
    · intro l' hl'
      rw [h4 l' hl', setGen_reads, hg]
      by_cases hm : l' ∈ ls
      · have : l' ≠ l := fun hh => hnd'.1 (hh ▸ hm)
        simp [hm, this]
      · by_cases he : l' = l
        · subst he; simp [hm]
        · simp [hm, he]

/-- What the lanes write to a predicate destination. -/
theorem writeLanes_p (s : State) (p : Fin 16) (n : Nat) (ls : List Nat) (o : Nat → LaneOut) (hls : ∀ l ∈ ls, l < 32)
    (hnd : ls.Nodup) :
    let t := s.writeLanes (.p p) n (ls.map (fun l => (l, o l)))
    WroteP s t p.val ls (fun l => triOf (o l).v) ∧ SameV s t ∧ t.wave.xregs = s.wave.xregs ∧
      Stepped s t ls (fun l => (o l).gen) := by
  induction ls generalizing s with
  | nil => simp [writeLanes_nil, WroteP, SameV, Stepped]
  | cons l ls ih =>
    have hl : l < 32 := hls l (by simp)
    have hnd' := List.nodup_cons.mp hnd
    obtain ⟨h1, h2, h3, h4⟩ := ih ((s.setD (.p p) l n (o l).v (o l).pois).setGen l (o l).gen)
      (fun x hx => hls x (by simp [hx])) hnd'.2
    simp only [List.map_cons, writeLanes_cons]
    have hp : ∀ q k, ((s.setD (.p p) l n (o l).v (o l).pois).setGen l (o l).gen).pred q k
        = (s.setP p.val l (triOf (o l).v)).pred q k := by
      intro q k; rw [setGen_frame]; rfl
    have hg : ∀ k, (s.setD (.p p) l n (o l).v (o l).pois).gen k = s.gen k := fun k => rfl
    refine ⟨?_, ?_, ?_, ?_⟩
    · intro q l' hl'
      have a := h1 q l' hl'
      rw [hp, setP_reads s p.val l _ hl q l' hl'] at a
      rw [a]
      by_cases hm : l' ∈ ls
      · have : l' ≠ l := fun hh => hnd'.1 (hh ▸ hm)
        simp [hm, this]
      · by_cases he : l' = l
        · subst he; simp [hm]
        · simp [hm, he]
    · refine ⟨h2.1.trans ?_, h2.2.trans ?_⟩ <;> (rw [setGen_frame]; rfl)
    · rw [h3, setGen_frame]; rfl
    · intro l' hl'
      rw [h4 l' hl', setGen_reads, hg]
      by_cases hm : l' ∈ ls
      · have : l' ≠ l := fun hh => hnd'.1 (hh ▸ hm)
        simp [hm, this]
      · by_cases he : l' = l
        · subst he; simp [hm]
        · simp [hm, he]

/-- What a lane writes to a scalar destination: an instruction with one runs in one lane (R164). -/
theorem writeLanes_x (s : State) (r : Fin 64) (n : Nat) (ls : List Nat) (o : Nat → LaneOut) (h1 : ls.length ≤ 1) :
    let t := s.writeLanes (.x r) n (ls.map (fun l => (l, o l)))
    WroteX s t r.val n ls (fun l => (o l).v) ∧ SameV s t ∧ t.wave.preds = s.wave.preds ∧
      Stepped s t ls (fun l => (o l).gen) := by
  match ls, h1 with
  | [], _ => simp [writeLanes_nil, WroteX, SameV, Stepped]
  | [l], _ =>
    simp only [List.map_cons, List.map_nil, writeLanes_cons, writeLanes_nil]
    refine ⟨?_, ⟨?_, ?_⟩, ?_, ?_⟩
    · intro q
      simp only [List.head?_cons]
      rw [← setX_reads]
      rw [setGen_frame]; rfl
    · rw [setGen_frame]; simp only [State.setD]; rw [setX_frame]
    · rw [setGen_frame]; simp only [State.setD]; rw [setX_frame]
    · rw [setGen_frame]; simp only [State.setD]; rw [setX_frame]
    · intro l' _
      rw [setGen_reads]
      have hg : ∀ k, (s.setD (.x r) l n (o l).v (o l).pois).gen k = s.gen k := by
        intro k; simp only [State.setD, State.gen]; rw [setX_frame]
      simp only [hg, List.mem_singleton]
      by_cases he : l' = l
      · subst he; simp
      · simp [he]

theorem length_runLanes_x (r : Fin 64) (m : LaneMask) : (runLanes (.x r) m).length ≤ 1 := by
  simp [runLanes]

/-- Everything that writing the results of lanes does: the destination holds them, the generators that stepped are
written, and the rest of the state is as it was. -/
theorem writeLanes_wrote (s : State) (d : Operand) (n : Nat) (ls : List Nat) (o : Nat → LaneOut) (hls : ∀ l ∈ ls, l < 32)
    (hnd : ls.Nodup) (hx : (∃ r, d = .x r) → ls.length ≤ 1) (hd : d.isReg = true ∨ d.isP = true) :
    Wrote s (s.writeLanes d n (ls.map (fun l => (l, o l)))) d n ls (fun l => (o l).v) (fun l => (o l).pois) ∧
      Stepped s (s.writeLanes d n (ls.map (fun l => (l, o l)))) ls (fun l => (o l).gen) := by
  cases d with
  | v r =>
    obtain ⟨a, b, c, e⟩ := writeLanes_v s r n ls o hls hnd
    exact ⟨⟨a, b, c⟩, e⟩
  | x r =>
    obtain ⟨a, b, c, e⟩ := writeLanes_x s r n ls o (hx ⟨r, rfl⟩)
    exact ⟨⟨a, b, c⟩, e⟩
  | p r =>
    obtain ⟨a, b, c, e⟩ := writeLanes_p s r n ls o hls hnd
    exact ⟨⟨a, b, c⟩, e⟩
  | sp r => simp [Operand.isReg, Operand.isV, Operand.isX, Operand.isP] at hd
  | k r => simp [Operand.isReg, Operand.isV, Operand.isX, Operand.isP] at hd
  | lit => simp [Operand.isReg, Operand.isV, Operand.isX, Operand.isP] at hd

/-- With no causes nothing is logged. -/
theorem logLanes_none (s : State) (pc : VAddr) (os : List (Nat × LaneOut)) (h : ∀ o ∈ os, o.2.ev = []) :
    s.logLanes pc os = s := by
  have hf : ∀ c : Nat, (os.filter (fun o => o.2.ev.contains c)).isEmpty = true := by
    intro c
    simp only [List.isEmpty_iff, List.filter_eq_nil_iff]
    intro o ho
    simp [h o ho]
  simp only [State.logLanes, List.foldl_cons, List.foldl_nil, hf, if_true]

/-- The writes of the lanes of a unit that has retired are all that it changes. -/
theorem retired_writeLanes (s : State) (k : UnitKind) (d : Operand) (n : Nat) (os : List (Nat × LaneOut)) :
    Retired k s ((s.retire k).writeLanes d n os) := by
  unfold Retired
  exact writeLanes_frame (s.retire k) d n os

/-! A unit that retires leaves the wave's registers as they are. -/

@[simp] theorem State.retire_vreg (s : State) (k : UnitKind) (r l : Nat) : (s.retire k).vreg r l = s.vreg r l := by
  simp [State.vreg]
@[simp] theorem State.retire_vpoison (s : State) (k : UnitKind) (r l : Nat) : (s.retire k).vpoison r l = s.vpoison r l := by
  simp [State.vpoison]
@[simp] theorem State.retire_xreg (s : State) (k : UnitKind) (r : Nat) : (s.retire k).xreg r = s.xreg r := by
  simp [State.xreg]
@[simp] theorem State.retire_pred (s : State) (k : UnitKind) (p l : Nat) : (s.retire k).pred p l = s.pred p l := by
  simp [State.pred]
@[simp] theorem State.retire_gen (s : State) (k : UnitKind) (l : Nat) : (s.retire k).gen l = s.gen l := by
  simp [State.gen]

theorem wrote_retire {s t : State} {k : UnitKind} {d : Operand} {n : Nat} {ls : List Nat} {v : Nat → Nat} {p : Nat → Bool}
    (h : Wrote (s.retire k) t d n ls v p) : Wrote s t d n ls v p := by
  cases d <;> simpa [Wrote, WroteV, WroteX, WroteP, SameV] using h

theorem stepped_retire {s t : State} {k : UnitKind} {ls : List Nat} {g : Nat → Option Word}
    (h : Stepped (s.retire k) t ls g) : Stepped s t ls g := by
  simpa [Stepped] using h

/-- Which lists of lanes a destination may be written in. -/
def LanesFor (d : Operand) (m : LaneMask) (ls : List Nat) : Prop := List.Sublist ls (runLanes d m)

theorem LanesFor.lt {d : Operand} {m : LaneMask} {ls : List Nat} (h : LanesFor d m ls) : ∀ l ∈ ls, l < 32 :=
  fun _ hl => (mem_lanesOf.mp (runLanes_subset (h.subset hl))).1

theorem LanesFor.nodup {d : Operand} {m : LaneMask} {ls : List Nat} (h : LanesFor d m ls) : ls.Nodup :=
  (nodup_runLanes d m).sublist h

theorem LanesFor.one {d : Operand} {m : LaneMask} {ls : List Nat} (h : LanesFor d m ls) (hx : ∃ r, d = .x r) :
    ls.length ≤ 1 := by
  obtain ⟨r, rfl⟩ := hx
  exact le_trans h.length_le (length_runLanes_x r m)

theorem lanesFor_run (d : Operand) (m : LaneMask) : LanesFor d m (runLanes d m) := List.Sublist.refl _

theorem lanesFor_filter (d : Operand) (m : LaneMask) (p : Nat → Bool) : LanesFor d m ((runLanes d m).filter p) :=
  List.filter_sublist

/-- A unit with no condition that writes its lanes and logs their causes. -/
theorem issue_gives {s : State} {cs : List Cond} {d : Operand} {n : Nat} {m : LaneMask} {ls : List Nat} {out : Nat → LaneOut}
    (hw : s.wordsOk .plain) (hc : cs = []) (hl : LanesFor d m ls) (hd : d.isReg = true ∨ d.isP = true) :
    Gives (s.issue cs (fun t => t.finish s.frag.pc d n (ls.map (fun l => (l, out l))))) s d n ls out := by
  obtain ⟨h1, h2⟩ := writeLanes_wrote (s.retire .plain) d n ls out hl.lt hl.nodup hl.one hd
  exact ⟨_, retired_writeLanes s .plain d n _, wrote_retire h1, stepped_retire h2, issue_next hw hc⟩

theorem gens_same {s : State} {d : Operand} {n : Nat} {os : List (Nat × LaneOut)} (h : ∀ o ∈ os, o.2.gen = none) :
    (s.writeLanes d n os).wave.gens = s.wave.gens := by
  induction os generalizing s with
  | nil => rfl
  | cons o os ih =>
    obtain ⟨l, o⟩ := o
    have ho : o.gen = none := h (l, o) (by simp)
    rw [writeLanes_cons, ih (fun x hx => h x (by simp [hx])), ho]
    simp only [State.setGen]
    rw [setD_frame]

/-- A unit with no condition that writes its lanes, logs nothing and steps no generator. -/
theorem issue_writes {s : State} {cs : List Cond} {d : Operand} {n : Nat} {m : LaneMask} {ls : List Nat} {out : Nat → LaneOut}
    (hw : s.wordsOk .plain) (hc : cs = []) (hl : LanesFor d m ls) (hd : d.isReg = true ∨ d.isP = true)
    (hg : ∀ l ∈ ls, (out l).gen = none) :
    Writes (s.issue cs (fun t => t.writeLanes d n (ls.map (fun l => (l, out l))))) s d n ls (fun l => (out l).v)
      (fun l => (out l).pois) := by
  obtain ⟨h1, _⟩ := writeLanes_wrote (s.retire .plain) d n ls out hl.lt hl.nodup hl.one hd
  refine ⟨_, issue_next hw hc, retired_writeLanes s .plain d n _, wrote_retire h1, ?_⟩
  rw [← (s.retire_wave .plain ▸ rfl : (s.retire .plain).wave.gens = s.wave.gens)]
  refine gens_same ?_
  intro o ho
  obtain ⟨l, hl', rfl⟩ := List.mem_map.mp ho
  exact hg l hl'

/-- What gives no causes and no generators only writes. -/
theorem Gives.writes {r : Host.Outcome State Fault Refusal} {s : State} {d : Operand} {n : Nat} {ls : List Nat}
    {out : Nat → LaneOut} (h : Gives r s d n ls out) (he : ∀ l ∈ ls, (out l).ev = []) :
    ∃ t, r = .next t ∧ Retired .plain s t ∧ Wrote s t d n ls (fun l => (out l).v) (fun l => (out l).pois) ∧
      Stepped s t ls (fun l => (out l).gen) := by
  obtain ⟨t, h1, h2, h3, h4⟩ := h
  refine ⟨t, ?_, h1, h2, h3⟩
  rw [h4, logLanes_none]
  intro o ho
  obtain ⟨l, hl', rfl⟩ := List.mem_map.mp ho
  exact he l hl'

/-- Setting a predicate lane by lane changes that predicate in those lanes, and nothing else. -/
theorem foldl_setP (s : State) (p : Nat) (v : Nat → Tri) (ls : List Nat) (hls : ∀ l ∈ ls, l < 32) (hnd : ls.Nodup) :
    let t := ls.foldl (fun t l => t.setP p l (v l)) s
    WroteP s t p ls v ∧ t = { s with wave := { s.wave with preds := t.wave.preds } } := by
  induction ls generalizing s with
  | nil => simp [WroteP]
  | cons l ls ih =>
    have hl : l < 32 := hls l (by simp)
    have hnd' := List.nodup_cons.mp hnd
    obtain ⟨h1, h2⟩ := ih (s.setP p l (v l)) (fun x hx => hls x (by simp [hx])) hnd'.2
    simp only [List.foldl_cons]
    refine ⟨?_, ?_⟩
    · intro q l' hl'
      rw [h1 q l' hl', setP_reads s p l _ hl q l' hl']
      by_cases hm : l' ∈ ls
      · have : l' ≠ l := fun hh => hnd'.1 (hh ▸ hm)
        simp [hm, this]
      · by_cases he : l' = l
        · subst he; simp [hm]
        · simp [hm, he]
    · exact h2

/-- A unit with no condition whose effect is on one predicate. -/
theorem issue_setsPred {s : State} {cs : List Cond} {p : Nat} {v : Nat → Tri} (hw : s.wordsOk .plain) (hc : cs = []) :
    SetsPred (s.issue cs (fun t => (lanesOf s.exec).foldl (fun t l => t.setP p l (v l)) t)) s p (lanesOf s.exec) v := by
  obtain ⟨h1, h2⟩ := foldl_setP (s.retire .plain) p v (lanesOf s.exec) (fun l hl => (mem_lanesOf.mp hl).1)
    (nodup_lanesOf s.exec)
  refine ⟨_, issue_next hw hc, ?_, by simpa [WroteP] using h1, ?_, ?_, ?_⟩
  · unfold Retired; rw [h2]
  · rw [h2]; simp [SameV]
  · rw [h2]; simp
  · rw [h2]; simp

end Sys2Proof.Machine
end

