-- ==== Sys2Proof/Laws/Access.lean ====
section
/-!
SUPPORT. What the shared forms of memory, waiting and posting instructions give when what they judge is in order.
-/

namespace Sys2Proof.Machine

/-! Where an access lands depends on the registers, and on the links that are up. -/

theorem reg_congr {s t : State} (h : t.regs = s.regs) : t.reg = s.reg := by
  funext off; simp only [State.reg, h]

theorem preg_congr {s t : State} (h : t.regs = s.regs) : t.preg = s.preg := by
  funext i off; simp only [State.preg, reg_congr h]

theorem partOf_congr {s t : State} (h : t.regs = s.regs) : t.partOf = s.partOf := by
  funext sl; simp only [State.partOf, State.partEn, State.partN, preg_congr h]; rfl

theorem resolve_congr {s t : State} (h : t.regs = s.regs) (hm : t.hostMem = s.hostMem) : t.resolve = s.resolve := by
  funext loc
  simp only [State.resolve, State.hbmPlace, State.lpPlace, State.partN, State.partJ, State.partU, State.partK, partOf_congr h,
    preg_congr h, State.inHost, hm]
  rfl

theorem peerSpot_congr {s t : State} (h : t.regs = s.regs) (hm : t.hostMem = s.hostMem) : t.peerSpot = s.peerSpot := by
  funext i; simp only [State.peerSpot, resolve_congr h hm]

theorem peerOf_congr {s t : State} (h : t.regs = s.regs) (hm : t.hostMem = s.hostMem) (hl : t.linkDown = s.linkDown)
    (hp : t.pcieUp = s.pcieUp) (hg : t.wg = s.wg) : t.peerOf = s.peerOf := by
  funext i; simp only [State.peerOf, State.peerLinks, peerSpot_congr h hm, preg_congr h, hl, hp, hg]

/-- Accesses that are all in order meet no condition. -/
theorem judgeAll_ok (is : List Item) : judgeAll (is.map .ok) = ([], is) := by
  induction is with
  | nil => rfl
  | cons i is ih => simp [judgeAll, ih]

theorem any_held_false {s : State} {is : List Item} (h : ∀ i ∈ is, s.heldItem i = false) : is.any s.heldItem = false := by
  simpa only [List.any_eq_false, Bool.not_eq_true] using h

/-- A unit whose accesses are in order retires and has its effect on them. -/
theorem issueMet_next {s : State} {met : List Item} {cs : List Cond} {rs : List (Except Cond Item)} {is : List Item}
    {eff : List Item → State → State} (hw : s.wordsOk .plain) (hc : cs = []) (hr : rs = is.map .ok)
    (hh : ∀ i ∈ is, s.heldItem i = false) :
    s.issueMet met cs rs eff = .next (eff (s.sharedItems is) (s.begun is)) := by
  subst hr hc
  have hj := (judged_none_iff s .plain ([] : List Cond)).mpr ⟨hw, rfl⟩
  simp [State.issueMet, judgeAll_ok, hj, any_held_false hh]

theorem issueItems_next {s : State} {cs : List Cond} {rs : List (Except Cond Item)} {is : List Item}
    {eff : List Item → State → State} (hw : s.wordsOk .plain) (hc : cs = []) (hr : rs = is.map .ok)
    (hh : ∀ i ∈ is, s.heldItem i = false) :
    s.issueItems cs rs eff = .next (eff (s.sharedItems is) (s.begun is)) := issueMet_next hw hc hr hh

/-- A unit of whose accesses none lies in a save area uses no field of the context RCB (R75). -/
theorem begun_plain {s : State} {is : List Item} (h : ∀ i ∈ is, i.save = false) : s.begun is = s.retire .plain := by
  have : is.any (·.save) = false := by simpa using h
  simp [State.begun, this]

/-- Only an access to the private space can lie in a save area (R75). -/
theorem judgeLane_save {s : State} {sp : Space} {acc : Access} {al l a n : Nat} {i : Item} (hsp : sp ≠ .p)
    (h : s.judgeLane sp acc al l a n = .ok i) : i.save = false := by
  have hmap : ∀ {r : Except Cond Spot} {f : Spot → Item}, (∀ x, (f x).save = false) → r.map f = .ok i → i.save = false := by
    intro r f hf hr
    cases r with
    | error e => simp [Except.map] at hr
    | ok x => simp only [Except.map, Except.ok.injEq] at hr; exact hr ▸ hf x
  unfold State.judgeLane at h
  simp only at h
  split at h
  · simp at h
  · cases sp with
    | p => exact absurd rfl hsp
    | g => exact hmap (fun _ => rfl) h
    | s => exact hmap (fun _ => rfl) h
    | l => simp only at h; split at h <;> simp_all; exact h ▸ rfl
    | c => simp only at h; split at h <;> simp_all; exact h ▸ rfl

theorem judgeRmw_save {s : State} {al l a n : Nat} {i : Item} (h : s.judgeRmw al l a n = .ok i) : i.save = false := by
  unfold State.judgeRmw at h
  split at h
  · simp at h
  · next j hj =>
    have hs := judgeLane_save (by decide) hj
    split at h
    · split at h
      · simp at h
      · simp only [Except.ok.injEq] at h; exact h ▸ hs
    · simp only [Except.ok.injEq] at h; exact h ▸ hs

/-- A unit whose lanes' accesses are all in order, and none in a save area, only retires before it acts. -/
theorem begun_judged {s : State} {f : Nat → Except Cond Item} {ls : List Nat} {is : List Item} (hr : ls.map f = is.map .ok)
    (h : ∀ l i, f l = .ok i → i.save = false) : s.begun is = s.retire .plain := by
  refine begun_plain (fun i hi => ?_)
  have : Except.ok i ∈ ls.map f := by rw [hr]; exact List.mem_map_of_mem hi
  obtain ⟨l, _, hl⟩ := List.mem_map.mp this
  exact h l i hl

/-- A unit that acts only with lanes, and has some. -/
theorem issueLive_next {s : State} {cs : List Cond} {eff : State → State} (hw : s.wordsOk .plain) (hc : cs = [])
    (he : s.exec ≠ 0) : s.issueLive cs eff = .next (eff (s.retire .plain)) := by
  rw [State.issueLive, issue_next hw hc, if_neg he]

/-- A unit without lanes only goes on. -/
theorem issueLive_none {s : State} {cs : List Cond} {eff : State → State} (hw : s.wordsOk .plain) (hc : cs = [])
    (he : s.exec = 0) : s.issueLive cs eff = .next (s.retire .plain) := by
  rw [State.issueLive, issue_next hw hc, if_pos he]

/-- Operands that carry no poison raise nothing (R273, R419). -/
theorem cleanCond_nil {s : State} {srcs : List (Nat × Operand)}
    (h : ∀ x ∈ srcs, ∀ l ∈ lanesOf s.exec, s.srcPois x.1 x.2 l = false) : s.cleanCond srcs = [] := by
  simp only [State.cleanCond, List.flatMap_eq_nil_iff]
  intro x hx
  rw [laneCond_nil, lanesWhere_zero (h x hx)]

theorem lowWhen_false (s : State) (c a : Nat) : s.lowWhen false c a = [] := rfl

end Sys2Proof.Machine
end

