-- ==== Sys2Proof/Laws/Memory.lean ====
section
/-!
SUPPORT. Memory keeps its canonical form: under every operation of the machine that writes it. These are a scrub (R458), a
write inside a sector (R453), what moves between L2, the memory-side cache and memory (R83 to R91), stores on every path, the
zeroing of Steppe (R373), a device's reset (R498), power-on (R512) and the placing of a fetched word.
-/

namespace Sys2Proof.Machine

/-- Entries that are left out leave the form. -/
theorem SMap.wfFrom_filter {α : Type} [DecidableEq α] (d : α) (p : Nat × α → Bool) {b : Nat} {m : SMap α}
    (hm : SMap.wfFrom d b m = true) : SMap.wfFrom d b (m.filter p) = true := by
  induction m generalizing b with
  | nil => rfl
  | cons e m ih =>
    obtain ⟨i, v⟩ := e
    simp only [SMap.wfFrom, Bool.and_eq_true, decide_eq_true_eq] at hm
    rw [List.filter_cons]
    split
    · simp only [SMap.wfFrom, Bool.and_eq_true, decide_eq_true_eq]
      exact ⟨hm.1, ih hm.2⟩
    · exact SMap.wfFrom_mono d (by omega) (ih hm.2)

theorem SMap.wf_filter {α : Type} [DecidableEq α] (d : α) (p : Nat × α → Bool) {m : SMap α} (hm : SMap.wf d m = true) :
    SMap.wf d (m.filter p) = true := SMap.wfFrom_filter d p hm

/-- Two maps in the form, the first below `c` and the second from `c` on, are one map in the form. -/
theorem SMap.wfFrom_append {α : Type} [DecidableEq α] (d : α) {b c : Nat} {m n : SMap α} (hm : SMap.wfFrom d b m = true)
    (hb : b ≤ c) (hc : ∀ e ∈ m, e.1 < c) (hn : SMap.wfFrom d c n = true) : SMap.wfFrom d b (m ++ n) = true := by
  induction m generalizing b with
  | nil => exact SMap.wfFrom_mono d hb hn
  | cons e m ih =>
    obtain ⟨i, v⟩ := e
    simp only [SMap.wfFrom, Bool.and_eq_true, decide_eq_true_eq, List.cons_append] at hm ⊢
    have hi : i < c := hc (i, v) (by simp)
    exact ⟨hm.1, ih hm.2 (by omega) (fun e he => hc e (by simp [he]))⟩

/-- The keys of a map moved up by `lo`. -/
theorem SMap.wfFrom_shift {α : Type} [DecidableEq α] (d : α) (lo : Nat) {b : Nat} {m : SMap α}
    (hm : SMap.wfFrom d b m = true) : SMap.wfFrom d (lo + b) (m.map (fun e => (lo + e.1, e.2))) = true := by
  induction m generalizing b with
  | nil => rfl
  | cons e m ih =>
    obtain ⟨i, v⟩ := e
    simp only [SMap.wfFrom, Bool.and_eq_true, decide_eq_true_eq, List.map_cons] at hm ⊢
    exact ⟨⟨by omega, hm.1.2⟩, ih hm.2⟩

/-- The entries of a map from key `c` on. -/
theorem SMap.wfFrom_above {α : Type} [DecidableEq α] (d : α) {b c : Nat} {m : SMap α} (hm : SMap.wfFrom d b m = true) :
    SMap.wfFrom d c (m.filter (fun e => decide (c ≤ e.1))) = true := by
  induction m generalizing b with
  | nil => rfl
  | cons e m ih =>
    obtain ⟨i, v⟩ := e
    simp only [SMap.wfFrom, Bool.and_eq_true, decide_eq_true_eq] at hm
    rw [List.filter_cons]
    split
    · rename_i h
      simp only [decide_eq_true_eq] at h
      simp only [SMap.wfFrom, Bool.and_eq_true, decide_eq_true_eq]
      exact ⟨⟨h, hm.1.2⟩, SMap.wfFrom_filter d _ hm.2⟩
    · exact ih hm.2

/-- A map put in place of `n` keys of another keeps the form. -/
theorem SMap.wf_putSub {α : Type} [DecidableEq α] (d : α) (lo n : Nat) {x m : SMap α} (hx : SMap.wf d x = true)
    (hm : SMap.wf d m = true) : SMap.wf d (SMap.putSub lo n x m) = true := by
  unfold SMap.putSub
  refine SMap.wfFrom_append d (c := lo) (SMap.wfFrom_filter d _ hm) (Nat.zero_le _) (fun e he => ?_) ?_
  · simpa using (List.mem_filter.mp he).2
  · refine SMap.wfFrom_append d (c := lo + n) (SMap.wfFrom_shift d lo (SMap.wfFrom_filter d _ hx)) (Nat.le_add_right _ _)
      (fun e he => ?_) (SMap.wfFrom_above d hm)
    obtain ⟨e', he', rfl⟩ := List.mem_map.mp he
    have := (List.mem_filter.mp he').2
    simp only [decide_eq_true_eq] at this
    simpa using this

theorem SMap.wfFrom_ofList {α : Type} [DecidableEq α] (d : α) (vs : List α) (k : Nat) :
    SMap.wfFrom d k (((vs.zipIdx k).filter (fun x => decide (x.1 ≠ d))).map (fun x => (x.2, x.1))) = true := by
  induction vs generalizing k with
  | nil => rfl
  | cons v vs ih =>
    rw [List.zipIdx_cons, List.filter_cons]
    split
    · rename_i h
      simp only [List.map_cons, SMap.wfFrom, Bool.and_eq_true, decide_eq_true_eq]
      exact ⟨⟨le_refl k, by simpa using h⟩, ih (k + 1)⟩
    · exact SMap.wfFrom_mono d (Nat.le_succ k) (ih (k + 1))

/-- A list of values as a map is in the form. -/
theorem SMap.wf_ofList {α : Type} [DecidableEq α] (d : α) (vs : List α) : SMap.wf d (SMap.ofList d vs) = true :=
  SMap.wfFrom_ofList d vs 0

/-! The operations on memory. -/

theorem reset_mem_wf : Memory.wf State.reset.mem = true := rfl

@[simp] theorem State.scrubCount_mem (s : State) (g : Nat) : (s.scrubCount g).mem = s.mem := by
  unfold State.scrubCount
  split
  · rfl
  · dsimp only
    split <;> rfl

/-- A scrubbed granule only loses entries (R458). -/
theorem scrubNow_mem_wf {s : State} (g : Nat) (h : Memory.wf s.mem = true) : Memory.wf (s.scrubNow g).mem = true := by
  unfold State.scrubNow
  dsimp only
  split
  · rw [State.scrubCount_mem]; exact SMap.wf_filter 0 _ h
  · exact SMap.wf_filter 0 _ h

/-- A write inside a sector (R453). -/
theorem putSector_mem_wf {s : State} (path cmd k sec off : Nat) (bs : List Byte) (h : Memory.wf s.mem = true) :
    Memory.wf (s.putSector path cmd k sec off bs).mem = true := SMap.wf_setList 0 _ _ h

@[simp] theorem State.wakeLine_mem (s : State) (l : Nat) : (s.wakeLine l).mem = s.mem := rfl

/-- What a fold keeps, each of its steps keeps. -/
theorem foldl_mem_wf {α : Type} {f : State → α → State} (hf : ∀ s x, Memory.wf s.mem = true → Memory.wf (f s x).mem = true)
    (xs : List α) {s : State} (h : Memory.wf s.mem = true) : Memory.wf (xs.foldl f s).mem = true := by
  induction xs generalizing s with
  | nil => exact h
  | cons x xs ih => exact ih (hf s x h)

/-- What each step of a fold leaves alone, the fold does. -/
theorem foldl_mem_eq {α : Type} {f : State → α → State} (hf : ∀ s x, (f s x).mem = s.mem) (xs : List α) (s : State) :
    (xs.foldl f s).mem = s.mem := by
  induction xs generalizing s with
  | nil => rfl
  | cons x xs ih => rw [List.foldl_cons, ih, hf]

/-- A write at a storage place, sector by sector. -/
theorem putSectors_mem_wf (path cmd k fuel : Nat) : ∀ {s : State} (p : Nat) (bs : List Byte), Memory.wf s.mem = true →
    Memory.wf (State.putSectors path cmd k fuel s p bs).mem = true := by
  induction fuel with
  | zero => intro s p bs h; exact h
  | succ n ih =>
    intro s p bs h
    unfold State.putSectors
    split
    · exact h
    · exact ih _ _ (putSector_mem_wf _ _ _ _ _ _ h)

/-- A stored sector that comes to the top of the hierarchy. -/
theorem putTop_mem_wf {s : State} (sec : Nat) (x : Stored) (h : Memory.wf s.mem = true) :
    Memory.wf (s.putTop sec x).mem = true := by
  unfold State.putTop Memory.wf
  exact SMap.wf_setList 0 _ _ h

/-- What the level below L2 takes (R89). -/
theorem setBelow_mem_wf {s : State} (sec : Nat) (x : Stored) (h : Memory.wf s.mem = true) :
    Memory.wf (s.setBelow sec x).mem = true := by
  unfold State.setBelow
  split
  · exact h
  · exact putTop_mem_wf sec x h

@[simp] theorem State.sameBelow_mem (s : State) (sec : Nat) : (s.sameBelow sec).mem = s.mem := rfl
@[simp] theorem State.keepTier_mem (s : State) (sec : Nat) : (s.keepTier sec).mem = s.mem := rfl
@[simp] theorem State.setMsc_mem (s : State) (sl index : Nat) (m : MscSector) : (s.setMsc sl index m).mem = s.mem := rfl
@[simp] theorem State.countUE_mem (s : State) (slc code : Nat) : (s.countUE slc code).mem = s.mem := by
  unfold State.countUE
  dsimp only
  exact State.setReg_mem _ _ _
@[simp] theorem State.owe_mem (s : State) (slc code sec : Nat) : (s.owe slc code sec).mem = s.mem := by
  unfold State.owe
  dsimp only
  rw [State.countUE_mem]

theorem poisonBelow_mem_wf {s : State} (sec : Nat) (h : Memory.wf s.mem = true) : Memory.wf (s.poisonBelow sec).mem = true := by
  unfold State.poisonBelow
  exact setBelow_mem_wf _ _ h

theorem tierLeaves_mem_wf {s : State} (sec : Nat) (back : Bool) (h : Memory.wf s.mem = true) :
    Memory.wf (s.tierLeaves sec back).mem = true := by
  unfold State.tierLeaves
  split
  · exact h
  · exact setBelow_mem_wf _ _ h

/-- A sector of the carve-out that is poisoned (R456). -/
theorem poisonMsc_mem_wf {s : State} (sl sec : Nat) (h : Memory.wf s.mem = true) :
    Memory.wf (s.poisonMsc sl sec).mem = true := by
  unfold State.poisonMsc
  refine poisonBelow_mem_wf _ ?_
  rw [State.owe_mem, State.keepTier_mem]
  exact h

theorem mscFree_mem_wf {s : State} (sl first : Nat) (m : MscSector) (h : Memory.wf s.mem = true) :
    Memory.wf (s.mscFree sl first m).mem = true := by
  unfold State.mscFree State.tierAllLeave
  exact foldl_mem_wf (fun s x h => tierLeaves_mem_wf _ _ h) _ (foldl_mem_wf (fun s x h => poisonMsc_mem_wf _ _ h) _ h)

/-- A sector that leaves the memory-side cache (R85). -/
theorem mscDrop_mem_wf {s : State} (sl index n : Nat) (m : MscSector) (h : Memory.wf s.mem = true) :
    Memory.wf (s.mscDrop sl index n m).mem = true := by
  unfold State.mscDrop
  split
  · exact mscFree_mem_wf _ _ _ h
  · exact h

theorem mscLose_mem_wf {s : State} (sl index n : Nat) (m : MscSector) (h : Memory.wf s.mem = true) :
    Memory.wf (s.mscLose sl index n m).mem = true := mscDrop_mem_wf sl index n _ h

@[simp] theorem State.l2Clean_mem (s : State) (p mask : Nat) : (s.l2Clean p mask).mem = s.mem := by
  unfold State.l2Clean
  split <;> rfl

theorem mscHit_mem_wf {s : State} (sl t need : Nat) (wr : Option (BitVec 8)) (m : MscSector) (h : Memory.wf s.mem = true) :
    Memory.wf (s.mscHit sl t need wr m).2.mem = true := by
  unfold State.mscHit
  split
  · exact foldl_mem_wf (fun s x h => poisonMsc_mem_wf _ _ h) _ h
  · simp only [State.l2Clean_mem]
    exact foldl_mem_wf (fun s x h => by rw [State.sameBelow_mem, State.keepTier_mem]; exact h) _ h

/-- The requests that the memory-side cache serves (R85, R86). -/
theorem mscServe_mem_wf (sl index n : Nat) (q : List (Nat × Nat × Option (BitVec 8))) : ∀ (m : MscSector) {s : State},
    Memory.wf s.mem = true → Memory.wf (State.mscServe sl index n q m s).mem = true := by
  induction q with
  | nil => intro m s h; exact h
  | cons r q ih =>
    intro m s h
    unfold State.mscServe
    dsimp only
    split
    · exact ih _ (mscHit_mem_wf _ _ _ _ _ h)
    · exact mscDrop_mem_wf _ _ _ _ h

theorem mscAsk_mem_wf {s : State} (sl t need : Nat) (wr : Option (BitVec 8)) (h : Memory.wf s.mem = true) :
    Memory.wf (s.mscAsk sl t need wr).mem = true := by
  unfold State.mscAsk
  dsimp only
  split
  · exact mscServe_mem_wf _ _ _ _ _ (mscLose_mem_wf _ _ _ _ h)
  · split
    · exact h
    · exact mscServe_mem_wf _ _ _ _ _ h

theorem mscFilled_mem_wf {s : State} (sl index : Nat) (h : Memory.wf s.mem = true) :
    Memory.wf (s.mscFilled sl index).mem = true := by
  unfold State.mscFilled
  dsimp only
  split
  · exact h
  · refine mscServe_mem_wf _ _ _ _ _ (foldl_mem_wf (fun s x h => ?_) _ h)
    refine poisonBelow_mem_wf _ ?_
    rw [State.owe_mem, State.keepTier_mem]
    exact h

theorem mscDrain_mem_wf (sl index fuel : Nat) : ∀ {s : State}, Memory.wf s.mem = true →
    Memory.wf (State.mscDrain sl index fuel s).mem = true := by
  induction fuel with
  | zero => intro s h; exact h
  | succ n ih =>
    intro s h
    unfold State.mscDrain
    split
    · exact ih (mscFilled_mem_wf _ _ h)
    · exact h

theorem mscTouchAt_mem_wf {s : State} (sl t need : Nat) (wr : Option (BitVec 8)) (h : Memory.wf s.mem = true) :
    Memory.wf (s.mscTouchAt sl t need wr).mem = true := by
  unfold State.mscTouchAt State.mscDrainAll
  split
  · exact h
  · exact mscDrain_mem_wf _ _ _ (mscAsk_mem_wf _ _ _ _ h)

/-- A fill or a write-back of the tier (R83). -/
theorem mscTouch_mem_wf {s : State} (p need : Nat) (wr : Option (BitVec 8)) (h : Memory.wf s.mem = true) :
    Memory.wf (s.mscTouch p need wr).mem = true := by
  unfold State.mscTouch
  exact mscTouchAt_mem_wf _ _ _ _ h

theorem writeBack_mem_wf {s : State} (p mask : Nat) (h : Memory.wf s.mem = true) :
    Memory.wf (s.writeBack p mask).mem = true := by
  unfold State.writeBack
  split
  · exact h
  · dsimp only
    refine foldl_mem_wf (fun s x h => by rw [State.sameBelow_mem]; exact h) _ ?_
    have h1 : Memory.wf (((maskSectors p mask).filter (fun sec => SMap.get false sec s.uncorr)).foldl (fun s sec => State.owe { s with
        uncorr := SMap.set false sec false s.uncorr, poison := SMap.set false sec true s.poison } (placeSlice p) 0x06 sec) s).mem =
        true := by
      exact foldl_mem_wf (fun s x h => by rw [State.owe_mem]; exact h) _ h
    split
    · exact mscTouch_mem_wf _ _ _ h1
    · exact h1

/-- A line that leaves L2 (R89). -/
theorem l2Leave_mem_wf {s : State} (l : L2Line) (h : Memory.wf s.mem = true) : Memory.wf (s.l2Leave l).mem = true := by
  unfold State.l2Leave
  refine foldl_mem_wf (fun s x h => ?_) _ (writeBack_mem_wf _ _ h)
  split
  · exact putTop_mem_wf _ _ h
  · exact h

theorem l2Evict_mem_wf {s : State} (slc : Nat) (ls : List L2Line) (h : Memory.wf s.mem = true) :
    Memory.wf (s.l2Evict slc ls).mem = true := foldl_mem_wf (fun _ l h => l2Leave_mem_wf l h) ls h

theorem dropPhys_mem_wf {s : State} (p : Nat → Bool) (h : Memory.wf s.mem = true) : Memory.wf (s.dropPhys p).mem = true :=
  foldl_mem_wf (f := fun s (b : Nat × List L2Line) => s.l2Evict b.1 b.2) (fun _ b h => l2Evict_mem_wf b.1 b.2 h) _ h

theorem l2Fill_mem_wf {s : State} (p need : Nat) (h : Memory.wf s.mem = true) : Memory.wf (s.l2Fill p need).mem = true := by
  unfold State.l2Fill
  split
  · exact mscTouch_mem_wf _ _ _ h
  · exact h

@[simp] theorem State.l2Mod_mem (s : State) (slc pa : Nat) (f : L2Line → L2Line) : (s.l2Mod slc pa f).mem = s.mem := rfl

theorem dropOther_mem_wf {s : State} (slc pa : Nat) (h : Memory.wf s.mem = true) : Memory.wf (s.dropOther slc pa).mem = true := by
  unfold State.dropOther
  dsimp only
  split
  · exact dropPhys_mem_wf _ h
  · exact h

/-- A line that comes into L2 (R89). -/
theorem l2Touch_mem_wf {s : State} (f pa p need : Nat) (h : Memory.wf s.mem = true) :
    Memory.wf (s.l2Touch f pa p need).mem = true := by
  unfold State.l2Touch
  split
  · exact h
  · have h1 := dropOther_mem_wf (placeSlice p) pa h
    dsimp only
    split
    · rw [State.l2Mod_mem]
      dsimp only
      split
      · exact l2Fill_mem_wf _ _ h1
      · exact l2Fill_mem_wf _ _ h1
    · split
      · exact l2Fill_mem_wf _ _ h1
      · exact l2Fill_mem_wf _ _ (l2Evict_mem_wf _ _ h1)

theorem putLine_mem_wf {s : State} (path cmd k p : Nat) (bs : List Byte) (h : Memory.wf s.mem = true) :
    Memory.wf (s.putLine path cmd k p bs).mem = true := by
  unfold State.putLine
  dsimp only
  split
  · exact putSectors_mem_wf _ _ _ _ _ _ h
  · split
    · exact putSectors_mem_wf _ _ _ _ _ _ h
    · exact writeBack_mem_wf _ _ (putSectors_mem_wf _ _ _ _ _ _ h)

theorem scrubFirst_mem_wf {s : State} (p : Nat) (h : Memory.wf s.mem = true) : Memory.wf (s.scrubFirst p).mem = true := by
  unfold State.scrubFirst
  split
  · exact scrubNow_mem_wf _ h
  · exact h

/-- A write within a line, on any path. -/
theorem putPlace_mem_wf {s : State} (path cmd f k p : Nat) (bs : List Byte) (h : Memory.wf s.mem = true) :
    Memory.wf (s.putPlace path cmd f k p bs).mem = true :=
  putLine_mem_wf _ _ _ _ _ (l2Touch_mem_wf _ _ _ _ (scrubFirst_mem_wf _ h))

/-- A write of the S12 at a physical address (R513). -/
theorem physWrite_mem_wf {s : State} (path f pa : Nat) (bs : List Byte) (h : Memory.wf s.mem = true) :
    Memory.wf (s.physWrite path f pa bs).mem = true := by
  refine foldl_mem_wf (fun s x h => ?_) _ h
  split
  · exact putPlace_mem_wf _ _ _ _ _ _ h
  · exact h

@[simp] theorem State.l2Grant_mem (s : State) (slc pa : Nat) (le : Lease) : (s.l2Grant slc pa le).mem = s.mem := by
  unfold State.l2Grant
  dsimp only
  split <;> rfl

@[simp] theorem State.setHome_mem (s : State) (pa : Nat) (le : Lease) : (s.setHome pa le).mem = s.mem := by
  unfold State.setHome
  split
  · split
    · rfl
    · exact s.l2Grant_mem _ _ _
  · rfl

@[simp] theorem State.raisePts_mem (s : State) (core t : Nat) : (s.raisePts core t).mem = s.mem := rfl

@[simp] theorem State.l1Update_mem (s : State) (core pa : Nat) (bs : List Byte) : (s.l1Update core pa bs).mem = s.mem := by
  unfold State.l1Update
  split <;> rfl

theorem askFor_mem_wf {s : State} (f pa n : Nat) (h : Memory.wf s.mem = true) : Memory.wf (s.askFor f pa n).mem = true := by
  unfold State.askFor
  split
  · exact l2Touch_mem_wf _ _ _ _ (scrubFirst_mem_wf _ h)
  · exact h

/-- A store on path v (R108). -/
theorem vstoreAt_mem_wf {s : State} (who : Who) (pa : Nat) (ts : Option Nat) (bs : List Byte) (h : Memory.wf s.mem = true) :
    Memory.wf (s.vstoreAt who pa ts bs).mem = true := by
  unfold State.vstoreAt
  split
  · simp only [State.raisePts_mem, State.setHome_mem, State.l1Update_mem]
    exact putLine_mem_wf _ _ _ _ _ h
  · exact h

/-- The zeroing of a key's Steppe lines (R373). -/
theorem zeroSteppe_mem_wf {s : State} (k : Nat) (h : Memory.wf s.mem = true) : Memory.wf (s.zeroSteppe k).mem = true :=
  SMap.wf_filter 0 _ h

/-- The caches of a partition are written back and dropped (R80 to R82). -/
theorem carveLeaves_mem_wf {s : State} (sl index : Nat) (h : Memory.wf s.mem = true) :
    Memory.wf (s.carveLeaves sl index).mem = true := by
  unfold State.carveLeaves
  exact foldl_mem_wf (fun _ _ h => putTop_mem_wf _ _ h) _ (mscDrop_mem_wf _ _ _ _ h)

theorem leavePart_mem_wf {s : State} (i : Nat) (h : Memory.wf s.mem = true) : Memory.wf (s.leavePart i).mem = true :=
  foldl_mem_wf (fun _ _ h => carveLeaves_mem_wf _ _ h) _ (dropPhys_mem_wf _ h)

/-- A reset of the device keeps memory, what L2 writes back included (R498). -/
theorem clearDevice_mem_wf {s : State} (off : Bool) (h : Memory.wf s.mem = true) : Memory.wf (s.clearDevice off).mem = true := by
  unfold State.clearDevice
  dsimp only
  exact dropPhys_mem_wf _ (foldl_mem_wf (fun s i h => leavePart_mem_wf i h) _ h)

/-- The placing of a fetched word. -/
theorem withFetchWord_mem_wf {s : State} (nbits w : Nat) (h : Memory.wf s.mem = true) :
    Memory.wf (s.withFetchWord nbits w).mem = true := by
  unfold State.withFetchWord Memory.wf
  dsimp only
  apply SMap.wf_setList
  simp only [State.setPreg, State.setReg]
  exact h

end Sys2Proof.Machine
end

