-- ==== Sys2Proof/Laws/PerInstr.lean ====
section
/-!
SUPPORT. A statement of every instruction as syntax: the number that the encoder gives an instruction is one of 32 bits, so
that `encode` drops nothing of it; an event has none.
-/

namespace Sys2Proof

theorem Operand.code_lt (o : Operand) : o.code < 256 := by
  cases o <;> simp only [Operand.code] <;> omega

namespace Laws

/-- What `encodeNat` gives fits a word. -/
def EncodeBound.Statement (i : Instr) : Prop := ∀ n, encodeNat i = some n → n < 2 ^ 32

theorem EncodeBound.nop : EncodeBound.Statement (.nop) := by
  rintro n ⟨⟩
  omega

theorem EncodeBound.br (off : BitVec 20) : EncodeBound.Statement (.br off) := by
  rintro n ⟨⟩
  have := off.isLt
  omega

theorem EncodeBound.brt (p : Fin 16) (off : BitVec 20) : EncodeBound.Statement (.brt p off) := by
  rintro n ⟨⟩
  have := p.isLt
  have := off.isLt
  omega

theorem EncodeBound.brx (a : Operand) : EncodeBound.Statement (.brx a) := by
  rintro n ⟨⟩
  have := a.code_lt
  omega

theorem EncodeBound.call (r : Fin 16) (off : BitVec 20) : EncodeBound.Statement (.call r off) := by
  rintro n ⟨⟩
  have := r.isLt
  have := off.isLt
  omega

theorem EncodeBound.ret (r : Fin 16) : EncodeBound.Statement (.ret r) := by
  rintro n ⟨⟩
  have := r.isLt
  omega

theorem EncodeBound.tok (off : BitVec 20) : EncodeBound.Statement (.tok off) := by
  rintro n ⟨⟩
  have := off.isLt
  omega

theorem EncodeBound.rejoin (k : Fin 16) : EncodeBound.Statement (.rejoin k) := by
  rintro n ⟨⟩
  have := k.isLt
  omega

theorem EncodeBound.exit (a : Operand) : EncodeBound.Statement (.exit a) := by
  rintro n ⟨⟩
  have := a.code_lt
  omega

theorem EncodeBound.yield : EncodeBound.Statement (.yield) := by
  rintro n ⟨⟩
  omega

theorem EncodeBound.waitf (a : Operand) : EncodeBound.Statement (.waitf a) := by
  rintro n ⟨⟩
  have := a.code_lt
  omega

theorem EncodeBound.waitv (c : Fin 4) (a b : Operand) : EncodeBound.Statement (.waitv c a b) := by
  rintro n ⟨⟩
  have := c.isLt
  have := a.code_lt
  have := b.code_lt
  omega

theorem EncodeBound.fpt (k : BitVec 16) : EncodeBound.Statement (.fpt k) := by
  rintro n ⟨⟩
  have := k.isLt
  omega

theorem EncodeBound.sleep (n : BitVec 24) : EncodeBound.Statement (.sleep n) := by
  rintro n ⟨⟩
  have := n.isLt
  omega

theorem EncodeBound.bar (n : Fin 4) : EncodeBound.Statement (.bar n) := by
  rintro n ⟨⟩
  have := n.isLt
  omega

theorem EncodeBound.barArrive (n : Fin 4) : EncodeBound.Statement (.barArrive n) := by
  rintro n ⟨⟩
  have := n.isLt
  omega

theorem EncodeBound.barWait (n : Fin 4) : EncodeBound.Statement (.barWait n) := by
  rintro n ⟨⟩
  have := n.isLt
  omega

theorem EncodeBound.lfsr (d a : Operand) : EncodeBound.Statement (.lfsr d a) := by
  rintro n ⟨⟩
  have := d.code_lt
  have := a.code_lt
  omega

theorem EncodeBound.lfsrRd (d : Operand) : EncodeBound.Statement (.lfsrRd d) := by
  rintro n ⟨⟩
  have := d.code_lt
  omega

theorem EncodeBound.modeSet (s : BitVec 8) (v : BitVec 16) : EncodeBound.Statement (.modeSet s v) := by
  rintro n ⟨⟩
  have := s.isLt
  have := v.isLt
  omega

theorem EncodeBound.modeGet (d : Operand) : EncodeBound.Statement (.modeGet d) := by
  rintro n ⟨⟩
  have := d.code_lt
  omega

theorem EncodeBound.modePut (a : Operand) : EncodeBound.Statement (.modePut a) := by
  rintro n ⟨⟩
  have := a.code_lt
  omega

theorem EncodeBound.guard (s : Fin 8) (p : Fin 16) : EncodeBound.Statement (.guard s p) := by
  rintro n ⟨⟩
  have := s.isLt
  have := p.isLt
  omega

theorem EncodeBound.lrec (a b : Operand) : EncodeBound.Statement (.lrec a b) := by
  rintro n ⟨⟩
  have := a.code_lt
  have := b.code_lt
  omega

theorem EncodeBound.launch (a : Operand) : EncodeBound.Statement (.launch a) := by
  rintro n ⟨⟩
  have := a.code_lt
  omega

theorem EncodeBound.lit (l : BitVec 24) : EncodeBound.Statement (.lit l) := by
  rintro n ⟨⟩
  have := l.isLt
  omega

theorem EncodeBound.lih (h : BitVec 8) : EncodeBound.Statement (.lih h) := by
  rintro n ⟨⟩
  have := h.isLt
  omega

theorem EncodeBound.trap (c : BitVec 8) : EncodeBound.Statement (.trap c) := by
  rintro n ⟨⟩
  have := c.isLt
  omega

theorem EncodeBound.sysr (d : Operand) (s : BitVec 16) : EncodeBound.Statement (.sysr d s) := by
  rintro n ⟨⟩
  have := d.code_lt
  have := s.isLt
  omega

theorem EncodeBound.sysw (d : Operand) (s : BitVec 16) : EncodeBound.Statement (.sysw d s) := by
  rintro n ⟨⟩
  have := d.code_lt
  have := s.isLt
  omega

theorem EncodeBound.brk (c : BitVec 8) : EncodeBound.Statement (.brk c) := by
  rintro n ⟨⟩
  have := c.isLt
  omega

theorem EncodeBound.add (d a b : Operand) : EncodeBound.Statement (.add d a b) := by
  rintro n ⟨⟩
  have := d.code_lt
  have := a.code_lt
  have := b.code_lt
  omega

theorem EncodeBound.sub (d a b : Operand) : EncodeBound.Statement (.sub d a b) := by
  rintro n ⟨⟩
  have := d.code_lt
  have := a.code_lt
  have := b.code_lt
  omega

theorem EncodeBound.addc (d a b : Operand) : EncodeBound.Statement (.addc d a b) := by
  rintro n ⟨⟩
  have := d.code_lt
  have := a.code_lt
  have := b.code_lt
  omega

theorem EncodeBound.subb (d a b : Operand) : EncodeBound.Statement (.subb d a b) := by
  rintro n ⟨⟩
  have := d.code_lt
  have := a.code_lt
  have := b.code_lt
  omega

theorem EncodeBound.mul (d a b : Operand) : EncodeBound.Statement (.mul d a b) := by
  rintro n ⟨⟩
  have := d.code_lt
  have := a.code_lt
  have := b.code_lt
  omega

theorem EncodeBound.mulh (d a b : Operand) : EncodeBound.Statement (.mulh d a b) := by
  rintro n ⟨⟩
  have := d.code_lt
  have := a.code_lt
  have := b.code_lt
  omega

theorem EncodeBound.mad (d a b : Operand) : EncodeBound.Statement (.mad d a b) := by
  rintro n ⟨⟩
  have := d.code_lt
  have := a.code_lt
  have := b.code_lt
  omega

theorem EncodeBound.madh (d a b : Operand) : EncodeBound.Statement (.madh d a b) := by
  rintro n ⟨⟩
  have := d.code_lt
  have := a.code_lt
  have := b.code_lt
  omega

theorem EncodeBound.div (d a b : Operand) : EncodeBound.Statement (.div d a b) := by
  rintro n ⟨⟩
  have := d.code_lt
  have := a.code_lt
  have := b.code_lt
  omega

theorem EncodeBound.rem (d a b : Operand) : EncodeBound.Statement (.rem d a b) := by
  rintro n ⟨⟩
  have := d.code_lt
  have := a.code_lt
  have := b.code_lt
  omega

theorem EncodeBound.neg (d a : Operand) : EncodeBound.Statement (.neg d a) := by
  rintro n ⟨⟩
  have := d.code_lt
  have := a.code_lt
  omega

theorem EncodeBound.abs (d a : Operand) : EncodeBound.Statement (.abs d a) := by
  rintro n ⟨⟩
  have := d.code_lt
  have := a.code_lt
  omega

theorem EncodeBound.min (d a b : Operand) : EncodeBound.Statement (.min d a b) := by
  rintro n ⟨⟩
  have := d.code_lt
  have := a.code_lt
  have := b.code_lt
  omega

theorem EncodeBound.max (d a b : Operand) : EncodeBound.Statement (.max d a b) := by
  rintro n ⟨⟩
  have := d.code_lt
  have := a.code_lt
  have := b.code_lt
  omega

theorem EncodeBound.and (d a b : Operand) : EncodeBound.Statement (.and d a b) := by
  rintro n ⟨⟩
  have := d.code_lt
  have := a.code_lt
  have := b.code_lt
  omega

theorem EncodeBound.or (d a b : Operand) : EncodeBound.Statement (.or d a b) := by
  rintro n ⟨⟩
  have := d.code_lt
  have := a.code_lt
  have := b.code_lt
  omega

theorem EncodeBound.xor (d a b : Operand) : EncodeBound.Statement (.xor d a b) := by
  rintro n ⟨⟩
  have := d.code_lt
  have := a.code_lt
  have := b.code_lt
  omega

theorem EncodeBound.not (d a : Operand) : EncodeBound.Statement (.not d a) := by
  rintro n ⟨⟩
  have := d.code_lt
  have := a.code_lt
  omega

theorem EncodeBound.andn (d a b : Operand) : EncodeBound.Statement (.andn d a b) := by
  rintro n ⟨⟩
  have := d.code_lt
  have := a.code_lt
  have := b.code_lt
  omega

theorem EncodeBound.shl (d a b : Operand) : EncodeBound.Statement (.shl d a b) := by
  rintro n ⟨⟩
  have := d.code_lt
  have := a.code_lt
  have := b.code_lt
  omega

theorem EncodeBound.shr (d a b : Operand) : EncodeBound.Statement (.shr d a b) := by
  rintro n ⟨⟩
  have := d.code_lt
  have := a.code_lt
  have := b.code_lt
  omega

theorem EncodeBound.sar (d a b : Operand) : EncodeBound.Statement (.sar d a b) := by
  rintro n ⟨⟩
  have := d.code_lt
  have := a.code_lt
  have := b.code_lt
  omega

theorem EncodeBound.rol (d a b : Operand) : EncodeBound.Statement (.rol d a b) := by
  rintro n ⟨⟩
  have := d.code_lt
  have := a.code_lt
  have := b.code_lt
  omega

theorem EncodeBound.bfx (d a b : Operand) : EncodeBound.Statement (.bfx d a b) := by
  rintro n ⟨⟩
  have := d.code_lt
  have := a.code_lt
  have := b.code_lt
  omega

theorem EncodeBound.bfi (d a b : Operand) : EncodeBound.Statement (.bfi d a b) := by
  rintro n ⟨⟩
  have := d.code_lt
  have := a.code_lt
  have := b.code_lt
  omega

theorem EncodeBound.popc (d a : Operand) : EncodeBound.Statement (.popc d a) := by
  rintro n ⟨⟩
  have := d.code_lt
  have := a.code_lt
  omega

theorem EncodeBound.clz (d a : Operand) : EncodeBound.Statement (.clz d a) := by
  rintro n ⟨⟩
  have := d.code_lt
  have := a.code_lt
  omega

theorem EncodeBound.ctz (d a : Operand) : EncodeBound.Statement (.ctz d a) := by
  rintro n ⟨⟩
  have := d.code_lt
  have := a.code_lt
  omega

theorem EncodeBound.brev (d a : Operand) : EncodeBound.Statement (.brev d a) := by
  rintro n ⟨⟩
  have := d.code_lt
  have := a.code_lt
  omega

theorem EncodeBound.cmp (r : Fin 16) (p : Fin 16) (a b : Operand) : EncodeBound.Statement (.cmp r p a b) := by
  rintro n ⟨⟩
  have := r.isLt
  have := p.isLt
  have := a.code_lt
  have := b.code_lt
  omega

theorem EncodeBound.sel (d a b : Operand) : EncodeBound.Statement (.sel d a b) := by
  rintro n ⟨⟩
  have := d.code_lt
  have := a.code_lt
  have := b.code_lt
  omega

theorem EncodeBound.mov (d a : Operand) : EncodeBound.Statement (.mov d a) := by
  rintro n ⟨⟩
  have := d.code_lt
  have := a.code_lt
  omega

theorem EncodeBound.movi (d : Operand) (i : BitVec 16) : EncodeBound.Statement (.movi d i) := by
  rintro n ⟨⟩
  have := d.code_lt
  have := i.isLt
  omega

theorem EncodeBound.movs (d a b : Operand) : EncodeBound.Statement (.movs d a b) := by
  rintro n ⟨⟩
  have := d.code_lt
  have := a.code_lt
  have := b.code_lt
  omega

theorem EncodeBound.shflIdx (d a b : Operand) : EncodeBound.Statement (.shflIdx d a b) := by
  rintro n ⟨⟩
  have := d.code_lt
  have := a.code_lt
  have := b.code_lt
  omega

theorem EncodeBound.shflXor (d a b : Operand) : EncodeBound.Statement (.shflXor d a b) := by
  rintro n ⟨⟩
  have := d.code_lt
  have := a.code_lt
  have := b.code_lt
  omega

theorem EncodeBound.shflUp (d a b : Operand) : EncodeBound.Statement (.shflUp d a b) := by
  rintro n ⟨⟩
  have := d.code_lt
  have := a.code_lt
  have := b.code_lt
  omega

theorem EncodeBound.shflDown (d a b : Operand) : EncodeBound.Statement (.shflDown d a b) := by
  rintro n ⟨⟩
  have := d.code_lt
  have := a.code_lt
  have := b.code_lt
  omega

theorem EncodeBound.vote (d a : Operand) (k : BitVec 8) : EncodeBound.Statement (.vote d a k) := by
  rintro n ⟨⟩
  have := d.code_lt
  have := a.code_lt
  have := k.isLt
  omega

theorem EncodeBound.ballot (d a : Operand) (s : Fin 4) : EncodeBound.Statement (.ballot d a s) := by
  rintro n ⟨⟩
  have := d.code_lt
  have := a.code_lt
  have := s.isLt
  omega

theorem EncodeBound.redux (d a : Operand) (o : BitVec 5) : EncodeBound.Statement (.redux d a o) := by
  rintro n ⟨⟩
  have := d.code_lt
  have := a.code_lt
  have := o.isLt
  omega

theorem EncodeBound.scan (d a : Operand) (e : Bool) (o : Fin 16) : EncodeBound.Statement (.scan d a e o) := by
  rintro n ⟨⟩
  have := d.code_lt
  have := a.code_lt
  have := e.toNat_le
  have := o.isLt
  omega

theorem EncodeBound.pand (d a b : Operand) : EncodeBound.Statement (.pand d a b) := by
  rintro n ⟨⟩
  have := d.code_lt
  have := a.code_lt
  have := b.code_lt
  omega

theorem EncodeBound.por (d a b : Operand) : EncodeBound.Statement (.por d a b) := by
  rintro n ⟨⟩
  have := d.code_lt
  have := a.code_lt
  have := b.code_lt
  omega

theorem EncodeBound.pxor (d a b : Operand) : EncodeBound.Statement (.pxor d a b) := by
  rintro n ⟨⟩
  have := d.code_lt
  have := a.code_lt
  have := b.code_lt
  omega

theorem EncodeBound.pnot (d a : Operand) : EncodeBound.Statement (.pnot d a) := by
  rintro n ⟨⟩
  have := d.code_lt
  have := a.code_lt
  omega

theorem EncodeBound.pcnt (d a : Operand) (s : Fin 4) : EncodeBound.Statement (.pcnt d a s) := by
  rintro n ⟨⟩
  have := d.code_lt
  have := a.code_lt
  have := s.isLt
  omega

theorem EncodeBound.fadd (d a b : Operand) : EncodeBound.Statement (.fadd d a b) := by
  rintro n ⟨⟩
  have := d.code_lt
  have := a.code_lt
  have := b.code_lt
  omega

theorem EncodeBound.fsub (d a b : Operand) : EncodeBound.Statement (.fsub d a b) := by
  rintro n ⟨⟩
  have := d.code_lt
  have := a.code_lt
  have := b.code_lt
  omega

theorem EncodeBound.fmul (d a b : Operand) : EncodeBound.Statement (.fmul d a b) := by
  rintro n ⟨⟩
  have := d.code_lt
  have := a.code_lt
  have := b.code_lt
  omega

theorem EncodeBound.ffma (d a b : Operand) : EncodeBound.Statement (.ffma d a b) := by
  rintro n ⟨⟩
  have := d.code_lt
  have := a.code_lt
  have := b.code_lt
  omega

theorem EncodeBound.fabs (d a : Operand) : EncodeBound.Statement (.fabs d a) := by
  rintro n ⟨⟩
  have := d.code_lt
  have := a.code_lt
  omega

theorem EncodeBound.fneg (d a : Operand) : EncodeBound.Statement (.fneg d a) := by
  rintro n ⟨⟩
  have := d.code_lt
  have := a.code_lt
  omega

theorem EncodeBound.fmin (d a b : Operand) : EncodeBound.Statement (.fmin d a b) := by
  rintro n ⟨⟩
  have := d.code_lt
  have := a.code_lt
  have := b.code_lt
  omega

theorem EncodeBound.fmax (d a b : Operand) : EncodeBound.Statement (.fmax d a b) := by
  rintro n ⟨⟩
  have := d.code_lt
  have := a.code_lt
  have := b.code_lt
  omega

theorem EncodeBound.fcmp (r : Fin 16) (p : Fin 16) (a b : Operand) : EncodeBound.Statement (.fcmp r p a b) := by
  rintro n ⟨⟩
  have := r.isLt
  have := p.isLt
  have := a.code_lt
  have := b.code_lt
  omega

theorem EncodeBound.fcls (d a : Operand) : EncodeBound.Statement (.fcls d a) := by
  rintro n ⟨⟩
  have := d.code_lt
  have := a.code_lt
  omega

theorem EncodeBound.frcp (d a : Operand) : EncodeBound.Statement (.frcp d a) := by
  rintro n ⟨⟩
  have := d.code_lt
  have := a.code_lt
  omega

theorem EncodeBound.frsq (d a : Operand) : EncodeBound.Statement (.frsq d a) := by
  rintro n ⟨⟩
  have := d.code_lt
  have := a.code_lt
  omega

theorem EncodeBound.fsqrt (d a : Operand) : EncodeBound.Statement (.fsqrt d a) := by
  rintro n ⟨⟩
  have := d.code_lt
  have := a.code_lt
  omega

theorem EncodeBound.fdiv (d a b : Operand) : EncodeBound.Statement (.fdiv d a b) := by
  rintro n ⟨⟩
  have := d.code_lt
  have := a.code_lt
  have := b.code_lt
  omega

theorem EncodeBound.fex2 (d a : Operand) : EncodeBound.Statement (.fex2 d a) := by
  rintro n ⟨⟩
  have := d.code_lt
  have := a.code_lt
  omega

theorem EncodeBound.flg2 (d a : Operand) : EncodeBound.Statement (.flg2 d a) := by
  rintro n ⟨⟩
  have := d.code_lt
  have := a.code_lt
  omega

theorem EncodeBound.fsin (d a : Operand) : EncodeBound.Statement (.fsin d a) := by
  rintro n ⟨⟩
  have := d.code_lt
  have := a.code_lt
  omega

theorem EncodeBound.fcos (d a : Operand) : EncodeBound.Statement (.fcos d a) := by
  rintro n ⟨⟩
  have := d.code_lt
  have := a.code_lt
  omega

theorem EncodeBound.ffrac (d a : Operand) : EncodeBound.Statement (.ffrac d a) := by
  rintro n ⟨⟩
  have := d.code_lt
  have := a.code_lt
  omega

theorem EncodeBound.fround (d a : Operand) : EncodeBound.Statement (.fround d a) := by
  rintro n ⟨⟩
  have := d.code_lt
  have := a.code_lt
  omega

theorem EncodeBound.fscale (d a b : Operand) : EncodeBound.Statement (.fscale d a b) := by
  rintro n ⟨⟩
  have := d.code_lt
  have := a.code_lt
  have := b.code_lt
  omega

theorem EncodeBound.cvtFi (d a : Operand) (c : Fin 16) : EncodeBound.Statement (.cvtFi d a c) := by
  rintro n ⟨⟩
  have := d.code_lt
  have := a.code_lt
  have := c.isLt
  omega

theorem EncodeBound.cvtIf (d a : Operand) (c : Fin 16) : EncodeBound.Statement (.cvtIf d a c) := by
  rintro n ⟨⟩
  have := d.code_lt
  have := a.code_lt
  have := c.isLt
  omega

theorem EncodeBound.cvtFfFrom (d a : Operand) (p : Fin 16) : EncodeBound.Statement (.cvtFfFrom d a p) := by
  rintro n ⟨⟩
  have := d.code_lt
  have := a.code_lt
  have := p.isLt
  omega

theorem EncodeBound.cvtFfTo (d a : Operand) (p : Fin 16) : EncodeBound.Statement (.cvtFfTo d a p) := by
  rintro n ⟨⟩
  have := d.code_lt
  have := a.code_lt
  have := p.isLt
  omega

theorem EncodeBound.pack8 (d a : Operand) (k : Fin 8) (f : Fin 32) : EncodeBound.Statement (.pack8 d a k f) := by
  rintro n ⟨⟩
  have := d.code_lt
  have := a.code_lt
  have := k.isLt
  have := f.isLt
  omega

theorem EncodeBound.pack6 (d a : Operand) (k : Fin 8) (f : Fin 32) : EncodeBound.Statement (.pack6 d a k f) := by
  rintro n ⟨⟩
  have := d.code_lt
  have := a.code_lt
  have := k.isLt
  have := f.isLt
  omega

theorem EncodeBound.pack4 (d a : Operand) (k : Fin 8) (f : Fin 32) : EncodeBound.Statement (.pack4 d a k f) := by
  rintro n ⟨⟩
  have := d.code_lt
  have := a.code_lt
  have := k.isLt
  have := f.isLt
  omega

theorem EncodeBound.unpack (d a : Operand) (k : Fin 8) (f : Fin 32) : EncodeBound.Statement (.unpack d a k f) := by
  rintro n ⟨⟩
  have := d.code_lt
  have := a.code_lt
  have := k.isLt
  have := f.isLt
  omega

theorem EncodeBound.dot2 (d a b : Operand) : EncodeBound.Statement (.dot2 d a b) := by
  rintro n ⟨⟩
  have := d.code_lt
  have := a.code_lt
  have := b.code_lt
  omega

theorem EncodeBound.dot4 (d a b : Operand) : EncodeBound.Statement (.dot4 d a b) := by
  rintro n ⟨⟩
  have := d.code_lt
  have := a.code_lt
  have := b.code_lt
  omega

theorem EncodeBound.dot8 (d a b : Operand) : EncodeBound.Statement (.dot8 d a b) := by
  rintro n ⟨⟩
  have := d.code_lt
  have := a.code_lt
  have := b.code_lt
  omega

theorem EncodeBound.rseed (a : Operand) : EncodeBound.Statement (.rseed a) := by
  rintro n ⟨⟩
  have := a.code_lt
  omega

theorem EncodeBound.rnext (d : Operand) : EncodeBound.Statement (.rnext d) := by
  rintro n ⟨⟩
  have := d.code_lt
  omega

theorem EncodeBound.rnextH (d : Operand) : EncodeBound.Statement (.rnextH d) := by
  rintro n ⟨⟩
  have := d.code_lt
  omega

theorem EncodeBound.ipt (d a b : Operand) : EncodeBound.Statement (.ipt d a b) := by
  rintro n ⟨⟩
  have := d.code_lt
  have := a.code_lt
  have := b.code_lt
  omega

theorem EncodeBound.ilo (d a : Operand) : EncodeBound.Statement (.ilo d a) := by
  rintro n ⟨⟩
  have := d.code_lt
  have := a.code_lt
  omega

theorem EncodeBound.ihi (d a : Operand) : EncodeBound.Statement (.ihi d a) := by
  rintro n ⟨⟩
  have := d.code_lt
  have := a.code_lt
  omega

theorem EncodeBound.imid (d a : Operand) : EncodeBound.Statement (.imid d a) := by
  rintro n ⟨⟩
  have := d.code_lt
  have := a.code_lt
  omega

theorem EncodeBound.iwid (d a : Operand) : EncodeBound.Statement (.iwid d a) := by
  rintro n ⟨⟩
  have := d.code_lt
  have := a.code_lt
  omega

theorem EncodeBound.ihull (d a b : Operand) : EncodeBound.Statement (.ihull d a b) := by
  rintro n ⟨⟩
  have := d.code_lt
  have := a.code_lt
  have := b.code_lt
  omega

theorem EncodeBound.isect (d a b : Operand) : EncodeBound.Statement (.isect d a b) := by
  rintro n ⟨⟩
  have := d.code_lt
  have := a.code_lt
  have := b.code_lt
  omega

theorem EncodeBound.iin (d a b : Operand) : EncodeBound.Statement (.iin d a b) := by
  rintro n ⟨⟩
  have := d.code_lt
  have := a.code_lt
  have := b.code_lt
  omega

theorem EncodeBound.ibis (d a b : Operand) : EncodeBound.Statement (.ibis d a b) := by
  rintro n ⟨⟩
  have := d.code_lt
  have := a.code_lt
  have := b.code_lt
  omega

theorem EncodeBound.itake (d a b : Operand) : EncodeBound.Statement (.itake d a b) := by
  rintro n ⟨⟩
  have := d.code_lt
  have := a.code_lt
  have := b.code_lt
  omega

theorem EncodeBound.bbox (d a b : Operand) : EncodeBound.Statement (.bbox d a b) := by
  rintro n ⟨⟩
  have := d.code_lt
  have := a.code_lt
  have := b.code_lt
  omega

theorem EncodeBound.ldG (d : Operand) (w : Fin 8) (b : Fin 32) (x : Operand) : EncodeBound.Statement (.ldG d w b x) := by
  rintro n ⟨⟩
  have := d.code_lt
  have := w.isLt
  have := b.isLt
  have := x.code_lt
  omega

theorem EncodeBound.ldL (d : Operand) (w : Fin 8) (b : Fin 32) (x : Operand) : EncodeBound.Statement (.ldL d w b x) := by
  rintro n ⟨⟩
  have := d.code_lt
  have := w.isLt
  have := b.isLt
  have := x.code_lt
  omega

theorem EncodeBound.ldC (d : Operand) (w : Fin 8) (b : Fin 32) (x : Operand) : EncodeBound.Statement (.ldC d w b x) := by
  rintro n ⟨⟩
  have := d.code_lt
  have := w.isLt
  have := b.isLt
  have := x.code_lt
  omega

theorem EncodeBound.ldS (d : Operand) (w : Fin 8) (b : Fin 32) (x : Operand) : EncodeBound.Statement (.ldS d w b x) := by
  rintro n ⟨⟩
  have := d.code_lt
  have := w.isLt
  have := b.isLt
  have := x.code_lt
  omega

theorem EncodeBound.ldP (d : Operand) (w : Fin 8) (b : Fin 32) (x : Operand) : EncodeBound.Statement (.ldP d w b x) := by
  rintro n ⟨⟩
  have := d.code_lt
  have := w.isLt
  have := b.isLt
  have := x.code_lt
  omega

theorem EncodeBound.stG (d : Operand) (w : Fin 8) (b : Fin 32) (x : Operand) : EncodeBound.Statement (.stG d w b x) := by
  rintro n ⟨⟩
  have := d.code_lt
  have := w.isLt
  have := b.isLt
  have := x.code_lt
  omega

theorem EncodeBound.stL (d : Operand) (w : Fin 8) (b : Fin 32) (x : Operand) : EncodeBound.Statement (.stL d w b x) := by
  rintro n ⟨⟩
  have := d.code_lt
  have := w.isLt
  have := b.isLt
  have := x.code_lt
  omega

theorem EncodeBound.stC (d : Operand) (w : Fin 8) (b : Fin 32) (x : Operand) : EncodeBound.Statement (.stC d w b x) := by
  rintro n ⟨⟩
  have := d.code_lt
  have := w.isLt
  have := b.isLt
  have := x.code_lt
  omega

theorem EncodeBound.stS (d : Operand) (w : Fin 8) (b : Fin 32) (x : Operand) : EncodeBound.Statement (.stS d w b x) := by
  rintro n ⟨⟩
  have := d.code_lt
  have := w.isLt
  have := b.isLt
  have := x.code_lt
  omega

theorem EncodeBound.stP (d : Operand) (w : Fin 8) (b : Fin 32) (x : Operand) : EncodeBound.Statement (.stP d w b x) := by
  rintro n ⟨⟩
  have := d.code_lt
  have := w.isLt
  have := b.isLt
  have := x.code_lt
  omega

theorem EncodeBound.ldx (d : Operand) (w : Fin 8) (b : Fin 32) (x : Operand) : EncodeBound.Statement (.ldx d w b x) := by
  rintro n ⟨⟩
  have := d.code_lt
  have := w.isLt
  have := b.isLt
  have := x.code_lt
  omega

theorem EncodeBound.stx (d : Operand) (w : Fin 8) (b : Fin 32) (x : Operand) : EncodeBound.Statement (.stx d w b x) := by
  rintro n ⟨⟩
  have := d.code_lt
  have := w.isLt
  have := b.isLt
  have := x.code_lt
  omega

theorem EncodeBound.ild (d : Operand) (w : Fin 8) (b : Fin 32) (x : Operand) : EncodeBound.Statement (.ild d w b x) := by
  rintro n ⟨⟩
  have := d.code_lt
  have := w.isLt
  have := b.isLt
  have := x.code_lt
  omega

theorem EncodeBound.ist (d : Operand) (w : Fin 8) (b : Fin 32) (x : Operand) : EncodeBound.Statement (.ist d w b x) := by
  rintro n ⟨⟩
  have := d.code_lt
  have := w.isLt
  have := b.isLt
  have := x.code_lt
  omega

theorem EncodeBound.prf (w : Fin 8) (b : Fin 32) (x : Operand) : EncodeBound.Statement (.prf w b x) := by
  rintro n ⟨⟩
  have := w.isLt
  have := b.isLt
  have := x.code_lt
  omega

theorem EncodeBound.atomAdd (d : Operand) (q : Bool) (b : Fin 32) (x : Operand) : EncodeBound.Statement (.atomAdd d q b x) := by
  rintro n ⟨⟩
  have := d.code_lt
  have := q.toNat_le
  have := b.isLt
  have := x.code_lt
  omega

theorem EncodeBound.atomFadd (d : Operand) (q : Bool) (b : Fin 32) (x : Operand) : EncodeBound.Statement (.atomFadd d q b x) := by
  rintro n ⟨⟩
  have := d.code_lt
  have := q.toNat_le
  have := b.isLt
  have := x.code_lt
  omega

theorem EncodeBound.atomMin (d : Operand) (q : Bool) (b : Fin 32) (x : Operand) : EncodeBound.Statement (.atomMin d q b x) := by
  rintro n ⟨⟩
  have := d.code_lt
  have := q.toNat_le
  have := b.isLt
  have := x.code_lt
  omega

theorem EncodeBound.atomMax (d : Operand) (q : Bool) (b : Fin 32) (x : Operand) : EncodeBound.Statement (.atomMax d q b x) := by
  rintro n ⟨⟩
  have := d.code_lt
  have := q.toNat_le
  have := b.isLt
  have := x.code_lt
  omega

theorem EncodeBound.atomAnd (d : Operand) (q : Bool) (b : Fin 32) (x : Operand) : EncodeBound.Statement (.atomAnd d q b x) := by
  rintro n ⟨⟩
  have := d.code_lt
  have := q.toNat_le
  have := b.isLt
  have := x.code_lt
  omega

theorem EncodeBound.atomOr (d : Operand) (q : Bool) (b : Fin 32) (x : Operand) : EncodeBound.Statement (.atomOr d q b x) := by
  rintro n ⟨⟩
  have := d.code_lt
  have := q.toNat_le
  have := b.isLt
  have := x.code_lt
  omega

theorem EncodeBound.atomXor (d : Operand) (q : Bool) (b : Fin 32) (x : Operand) : EncodeBound.Statement (.atomXor d q b x) := by
  rintro n ⟨⟩
  have := d.code_lt
  have := q.toNat_le
  have := b.isLt
  have := x.code_lt
  omega

theorem EncodeBound.atomExch (d : Operand) (q : Bool) (b : Fin 32) (x : Operand) : EncodeBound.Statement (.atomExch d q b x) := by
  rintro n ⟨⟩
  have := d.code_lt
  have := q.toNat_le
  have := b.isLt
  have := x.code_lt
  omega

theorem EncodeBound.atomInc (d : Operand) (q : Bool) (b : Fin 32) (x : Operand) : EncodeBound.Statement (.atomInc d q b x) := by
  rintro n ⟨⟩
  have := d.code_lt
  have := q.toNat_le
  have := b.isLt
  have := x.code_lt
  omega

theorem EncodeBound.atomDec (d : Operand) (q : Bool) (b : Fin 32) (x : Operand) : EncodeBound.Statement (.atomDec d q b x) := by
  rintro n ⟨⟩
  have := d.code_lt
  have := q.toNat_le
  have := b.isLt
  have := x.code_lt
  omega

theorem EncodeBound.redAdd (d : Operand) (q : Bool) (b : Fin 32) (x : Operand) : EncodeBound.Statement (.redAdd d q b x) := by
  rintro n ⟨⟩
  have := d.code_lt
  have := q.toNat_le
  have := b.isLt
  have := x.code_lt
  omega

theorem EncodeBound.redFadd (d : Operand) (q : Bool) (b : Fin 32) (x : Operand) : EncodeBound.Statement (.redFadd d q b x) := by
  rintro n ⟨⟩
  have := d.code_lt
  have := q.toNat_le
  have := b.isLt
  have := x.code_lt
  omega

theorem EncodeBound.redMin (d : Operand) (q : Bool) (b : Fin 32) (x : Operand) : EncodeBound.Statement (.redMin d q b x) := by
  rintro n ⟨⟩
  have := d.code_lt
  have := q.toNat_le
  have := b.isLt
  have := x.code_lt
  omega

theorem EncodeBound.redMax (d : Operand) (q : Bool) (b : Fin 32) (x : Operand) : EncodeBound.Statement (.redMax d q b x) := by
  rintro n ⟨⟩
  have := d.code_lt
  have := q.toNat_le
  have := b.isLt
  have := x.code_lt
  omega

theorem EncodeBound.redAnd (d : Operand) (q : Bool) (b : Fin 32) (x : Operand) : EncodeBound.Statement (.redAnd d q b x) := by
  rintro n ⟨⟩
  have := d.code_lt
  have := q.toNat_le
  have := b.isLt
  have := x.code_lt
  omega

theorem EncodeBound.redOr (d : Operand) (q : Bool) (b : Fin 32) (x : Operand) : EncodeBound.Statement (.redOr d q b x) := by
  rintro n ⟨⟩
  have := d.code_lt
  have := q.toNat_le
  have := b.isLt
  have := x.code_lt
  omega

theorem EncodeBound.redXor (d : Operand) (q : Bool) (b : Fin 32) (x : Operand) : EncodeBound.Statement (.redXor d q b x) := by
  rintro n ⟨⟩
  have := d.code_lt
  have := q.toNat_le
  have := b.isLt
  have := x.code_lt
  omega

theorem EncodeBound.redExch (d : Operand) (q : Bool) (b : Fin 32) (x : Operand) : EncodeBound.Statement (.redExch d q b x) := by
  rintro n ⟨⟩
  have := d.code_lt
  have := q.toNat_le
  have := b.isLt
  have := x.code_lt
  omega

theorem EncodeBound.redInc (d : Operand) (q : Bool) (b : Fin 32) (x : Operand) : EncodeBound.Statement (.redInc d q b x) := by
  rintro n ⟨⟩
  have := d.code_lt
  have := q.toNat_le
  have := b.isLt
  have := x.code_lt
  omega

theorem EncodeBound.redDec (d : Operand) (q : Bool) (b : Fin 32) (x : Operand) : EncodeBound.Statement (.redDec d q b x) := by
  rintro n ⟨⟩
  have := d.code_lt
  have := q.toNat_le
  have := b.isLt
  have := x.code_lt
  omega

theorem EncodeBound.cas (d : Operand) (q : Bool) (b : Fin 32) (x : Operand) : EncodeBound.Statement (.cas d q b x) := by
  rintro n ⟨⟩
  have := d.code_lt
  have := q.toNat_le
  have := b.isLt
  have := x.code_lt
  omega

theorem EncodeBound.ldf (d : Operand) (b : Fin 32) (x : Operand) : EncodeBound.Statement (.ldf d b x) := by
  rintro n ⟨⟩
  have := d.code_lt
  have := b.isLt
  have := x.code_lt
  omega

theorem EncodeBound.stf (d : Operand) (b : Fin 32) (x : Operand) : EncodeBound.Statement (.stf d b x) := by
  rintro n ⟨⟩
  have := d.code_lt
  have := b.isLt
  have := x.code_lt
  omega

theorem EncodeBound.cpy (a : Operand) : EncodeBound.Statement (.cpy a) := by
  rintro n ⟨⟩
  have := a.code_lt
  omega

theorem EncodeBound.cpyCol (a : Operand) : EncodeBound.Statement (.cpyCol a) := by
  rintro n ⟨⟩
  have := a.code_lt
  omega

theorem EncodeBound.cpyMc (a : Operand) : EncodeBound.Statement (.cpyMc a) := by
  rintro n ⟨⟩
  have := a.code_lt
  omega

theorem EncodeBound.cpyThen (a b : Operand) : EncodeBound.Statement (.cpyThen a b) := by
  rintro n ⟨⟩
  have := a.code_lt
  have := b.code_lt
  omega

theorem EncodeBound.sealBatch (d : Operand) : EncodeBound.Statement (.sealBatch d) := by
  rintro n ⟨⟩
  have := d.code_lt
  omega

theorem EncodeBound.bwait (k : Fin 16) : EncodeBound.Statement (.bwait k) := by
  rintro n ⟨⟩
  have := k.isLt
  omega

theorem EncodeBound.slotFree (a : Operand) : EncodeBound.Statement (.slotFree a) := by
  rintro n ⟨⟩
  have := a.code_lt
  omega

theorem EncodeBound.tbarInit (a b : Operand) : EncodeBound.Statement (.tbarInit a b) := by
  rintro n ⟨⟩
  have := a.code_lt
  have := b.code_lt
  omega

theorem EncodeBound.tbarExpect (a b : Operand) : EncodeBound.Statement (.tbarExpect a b) := by
  rintro n ⟨⟩
  have := a.code_lt
  have := b.code_lt
  omega

theorem EncodeBound.tbarArrive (d a : Operand) : EncodeBound.Statement (.tbarArrive d a) := by
  rintro n ⟨⟩
  have := d.code_lt
  have := a.code_lt
  omega

theorem EncodeBound.tbarWait (a b : Operand) : EncodeBound.Statement (.tbarWait a b) := by
  rintro n ⟨⟩
  have := a.code_lt
  have := b.code_lt
  omega

theorem EncodeBound.fenceX (p q : Fin 8) : EncodeBound.Statement (.fenceX p q) := by
  rintro n ⟨⟩
  have := p.isLt
  have := q.isLt
  omega

theorem EncodeBound.fenceH : EncodeBound.Statement (.fenceH) := by
  rintro n ⟨⟩
  omega

theorem EncodeBound.spl (d a b : Operand) : EncodeBound.Statement (.spl d a b) := by
  rintro n ⟨⟩
  have := d.code_lt
  have := a.code_lt
  have := b.code_lt
  omega

theorem EncodeBound.fil (d a b : Operand) : EncodeBound.Statement (.fil d a b) := by
  rintro n ⟨⟩
  have := d.code_lt
  have := a.code_lt
  have := b.code_lt
  omega

theorem EncodeBound.mma (n : Fin 4) (a b : Operand) : EncodeBound.Statement (.mma n a b) := by
  rintro n ⟨⟩
  have := n.isLt
  have := a.code_lt
  have := b.code_lt
  omega

theorem EncodeBound.mmaB (n : Fin 4) (a b : Operand) : EncodeBound.Statement (.mmaB n a b) := by
  rintro n ⟨⟩
  have := n.isLt
  have := a.code_lt
  have := b.code_lt
  omega

theorem EncodeBound.mmat (a : Operand) : EncodeBound.Statement (.mmat a) := by
  rintro n ⟨⟩
  have := a.code_lt
  omega

theorem EncodeBound.accSwap (n : Fin 4) : EncodeBound.Statement (.accSwap n) := by
  rintro n ⟨⟩
  have := n.isLt
  omega

theorem EncodeBound.accZero (n : Fin 4) : EncodeBound.Statement (.accZero n) := by
  rintro n ⟨⟩
  have := n.isLt
  omega

theorem EncodeBound.accZeroV (n : Fin 4) : EncodeBound.Statement (.accZeroV n) := by
  rintro n ⟨⟩
  have := n.isLt
  omega

theorem EncodeBound.accRd (d a : Operand) (r n : Fin 4) : EncodeBound.Statement (.accRd d a r n) := by
  rintro n ⟨⟩
  have := d.code_lt
  have := a.code_lt
  have := r.isLt
  have := n.isLt
  omega

theorem EncodeBound.accWr (d a : Operand) (r n : Fin 4) : EncodeBound.Statement (.accWr d a r n) := by
  rintro n ⟨⟩
  have := d.code_lt
  have := a.code_lt
  have := r.isLt
  have := n.isLt
  omega

theorem EncodeBound.tld (d : Operand) (w : Fin 8) (b : Fin 32) (x : Operand) : EncodeBound.Statement (.tld d w b x) := by
  rintro n ⟨⟩
  have := d.code_lt
  have := w.isLt
  have := b.isLt
  have := x.code_lt
  omega

theorem EncodeBound.tldT (d : Operand) (w : Fin 8) (b : Fin 32) (x : Operand) : EncodeBound.Statement (.tldT d w b x) := by
  rintro n ⟨⟩
  have := d.code_lt
  have := w.isLt
  have := b.isLt
  have := x.code_lt
  omega

theorem EncodeBound.tst (d : Operand) (w : Fin 8) (b : Fin 32) (x : Operand) : EncodeBound.Statement (.tst d w b x) := by
  rintro n ⟨⟩
  have := d.code_lt
  have := w.isLt
  have := b.isLt
  have := x.code_lt
  omega

theorem EncodeBound.tscale (d a : Operand) (f : Fin 32) : EncodeBound.Statement (.tscale d a f) := by
  rintro n ⟨⟩
  have := d.code_lt
  have := a.code_lt
  have := f.isLt
  omega

theorem EncodeBound.fmtv (d a : Operand) : EncodeBound.Statement (.fmtv d a) := by
  rintro n ⟨⟩
  have := d.code_lt
  have := a.code_lt
  omega

theorem EncodeBound.scq (d a b : Operand) : EncodeBound.Statement (.scq d a b) := by
  rintro n ⟨⟩
  have := d.code_lt
  have := a.code_lt
  have := b.code_lt
  omega

theorem EncodeBound.scfill (d a b : Operand) : EncodeBound.Statement (.scfill d a b) := by
  rintro n ⟨⟩
  have := d.code_lt
  have := a.code_lt
  have := b.code_lt
  omega

theorem EncodeBound.scinv (d a : Operand) : EncodeBound.Statement (.scinv d a) := by
  rintro n ⟨⟩
  have := d.code_lt
  have := a.code_lt
  omega

theorem EncodeBound.scage (d a b : Operand) : EncodeBound.Statement (.scage d a b) := by
  rintro n ⟨⟩
  have := d.code_lt
  have := a.code_lt
  have := b.code_lt
  omega

theorem EncodeBound.rast (a : Operand) : EncodeBound.Statement (.rast a) := by
  rintro n ⟨⟩
  have := a.code_lt
  omega

theorem EncodeBound.ray (a b : Operand) : EncodeBound.Statement (.ray a b) := by
  rintro n ⟨⟩
  have := a.code_lt
  have := b.code_lt
  omega

theorem EncodeBound.qpost (a : Operand) : EncodeBound.Statement (.qpost a) := by
  rintro n ⟨⟩
  have := a.code_lt
  omega

theorem EncodeBound.amerge (d a b : Operand) : EncodeBound.Statement (.amerge d a b) := by
  rintro n ⟨⟩
  have := d.code_lt
  have := a.code_lt
  have := b.code_lt
  omega

theorem EncodeBound.afin (d a : Operand) : EncodeBound.Statement (.afin d a) := by
  rintro n ⟨⟩
  have := d.code_lt
  have := a.code_lt
  omega

theorem EncodeBound.unassignedOpcode (word : Word) : EncodeBound.Statement (.unassignedOpcode word) := nofun

theorem EncodeBound.handlerReturnContinue : EncodeBound.Statement (.handlerReturnContinue) := nofun

theorem EncodeBound.handlerReturnPc : EncodeBound.Statement (.handlerReturnPc) := nofun

theorem EncodeBound.handlerReturnEnd : EncodeBound.Statement (.handlerReturnEnd) := nofun

theorem EncodeBound.rejoinTimeout (wave tokenId : Nat) : EncodeBound.Statement (.rejoinTimeout wave tokenId) := nofun

theorem EncodeBound.waitRetest (wave slot : Nat) : EncodeBound.Statement (.waitRetest wave slot) := nofun

theorem EncodeBound.waitPeriodicRetest (wave slot : Nat) : EncodeBound.Statement (.waitPeriodicRetest wave slot) := nofun

theorem EncodeBound.pendingReadyReplace (core port : Nat) : EncodeBound.Statement (.pendingReadyReplace core port) := nofun

theorem EncodeBound.fragmentRankAging (wave slot : Nat) : EncodeBound.Statement (.fragmentRankAging wave slot) := nofun

theorem EncodeBound.sleepExpiry (wave slot : Nat) : EncodeBound.Statement (.sleepExpiry wave slot) := nofun

theorem EncodeBound.loadDataReturn (load : Nat) (data : List Byte) : EncodeBound.Statement (.loadDataReturn load data) := nofun

theorem EncodeBound.fenceComplete (wave slot : Nat) : EncodeBound.Statement (.fenceComplete wave slot) := nofun

theorem EncodeBound.doorbellWrite (vf ctx : Nat) (widx : Word) : EncodeBound.Statement (.doorbellWrite vf ctx widx) := nofun

theorem EncodeBound.queueEnableWrite (vf ctx : Nat) (val : Word) : EncodeBound.Statement (.queueEnableWrite vf ctx val) := nofun

theorem EncodeBound.queueEntryRelease (vf ctx : Nat) : EncodeBound.Statement (.queueEntryRelease vf ctx) := nofun

theorem EncodeBound.launchPriorityAging (launch : Nat) : EncodeBound.Statement (.launchPriorityAging launch) := nofun

theorem EncodeBound.workgroupDispatch (part : Nat) : EncodeBound.Statement (.workgroupDispatch part) := nofun

theorem EncodeBound.workgroupComplete (wg : Nat) : EncodeBound.Statement (.workgroupComplete wg) := nofun

theorem EncodeBound.ctxBindWrite (part vf ctx : Nat) (val : BitVec 64) : EncodeBound.Statement (.ctxBindWrite part vf ctx val) := nofun

theorem EncodeBound.deepPark (wave : Nat) : EncodeBound.Statement (.deepPark wave) := nofun

theorem EncodeBound.waveEviction (wave : Nat) : EncodeBound.Statement (.waveEviction wave) := nofun

theorem EncodeBound.waveRestore (wave : Nat) : EncodeBound.Statement (.waveRestore wave) := nofun

theorem EncodeBound.timeSliceEnd (vf ctx : Nat) : EncodeBound.Statement (.timeSliceEnd vf ctx) := nofun

theorem EncodeBound.preemptionSave (vf ctx : Nat) : EncodeBound.Statement (.preemptionSave vf ctx) := nofun

theorem EncodeBound.resumption (wg : Nat) : EncodeBound.Statement (.resumption wg) := nofun

theorem EncodeBound.pageWalk (vf ctx : Nat) (va : VAddr) (acc : Access) : EncodeBound.Statement (.pageWalk vf ctx va acc) := nofun

theorem EncodeBound.tlbInvalidate (vf ctx : Nat) (val : Word) : EncodeBound.Statement (.tlbInvalidate vf ctx val) := nofun

theorem EncodeBound.invalidationComplete (vf ctx : Nat) : EncodeBound.Statement (.invalidationComplete vf ctx) := nofun

theorem EncodeBound.mscRequest (slice t : Nat) (wr : Option (BitVec 8)) : EncodeBound.Statement (.mscRequest slice t wr) := nofun

theorem EncodeBound.mscFillComplete (slice index : Nat) : EncodeBound.Statement (.mscFillComplete slice index) := nofun

theorem EncodeBound.ptsTick : EncodeBound.Statement (.ptsTick) := nofun

theorem EncodeBound.l1CopyExpiry (core line : Nat) : EncodeBound.Statement (.l1CopyExpiry core line) := nofun

theorem EncodeBound.incomingWrite (src : Source) (addr : Nat) (data : List Byte) : EncodeBound.Statement (.incomingWrite src addr data) := nofun

theorem EncodeBound.incomingRead (src : Source) (addr len : Nat) : EncodeBound.Statement (.incomingRead src addr len) := nofun

theorem EncodeBound.pageMigration (cmd : Nat) : EncodeBound.Statement (.pageMigration cmd) := nofun

theorem EncodeBound.copyCommandStart (engine : Nat) : EncodeBound.Statement (.copyCommandStart engine) := nofun

theorem EncodeBound.guardWordResolve (cmd : Nat) : EncodeBound.Statement (.guardWordResolve cmd) := nofun

theorem EncodeBound.multicastStart (cmd : Nat) : EncodeBound.Statement (.multicastStart cmd) := nofun

theorem EncodeBound.copyBytesLand (cmd sectors : Nat) : EncodeBound.Statement (.copyBytesLand cmd sectors) := nofun

theorem EncodeBound.commandComplete (cmd : Nat) : EncodeBound.Statement (.commandComplete cmd) := nofun

theorem EncodeBound.matrixEntryStart (core : Nat) : EncodeBound.Statement (.matrixEntryStart core) := nofun

theorem EncodeBound.matrixChunkComplete (core mismatch : Nat) : EncodeBound.Statement (.matrixChunkComplete core mismatch) := nofun

theorem EncodeBound.mmatKstep (core : Nat) : EncodeBound.Statement (.mmatKstep core) := nofun

theorem EncodeBound.sightCommandRun (slice cluster : Nat) : EncodeBound.Statement (.sightCommandRun slice cluster) := nofun

theorem EncodeBound.scCtlWrite (part : Nat) (val : Word) : EncodeBound.Statement (.scCtlWrite part val) := nofun

theorem EncodeBound.scLookupRetry (wave slot : Nat) : EncodeBound.Statement (.scLookupRetry wave slot) := nofun

theorem EncodeBound.scRelookup (wave slot : Nat) : EncodeBound.Statement (.scRelookup wave slot) := nofun

theorem EncodeBound.shadeBatchDispatch (slice : Nat) : EncodeBound.Statement (.shadeBatchDispatch slice) := nofun

theorem EncodeBound.attentionCommandStart (cmd : Nat) : EncodeBound.Statement (.attentionCommandStart cmd) := nofun

theorem EncodeBound.bauRowRead (cmd bau : Nat) (fault : Bool) : EncodeBound.Statement (.bauRowRead cmd bau fault) := nofun

theorem EncodeBound.attentionResultWrite (cmd : Nat) : EncodeBound.Statement (.attentionResultWrite cmd) := nofun

theorem EncodeBound.refresh (stack channel : Nat) : EncodeBound.Statement (.refresh stack channel) := nofun

theorem EncodeBound.hotRowThrottle (stack bank row : Nat) : EncodeBound.Statement (.hotRowThrottle stack bank row) := nofun

theorem EncodeBound.hotRowSideQueue (stack channel : Nat) : EncodeBound.Statement (.hotRowSideQueue stack channel) := nofun

theorem EncodeBound.hotRowWindowEnd : EncodeBound.Statement (.hotRowWindowEnd) := nofun

theorem EncodeBound.ptCfgWrite (part : Nat) (val : Word) : EncodeBound.Statement (.ptCfgWrite part val) := nofun

theorem EncodeBound.ownershipWrite (part off : Nat) (val : Word) : EncodeBound.Statement (.ownershipWrite part off val) := nofun

theorem EncodeBound.vfCtlWrite (part vf : Nat) (val : Word) : EncodeBound.Statement (.vfCtlWrite part vf val) := nofun

theorem EncodeBound.rcbAddressWrite (reg : RcbReg) (val : BitVec 64) : EncodeBound.Statement (.rcbAddressWrite reg val) := nofun

theorem EncodeBound.keySlotOrdinary (slot : Nat) : EncodeBound.Statement (.keySlotOrdinary slot) := nofun

theorem EncodeBound.keySlotOff (slot : Nat) : EncodeBound.Statement (.keySlotOff slot) := nofun

theorem EncodeBound.keySlotPlain (slot : Nat) : EncodeBound.Statement (.keySlotPlain slot) := nofun

theorem EncodeBound.keySlotSealedWrite (slot : Nat) : EncodeBound.Statement (.keySlotSealedWrite slot) := nofun

theorem EncodeBound.keyModeChangeComplete (slot : Nat) : EncodeBound.Statement (.keyModeChangeComplete slot) := nofun

theorem EncodeBound.sealUnwrap : EncodeBound.Statement (.sealUnwrap) := nofun

theorem EncodeBound.sealGrantWrite (part vf ctx : Nat) (val : Word) : EncodeBound.Statement (.sealGrantWrite part vf ctx val) := nofun

theorem EncodeBound.meterWrite (meter off : Nat) (val : Word) : EncodeBound.Statement (.meterWrite meter off val) := nofun

theorem EncodeBound.meterTokenTick : EncodeBound.Statement (.meterTokenTick) := nofun

theorem EncodeBound.egressReadAbort (id : Nat) : EncodeBound.Statement (.egressReadAbort id) := nofun

theorem EncodeBound.logBaseCommit (val : Word) : EncodeBound.Statement (.logBaseCommit val) := nofun

theorem EncodeBound.logCheckpoint : EncodeBound.Statement (.logCheckpoint) := nofun

theorem EncodeBound.logEntryWrite : EncodeBound.Statement (.logEntryWrite) := nofun

theorem EncodeBound.scrubGo (part : Nat) (val : Word) : EncodeBound.Statement (.scrubGo part val) := nofun

theorem EncodeBound.scrubGranule : EncodeBound.Statement (.scrubGranule) := nofun

theorem EncodeBound.patrolScrub (addr : Nat) : EncodeBound.Statement (.patrolScrub addr) := nofun

theorem EncodeBound.errorInject : EncodeBound.Statement (.errorInject) := nofun

theorem EncodeBound.contextKill (vf ctx : Nat) : EncodeBound.Statement (.contextKill vf ctx) := nofun

theorem EncodeBound.vfReset (part vf : Nat) : EncodeBound.Statement (.vfReset part vf) := nofun

theorem EncodeBound.partitionReset (part : Nat) : EncodeBound.Statement (.partitionReset part) := nofun

theorem EncodeBound.quiesceComplete (conf : Nat) (eng : EngineClass) : EncodeBound.Statement (.quiesceComplete conf eng) := nofun

theorem EncodeBound.confinementCapture (conf : Nat) : EncodeBound.Statement (.confinementCapture conf) := nofun

theorem EncodeBound.powerOn : EncodeBound.Statement (.powerOn) := nofun

theorem EncodeBound.bootGo : EncodeBound.Statement (.bootGo) := nofun

theorem EncodeBound.bootVerifyComplete : EncodeBound.Statement (.bootVerifyComplete) := nofun

theorem EncodeBound.deviceReset : EncodeBound.Statement (.deviceReset) := nofun

theorem EncodeBound.pcieConventionalReset : EncodeBound.Statement (.pcieConventionalReset) := nofun

theorem EncodeBound.watchdogKick : EncodeBound.Statement (.watchdogKick) := nofun

theorem EncodeBound.watchdogPeriodWrite (val : Word) : EncodeBound.Statement (.watchdogPeriodWrite val) := nofun

theorem EncodeBound.watchdogExpiry : EncodeBound.Statement (.watchdogExpiry) := nofun

theorem EncodeBound.voltageFrequencyLoop (slice : Nat) (up : Bool) : EncodeBound.Statement (.voltageFrequencyLoop slice up) := nofun

theorem EncodeBound.linkEqualisation (lane taps : Nat) : EncodeBound.Statement (.linkEqualisation lane taps) := nofun

theorem EncodeBound.hbmReadEye (channel delay : Nat) : EncodeBound.Statement (.hbmReadEye channel delay) := nofun

theorem EncodeBound.refreshThreshold (stack : Nat) (temp : Int) : EncodeBound.Statement (.refreshThreshold stack temp) := nofun

theorem EncodeBound.ageingLoop (slice needMHz marginMV : Nat) : EncodeBound.Statement (.ageingLoop slice needMHz marginMV) := nofun

theorem EncodeBound.powerLimit (deciWatts : Nat) : EncodeBound.Statement (.powerLimit deciWatts) := nofun

theorem EncodeBound.thermalThrottle (slice : Nat) (temp : Int) : EncodeBound.Statement (.thermalThrottle slice temp) := nofun

theorem EncodeBound.thermalTrip (temp : Int) : EncodeBound.Statement (.thermalTrip temp) := nofun

theorem EncodeBound.saddleFlitReplay (link : Nat) : EncodeBound.Statement (.saddleFlitReplay link) := nofun

theorem EncodeBound.saddleLinkRetrain (link : Nat) (trained : Option (BitVec 8)) : EncodeBound.Statement (.saddleLinkRetrain link trained) := nofun

theorem EncodeBound.colBridgeReplay (dir : Bool) (lane : Nat) : EncodeBound.Statement (.colBridgeReplay dir lane) := nofun

theorem EncodeBound.pcieLinkDown : EncodeBound.Statement (.pcieLinkDown) := nofun

theorem EncodeBound.priResponse (id : Nat) (r : PriResp) : EncodeBound.Statement (.priResponse id r) := nofun

theorem EncodeBound.priTimeout (id : Nat) : EncodeBound.Statement (.priTimeout id) := nofun

theorem EncodeBound.stateReadback (unit index off : Nat) : EncodeBound.Statement (.stateReadback unit index off) := nofun

theorem EncodeBound.debugHaltControl (vf ctx : Nat) (enable : Bool) : EncodeBound.Statement (.debugHaltControl vf ctx enable) := nofun

theorem EncodeBound.brkResume (wave slot : Nat) : EncodeBound.Statement (.brkResume wave slot) := nofun

theorem EncodeBound.mgmtKill (wave : Nat) (slot : Option Nat) : EncodeBound.Statement (.mgmtKill wave slot) := nofun

theorem EncodeBound.rbacc (dr : BitVec 96) : EncodeBound.Statement (.rbacc dr) := nofun

theorem EncodeBound.extest (cells : List Bool) : EncodeBound.Statement (.extest cells) := nofun

theorem EncodeBound.sample (cells : List Bool) : EncodeBound.Statement (.sample cells) := nofun

theorem EncodeBound.preload (cells : List Bool) : EncodeBound.Statement (.preload cells) := nofun

theorem EncodeBound.bypass : EncodeBound.Statement (.bypass) := nofun

theorem EncodeBound.registerWrite (t : RegTarget) (val : Word) : EncodeBound.Statement (.registerWrite t val) := nofun

theorem EncodeBound.l2MissReport (load : Nat) : EncodeBound.Statement (.l2MissReport load) := nofun

theorem EncodeBound.captureDr : EncodeBound.Statement (.captureDr) := nofun

theorem EncodeBound.thermalThrottleRelease (slice : Nat) (temp : Int) : EncodeBound.Statement (.thermalThrottleRelease slice temp) := nofun

theorem EncodeBound.errorInjectComplete : EncodeBound.Statement (.errorInjectComplete) := nofun

end Laws

end Sys2Proof
end

