-- ==== Sys2Proof/Laws/Results.lean ====
section
/-!
SUPPORT. What each shared form of a register instruction gives when its operands are in order.
-/

namespace Sys2Proof.Machine

theorem dstBad_isReg {n : Nat} {d : Operand} (h : dstBad n d = false) : d.isReg = true ∨ d.isP = true := by
  left
  simp only [dstBad, Bool.or_eq_false_iff, Bool.not_eq_false'] at h
  exact h.1

theorem any_srcBad_false {s : State} {n : Nat} {os : List Operand} (h : ∀ o ∈ os, s.srcBad n o = false) :
    os.any (s.srcBad n) = false := by
  simp only [List.any_eq_false, Bool.not_eq_true]
  exact h

/-- The integer view's form (R221, R222). -/
theorem intUnit_gives {s : State} {d : Operand} {srcs : List Operand} {readsD : Bool} (f : Nat → Nat × List Nat)
    (h : s.intReady d srcs readsD) :
    Gives (s.intUnit d srcs readsD f) s d s.view.1.regs (runLanes d s.exec) (fun l =>
      { v := (f l).1, ev := (f l).2
        pois := (readsD && s.srcPois s.view.1.regs d l) || srcs.any (fun o => s.srcPois s.view.1.regs o l) }) := by
  obtain ⟨hw, hv, hd, hs, hp⟩ := h
  have h1 : (intView s.et).isNone = false := by
    cases h' : intView s.et <;> simp_all
  exact issue_gives hw (by simp only [State.encCond, h1, hd, any_srcBad_false hs, hp]; rfl) (lanesFor_run d s.exec)
    (dstBad_isReg hd)

theorem intUnit_writes {s : State} {d : Operand} {srcs : List Operand} {readsD : Bool} (f : Nat → Nat)
    (h : s.intReady d srcs readsD) :
    Writes (s.intUnit d srcs readsD (fun l => (f l, []))) s d s.view.1.regs (runLanes d s.exec) f (fun l =>
      (readsD && s.srcPois s.view.1.regs d l) || srcs.any (fun o => s.srcPois s.view.1.regs o l)) := by
  obtain ⟨hw, hv, hd, hs, hp⟩ := h
  have h1 : (intView s.et).isNone = false := by
    cases h' : intView s.et <;> simp_all
  have hc : s.encCond (intView s.et).isNone 0x01 ++ s.encCond (dstBad s.view.1.regs d) 0x01 ++
      s.encCond (srcs.any (s.srcBad s.view.1.regs)) 0x01 ++
      s.poisonCond d ((if readsD then [(s.view.1.regs, d)] else []) ++ srcs.map (fun o => (s.view.1.regs, o))) = [] := by
    simp only [State.encCond, h1, hd, any_srcBad_false hs, hp]; rfl
  let o (l : Nat) : LaneOut :=
    { v := f l, pois := (readsD && s.srcPois s.view.1.regs d l) || srcs.any (fun o => s.srcPois s.view.1.regs o l) }
  obtain ⟨t, a, b, c, e⟩ := issue_writes (out := o) hw hc (lanesFor_run d s.exec) (dstBad_isReg hd) (fun _ _ => rfl)
  refine ⟨t, ?_, b, c, e⟩
  rw [← a]
  have hf : ∀ u : State, u.finish s.frag.pc d s.view.1.regs ((runLanes d s.exec).map (fun l => (l, o l))) =
      u.writeLanes d s.view.1.regs ((runLanes d s.exec).map (fun l => (l, o l))) := by
    intro u
    refine logLanes_none _ _ _ ?_
    intro x hx
    obtain ⟨l, _, rfl⟩ := List.mem_map.mp hx
    rfl
  simp only [State.intUnit, o] at hf ⊢
  simp only [hf]

/-- The floating chapter's form (R244, R245, R270). -/
theorem floatUnit_gives {s : State} {ok rounds : Bool} {d : Operand} {nd : Nat} {srcs : List (Nat × Operand)}
    {more : List Cond} (f : Nat → LaneOut) (h : s.ready ok d nd srcs) (hr : (rounds && decide (6 ≤ s.rnd)) = false)
    (hm : more = []) :
    Gives (s.floatUnit ok rounds d nd srcs more f) s d nd (runLanes d s.exec)
      (fun l => { f l with pois := srcs.any (fun x => s.srcPois x.1 x.2 l) }) := by
  obtain ⟨hw, hv, hd, hs, hp⟩ := h
  have hs' : srcs.any (fun x => s.srcBad x.1 x.2) = false := by
    simp only [List.any_eq_false, Bool.not_eq_true]
    exact hs
  exact issue_gives hw (by simp only [State.encCond, hv, hr, hd, hs', hp, hm]; rfl) (lanesFor_run d s.exec)
    (dstBad_isReg hd)

end Sys2Proof.Machine
end

