-- ==== Sys2Proof/Tests/Slice0.lean ====
section
/-!
SUPPORT. Tests: words written from the encoding tables of the spec decode to their instructions; ill-formed terms are refused;
and for every statement that has hypotheses, a state and operands that meet them.
-/

set_option Elab.async false

open Sys2Proof Sys2Proof.Machine

/-! ### Well-formedness: an ill-formed term for each check -/

theorem test_wf_operands :
    (Instr.brx (.p 1)).wf = false ∧ (Instr.cpyThen (.x 0) (.p 1)).wf = false ∧ (Instr.waitf (.x 1)).wf = false ∧
    (Instr.waitv 0 (.k 2) (.x 0)).wf = false ∧ (Instr.waitv 0 (.x 2) (.p 0)).wf = false ∧ (Instr.lfsr (.sp 0) (.x 0)).wf = false ∧
    (Instr.rnext (.p 0)).wf = false ∧ (Instr.lrec (.x 0) (.v 1)).wf = false ∧ (Instr.launch (.v 3)).wf = false ∧
    (Instr.sysr (.k 0) 0).wf = false ∧ (Instr.add .lit (.x 0) (.x 0)).wf = false ∧ (Instr.add (.x 0) (.p 0) (.x 0)).wf = false ∧
    (Instr.dot4 (.v 0) (.v 1) (.v 2)).wf = false ∧ (Instr.not (.v 0) (.p 2)).wf = false ∧ (Instr.mov (.k 0) (.x 0)).wf = false ∧
    (Instr.sel (.v 0) (.v 1) (.v 2)).wf = false ∧ (Instr.movs (.v 0) (.x 1) (.x 2)).wf = false := by decide

theorem test_wf_codes :
    (Instr.modeSet 9 0).wf = false ∧ (Instr.modeSet 1 8).wf = false ∧ (Instr.guard 7 0).wf = false ∧
    (Instr.cmp 6 0 (.x 0) (.x 1)).wf = false ∧ (Instr.fcmp 7 0 (.x 0) (.x 1)).wf = false ∧
    (Instr.vote (.p 0) (.p 1) 3).wf = false ∧ (Instr.vote (.p 0) (.x 1) 0).wf = false ∧
    (Instr.ballot (.v 0) (.v 1) 0).wf = false ∧ (Instr.redux (.v 0) (.v 1) 9).wf = false ∧
    (Instr.redux (.v 0) (.x 1) 0).wf = false ∧ (Instr.scan (.v 0) (.v 1) true 9).wf = false ∧
    (Instr.pand (.p 0) (.p 1) (.v 2)).wf = false ∧ (Instr.pnot (.v 0) (.p 1)).wf = false ∧
    (Instr.cvtFi (.v 0) (.v 1) 8).wf = false ∧ (Instr.cvtIf (.v 0) (.v 1) 8).wf = false ∧
    (Instr.unpack (.v 0) (.p 1) 0 0).wf = false ∧ (Instr.iin (.v 0) (.v 2) (.v 4)).wf = false ∧
    (Instr.bbox (.p 0) (.v 6) (.k 1)).wf = false := by decide

theorem test_wf_memory :
    (Instr.ldG (.v 0) 7 2 (.x 0)).wf = false ∧ (Instr.stG (.p 0) 2 2 (.x 0)).wf = false ∧
    (Instr.ild (.v 0) 5 2 (.x 0)).wf = false ∧ (Instr.ist (.v 0) 5 2 (.x 0)).wf = false ∧ (Instr.prf 3 2 (.x 0)).wf = false ∧
    (Instr.atomAdd (.k 0) false 2 (.x 0)).wf = false ∧ (Instr.redAdd (.x 0) false 2 (.p 0)).wf = false ∧
    (Instr.spl (.x 0) (.x 1) (.x 2)).wf = false ∧ (Instr.fil (.v 0) (.x 1) (.x 3)).wf = false ∧
    (Instr.mma 0 (.x 0) (.x 1)).wf = false ∧ (Instr.accRd (.x 0) (.x 1) 0 0).wf = false ∧
    (Instr.tld (.v 0) 3 4 (.x 0)).wf = false ∧ (Instr.tst (.v 0) 0 2 (.x 0)).wf = false ∧
    (Instr.tscale (.v 0) (.x 1) 0).wf = false ∧ (Instr.fmtv (.v 0) (.x 1)).wf = false ∧
    (Instr.scq (.v 1) (.v 2) (.x 0)).wf = false ∧ (Instr.scfill (.v 2) (.x 0) (.x 2)).wf = false ∧
    (Instr.scage (.v 0) (.v 2) (.x 0)).wf = false ∧ (Instr.ray (.x 0) (.x 1)).wf = false ∧
    (Instr.amerge (.p 0) (.x 1) (.x 2)).wf = false ∧ (Instr.afin (.x 0) (.p 1)).wf = false := by decide

theorem test_wf_events :
    (Instr.rejoinTimeout 0 16).wf = false ∧ (Instr.sleepExpiry 0 64).wf = false ∧ (Instr.pendingReadyReplace 192 0).wf = false ∧
    (Instr.pendingReadyReplace 0 4).wf = false ∧ (Instr.timeSliceEnd 64 0).wf = false ∧ (Instr.timeSliceEnd 0 256).wf = false ∧
    (Instr.workgroupDispatch 12).wf = false ∧ (Instr.ctxBindWrite 12 0 0 0).wf = false ∧ (Instr.vfReset 0 64).wf = false ∧
    (Instr.mscFillComplete 12 0).wf = false ∧ (Instr.l1CopyExpiry 192 0).wf = false ∧
    (Instr.incomingRead (.host 65) 0 0).wf = false ∧ (Instr.incomingRead (.link 18) 0 0).wf = false ∧
    (Instr.copyCommandStart 48).wf = false ∧ (Instr.mmatKstep 192).wf = false ∧ (Instr.sightCommandRun 0 4).wf = false ∧
    (Instr.bauRowRead 0 1024 false).wf = false ∧ (Instr.refresh 0 64).wf = false ∧ (Instr.rcbAddressWrite (.part 12) 0).wf = false ∧
    (Instr.rcbAddressWrite (.vf 0 64) 0).wf = false ∧ (Instr.keySlotOff 64).wf = false ∧ (Instr.meterWrite 69 0 0).wf = false ∧
    (Instr.saddleFlitReplay 18).wf = false ∧ (Instr.stateReadback 64 0 0).wf = false ∧
    (Instr.registerWrite (.bar0 2) 0).wf = false ∧ (Instr.registerWrite (.doorbell 0 0 4096) 0).wf = false := by decide

theorem test_decode_Control0 :
    decode 0x00000000 = .ok (.nop) ∧
    decode 0x01012345 = .ok (.br 0x12345) ∧
    decode 0x025891A2 = .ok (.brt 5 0x891a2) ∧
    decode 0x03008600 = .ok (.brx (.x 6)) ∧
    decode 0x045891A2 = .ok (.call 5 0x891a2) ∧
    decode 0x05000005 = .ok (.ret 5) ∧
    decode 0x06012345 = .ok (.tok 0x12345) ∧
    decode 0x07500000 = .ok (.rejoin 5) ∧
    decode 0x08008600 = .ok (.exit (.x 6)) ∧
    decode 0x09000000 = .ok (.yield) ∧
    decode 0x0A008600 = .ok (.waitf (.x 6)) ∧
    decode 0x0B0186E9 = .ok (.waitv 1 (.x 6) (.k 9)) := by decide

theorem test_decode_Control1 :
    decode 0x0C002345 = .ok (.fpt 0x2345) ∧
    decode 0x0DF12345 = .ok (.sleep 0xf12345) ∧
    decode 0x0E000001 = .ok (.bar 1) ∧
    decode 0x0F000001 = .ok (.barArrive 1) ∧
    decode 0x10000001 = .ok (.barWait 1) ∧
    decode 0x11058600 = .ok (.lfsr (.v 5) (.x 6)) ∧
    decode 0x11050001 = .ok (.lfsrRd (.v 5)) ∧
    decode 0x124591A2 = .ok (.modeSet 0x45 0x91a2) ∧
    decode 0x13050000 = .ok (.modeGet (.v 5)) ∧
    decode 0x14008600 = .ok (.modePut (.x 6)) ∧
    decode 0x15000052 = .ok (.guard 5 2) := by decide

theorem test_decode_System0 :
    decode 0xE80086E9 = .ok (.lrec (.x 6) (.k 9)) ∧
    decode 0xE9008600 = .ok (.launch (.x 6)) ∧
    decode 0xF0F12345 = .ok (.lit 0xf12345) ∧
    decode 0xF1000045 = .ok (.lih 0x45) ∧
    decode 0xF2000045 = .ok (.trap 0x45) ∧
    decode 0xF30591A2 = .ok (.sysr (.v 5) 0x91a2) ∧
    decode 0xF40591A2 = .ok (.sysw (.v 5) 0x91a2) ∧
    decode 0xF5000045 = .ok (.brk 0x45) ∧
    decode 0xE0008600 = .ok (.qpost (.x 6)) ∧
    decode 0xE10586E9 = .ok (.amerge (.v 5) (.x 6) (.k 9)) ∧
    decode 0xE2058600 = .ok (.afin (.v 5) (.x 6)) := by decide

theorem test_decode_Integer0 :
    decode 0x200586E9 = .ok (.add (.v 5) (.x 6) (.k 9)) ∧
    decode 0x210586E9 = .ok (.sub (.v 5) (.x 6) (.k 9)) ∧
    decode 0x220586E9 = .ok (.addc (.v 5) (.x 6) (.k 9)) ∧
    decode 0x230586E9 = .ok (.subb (.v 5) (.x 6) (.k 9)) ∧
    decode 0x240586E9 = .ok (.mul (.v 5) (.x 6) (.k 9)) ∧
    decode 0x250586E9 = .ok (.mulh (.v 5) (.x 6) (.k 9)) ∧
    decode 0x260586E9 = .ok (.mad (.v 5) (.x 6) (.k 9)) ∧
    decode 0x270586E9 = .ok (.madh (.v 5) (.x 6) (.k 9)) ∧
    decode 0x280586E9 = .ok (.div (.v 5) (.x 6) (.k 9)) ∧
    decode 0x290586E9 = .ok (.rem (.v 5) (.x 6) (.k 9)) ∧
    decode 0x2A058600 = .ok (.neg (.v 5) (.x 6)) ∧
    decode 0x2B058600 = .ok (.abs (.v 5) (.x 6)) := by decide

theorem test_decode_Integer1 :
    decode 0x2C0586E9 = .ok (.min (.v 5) (.x 6) (.k 9)) ∧
    decode 0x2D0586E9 = .ok (.max (.v 5) (.x 6) (.k 9)) ∧
    decode 0x2E0586E9 = .ok (.and (.v 5) (.x 6) (.k 9)) ∧
    decode 0x2F0586E9 = .ok (.or (.v 5) (.x 6) (.k 9)) ∧
    decode 0x300586E9 = .ok (.xor (.v 5) (.x 6) (.k 9)) ∧
    decode 0x31058600 = .ok (.not (.v 5) (.x 6)) ∧
    decode 0x320586E9 = .ok (.andn (.v 5) (.x 6) (.k 9)) ∧
    decode 0x330586E9 = .ok (.shl (.v 5) (.x 6) (.k 9)) ∧
    decode 0x340586E9 = .ok (.shr (.v 5) (.x 6) (.k 9)) ∧
    decode 0x350586E9 = .ok (.sar (.v 5) (.x 6) (.k 9)) ∧
    decode 0x360586E9 = .ok (.rol (.v 5) (.x 6) (.k 9)) ∧
    decode 0x370586E9 = .ok (.bfx (.v 5) (.x 6) (.k 9)) := by decide

theorem test_decode_Integer2 :
    decode 0x380586E9 = .ok (.bfi (.v 5) (.x 6) (.k 9)) ∧
    decode 0x39058600 = .ok (.popc (.v 5) (.x 6)) ∧
    decode 0x3A058600 = .ok (.clz (.v 5) (.x 6)) ∧
    decode 0x3B058600 = .ok (.ctz (.v 5) (.x 6)) ∧
    decode 0x3C058600 = .ok (.brev (.v 5) (.x 6)) ∧
    decode 0x3D5286E9 = .ok (.cmp 5 2 (.x 6) (.k 9)) ∧
    decode 0x3E0586E9 = .ok (.sel (.v 5) (.x 6) (.k 9)) ∧
    decode 0x3F058600 = .ok (.mov (.v 5) (.x 6)) ∧
    decode 0x400591A2 = .ok (.movi (.v 5) 0x91a2) ∧
    decode 0x410586E9 = .ok (.movs (.v 5) (.x 6) (.k 9)) ∧
    decode 0x420586E9 = .ok (.shflIdx (.v 5) (.x 6) (.k 9)) ∧
    decode 0x430586E9 = .ok (.shflXor (.v 5) (.x 6) (.k 9)) := by decide

theorem test_decode_Integer3 :
    decode 0x440586E9 = .ok (.shflUp (.v 5) (.x 6) (.k 9)) ∧
    decode 0x450586E9 = .ok (.shflDown (.v 5) (.x 6) (.k 9)) ∧
    decode 0x460586D1 = .ok (.vote (.v 5) (.x 6) 0xd1) ∧
    decode 0x47058601 = .ok (.ballot (.v 5) (.x 6) 1) ∧
    decode 0x48058611 = .ok (.redux (.v 5) (.x 6) 0x11) ∧
    decode 0x49058618 = .ok (.scan (.v 5) (.x 6) true 8) ∧
    decode 0x4A0586E9 = .ok (.pand (.v 5) (.x 6) (.k 9)) ∧
    decode 0x4B0586E9 = .ok (.por (.v 5) (.x 6) (.k 9)) ∧
    decode 0x4C0586E9 = .ok (.pxor (.v 5) (.x 6) (.k 9)) ∧
    decode 0x4D058600 = .ok (.pnot (.v 5) (.x 6)) ∧
    decode 0x4E058601 = .ok (.pcnt (.v 5) (.x 6) 1) := by decide

theorem test_decode_Float0 :
    decode 0x500586E9 = .ok (.fadd (.v 5) (.x 6) (.k 9)) ∧
    decode 0x510586E9 = .ok (.fsub (.v 5) (.x 6) (.k 9)) ∧
    decode 0x520586E9 = .ok (.fmul (.v 5) (.x 6) (.k 9)) ∧
    decode 0x530586E9 = .ok (.ffma (.v 5) (.x 6) (.k 9)) ∧
    decode 0x54058600 = .ok (.fabs (.v 5) (.x 6)) ∧
    decode 0x55058600 = .ok (.fneg (.v 5) (.x 6)) ∧
    decode 0x560586E9 = .ok (.fmin (.v 5) (.x 6) (.k 9)) ∧
    decode 0x570586E9 = .ok (.fmax (.v 5) (.x 6) (.k 9)) ∧
    decode 0x585286E9 = .ok (.fcmp 5 2 (.x 6) (.k 9)) ∧
    decode 0x59058600 = .ok (.fcls (.v 5) (.x 6)) ∧
    decode 0x5A058600 = .ok (.frcp (.v 5) (.x 6)) ∧
    decode 0x5B058600 = .ok (.frsq (.v 5) (.x 6)) := by decide

theorem test_decode_Float1 :
    decode 0x5C058600 = .ok (.fsqrt (.v 5) (.x 6)) ∧
    decode 0x5D0586E9 = .ok (.fdiv (.v 5) (.x 6) (.k 9)) ∧
    decode 0x5E058600 = .ok (.fex2 (.v 5) (.x 6)) ∧
    decode 0x5F058600 = .ok (.flg2 (.v 5) (.x 6)) ∧
    decode 0x60058600 = .ok (.fsin (.v 5) (.x 6)) ∧
    decode 0x61058600 = .ok (.fcos (.v 5) (.x 6)) ∧
    decode 0x62058600 = .ok (.ffrac (.v 5) (.x 6)) ∧
    decode 0x63058600 = .ok (.fround (.v 5) (.x 6)) ∧
    decode 0x640586E9 = .ok (.fscale (.v 5) (.x 6) (.k 9)) ∧
    decode 0x65058601 = .ok (.cvtFi (.v 5) (.x 6) 1) ∧
    decode 0x66058601 = .ok (.cvtIf (.v 5) (.x 6) 1) ∧
    decode 0x67058601 = .ok (.cvtFfFrom (.v 5) (.x 6) 1) := by decide

theorem test_decode_Float2 :
    decode 0x67058611 = .ok (.cvtFfTo (.v 5) (.x 6) 1) ∧
    decode 0x68058628 = .ok (.pack8 (.v 5) (.x 6) 1 0x8) ∧
    decode 0x69058628 = .ok (.pack6 (.v 5) (.x 6) 1 0x8) ∧
    decode 0x6A058628 = .ok (.pack4 (.v 5) (.x 6) 1 0x8) ∧
    decode 0x6B058628 = .ok (.unpack (.v 5) (.x 6) 1 0x8) ∧
    decode 0x6C0586E9 = .ok (.dot2 (.v 5) (.x 6) (.k 9)) ∧
    decode 0x6D0586E9 = .ok (.dot4 (.v 5) (.x 6) (.k 9)) ∧
    decode 0x6E0586E9 = .ok (.dot8 (.v 5) (.x 6) (.k 9)) ∧
    decode 0x6F008600 = .ok (.rseed (.x 6)) ∧
    decode 0x70050000 = .ok (.rnext (.v 5)) ∧
    decode 0x70050001 = .ok (.rnextH (.v 5)) ∧
    decode 0x710586E9 = .ok (.ipt (.v 5) (.x 6) (.k 9)) := by decide

theorem test_decode_Float3 :
    decode 0x72058600 = .ok (.ilo (.v 5) (.x 6)) ∧
    decode 0x73058600 = .ok (.ihi (.v 5) (.x 6)) ∧
    decode 0x74058600 = .ok (.imid (.v 5) (.x 6)) ∧
    decode 0x75058600 = .ok (.iwid (.v 5) (.x 6)) ∧
    decode 0x760586E9 = .ok (.ihull (.v 5) (.x 6) (.k 9)) ∧
    decode 0x770586E9 = .ok (.isect (.v 5) (.x 6) (.k 9)) ∧
    decode 0x780586E9 = .ok (.iin (.v 5) (.x 6) (.k 9)) ∧
    decode 0x790586E9 = .ok (.ibis (.v 5) (.x 6) (.k 9)) ∧
    decode 0x7A0586E9 = .ok (.itake (.v 5) (.x 6) (.k 9)) ∧
    decode 0x7B0586E9 = .ok (.bbox (.v 5) (.x 6) (.k 9)) := by decide

theorem test_decode_Memory0 :
    decode 0x800571D3 = .ok (.ldG (.v 5) 3 0x11 (.sp 3)) ∧
    decode 0x810571D3 = .ok (.ldL (.v 5) 3 0x11 (.sp 3)) ∧
    decode 0x820571D3 = .ok (.ldC (.v 5) 3 0x11 (.sp 3)) ∧
    decode 0x830571D3 = .ok (.ldS (.v 5) 3 0x11 (.sp 3)) ∧
    decode 0x840571D3 = .ok (.ldP (.v 5) 3 0x11 (.sp 3)) ∧
    decode 0x850571D3 = .ok (.stG (.v 5) 3 0x11 (.sp 3)) ∧
    decode 0x860571D3 = .ok (.stL (.v 5) 3 0x11 (.sp 3)) ∧
    decode 0x870571D3 = .ok (.stC (.v 5) 3 0x11 (.sp 3)) ∧
    decode 0x880571D3 = .ok (.stS (.v 5) 3 0x11 (.sp 3)) ∧
    decode 0x890571D3 = .ok (.stP (.v 5) 3 0x11 (.sp 3)) ∧
    decode 0x8A0571D3 = .ok (.ldx (.v 5) 3 0x11 (.sp 3)) ∧
    decode 0x8B0571D3 = .ok (.stx (.v 5) 3 0x11 (.sp 3)) := by decide

theorem test_decode_Memory1 :
    decode 0x8C0571D3 = .ok (.ild (.v 5) 3 0x11 (.sp 3)) ∧
    decode 0x8D0571D3 = .ok (.ist (.v 5) 3 0x11 (.sp 3)) ∧
    decode 0x8E00A2D3 = .ok (.prf 5 0x2 (.sp 3)) ∧
    decode 0x8F05B1D3 = .ok (.atomAdd (.v 5) true 0x11 (.sp 3)) ∧
    decode 0x9005B1D3 = .ok (.atomFadd (.v 5) true 0x11 (.sp 3)) ∧
    decode 0x9105B1D3 = .ok (.atomMin (.v 5) true 0x11 (.sp 3)) ∧
    decode 0x9205B1D3 = .ok (.atomMax (.v 5) true 0x11 (.sp 3)) ∧
    decode 0x9305B1D3 = .ok (.atomAnd (.v 5) true 0x11 (.sp 3)) ∧
    decode 0x9405B1D3 = .ok (.atomOr (.v 5) true 0x11 (.sp 3)) ∧
    decode 0x9505B1D3 = .ok (.atomXor (.v 5) true 0x11 (.sp 3)) ∧
    decode 0x9605B1D3 = .ok (.atomExch (.v 5) true 0x11 (.sp 3)) ∧
    decode 0x9705B1D3 = .ok (.atomInc (.v 5) true 0x11 (.sp 3)) := by decide

theorem test_decode_Memory2 :
    decode 0x9805B1D3 = .ok (.atomDec (.v 5) true 0x11 (.sp 3)) ∧
    decode 0x8F0531D3 = .ok (.redAdd (.v 5) true 0x11 (.sp 3)) ∧
    decode 0x900531D3 = .ok (.redFadd (.v 5) true 0x11 (.sp 3)) ∧
    decode 0x910531D3 = .ok (.redMin (.v 5) true 0x11 (.sp 3)) ∧
    decode 0x920531D3 = .ok (.redMax (.v 5) true 0x11 (.sp 3)) ∧
    decode 0x930531D3 = .ok (.redAnd (.v 5) true 0x11 (.sp 3)) ∧
    decode 0x940531D3 = .ok (.redOr (.v 5) true 0x11 (.sp 3)) ∧
    decode 0x950531D3 = .ok (.redXor (.v 5) true 0x11 (.sp 3)) ∧
    decode 0x960531D3 = .ok (.redExch (.v 5) true 0x11 (.sp 3)) ∧
    decode 0x970531D3 = .ok (.redInc (.v 5) true 0x11 (.sp 3)) ∧
    decode 0x980531D3 = .ok (.redDec (.v 5) true 0x11 (.sp 3)) ∧
    decode 0x9905B1D3 = .ok (.cas (.v 5) true 0x11 (.sp 3)) := by decide

theorem test_decode_Memory3 :
    decode 0x9A05A2D3 = .ok (.ldf (.v 5) 0x2 (.sp 3)) ∧
    decode 0x9B05A2D3 = .ok (.stf (.v 5) 0x2 (.sp 3)) ∧
    decode 0x9C008600 = .ok (.cpy (.x 6)) ∧
    decode 0x9D008600 = .ok (.cpyCol (.x 6)) ∧
    decode 0x9E008600 = .ok (.cpyMc (.x 6)) ∧
    decode 0x9F0086E9 = .ok (.cpyThen (.x 6) (.k 9)) ∧
    decode 0xA0050000 = .ok (.sealBatch (.v 5)) ∧
    decode 0xA1000005 = .ok (.bwait 5) ∧
    decode 0xA2008600 = .ok (.slotFree (.x 6)) ∧
    decode 0xA30086E9 = .ok (.tbarInit (.x 6) (.k 9)) ∧
    decode 0xA40086E9 = .ok (.tbarExpect (.x 6) (.k 9)) ∧
    decode 0xA5058600 = .ok (.tbarArrive (.v 5) (.x 6)) := by decide

theorem test_decode_Memory4 :
    decode 0xA60086E9 = .ok (.tbarWait (.x 6) (.k 9)) ∧
    decode 0xA700002B = .ok (.fenceX 5 3) ∧
    decode 0xA8000000 = .ok (.fenceH) ∧
    decode 0xA90586E9 = .ok (.spl (.v 5) (.x 6) (.k 9)) ∧
    decode 0xAA0586E9 = .ok (.fil (.v 5) (.x 6) (.k 9)) := by decide

theorem test_decode_Matrix0 :
    decode 0xB00186E9 = .ok (.mma 1 (.x 6) (.k 9)) ∧
    decode 0xB10186E9 = .ok (.mmaB 1 (.x 6) (.k 9)) ∧
    decode 0xB2008600 = .ok (.mmat (.x 6)) ∧
    decode 0xB3000001 = .ok (.accSwap 1) ∧
    decode 0xB4000001 = .ok (.accZero 1) ∧
    decode 0xB4000005 = .ok (.accZeroV 1) ∧
    decode 0xB5058605 = .ok (.accRd (.v 5) (.x 6) 1 1) ∧
    decode 0xB6058605 = .ok (.accWr (.v 5) (.x 6) 1 1) ∧
    decode 0xB70571D3 = .ok (.tld (.v 5) 3 0x11 (.sp 3)) ∧
    decode 0xB80571D3 = .ok (.tldT (.v 5) 3 0x11 (.sp 3)) ∧
    decode 0xB90571D3 = .ok (.tst (.v 5) 3 0x11 (.sp 3)) ∧
    decode 0xBA058611 = .ok (.tscale (.v 5) (.x 6) 0x11) := by decide

theorem test_decode_Matrix1 :
    decode 0xBB058600 = .ok (.fmtv (.v 5) (.x 6)) ∧
    decode 0xD00586E9 = .ok (.scq (.v 5) (.x 6) (.k 9)) ∧
    decode 0xD10586E9 = .ok (.scfill (.v 5) (.x 6) (.k 9)) ∧
    decode 0xD2058600 = .ok (.scinv (.v 5) (.x 6)) ∧
    decode 0xD30586E9 = .ok (.scage (.v 5) (.x 6) (.k 9)) ∧
    decode 0xD4008600 = .ok (.rast (.x 6)) ∧
    decode 0xD50086E9 = .ok (.ray (.x 6) (.k 9)) := by decide

/-! ### States that meet the statements' hypotheses -/

/-- A fragment of two lanes in focus, at the start of a unit, under the mode register `mr`. -/
def tUnit (mr : Word := 0) : State :=
  { focus := true, nextId := 2
    frag := { pc := 0x1000, fbPc := 0x1000, mask := 3, mr := mr, status := .ready }
    wave := { id := 1, wgId := 1, present := 3, live := 3 }
    wg := { id := 1, kbase := 0x1000, localBytes := 4096, fbCount := 1, accum := 1 } }

/-- The accesses that are in order among a unit's. -/
def tItems (rs : List (Except Cond Item)) : List Item := rs.filterMap (fun r => r.toOption)

theorem test_witness_IntegerArithmetic_LogicShiftsAndFields :
    (tUnit).intReady (.v 1) [.v 2, .v 3] true ∧ (tUnit 0x180).intReady (.x 0) [.x 62, .x 2] false := by
  unfold State.intReady State.wordsOk; decide +kernel

theorem test_witness_CarryChains :
    (tUnit).wordsOk .plain ∧ (intView (tUnit).et).isSome = true ∧ dstBad (tUnit).view.1.regs (.v 127) = false ∧
    (∀ o ∈ [Operand.v 2, .v 3], (tUnit).srcBad (tUnit).view.1.regs o = false) ∧
    (tUnit).poisonAt (runLanes (.v 127) (tUnit).exec) [((tUnit).view.1.regs, .v 2), ((tUnit).view.1.regs, .v 3)] = [] := by
  unfold State.wordsOk; decide +kernel

theorem test_witness_CompareSelectMove :
    (tUnit).wordsOk .plain ∧ (intView (tUnit).et).isSome = true ∧ (5 : Fin 16).val < 6 ∧
    (∀ o ∈ [Operand.v 2, .v 3], (tUnit).srcBad (tUnit).view.1.regs o = false) ∧
    (tUnit).poisonCond (.p 15) [((tUnit).view.1.regs, .v 2), ((tUnit).view.1.regs, .v 3)] = [] ∧
    etOk (tUnit).et = true ∧ dstBad (tUnit).moveSh.regs (.x 63) = false ∧ (tUnit).srcBad (tUnit).moveSh.regs (.v 2) = false ∧
    (Operand.p 3).isP = true ∧ (∀ l ∈ runLanes (.x 63) (tUnit).exec, (tUnit).srcPois (tUnit).moveSh.regs (.v 2) l = false) ∧
    (Operand.p 3).aligned (tUnit).moveSh.regs = true ∧ (Operand.v 2).aligned (tUnit).moveSh.regs = true ∧
    (tUnit).noLit (.v 2) = false ∧ (tUnit).poisonCond (.p 3) [((tUnit).moveSh.regs, .v 2)] = [] := by
  unfold State.wordsOk; decide +kernel

theorem test_witness_LaneExchange :
    (tUnit).wordsOk .plain ∧ etOk (tUnit).et = true ∧ dstBad (tUnit).moveSh.regs (.v 1) = false ∧ (Operand.v 2).isV = true ∧
    (Operand.v 2).aligned (tUnit).moveSh.regs = true ∧ (tUnit).srcBad 1 (.x 3) = false ∧
    (∀ l ∈ runLanes (.v 1) (tUnit).exec, (Operand.v 1).isV = true) := by
  unfold State.wordsOk; decide +kernel

theorem test_witness_PredicatesAndVotes :
    (tUnit).wordsOk .plain ∧ (Operand.p 3).isP = true ∧ (Operand.v 1).isReg = true ∧ (2 : BitVec 8).toNat < 3 ∧
    etOk (tUnit).et = true ∧ dstBad (tUnit).countRegs (.v 1) = false := by
  unfold State.wordsOk; decide +kernel

theorem test_witness_Reductions :
    (tUnit).redReady (.v 1) (.v 2) 0 (runLanes (.v 1) 3) (fun _ => {}) ∧
    (tUnit 0x200).redReady (.x 1) (.v 2) 8 (runLanes (.x 1) 3) (fun _ => {}) ∧ (0 : BitVec 5).toNat < 16 := by
  unfold State.redReady State.wordsOk; decide +kernel

/-- Scalar register pairs that hold a bf16 and an f16 operand of dot2. -/
def tDots : State := { tUnit 0x200 with wave := { (tUnit).wave with xregs := [(1, 3), (3, 4)] } }

theorem test_witness_PackedDots :
    tDots.et = 4 ∧ (Operand.x 0).isPair = true ∧ (Operand.x 2).isPair = true ∧
    tDots.ready true (.v 1) 1 [(2, .x 0), (2, .x 2), (1, .v 1)] ∧ tDots.rnd < 6 ∧
    (∀ l ∈ lanesOf tDots.exec, dotWordOk [3, 4, 11, 12] (tDots.src (.int64 false) (.x 0) l / 2 ^ 32) = true ∧
      dotWordOk [3, 4, 11, 12] (tDots.src (.int64 false) (.x 2) l / 2 ^ 32) = true ∧
      (codeFloat (tDots.src (.int64 false) (.x 0) l / 2 ^ 32 % 32)).isSome = (codeFloat (tDots.src (.int64 false) (.x 2) l / 2 ^ 32 % 32)).isSome ∧
      (codeFloat (tDots.src (.int64 false) (.x 0) l / 2 ^ 32 % 32)).isSome = (tDots.et == 4)) := by
  unfold State.ready State.wordsOk; decide +kernel

/-- Under f32, and under if32 with EMPTY trapping. -/
theorem test_witness_FloatArithmetic_Conversions :
    (tUnit 0x200).ready (fltOk (tUnit 0x200).et) (.v 1) 1 [(1, .v 2), (1, .v 3), (1, .v 1)] ∧
    decide (6 ≤ (tUnit 0x200).rnd) = false ∧ (tUnit 0x200).fsh.regs = 1 ∧ (tUnit 0x200).fsh.isIvl = false ∧
    (tUnit 0x80300).ready (fltOk (tUnit 0x80300).et) (.v 2) 2 [(2, .v 4), (2, .v 6)] ∧ (tUnit 0x80300).fsh.isIvl = true ∧
    (tUnit 0x80300).emptyCond (.v 2) (fun l => (Ivl.ofRaw .f32 ((tUnit 0x80300).src .if32 (.v 4) l)).empty .f32) (fun _ => false) = [] ∧
    (tUnit 0x200).ready (((tUnit 0x200).et == 4 || (tUnit 0x200).et == 5) && decide ((7 : Fin 16).val < 8)) (.v 2) (intRegs 7) [(1, .v 4)] := by
  unfold State.ready State.wordsOk; decide +kernel

theorem test_witness_FloatCompareAndSpecials :
    (tUnit 0x200).wordsOk .plain ∧ wideOk (tUnit 0x200).et = true ∧ (6 : Fin 16).val < 7 ∧
    (∀ o ∈ [Operand.v 2, .v 3], (tUnit 0x200).srcBad (tUnit 0x200).fsh.regs o = false) ∧
    (tUnit 0x200).poisonCond (.p 1) [((tUnit 0x200).fsh.regs, .v 2), ((tUnit 0x200).fsh.regs, .v 3)] = [] ∧
    (tUnit 0x200).fsh.isIvl = false ∧ (tUnit 0x300).fsh.isIvl = true ∧
    (tUnit 0x300).emptyCond (.p 1) (fun _ => true) (fun _ => false) = [] ∧
    (tUnit 0x200).ready ((tUnit 0x200).et == 4 || (tUnit 0x200).et == 6) (.v 1) 1 [(1, .v 2)] := by
  unfold State.ready State.wordsOk; decide +kernel

theorem test_witness_PackAndUnpack :
    (tUnit 0x200).ready (((tUnit 0x200).et == 4) && pack8Codes.contains 5 && packPlace 5 3) (.v 1) 1 [(1, .v 2), (1, .v 1)] ∧
    pack8Codes.contains 5 = true ∧
    (tUnit).ready ((codeInt 11).isSome && (pack8Codes ++ pack6Codes ++ pack4Codes).contains 13 && packPlace 13 3) (.v 1) 1 [(1, .v 2)] := by
  unfold State.ready State.wordsOk; decide +kernel

theorem test_witness_Generators : (tUnit).wordsOk .plain ∧ (tUnit).srcBad 1 (.v 2) = false ∧ (tUnit).cleanCond [(1, .v 2)] = [] ∧
    dstBad 1 (.v 1) = false := by
  unfold State.wordsOk; decide +kernel

theorem test_witness_IntervalsAndBoxes :
    (tUnit 0x300).ready (ivlOk (tUnit 0x300).et) (.v 2) 2 [(2, .v 4), (2, .v 6)] ∧
    (tUnit 0x300).ready (ivlOk (tUnit 0x300).et) (.v 2) 2 [(1, .v 4), (1, .v 5)] ∧
    (tUnit 0x300).poisonCond (.p 1) [(2, .v 4), (2, .v 6)] = [] ∧ (∀ o ∈ [Operand.v 4, .v 6], (tUnit 0x300).srcBad 2 o = false) ∧
    (tUnit 0x300).emptyCond (.p 1) (fun _ => true) (fun _ => false) = [] ∧
    boxOk 2 (.v 0) = true ∧ boxOk 2 (.v 122) = true ∧ (tUnit 0x300).poisonCond (.p 1) [(6, .v 0), (6, .v 122)] = [] := by
  unfold State.ready State.wordsOk; decide +kernel

theorem test_witness_LeadInWords : (tUnit).iss.n < 3 ∧ (tUnit).iss.bad = none ∧ 3 ≤ ({ n := 3 } : Issue).n ∧ ({ n := 3 } : Issue).bad = none := by
  decide +kernel

theorem test_witness_ModesAndTokens :
    (tUnit).wordsOk .plain ∧ (tUnit).exec ≠ 0 ∧ { (tUnit) with frag := {} }.exec = 0 ∧ { (tUnit) with frag := {} }.wordsOk .plain ∧
    modeField (0x08 : BitVec 8).toNat = some (20, 1) ∧ (1 : BitVec 16).toNat < 2 ^ 1 ∧ 2 ^ 1 ≤ (2 : BitVec 16).toNat ∧
    modeField (0x09 : BitVec 8).toNat = none ∧ dstBad 1 (.x 63) = false ∧ (tUnit).srcBad 1 (.v 2) = false ∧
    lowest (tUnit).exec = some 0 ∧ (tUnit).srcPois 1 (.v 2) 0 = false := by
  unfold State.wordsOk; decide +kernel

/-- Some lanes of the fragment are guarded off, and some have an undecided predicate. -/
def tGuarded (und : Word) : State :=
  { tUnit (und * 0x20000) with
    iss := { n := 1, guard := some (1, 2) }
    wave := { (tUnit).wave with preds := [(64, .t), (96, .u)] } }

theorem test_witness_UniformBranches_BranchesDivide :
    (tUnit).frag.mask ≠ 0 ∧ (tUnit).wordsOk (tUnit).brKind ∧ (tUnit).exec = (tUnit).frag.mask ∧ (tUnit).wordsOk .plain ∧
    { (tGuarded 0) with wave := {} }.wordsOk .plain ∧ { (tGuarded 0) with wave := {} }.exec = 0 ∧
    (tGuarded 0).wordsOk (tGuarded 0).brKind ∧ (tGuarded 0).exec = 1 ∧ (tGuarded 0).overflows ((tGuarded 0).plainSides 4) false = false ∧
    (tUnit).lanesAt 0 .u = 0 ∧ (tUnit).overflows ((tUnit).brtSides 0 4) false = false ∧
    (tGuarded 3).wordsOk .plain ∧ (tGuarded 3).lanesAt 3 .u ≠ 0 ∧ (tGuarded 3).und ≠ 2 ∧
    (tGuarded 3).overflows ((tGuarded 3).brtSides 3 4) (decide ((tGuarded 3).und = 3)) = false ∧
    (tUnit).srcBad 1 (.v 2) = false ∧ (∀ l ∈ lanesOf (tUnit).exec, (tUnit).srcPois 1 (.v 2) l = false ∧ (tUnit).vpoison 2 l = false) ∧
    (∀ l ∈ lanesOf (tUnit).exec, ((tUnit).wAddr + (BitVec.ofNat 32 ((tUnit).int (.v 2) l)).signExtend 56).toNat % 4 = 0 ∧
      ((tUnit).wg.kbase + BitVec.ofNat 56 ((tUnit).vreg 2 l).toNat).toNat % 4 = 0) ∧
    (tUnit).overflows ((tUnit).targetSides (fun _ => 0x1000)) false = false := by
  unfold State.wordsOk; decide +kernel

/-- A fragment at a rejoin, of a token record or of a deferral entry. -/
def tRejoin (e : List Deferral) (deadline : Option Nat := none) : State :=
  { (tUnit) with
    aclk := 9
    frag := { (tUnit).frag with chain := [0], defers := e }
    wave := { (tUnit).wave with tokens := [(0, { addr := 0x1000, expected := 3, parent := 0, deadline := deadline })] } }

theorem test_witness_Rejoin :
    (tUnit).wordsOk .plain ∧ (∀ e ∈ (tUnit).frag.defers.head?, e.token ≠ some (tUnit).frag.pc) ∧
    (tUnit).topToken (tUnit).frag.pc = none ∧
    (let s := tRejoin [{ token := some 0x2000, pending := [{ pc := 0x2000, mask := 1 }] }] (some 9)
     s.wordsOk .plain ∧ (∀ e ∈ s.frag.defers.head?, e.token ≠ some s.frag.pc ∧ e.token.isSome = true) ∧
     (s.topToken s.frag.pc).any (fun x => !s.overdue x.2) = true) ∧
    (let s := tRejoin [] (some 8)
     s.wordsOk .plain ∧ s.frag.defers.head? = none ∧ (s.topToken s.frag.pc).any (fun x => s.overdue x.2) = true) ∧
    let e : Deferral := { token := some 0x1000, pending := [{ pc := 0x2000, mask := 1 }] }
    (tRejoin [e]).wordsOk .plain ∧ (tRejoin [e]).frag.defers = [e] ∧ e.token = some (tRejoin [e]).frag.pc ∧
    (((tRejoin [e]).retire .plain).frag.advance (tRejoin [e]).wave.live
      ({ e with resume := ((tRejoin [e]).retire .plain).frag.pc } :: [])).isSome = true := by
  unfold State.wordsOk; decide +kernel

/-- A fragment inside a trap handler. -/
def tHandler (cause : Nat) : State := { (tUnit) with wave := { (tUnit).wave with hx := some { cause := cause } } }

theorem test_witness_EndsAndBarriers :
    (tUnit).wordsOk .plain ∧ (tUnit).exec ≠ 0 ∧ (tUnit).srcBad 1 (.v 2) = false ∧
    (∀ l ∈ lanesOf (tUnit).exec, (tUnit).srcPois 1 (.v 2) l = false) ∧ (tUnit).wave.hx = none ∧ (1 : BitVec 24) ≠ 0 ∧
    (tHandler 0x10).wordsOk .plain ∧ (tHandler 0x10).exec ≠ 0 ∧ (tHandler 0x10).wave.hx.isSome = true := by
  unfold State.wordsOk; decide +kernel

theorem test_witness_FlashbackPoint :
    (tUnit).wordsOk .fpt ∧ (tUnit).wave.hx = none ∧ (0 : BitVec 16).toNat < (tUnit).wg.fbCount ∧ (tUnit).wg.fbCount ≤ (1 : BitVec 16).toNat ∧
    (tUnit).frag.mask ≠ 0 ∧ (tHandler 0x10).wordsOk .fpt ∧ (tHandler 0x10).wave.hx.isSome = true := by
  unfold State.wordsOk; decide +kernel

theorem test_witness_TrapsAndBreakpoints :
    (tUnit).wordsOk .plain ∧ (tUnit).exec ≠ 0 ∧ { (tUnit) with frag := {} }.wordsOk .plain ∧ { (tUnit) with frag := {} }.exec = 0 ∧
    SMap.get false (256 * (tUnit).wg.vf + (tUnit).wg.ctx) (tUnit).halts = false ∧
    SMap.get false (256 * (tUnit).wg.vf + (tUnit).wg.ctx) { (tUnit) with halts := [(0, true)] }.halts = true := by
  unfold State.wordsOk; decide +kernel

theorem test_witness_SystemReads_SystemWrites_HandlerRegistersPrivileged :
    (tUnit).wordsOk .plain ∧ dstBad 1 (.v 1) = false ∧ (tUnit).exec ≠ 0 ∧ (tUnit).wave.hx = none ∧ 0x8000 ≤ (0x8000 : BitVec 16).toNat ∧
    (tUnit).srcBad 1 (.x 3) = false ∧ lowest (tUnit).exec = some 0 ∧ (tUnit).srcPois 1 (.x 3) 0 = false ∧
    (tHandler 0x10).wordsOk .plain ∧ (tHandler 0x10).exec ≠ 0 ∧ (tHandler 0x10).wave.hx = some { cause := 0x10 } ∧
    (∀ k ∈ [Operand.x 3, .k 1, .k 2], (tHandler 0x10).srcBad 1 k = false) ∧ (tHandler 0x11).wave.hx = some { cause := 0x11 } ∧
    (tHandler 0x10).int (.x 3) 0 % 4 = 0 ∧ (tHandler 0x10).int (.k 1) 0 % 4 = 1 ∧ (tHandler 0x10).int (.k 2) 0 % 4 = 2 ∧
    (let s := { (tUnit) with frag := {} }
     s.wordsOk .plain ∧ s.exec = 0 ∧ s.srcBad 1 (.x 3) = false) ∧
    (let s := { (tHandler 0x10) with frag := {} }
     s.wordsOk .plain ∧ s.exec = 0 ∧ s.wave.hx.isSome = true) := by
  unfold State.wordsOk; decide +kernel

theorem test_witness_HandlerReturns : (tHandler 0x10).wave.hx = some { cause := 0x10 } ∧ ({ cause := 0x10 } : Handler).cause ≠ 0x11 ∧
    (tHandler 0x11).wave.hx = some { cause := 0x11 } ∧ ({ cause := 0x11 } : Handler).cause = 0x11 := by decide +kernel

theorem test_witness_LowestCode : raised [{ code := 9, lanes := 1 }, { code := 7, lanes := 2 }, { code := 7, lanes := 4 }] =
    some { code := 7, lanes := 6 } := by decide +kernel

/-- Some bytes at virtual addresses of the page that `withFetchWord` maps. -/
def tBytes (vs : List (Nat × Byte)) : Memory := vs.map (fun e => (placedAt + e.1, e.2))

/-- A fragment of two lanes whose page 0 to 0xFFFFF is mapped, readable, writable and executable, in a context whose record
lies at 0x4000 of it and names a trap handler at 0x5000; lane 0's scalar base pair x2 is 0x3000, a child record. -/
def tMapped (mr : Word := 0) (vs : List (Nat × Byte) := []) : State :=
  let s := State.setReg64 (State.reset.withFetchWord 32 0) (blockOff 0 0x30000) (2 ^ 63 + 2 ^ 46 + placedAt + 0x4000)
  { s with
    focus := true, others := [], wgs := []
    frag := (tUnit mr).frag
    wave := { (tUnit).wave with xregs := [(2, 0x3000)] }
    wg := { (tUnit).wg with budget := { lqdepth := 1 } }
    mem := tBytes ([(0x3000, 5)] ++ vs ++ [(0x4051, 0x50)] ++
      [(0x5000, 0x45), (0x5001, 0x4D), (0x5002, 0x4B), (0x5003, 0x31), (0x5004, 3), (0x502C, 0x40)]) }

/-- A fragment of two lanes on the page of `tMapped`, with undecided lanes under UND = 2. -/
def tUndecided : State := { tMapped 0x40000 with wave := { (tMapped).wave with preds := [(96, .u)] } }

theorem test_witness_BranchesDivide_serialised :
    let s := tUndecided
    let t := s.codeSeen (s.wAddr + 4)
    t.wordsOk .plain ∧ s.lanesAt 3 .u ≠ 0 ∧ s.und = 2 ∧ s.guardOf.1 ≠ 7 ∧
    (s.codeWord (s.wAddr + 4)).toOption.any (fun w => w.any (fun w => !isLeadIn w)) = true ∧
    t.overflows (s.brtSides 3 4) false = false := by
  unfold State.wordsOk; decide +kernel

theorem test_witness_MemoryWaits :
    (tMapped).wordsOk .plain ∧ (Operand.x 2).isPair = true ∧ (tMapped).wave.hx = none ∧ (tMapped).exec ≠ 0 ∧
    (∀ l ∈ lanesOf (tMapped).exec, (tMapped).srcPois 2 (.x 2) l = false ∧ (tMapped).srcPois 1 (.x 4) l = false ∧
      (tMapped).addr56 (.x 2) l % 8 = 0) ∧
    (∀ l ∈ lanesOf (tMapped).exec, ∀ n ∈ [4, 8], (tItems [(tMapped).judgeLane .g .read n l ((tMapped).addr56 (.x 2) l) n]).any
      (fun i => !(tMapped).heldItem i && (tMapped).peerSpot i == none) = true) ∧ (tMapped).srcBad 1 (.x 4) = false := by
  unfold State.wordsOk; decide +kernel

/-- `tMapped` with a child record of each lane's own, at 0x3000 and 0x3100, in the vector pair v2, and a queue budget of two. -/
def tChildren : State :=
  let s := tMapped 0 [(0x3100, 5)]
  { s with
    wave := { s.wave with vregs := [(64, 0x3000), (65, 0x3100)] }
    wg := { s.wg with budget := { lqdepth := 2 } } }

/-- Two lanes pass, and with scalar addresses one; the queue budget is just enough for both. -/
theorem test_witness_LaunchRecordsAndChildren :
    let s := tChildren
    let js (l : Nat) := [s.judgeLane .g .read 128 l (s.addr56 (.x 4) l) 128, s.judgeLane .g .write 256 l (s.addr56 (.v 2) l) 128,
      s.judgeLane .g .write 128 l (s.addr56 (.v 2) l + 128) 128]
    let rs (l : Nat) := s.rcbItems l (s.addr56 (.v 2) l)
    s.wordsOk .plain ∧ (Operand.v 2).isPair = true ∧ (Operand.x 4).isPair = true ∧
    s.passLanes [.v 2, .x 4] = [0, 1] ∧ s.passLanes [.v 2] = [0, 1] ∧ s.passLanes [.x 2] = [0] ∧
    (∀ l ∈ [0, 1], s.srcPois 2 (.v 2) l = false ∧ s.srcPois 2 (.x 4) l = false ∧ s.addr56 (.v 2) l % 256 = 0 ∧
      js l = (tItems (js l)).map .ok ∧ rs l = (tItems (rs l)).map .ok ∧
      (∀ i ∈ tItems (js l) ++ tItems (rs l), s.heldItem i = false ∧ (s.homeItem i).2 = false) ∧
      postOk ((tItems (rs l)).flatMap (fun i => (s.homeItem i).1)) s.wg.launchAddr.toNat = true) ∧
    s.rcbGet s.who s.wg.launchAddr.toNat 5 1 + 2 = s.wg.budget.lqdepth := by
  unfold State.wordsOk; decide +kernel

theorem test_witness_TrapEntry_TrapConfines :
    (tMapped).frag.recipe = none ∧ (tMapped).wave.hx = none ∧ (tMapped).headerHeld { code := 0x10 } = false ∧
    (tMapped).ctxBad (tMapped).wg.part (tMapped).wg.vf (tMapped).wg.ctx 80 8 = none ∧
    (tMapped).handlerOf (tMapped).wg.part (tMapped).wg.vf (tMapped).wg.ctx = 0x5000 ∧
    ((tMapped).ctxRead (tMapped).who 1 0x5000 64 .fetch).toOption.any
      (fun r => !r.2 && natAt r.1 0 4 == 0x314B4D45 && natAt r.1 4 2 != 0 && decide (natAt r.1 4 2 ≤ 3)) = true ∧
    (tHandler 0x10).wave.hx.isSome = true ∧ (tHandler 0x10).frag.recipe = none ∧
    ({ (tUnit) with frag := { (tUnit).frag with recipe := some 1 } } : State).frag.recipe.isSome = true ∧
    (let s := { tMapped with mem := [] }
     s.frag.recipe = none ∧ s.wave.hx = none ∧ s.ctxBad s.wg.part s.wg.vf s.wg.ctx 80 8 = none ∧
     s.handlerOf s.wg.part s.wg.vf s.wg.ctx = 0) := by
  refine ⟨?_, ?_, ?_, ?_, ?_, ?_, ?_, ?_, ?_, ?_, ?_, ?_, ?_⟩ <;> decide +kernel

theorem test_witness_Loads_Stores :
    let s := tMapped
    let ls := lanesOf s.exec
    let rd := ls.map (fun l => s.judgeLane .g .read 4 l (s.spaceAddr .g 2 (.x 0) l) 4)
    let wr := ls.map (fun l => s.judgeLane .g .write 8 l (s.spaceAddr .g 2 (.x 0) l) 8)
    s.srcBad 1 (.x 0) = false ∧ (∀ l ∈ ls, s.srcPois 1 (.x 0) l = false ∧ s.srcPois 2 (.v 126) l = false) ∧
    (∀ i ∈ tItems rd, s.peerOf i = none ∧ (s.readItem i).1.2 = false ∧ s.heldItem i = false) ∧
    dstBad (widthOf 4).regs (.v 127) = false ∧ s.wordsOk .plain ∧ rd = (tItems rd).map .ok ∧
    (tMapped 0x380).et = 7 ∧ (spaceOf 0).pair = true ∧ s.srcBad (widthOf 5).regs (.v 126) = false ∧ (widthOf 5).sgn = false ∧
    wr = (tItems wr).map .ok ∧ (∀ i ∈ tItems wr, s.heldItem i = false) := by
  unfold State.wordsOk; decide +kernel

/-- `tMapped` with its page in a peer's memory, over link 0. -/
def tPeer (mr : Word := 0) : State :=
  let s := ((tMapped mr).setPreg 0 0x4010 1).setPreg 0 0x5000 0x80000001
  { s with tlb := [{ vf := 0, ctx := 0, base := 0, size := 0x100000, pa := 2 ^ 46 + peerBase, key := 1, w := true, x := true }] }

theorem test_witness_Loads_Atomics_peer :
    let s := tPeer
    let ls := lanesOf s.exec
    let rd := ls.map (fun l => s.judgeLane .g .read 4 l (s.spaceAddr .g 2 (.x 0) l) 4)
    let rs := ls.map (fun l => s.judgeRmw 8 l (s.baseAddr 2 (.x 0) l) 8)
    s.wordsOk .plain ∧ s.srcBad 1 (.x 0) = false ∧ rd = (tItems rd).map .ok ∧ rs = (tItems rs).map .ok ∧
    (∀ i ∈ tItems rd ++ tItems rs, s.heldItem i = false ∧ (s.peerOf i).isSome = true) ∧
    (∀ l ∈ ls, s.srcPois 1 (.x 0) l = false ∧ s.srcPois 4 (.v 124) l = false ∧ s.srcPois 2 (.v 126) l = false) ∧
    dstBad (widthOf 4).regs (.x 63) = false ∧ dstBad 4 (.v 124) = false ∧ dstBad 2 (.v 126) = false ∧ s.srcBad 2 (.v 126) = false ∧
    etOk s.et = true ∧ s.et ≠ 6 ∧ s.et ≠ 7 ∧ (tPeer 0x280).et = 5 ∧ (tPeer 0x480).et = 9 := by
  unfold State.wordsOk; decide +kernel

theorem test_witness_LocalLoads_LocalStores :
    let s := { (tUnit) with wave := { (tUnit).wave with xregs := [(5, 4092)] } }
    s.wordsOk .plain ∧ (4 : Fin 8).val ≠ 7 ∧ dstBad (widthOf 4).regs (.v 127) = false ∧ s.srcBad 1 (.x 0) = false ∧
    (∀ l ∈ runLanes (.v 127) s.exec, s.srcPois 1 (.x 0) l = false ∧ s.srcPois (widthOf 4).regs (.v 127) l = false) ∧
    (∀ e ∈ s.older, e.known 0 s.wave.id = true) ∧
    (∀ l ∈ runLanes (.v 127) s.exec, ((s.xreg 5).toNat + s.int (.x 0) l) % 2 ^ 32 % 4 = 0 ∧
      ((s.xreg 5).toNat + s.int (.x 0) l) % 2 ^ 32 + (widthOf 4).bytes ≤ s.wg.localBytes) ∧
    s.focus = true ∧ (∀ g ∈ s.wgs, g.id ≠ s.wg.id) ∧ (widthOf 4).sgn = false ∧ s.srcBad (widthOf 4).regs (.v 127) = false := by
  unfold State.wordsOk; decide +kernel

/-- Local addresses just outside the workgroup's memory, and not aligned. -/
theorem test_witness_LocalAccessTraps :
    let s (x : Word) : State := { (tUnit) with wave := { (tUnit).wave with xregs := [(5, x)] } }
    let addr (x : Word) (l : Nat) : Nat := (((s x).xreg 5).toNat + (s x).int (.x 0) l) % 2 ^ 32
    (s 2).wordsOk .plain ∧ (widthOf 4).sgn = false ∧ (Operand.v 127).isV = true ∧ (Operand.v 127).aligned (widthOf 4).regs = true ∧
    (∀ l ∈ lanesOf (s 2).exec, (s 2).srcPois 1 (.x 0) l = false ∧ (s 2).srcPois (widthOf 4).regs (.v 127) l = false) ∧
    (∃ l ∈ lanesOf (s 2).exec, addr 2 l % (widthOf 4).bytes ≠ 0) ∧ (∀ l ∈ lanesOf (s 4096).exec, addr 4096 l % (widthOf 4).bytes = 0) ∧
    (∃ l ∈ lanesOf (s 4096).exec, (s 4096).wg.localBytes < addr 4096 l + (widthOf 4).bytes) := by
  unfold State.wordsOk; decide +kernel

theorem test_witness_Atomics_FuturesAndPrefetch :
    let s := tMapped
    let ls := lanesOf s.exec
    let rs := ls.map (fun l => s.judgeRmw 8 l (s.baseAddr 2 (.x 0) l) 8)
    let ws := ls.map (fun l => s.judgeLane .g .write 8 l (s.baseAddr 2 (.x 0) l) 8)
    let gs := ls.map (fun l => s.judgeLane .g .read 8 l (s.baseAddr 2 (.x 0) l) 8)
    s.wordsOk .plain ∧ s.srcBad 1 (.x 0) = false ∧ s.exec ≠ 0 ∧ dstBad 2 (.v 126) = false ∧ s.srcBad 2 (.v 126) = false ∧
    dstBad 4 (.v 124) = false ∧ rs = (tItems rs).map .ok ∧ ws = (tItems ws).map .ok ∧ gs = (tItems gs).map .ok ∧
    (∀ i ∈ tItems rs ++ tItems ws ++ tItems gs, s.heldItem i = false ∧ s.peerSpot i = none ∧ s.peerOf i = none ∧
      (s.homeItem i).2 = false) ∧
    (∀ l ∈ ls, s.srcPois 1 (.x 0) l = false ∧ s.srcPois 4 (.v 124) l = false ∧ s.srcPois 2 (.v 126) l = false) ∧
    etOk s.et = true ∧ s.et ≠ 6 ∧ s.et ≠ 7 ∧ (tMapped 0x280).et = 5 ∧ (tMapped 0x480).et = 9 ∧ s.wave.hx = none := by
  unfold State.wordsOk; decide +kernel

/-- A fragment whose partition owns a copy engine and has its shading cache on, with descriptors, a ring, a barrier and
triples in its local memory, and a commands' page of 2 MiB at 0x200000. -/
def tEngine (mr : Word := 0) : State :=
  let s := tMapped mr
  let s := (((((s.setPreg 0 0x4008 1).setPreg 0 0x000 1).setPreg 0 0x10000 0xC0000000).setPreg 0 0x008 0x1008000).setPreg 0 0x00C
    0x4000).setPreg 0 0x010 1
  { s with
    mem := s.mem ++ tBytes [(0x8003, 0x80)]
    tlb := s.tlb ++ [{ vf := 0, ctx := 0, base := 0x200000, size := 0x200000, pa := 2 ^ 46 + 2 ^ 25, key := 1, w := true, x := true }]
    wave := { s.wave with
      vregs := [(128, 132), (129, 132)]
      xregs := [(2, 0x3000), (10, 64), (11, 128), (12, 192), (13, 256), (14, 384), (15, 448), (16, 512), (17, 640), (18, 704),
        (19, 1024), (20, 0x6000), (22, 0x7000), (24, 1)] }
    wg := { s.wg with
      localBytes := 20000, budget := { copyq := 1, lqdepth := 1 }
      lmem := [(32, 16), (36, 1), (80, 16), (88, 132), (160, 16), (164, 1), (167, 1), (224, 16), (228, 1), (230, 16), (244, 16),
        (308, 1), (310, 1), (312, 1), (314, 16), (316, 132), (396, 1), (402, 1), (403, 1), (514, 0x20), (522, 0x20), (544, 1),
        (548, 7), (550, 3), (644, 1), (648, 1), (1027, 0x10), (1028, 0x10)] } }

theorem test_witness_CopiesPosted :
    let s := tEngine
    s.cleanCond [(1, .x 10)] = [] ∧ 0 < s.copyqOf s.wg ∧ s.copyqFull s.wg = false ∧ s.describes (.x 0) 64 [] ∧
    s.copyCodes s.wg .cpy (s.descriptor (.x 0) 64) = [] ∧
    s.describes (.x 11) 64 [] ∧ s.copyCodes s.wg .cpyCol (s.descriptor (.x 11) 64) = [] ∧
    s.describes (.x 12) 64 [] ∧ s.copyCodes s.wg .cpyMc (s.descriptor (.x 12) 64) = [] ∧
    s.describes (.x 0) 64 [(s.lowInt (.x 10), 32)] ∧ s.srcBad 1 (.x 10) = false ∧
    s.copyCodes s.wg .cpyThen (s.descriptor (.x 0) 64) = [] ∧
    (let block := (s.localBytes s.wg 0 s.wave.id (s.lowInt (.x 10)) 32).1
     s.blockCodes s.wg true block (.ofBytes block true 0 0 false false) = []) := by
  unfold State.describes State.wordsOk; decide +kernel

/-- COPYQ is full of one command, and the matrix queue of eight. -/
theorem test_witness_FullQueueParks :
    let s : State := { tEngine with cmds := [{ id := 9, kind := .cpy, wg := 1 }] }
    let u : State := { tEngine with matq := [(0, List.range 8)] }
    s.wave.hx = none ∧ 0 < s.copyqOf s.wg ∧ s.copyqFull s.wg = true ∧ s.describes (.x 0) 64 [] ∧
    s.copyCodes s.wg .cpy (s.descriptor (.x 0) 64) = [] ∧ s.describes (.x 0) 64 [(s.lowInt (.x 10), 32)] ∧
    s.srcBad 1 (.x 10) = false ∧ s.cleanCond [(1, .x 10)] = [] ∧ s.copyCodes s.wg .cpyThen (s.descriptor (.x 0) 64) = [] ∧
    (let block := (s.localBytes s.wg 0 s.wave.id (s.lowInt (.x 10)) 32).1
     s.blockCodes s.wg true block (.ofBytes block true 0 0 false false) = []) ∧
    s.describes (.x 13) 128 [] ∧ (MmatDesc.ofBytes (s.descriptor (.x 13) 128)).codes s.wg (s.descriptor (.x 13) 128) = [] ∧
    u.matqFull = true ∧ (Operand.v 4).isV = true ∧ u.voteCond (.v 4) fmtOk = [] ∧ u.describes (.x 10) 32 [] ∧
    (∀ m ∈ [true, false], u.blockCodes u.wg false (u.descriptor (.x 10) 32)
      (.ofBytes (u.descriptor (.x 10) 32) false 0 (u.lowInt (.v 4)) m u.flushBit) = []) ∧
    u.describes (.x 13) 128 [] ∧ 0 < u.copyqOf u.wg ∧ u.copyqFull u.wg = false ∧
    (MmatDesc.ofBytes (u.descriptor (.x 13) 128)).codes u.wg (u.descriptor (.x 13) 128) = [] := by
  unfold State.describes State.wordsOk; decide +kernel

theorem test_witness_BatchesAndSlots_TransactionBarriers :
    let s := tEngine
    s.wordsOk .plain ∧ s.exec ≠ 0 ∧ dstBad 1 (.v 1) = false ∧ (s.openBatches s.wave.id).length < 16 ∧ s.wave.hx = none ∧
    s.srcBad 1 (.x 24) = false ∧ s.cleanCond [(1, .x 24)] = [] ∧ s.lowInt (.x 24) = 1 ∧ s.wg.fsc + s.lowInt (.x 24) ≤ 15 ∧
    s.srcBad 1 (.x 19) = false ∧ s.cleanCond [(1, .x 19)] = [] ∧ s.lowInt (.x 19) % 8 = 0 ∧ s.wg.tbarIn (s.lowInt (.x 19)) = true ∧
    s.tbarAt (s.lowInt (.x 19)) = ({ phase := false, cnt := 1, due := 1, pend := 0 }, false) := by
  unfold State.wordsOk; decide +kernel

theorem test_witness_Fences :
    (tUnit).wordsOk .plain ∧ (tUnit).exec ≠ 0 ∧ (2 : Fin 8).val ≠ 0 ∧ (2 : Fin 8).val ≠ 1 ∧
    { (tUnit) with frag := {} }.exec = 0 ∧ { (tUnit) with frag := {} }.wordsOk .plain ∧
    ((tUnit).exec ≠ 0 ∧ (1 : Fin 8).val = 1) := by
  unfold State.wordsOk; decide +kernel

theorem test_witness_SpillAndFill_SpillRestores :
    let s := tEngine
    let va := s.addr56 (.x 2) 0
    let image := spillImage s.wave.present [(List.range 32).map (fun k => if s.wave.present.getLsbD k then (s.vreg 4 k).toNat else 0)]
    let ws := s.runItems .write 0 va image.length
    let hs := s.runItems .read 0 va 16
    let ss := s.sectorItems .read 0 va 16
    let bs := s.runItems .read 0 (va + 16) (spillSize 5)
    s.wordsOk .plain ∧ s.spillConds (.v 4) (.x 24) (.x 2) (s.lowInt (.x 24)) = [] ∧ s.lowInt (.x 24) = 1 ∧ lowest s.exec = some 0 ∧ va % 16 = 0 ∧
    (∀ k ∈ lanesOf s.wave.present, s.vpoison 4 k = false) ∧ ws = (tItems ws).map .ok ∧ hs = (tItems hs).map .ok ∧
    bs = (tItems bs).map .ok ∧ ss = (tItems ss).map .ok ∧ (∀ i ∈ tItems ws ++ tItems hs ++ tItems bs, s.heldItem i = false) ∧
    ((readRun (tItems ss) s).1.take 1).map (fun x => x.1.toNat) = [5] ∧ (∀ x ∈ (readRun (tItems ss) s).1, x.2 = false) ∧
    (List.replicate 32 7 : List Nat).length = 32 ∧ 31 ∈ lanesOf 0xFFFFFFFF := by
  unfold State.wordsOk; decide +kernel

theorem test_witness_MatrixPosted :
    let s := tEngine
    let d := s.descriptor (.x 10) 32
    s.matqFull = false ∧ (Operand.v 4).isV = true ∧ s.voteCond (.v 4) fmtOk = [] ∧ s.describes (.x 10) 32 [] ∧
    s.blockCodes s.wg false d (.ofBytes d false 0 (s.lowInt (.v 4)) false s.flushBit) = [] ∧
    s.blockCodes s.wg false d (.ofBytes d false 0 (s.lowInt (.v 4)) true s.flushBit) = [] ∧
    s.describes (.x 13) 128 [] ∧ 0 < s.copyqOf s.wg ∧ s.copyqFull s.wg = false ∧
    (MmatDesc.ofBytes (s.descriptor (.x 13) 128)).codes s.wg (s.descriptor (.x 13) 128) = [] := by
  unfold State.describes State.wordsOk; decide +kernel

theorem test_witness_Accumulators :
    let s := tEngine
    let u : State := { s with matq := [(0, [1])], cmds := [{ id := 1, kind := .accZero, wg := 1, args := [0] }] }
    let t := u.retire .plain
    s.wordsOk .plain ∧ s.exec ≠ 0 ∧ (0 : Fin 4).val < s.wg.accum ∧
    (s.retire .plain).entryBefore (s.retire .plain).wg 0 (s.retire .plain).nextId = false ∧ t.entryBefore t.wg 0 t.nextId = true ∧
    s.matqFull = false ∧ (Operand.v 112).isV = true ∧ (Operand.v 112).num + 4 * 4 ≤ 128 ∧ s.srcBad 1 (.x 0) = false ∧
    s.lowCond 1 (.x 0) = [] ∧ s.lowInt (.x 0) + 4 ≤ 128 ∧
    (∀ l ∈ lanesOf s.exec, ∀ q, q < 16 → s.vpoison ((Operand.v 112).num + q) l = false) := by
  unfold State.wordsOk; decide +kernel

theorem test_witness_Tiles :
    let s := tEngine 0x200
    let rs := s.tileItems .read 2 20 (.x 0)
    let ws := s.tileItems .write 2 20 (.x 0)
    s.wordsOk .plain ∧ s.exec ≠ 0 ∧ s.tileConds (.v 126) 2 20 (.x 0) = [] ∧ rs = (tItems rs).map .ok ∧ ws = (tItems ws).map .ok ∧
    (∀ i ∈ tItems rs ++ tItems ws, s.heldItem i = false) ∧
    (∀ z ∈ (readRunTogether (s.sharedItems (tItems rs)) (s.begun (tItems rs))).1, z.2 = false) ∧
    (∀ l, l < 32 → s.vpoison 126 l = false ∧ s.vpoison 127 l = false) ∧
    s.et = 4 ∧ s.rnd < 6 ∧ s.rnd ≠ 5 ∧ fmtTiled 26 = true ∧ (Operand.v 126).num + 1 + 1 ≤ 128 ∧ (Operand.v 120).num + 8 ≤ 128 ∧
    (∀ r, r < 8 → ∀ l, l < 32 → s.vpoison (120 + r) l = false) ∧
    s.cleanCond [(1, .v 4)] = [] := by
  unfold State.wordsOk; decide +kernel

theorem test_witness_Rings :
    let s := tEngine 0x300
    let r := s.ringOr (.x 17)
    let took := (((runLanes (.v 2) s.exec).take r.held).zipIdx).map (fun x => (x.1, s.ringRead r (r.head + x.2)))
    s.wordsOk .plain ∧ s.exec ≠ 0 ∧ ivlOk s.et = true ∧ dstBad s.fsh.regs (.v 2) = false ∧ s.srcBad 1 (.x 17) = false ∧
    s.ringConds (.x 17) = [] ∧ r.held = 1 ∧ s.srcBad 1 (.v 1) = false ∧
    s.emptyCond (.v 2) (fun l => (s.ivl (.v 2) l).empty s.ptFmt) (fun _ => false) = [] ∧
    (∀ x ∈ s.bisects (.v 2) (2 ^ r.log2n - r.held) (runLanes (.v 2) s.exec), s.srcPois 2 (.v 2) x.1 = false ∧ s.srcPois 1 (.v 1) x.1 = false) ∧
    s.emptyTraps = false ∧ took.length = 1 := by
  unfold State.wordsOk; decide +kernel

theorem test_witness_ShadingUnits :
    let s := tEngine
    let grant := s.scGrant s.wg.part s.wg.vf s.wg.ctx
    let xs : List Texel := (lanesOf s.exec).map (fun l => { lane := l, key := s.addr56 (.x 2) l, sel := 8 * (s.int (.x 0) l % 64) })
    s.wordsOk .plain ∧ s.exec ≠ 0 ∧ s.scEn s.wg.part = true ∧ bitAt grant 31 = true ∧ bitAt grant 30 = true ∧ s.grantOf s.wg = none ∧
    (Operand.v 4).aligned 2 = true ∧ (Operand.x 2).isPair = true ∧ s.srcBad 1 (.x 0) = false ∧ s.scBarred (.x 2) grant = (0, 0) ∧
    s.cleanCond [(2, .x 2), (1, .x 0)] = [] ∧ s.scBadRec (fun l => keyObj (s.addr56 (.x 2) l)) = none ∧
    (State.scAskAll s.wg.part s.wave.id (s.frameOf s.wg) xs (s.retire .plain)).1.all Texel.done = false ∧
    (Operand.v 4).aligned 4 = true ∧ (Operand.x 2).aligned 2 = true ∧ (Operand.x 4).isX = true ∧ s.fillPois (.v 4) = 0 ∧
    dstBad 1 (.v 1) = false ∧ (∀ l ∈ lanesOf s.exec, s.int (.x 0) l % 2 ^ 24 < s.objN s.wg.part ∧ keyObj (s.addr56 (.x 2) l) < s.objN s.wg.part) ∧
    s.cleanCond [(1, .x 0)] = [] ∧ s.scBadRec (fun l => s.int (.x 0) l % 2 ^ 24) = none ∧ (Operand.p 3).isP = true := by
  unfold State.wordsOk; decide +kernel

theorem test_witness_SightAndAttention :
    let s := tEngine
    let q := s.descriptor (.x 16) 64
    let j := s.judgeRegions (.ofBytes q) q
    s.copyqFull s.wg = false ∧ s.describes (.x 14) 64 [] ∧ rastCodes s.wg.localBytes (s.descriptor (.x 14) 64) = [] ∧
    s.describes (.x 15) 16 [] ∧ (Operand.v 121).num ≤ 121 ∧ s.cleanCond [(7, .v 121)] = [] ∧
    rayCodes s.wg.localBytes ((lanesOf s.exec).getLastD 0 + 1) (s.descriptor (.x 15) 16) = [] ∧
    s.describes (.x 16) 64 [] ∧ j.1 = [] ∧ j.2.length = 2 ∧ s.queryCodes q = [] ∧
    s.stackFull ((j.2.headD (0, { pa := 0, size := 0, w := false, x := false })).1 / 2 ^ 36) = false ∧
    s.wordsOk .plain ∧ s.exec ≠ 0 ∧ s.srcBad 1 (.x 18) = false ∧ s.lowCond 1 (.x 18) = [] ∧ s.lowInt (.x 18) % 16 = 0 ∧
    s.tripleConds (.x 18) = [] ∧
    s.lowInt (.x 18) + (16 + 4 * dimOf (field (s.statusAt (s.lowInt (.x 18))) 24 2)) ≤ s.wg.localBytes := by
  unfold State.describes State.wordsOk; decide +kernel

/-- A copy on its way of a load of wave 1. -/
def tLoad : PendLoad := { id := 3, wave := 1, slot := 0, dest := 0, regs := 1, bits := 32, items := [(0, 0)], got := [] }

/-- The unit's fragment waits: for cells, for a time, for a load. -/
def tWaits (w : Wait) (since : Nat := 0) (status : Status := .waiting) : State :=
  { (tUnit) with frag := { (tUnit).frag with wait := some w, status := status, since := since }, aclk := 2048 }

/-- Waves of workgroup 1 on one port. -/
def tPort (bs : List WaveBox) : State :=
  { aclk := 4096, nextId := 9, others := bs, wgs := [{ id := 1, kbase := 0x1000, localBytes := 4096 }] }

/-- Partition 0, of one slice, with function 0 enabled, its RCBs bound and the page of `tMapped`; the context record asks for parking after one
unit of its time, its save slots lie at 0x10000, and a slice has no length. -/
def tOwned (bs : List WaveBox) (gs : List Workgroup := [{ id := 1, kbase := 0x1000, localBytes := 4096 }]) : State :=
  let s := ((tMapped (vs := [(0x4000, 3), (0x403A, 1), (0x4048, 1)])).setPreg 0 0x4020 1).setPreg 0 0x6000 0x80000000
  let s := [(0x0030, 0x6000), (blockOff 0 0x4050, 0x6100), (blockOff 0 0x6400, 0x6200)].foldl
    (fun s r => State.setReg64 s r.1 (2 ^ 63 + 2 ^ 46 + placedAt + r.2)) s
  { s with focus := false, others := bs, wgs := gs, aclk := 4096, mem := s.mem ++ tBytes [(0x6100, 1), (0x6200, 2)] }

/-- A wave whose one fragment waits so that the wave may be parked. -/
def tParked (id : Nat) (w : Wave := {}) : WaveBox :=
  { wave := { w with id := id, wgId := 1, present := 3, live := 3 }
    frags := [{ mask := 3, status := .waiting, wait := some (.cells []) }] }

theorem test_witness_FragmentEvents :
    (let s : State := { (tUnit) with aclk := 1, wave := { (tUnit).wave with tokens := [(0, { deadline := some 0 })] } }
     s.focusWave 1 = some s ∧ s.wave.tokens.find? (fun x => x.1 == 0) = some (0, { deadline := some 0 }) ∧ 0 < s.now ∧
       s.served s.wave = true) ∧
    (let s : State := { (tUnit) with watches := [{ wave := 1, slot := 0, line := 0, woken := true }] }
     (s.watchesOf 1 0).any (·.woken) = true ∧ s.focusOn 1 0 = some s ∧ s.wave.away = false ∧ s.served s.wave = true) ∧
    (let s := tWaits (.cells [])
     let s : State := { s with frag := { s.frag with left := [5] } }
     s.focusOn 1 0 = some s ∧ s.frag.wait = some (.cells []) ∧ (Wait.cells []).watches = true ∧ s.frag.left ≠ [] ∧
       s.served { s.wave with away := false } = true ∧
       max s.frag.since s.frag.retested + 1024 ≤ s.now) ∧
    (let s := tPort [{ wave := { id := 1, wgId := 1 }
                       frags := (List.range 9).map (fun i => { slot := i, status := if i = 8 then .pendingReady else .ready }) }]
     let t := State.refill 0 0 8 s
     (bestOf t.outranks (t.portFrags 0 0 (fun _ f => f.status == .pendingReady && decide (f.since + 256 ≤ t.coreCyc 0)))).isSome = true ∧
       (bestOf replacedFirst (t.portFrags 0 0 (fun _ f => f.active))).isSome = true) ∧
    (let s : State := { tWaits (.loads [3]) 0 .blocked with pendLoads := [tLoad] }
     s.pendLoads.find? (fun p => p.id == 3) = some tLoad ∧ s.focusWave tLoad.wave = some s ∧ s.wave.away = false ∧
       (∀ h ∈ s.held, h.id ∉ tLoad.behind) ∧
       (State.box (State.modFrags { s with pendLoads := [{ tLoad with missed := true }] } (fun w f =>
         if w.id = 1 ∧ f.status = .blocked then { f with status := .waiting, since := s.coreCyc w.core } else f)) tLoad.wave).isSome =
           true) ∧
    (let s := tOwned [tParked 1]
     let g := s.groupOf (tParked 1).wave
     s.box 1 = some (tParked 1) ∧ (tParked 1).wave.away = false ∧ (parkedSince (tParked 1).frags).isSome = true ∧
       (tParked 1).wave.parkSince ≠ parkedSince (tParked 1).frags ∧ s.ctxBad g.part g.vf g.ctx 72 4 = none ∧
       s.parkDue (tParked 1) = true) ∧
    (let p := tParked 1 { parkSince := some 0, nregs := 512 }
     let s := tOwned [p, tParked 2 { away := true, wake := some 1, nregs := 1024 }]
     s.box 1 = some p ∧ s.longestParked 0 0 = some 1 ∧ s.roomWanted (s.groupOf p.wave).part 0 0 = true ∧
       (s.groupOf p.wave).frozen = false ∧ s.confined (s.groupOf p.wave) = false) ∧
    (let p := tParked 2 { away := true, wake := some 1 }
     let t := (tOwned [p]).unfocus
     t.box 2 = some p ∧ (t.nextRestore 0 0).map (·.wave.id) = some 2 ∧ t.waveFits p = true ∧
       t.slotHeld (t.groupOf p.wave) p.wave = false ∧
       (match t.readSlot (t.groupOf p.wave) p.wave with
         | .ok _ _ => true
         | _ => false) = true) := by
  decide +kernel

theorem test_witness_FragmentEvents_preemption :
    (let s : State := { tOwned [tParked 1] with saved := [{ wg := { id := 7, ctx := 1, budget := { prio := 3 } } }] }
     s.partOfVf 0 = some 0 ∧
     let cores := (((s.groups.filter (fun g => g.vf == 0 && g.ctx == 0)).map (·.core)).eraseDups).filter (s.sliceEnds 0 0 0)
     (cores.flatMap (s.running 0 0)).map (·.id) ≠ [] ∧ (s.ctxBudget 0 0 0).toOption.isSome = true) ∧
    (let s := tOwned [tParked 1] [{ id := 1, kbase := 0x1000, frozen := true }]
     let gs := s.unfocus.wgs.filter (fun g => g.vf == 0 && g.ctx == 0 && g.frozen)
     gs ≠ [] ∧ gs.all (s.unfocus.withdraw (gs.map (·.id))).settled = true) ∧
    (let x : SavedWg := { wg := { id := 7, kbase := 0x1000 } }
     let m : Image := { wg := 7, boxes := [tParked 1] }
     let t := State.unfocus { tOwned [] [] with saved := [x], images := [m] }
     t.saved.find? (fun g => g.wg.id == 7) = some x ∧ t.images.find? (fun m => m.wg == 7 && m.preempted) = some m ∧
       t.resumable x.wg m.boxes = some 0 ∧ t.slotFails x.wg m.boxes = none ∧
       m.boxes.any (fun b => !b.wave.away && b.frags.any (fun f => (t.fbEntryOf { x.wg with clusterBase := 0, frozen := false } f).isNone)) =
         false) := by
  decide +kernel

/-- `tOwned` booted, with a launch queue of function 0, context 0 at 0x8000 whose first entry names a record at 0x9000. -/
def tQueue : State :=
  let s := ((tOwned []).setBell 0 0 0x000 0x8000).setBell 0 0 0x008 0x80000006
  { s.setBell 0 0 0x00C 1 with mem := s.mem ++ tBytes [(0x8001, 0x90)] }

theorem test_witness_QueueEvents :
    let off : State := (tOwned []).setBell 0 0 0x100 0x60000
    let live := tQueue
    let launched : State := { tOwned [] with launches := [{ id := 3, addr := 0x9000, vf := 0, ctx := 0, part := 0, total := 1 }] }
    let t := launched.unfocus
    let done : State := (tOwned []).unfocus
    off.openBar = true ∧ off.queueOn 0 0 = false ∧ bitAt (0x80000006 : Word).toNat 31 = true ∧ bitAt (0x80000005 : Word).toNat 31 = true ∧
    (0x80000005 : Word).toNat % 32 < 6 ∧ 6 ≤ (0x80000006 : Word).toNat % 32 ∧ (0x80000006 : Word).toNat % 32 ≤ 16 ∧
    (let u := off.setBell 0 0 0x008 0x80000006
     let u := u.setBell 0 0 0x014 (setField (u.bell 0 0 0x014) 0 1 0)
     u.s1root 0 0 ≠ 0 ∧ u.partOfVf 0 = some 0 ∧ (u.ctxRcb 0 0 0).isSome = true) ∧
    live.partOfVf 0 = some 0 ∧ live.queueLive (ctxWho 0 0 0) = true ∧ live.watches = [] ∧ live.queueOver 0 0 = false ∧
    (let i := live.ridx 0 0
     let place := live.queueBase 0 0 + 32 * (i % 2 ^ live.log2n 0 0)
     let u := live.seen (ctxWho 0 0 0) 0 place 32 .read
     live.ctxHeld (ctxWho 0 0 0) place 32 .read = false ∧ live.queueEntry (ctxWho 0 0 0) i = .good 0x9000 0 0 false ∧
       u.launchHeld (ctxWho 0 0 0) 0x9000 = false) ∧
    ((live.queueOn 0 0 = true ∧ bitAt (5 : Word).toNat 31 = false) ∧ (live.setBell 0 0 0x100 0).s1root 0 0 = 0) ∧
    launched.partEn 0 = true ∧ (t.candidates 0).findSome? (fun c => c.fail.map (fun e => (c, e))) = none ∧
    (t.firstStart (t.candidates 0) []).isSome = true ∧
    (∃ g, done.wgs.find? (fun g => g.id == 1) = some g ∧ done.groupDone g = true) := by
  refine ⟨?_, ?_, ?_, ?_, ?_, ?_, ?_, ?_, ?_, ?_, ?_, ?_, ?_, ?_, ?_, ?_, ?_, ⟨{ id := 1, kbase := 0x1000, localBytes := 4096 }, ?_⟩⟩ <;> decide +kernel

/-- `tOwned` with translation tables of two stages: the second maps the first 2 MiB, the first maps the page at 0x9000. -/
def tTables : State :=
  let s := (((tOwned []).setPreg 0 0x6004 0x1040000).setPreg 0 0x6008 0x4000).setBell 0 0 0x100 0x60000
  { s with mem := s.mem ++ tBytes (
      [(0x40000, 0x01), (0x40001, 0x80), (0x40002, 0x04), (0x40003, 0x01), (0x40005, 0x40)] ++
      [(0x48000, 0x01), (0x48002, 0x05), (0x48003, 0x01), (0x48005, 0x40)] ++
      [(0x50000, 0x99), (0x50003, 0x01), (0x50005, 0x40)] ++
      [(0x60000, 0x01), (0x60001, 0x80), (0x60002, 0x06)] ++ [(0x68000, 0x01), (0x68002, 0x07)] ++
      [(0x70000, 0x01), (0x70001, 0x40), (0x70002, 0x07)] ++ [(0x74048, 0x99), (0x74049, 0x90)]) }

/-- A command of copy engine 0 that moves a row of 16 bytes from `src` to `dst`, with its descriptor's leaf word. -/
def tCopy (kind : CmdKind) (phase : CmdPhase) (src dst leaf : Nat) (args : List Nat := []) : Command :=
  { id := 5, kind := kind, phase := phase, args := args, wg := 1, wave := 1
    desc := bytesOf 8 src ++ bytesOf 8 dst ++ bytesOf 8 0 ++ bytesOf 8 leaf ++ bytesOf 4 16 ++ bytesOf 2 1 ++ List.replicate 26 0 }

theorem test_witness_TranslationAndCacheEvents :
    let s := tTables
    let bare : State := (tOwned []).setBell 0 0 0x100 0x60000
    let k := mscKey 0 0
    let held : State := { s with msc := [(k, { filling := some 3 })] }
    let lost : State := { s with msc := [(k, { v := true, tag := 3, lost := 0xFFFF })] }
    s.partOfVf 0 = some 0 ∧ (s.walk 0 0 0 0x9000 .read).toOption.any (fun x => !s.marksHeld x.marks) = true ∧
    (bare.walk 0 0 0 0x9000 .read).toOption = none ∧
    s.openBar = true ∧ ({ s with invs := [(0, 0x9000)] } : State).invs.filter (fun x => x.1 == 256 * 0 + 0) ≠ [] ∧ s.usesOld 0 0 = false ∧
    (s.mscShape 0).1 ≠ 0 ∧ 0 / 2048 % (s.mscShape 0).1 = 0 ∧
    (s.mscOf 0 0).lost ≠ 0xFFFF ∧ (s.mscOf 0 0).filling = none ∧ (lost.mscOf 0 0).lost = 0xFFFF ∧
    (held.mscOf 0 0).lost ≠ 0xFFFF ∧ (held.mscOf 0 0).filling = some 3 := by
  decide +kernel

/-- A migration of the page at 0x9000 to the frame of 0xA000, in the state of `tTables`. -/
def tMove (progress total : Nat) (leaf : Nat := 0x74048) (entry : Nat := 0x9099) : Command :=
  { tCopy .migrate .running 0x9000 0xA000 leaf with progress := progress, total := total, acc := [entry, 0, 0x9000] }

theorem test_witness_TranslationAndCacheEvents_migration :
    let st (c : Command) : State := { tTables with cmds := [c] }
    let bad : State := { st (tMove 0 0 0x2000) with poison := [((placedAt + 0x2000) / 16, true)] }
    let flat (x : Nat) : Nat := x &&& (2 ^ 64 - 1 - 0x60)
    (let c := tMove 0 0
     (st c).cmd 5 = some c ∧ (st c).cmdStopped c = false ∧ (st c).leafHeld c = false ∧
     ((st c).walk1 0 0 0x9000 0 4 ((st c).s1root 0 0) []).toOption.any
       (fun r => r.1 == { entry := 0x9099, at_ := 2 ^ 46 + placedAt + 0x74048, size := 2 ^ 12 }) = true ∧
     (st c).leafEntry c = .ok (some (2 ^ 46 + placedAt + 0x74048, 0x9099)) ∧ bitAt 0x9099 7 = true) ∧
    (bad.leafHeld (tMove 0 0 0x2000) = false ∧ bad.leafEntry (tMove 0 0 0x2000) = .ok none) ∧
    (let c := tMove 31 32
     let d := CopyDesc.ofBytes c.desc
     (st c).cmdStopped c = false ∧ c.broken = none ∧ ((st c).engXlate ((st c).cmdGroup c) .read (d.src + 128 * 31)).toOption.isSome = true ∧
     (match (st c).frameAt c (c.pageFrom + 128 * 31), (st c).frameAt c (d.dst + 128 * 31) with
       | .ok a, .ok b => !(st c).lockedBy c.id a && !(st c).lockedBy c.id b && !(st c).keyBusyBit (b / 2 ^ 46 % 64)
       | _, _ => false) = true) ∧
    (∀ x ∈ [(0x9099, true), (0x8099, false)],
      let c := tMove 32 32 0x74048 x.1
      (st c).leafHeld c = false ∧ (st c).leafEntry c = .ok (some (2 ^ 46 + placedAt + 0x74048, 0x9099)) ∧
      ((List.range (leafCount (128 * 32))).map (fun i => (2 ^ 46 + placedAt + 0x74048 + 8 * i,
        natOfBytes ((st c).physBytes (2 ^ 46 + placedAt + 0x74048 + 8 * i) 8).1))).all (fun y => flat y.2 == flat x.1) = x.2) ∧
    (st (tMove 33 32)).usesOld 0 0 = false ∧ ({ st (tMove 33 32) with cmds := [{ id := 6, kind := .qpost }] } : State).usesOld 0 0 = true ∧
    (tMove 34 32).total + 1 < (tMove 34 32).progress := by
  decide +kernel

/-- A command of workgroup 1 in the matrix queue of core 0: tiles of zeros, with the formats of word 0x30C. -/
def tMatrix (kind : CmdKind) (phase : CmdPhase) (desc : List Byte) (progress : Nat := 0) : Command :=
  { id := 5, kind := kind, phase := phase, desc := desc, args := [0, 0, 0], wg := 1, wave := 1, progress := progress, total := 3 }

theorem test_witness_CommandEvents :
    let st (c : Command) : State := { tTables with cmds := [c], matq := [(0, [5])] }
    let copy (p : CmdPhase) : Command := tCopy .cpy p 0x3000 0x3800 0
    let cast : Command := tCopy .cpyMc .slotless 0x3000 0x800 0 [1]
    (st (copy .posted)).nextCopy 0 = some (copy .posted) ∧
    (st (copy .guarded)).cmd 5 = some (copy .guarded) ∧ (st (copy .guarded)).cmdStopped (copy .guarded) = false ∧
    (copy .guarded).copies = true ∧
    (tMatrix .mma .guarded []).copies = false ∧
    ({ st cast with wgs := [{ id := 1, fsc := 1 }] } : State).mcBusy cast = false ∧
    (∀ id ∈ cast.args, ({ st cast with wgs := [{ id := 1, fsc := 1 }] } : State).group id = some { id := 1, fsc := 1 }) ∧
    ({ id := 1, fsc := 1 } : Workgroup).finished = false ∧ ({ id := 1, fsc := 1 } : Workgroup).fscPois = false ∧
    ({ st cast with wgs := [{ id := 1, fsc := 1 }] } : State).confined { id := 1, fsc := 1 } = false ∧
    1 ≤ ({ st cast with wgs := [{ id := 1, fsc := 1 }] } : State).slotsOf { id := 1, fsc := 1 } ∧
    ((landSectors (CopyDesc.ofBytes (copy .running).desc) 5 1 (st (copy .running))).1.cmd 5).isSome = true ∧
    (let c := tMatrix .accZero .posted []
     (st c).matHead 0 = some c ∧ (st c).cmdStopped c = false ∧ (st c).swapFirst c = false ∧ (st c).withdrawnFirst c = false) ∧
    (let c := tMatrix .mma .posted (List.replicate 28 0 ++ bytesOf 4 0x80000040)
     (st c).matHead 0 = some c ∧ (st c).cmdStopped c = false ∧ (st c).swapFirst c = false ∧ (st c).withdrawnFirst c = false ∧ bitAt c.block.guard 31 = true) ∧
    (∀ k ∈ [CmdKind.rast, .ray],
     let c : Command := { id := 5, kind := k, wg := 1 }
     (st c).sightRuns 0 0 = none ∧ (st c).nextSight 0 0 = some c) ∧
    (∀ n ∈ [0, 1],
     let c : Command := { id := 5, kind := .rast, wg := 1, phase := .running, progress := n,
                          desc := List.replicate 18 0 ++ [1, 1] ++ List.replicate 44 0 }
     (st c).sightRuns 0 0 = some c ∧ (RastDesc.ofBytes c.desc).w * (RastDesc.ofBytes c.desc).h = 1) ∧
    (let c : Command := { id := 5, kind := .ray, wg := 1, phase := .running, args := [3], acc := List.replicate 7 0 }
     (st c).sightRuns 0 0 = some c ∧ c.rays = [(3, List.replicate 7 0)] ∧
       (State.runRay c (natAt c.desc 0 8 % 2 ^ 56) (natAt c.desc 8 4) (natAt c.desc 12 4) 3 (List.replicate 7 0) (st c)).toOption.isSome = true) := by
  decide +kernel

theorem test_witness_CommandEvents_matrix :
    let st (c : Command) : State := { tTables with cmds := [c], matq := [(0, [5])] }
    (let c := tMatrix .mma .running (List.replicate 32 0)
     (st c).matHead 0 = some c ∧
     (State.cmd ((st c).applyChunk c (.ofNat c.block.word) c.block.acc c.block.fl c.block.bd (c.block.za && c.progress == 0)
          ((st c).blockOps ((st c).cmdGroup c) c.block) c.progress) c.id).isSome = true) := by
  decide +kernel

/-- An mmat of K-steps of 16, both operands at 0x8000, staged at the start of the scratchpad. -/
def tMmat (ksteps : Nat) : List Byte :=
  bytesOf 8 0x8000 ++ bytesOf 8 0x8000 ++ bytesOf 8 0xC000 ++ List.replicate 28 0 ++
    bytesOf 2 1 ++ bytesOf 2 1 ++ bytesOf 2 ksteps ++ bytesOf 2 16 ++ bytesOf 4 0x2252 ++ List.replicate 16 0

/-- An mmat with its panels staged, and one that is to stage them. -/
theorem test_witness_CommandEvents_mmat :
    let st (c : Command) : State := { tTables with cmds := [c], matq := [(0, [5])] }
    let c := tMatrix .mmat .running (tMmat 3) 1
    let e : Command := { c with query := [0] }
    let last : Command := { c with query := [1] }
    let d := MmatDesc.ofBytes c.desc
    let f := FmtWord.ofNat d.word
    (st c).matHead 0 = some c ∧ (st c).cmdStopped c = false ∧ c.chunksDone = none ∧ ((st c).cmdGroup c).frozen = false ∧
    ({ st c with wgs := [{ id := 1, frozen := true }] } : State).cmdGroup c = { id := 1, frozen := true } ∧
    (State.stagePanels (st c) c d 0 0 1).1 = none ∧
    (st e).matHead 0 = some e ∧ e.chunksDone = some 0 ∧ 0 < d.ks / 16 ∧
    (State.cmd ((st e).applyChunk e f d.acc d.fl false false (d.ops ((st e).cmdGroup e) 1) 0) e.id).isSome = true ∧
    (st last).matHead 0 = some last ∧ last.chunksDone = some 1 ∧ d.ks / 16 ≤ 1 ∧ 1 + 1 ≠ d.ksteps ∧ (st last).cmd last.id = some last := by
  decide +kernel

/-- At the first K-step of a block the working bank is cleared before the panels are staged. -/
theorem test_witness_CommandEvents_mmat_first :
    let c := tMatrix .mmat .running (tMmat 2) 0
    let s : State := { tTables with cmds := [c], matq := [(0, [5])] }
    let d := MmatDesc.ofBytes c.desc
    let f := FmtWord.ofNat d.word
    (State.stagePanels (s.modGroup c.wg (fun g => (accTiles f.acc d.acc).foldl (fun g n => g.clearBank 1 n) g)) c d 0 0 0).1 = none := by
  decide +kernel

/-- A query of two units of one row, at 0x8000 of the page's frame. -/
def tQuery (phase : CmdPhase) (progress : Nat) (scans : SMap BauScan := []) : Command :=
  { id := 5, kind := .qpost, phase := phase, wg := 1, wave := 1, progress := progress, total := 2, scans := scans
    args := [placedAt + 0x8000, 2 ^ 46 + placedAt + 0x8000]
    desc := List.replicate 36 0 ++ [4] ++ List.replicate 27 0 }

theorem test_witness_ShadingAndAttentionEvents :
    let st (c : Command) : State := { tTables with cmds := [c] }
    let unit : State := { (tUnit) with wave := { (tUnit).wave with id := 1 } }
    let q := tQuery .posted 0
    let r := tQuery .running 0
    let bau := r.bauOf 0
    let busy := tQuery .running 0 [(bau, { ends := 5000 })]
    let s : State := { (((tOwned []).setPreg 0 0x000 1).setPreg 0 0x018 0x8100).setPreg 0 0x020 0x10000 with
      mem := (tOwned []).mem ++ tBytes [(0x8101, 0x90)]
      jobs := (List.range 16).map (fun k => { slice := 0, key := k, ver := 0, cls := 0, frame := 0 }) }
    (tTables).openBar = true ∧ unit.focusOn 1 0 = some unit ∧
    s.partOf 0 = some 0 ∧ s.nextClass 0 0 = some 0 ∧
    (List.range 64).find? (fun i => (SMap.get [] (0 * 64 + i) s.jobBlocks).isEmpty) = some 0 ∧ s.scEn 0 = true ∧ s.confs = [] ∧
    (let w := s.filler 0
     let js := (s.classJobs 0 0).take 16
     let u := { s with jobs := dropJobs 0 0 16 s.jobs, jobBlocks := SMap.set [] 0 js s.jobBlocks }
     s.batchHeld w 0 0 = false ∧
     let r := u.ctxPutOn 5 w none (u.jobBlockAt 0 0) (js.flatMap Job.bytes)
     r.1.isNone = true ∧ (match (r.2.jobsSeen u.oseq).classLaunch w 0 with
       | .ok (some va) => va == 0x9000
       | _ => false) = true) ∧
    (st q).cmd 5 = some q ∧ q.kind = .qpost ∧ (st q).cmdStopped q = false ∧ (st q).mayStart q = true ∧ (st q).scanning q.engine < 16 ∧
    (st r).cmd 5 = some r ∧ (st r).cmdStopped r = false ∧ (r.scan bau).ends ≤ (st r).aclk ∧
    (r.rowUnits bau (r.scan bau).next).head? = some 0 ∧
    (let ps := r.rowPlaces 0
     let hot : State := { st r with throttled := [(ps.headD 0 / 2048, r.vf + 1)] }
     (∀ t ∈ [st r, hot], t.scanHeld r = false ∧ (∀ p ∈ ps, t.sideFull r.vf p = false) ∧ t.sideQ = []) ∧
     (∀ p ∈ ps, (st r).throttledAt r.vf p = false) ∧ (ps.find? (hot.throttledAt r.vf)).isSome = true) ∧
    (st busy).aclk < (busy.scan bau).ends ∧ SMap.get false (1024 * r.engine + bau) (st r).bauFailed = false ∧
    (let d := tQuery .running 2
     d.total ≤ d.progress ∧ (∀ b ∈ d.scans, b.2.ends ≤ (st d).aclk)) ∧
    (∀ c ∈ (tTables).cmds, c.kind ≠ .qpost) ∧
    (let bit (f : Nat) : Bool := s.partBit 0 0x4020 f
     (List.range 64).filter bit = [0]) ∧
    (let t : State := { st r with sideQ := [(0, [(5, bau)])] }
     SMap.get [] 0 t.sideQ = (5, bau) :: [] ∧ t.cmd 5 = some r ∧ t.scanHeld r = false ∧ t.cmdStopped r = false) ∧
    ((tTables).partOf 0 = some 0 ∧ SMap.get 0 0 (tTables).throttled = 0 ∧
       SMap.get 0 0 ({ tTables with throttled := [(0, 1)] } : State).throttled ≠ 0) := by
  decide +kernel

/-- A row that one function has activated 2,048 times is due to be throttled, whatever ordinary requests add. -/
theorem test_witness_ShadingAndAttentionEvents_row :
    let s : State := { tTables with rowActs := [(rowKey 0 0, 2048)] }
    let acts (f : Nat) : Nat := SMap.get 0 (rowKey 0 f) s.rowActs + (Config.freeWord (s.free + f)).toNat
    bestOf (fun a b => decide (acts b < acts a)) [0] = some 0 ∧ 2048 ≤ ([0].map acts).sum := by
  refine ⟨rfl, ?_⟩
  have h : SMap.get 0 (rowKey 0 0) ({ tTables with rowActs := [(rowKey 0 0, 2048)] } : State).rowActs = 2048 := by decide +kernel
  simp only [List.map_cons, List.map_nil, List.sum_cons, List.sum_nil, h]
  omega

theorem test_witness_TenancyEvents :
    let s := tTables
    (0 < 12 ∧ 0 < 64) ∧ s.bootState = 2 ∧ State.reset.bootState ≠ 2 ∧ bitAt (s.reg 0x1890).toNat 30 = false ∧
    (State.reset.setReg 0x0000 2).rcbOpen .root = true ∧ (State.reset.setReg 0x0000 2).rcbOpen (.part 0) = true ∧
    (State.reset.setReg 0x0000 2).rcbOpen (.vf 0 0) = true ∧ s.rcbOpen .root = false ∧ s.rcbOpen (.part 0) = false ∧
    SMap.get 0 3 ({ s with keyBusy := [(3, 2)] } : State).keyBusy ≠ 0 ∧ s.heldIn = [] ∧
    (let r : State := { s with
       us := 60
       extReads := [{ id := 4, src := .link 0, meter := 2, result := .waiting }]
       held := [{ id := 4, meter := 2, src := .port, addr := 0, read := true }] }
     r.extReads.any (fun r => r.id == 4 && r.result == .waiting && decide (r.meter < 19)) = true ∧
       r.held.any (fun h => h.read && h.id == 4 && h.charged && decide (h.since + 50 ≤ r.us)) = true) ∧
    s.logOn = false ∧
    (let l : State := { s with logSeq := 1, logPending := [.checkpoint] }
     l.logRoom (Logged.checkpoint).isCheckpoint (Logged.checkpoint).entries = true ∧
       ({ l with logPending := [] } : State).logRoom (Logged.key 3 1).isCheckpoint (Logged.key 3 1).entries = true) := by
  decide +kernel

/-- The clause for an image that passes its check has no witness here: the fuses are free values (Config). -/
theorem test_witness_BootResetAndFaultEvents :
    let s := tTables
    let off := State.reset
    let conf (phase : ConfPhase) : Conf := { id := 3, level := 2, phase := phase, waiting := [.copy] }
    let c : State := { s with confs := [conf .quiet] }
    off.bootState = 0 ∧ (off.setReg 0x0000 1).bootState = 1 ∧ imageOk off.image = false ∧ off.logOn = false ∧ s.bootState = 2 ∧
    0 < (5 : Word).toNat % 2 ^ 24 ∧ s.period = 0 ∧ (s.setReg 0x0010 5).period ≠ 0 ∧ (s.setReg 0x0010 5).period < (6 : Word).toNat % 2 ^ 24 ∧
    s.partOfVf 0 = some 0 ∧ s.confs.any (fun c => c.coversCtx 0 0 0) = false ∧ s.resetting 0 (3, 0) = false ∧ s.resetting 0 (4, 0) = false ∧
    bitAt (s.reg 0x0A08).toNat 30 = false ∧ s.injectPlace ≠ none ∧ bitAt (0x80000001 : Word).toNat 31 = true ∧
    bitAt (s.preg 0 0x4034) 30 = false ∧ s.preg 0 0x4030 % 2 ^ 25 = 0 ∧ (∀ i < 1, s.granuleIn 0 (0 + i) = true) ∧
    (let w : State := { s.setReg 0x0010 5 with us := 5000 }
     w.wdogStart + 1000 * w.period ≤ w.us) ∧
    ({ s with scrubs := [{ part := 0, first := 4, count := 1 }], scrubbed := [(4, 2)] } : State).scrubs.findSome?
      ({ s with scrubs := [{ part := 0, first := 4, count := 1 }], scrubbed := [(4, 2)] } : State).runNext = some 4 ∧
    bitAt ((s.setReg 0x0A08 0x40000000).reg 0x0A08).toNat 30 = true ∧
    ({ s.setReg 0x0A08 0x40000000 with injecting := 5 } : State).injecting = 4 + 1 ∧
    c.confs.find? (fun x => x.id == (conf .quiet).id) = some (conf .quiet) ∧ EngineClass.copy ∈ (conf .quiet).waiting ∧ c.cmds = [] ∧
    (conf .quiet).phase = .quiet ∧ (c.unfocus.wgs.filter (fun g => (conf .quiet).covers g && !g.finished)).any (·.frozen) = false ∧
    ({ s with scrubs := [] } : State).bootNext.isSome = true ∧ ({ s with scrubs := [] } : State).scrubs.findSome? s.runNext = none ∧
    (let n := (s.mscShape 0).1
     let first := (s.mscShape 0).2
     n ≠ 0 ∧ first < first + 2048 * n ∧ first < lpBase ∧ 0 < first ∧ placeSlice first = 0 ∧ first % 128 = 0) ∧
    (let u : State := { s with below := [(lpBase / 16, some { uncorr := true })], bootScrub := lpBase }
     (u.arrayStored (lpBase / 16)).uncorr = true ∧ u.scrubPending lpBase = false ∧ lpBase < stBase ∧ lpBase / 16 * 16 = lpBase) ∧
    (s.arrayStored 0).uncorr = false := by
  decide +kernel

theorem test_witness_DeviceEvents :
    let s := tTables
    s.bootState = 2 ∧ 85 * 64 < 100 * 64 ∧ 700 ≤ 800 ∧ 24000 < 25000 ∧ 105 * 64 < 120 * 64 ∧ 115 * 64 < 120 * 64 ∧
    (∀ x ∈ [([], 1), (List.replicate 62 0, 63), (List.replicate 63 0, 64), (List.replicate 15 0, 16)],
      (replayed s.us 0 [(0, x.1)]).length = x.2) ∧ SMap.get 0 0 s.colSpares = 0 ∧
      SMap.get 0 0 ({ s with colSpares := [(0, 1)] } : State).colSpares ≠ 0 ∧
    (let p : State := { s with us := 200000, pri := [{ id := 4, wave := 1, slot := 0 }] }
     p.pri.any (fun p' => p'.id == 4 && p'.code == 0 && decide (p'.sentAt + 100000 ≤ p.us)) = true) ∧
    (let h : State := { (tUnit) with halted := [(64, 3)] }
     h.halted.find? (fun h => h.1 / 64 == 1 && h.1 % 64 == 0) = some (64, 3) ∧
     h.halted.find? (fun h => h.1 / 64 == 1) = some (64, 3) ∧ h.focusOn 1 (64 % 64) = some h) ∧
    s.testIr ≠ 0x40 ∧
    (let r : State := { s with testIr := 0x40, extReads := [{ id := 4, src := .link 0, meter := 68 }] }
     r.testIr = 0x40 ∧ r.logPending = [] ∧ r.extReads.find? (fun r => r.meter == 68) = some { id := 4, src := .link 0, meter := 68 }) := by
  decide +kernel

/-- One step of each kind: a port that selects its fragment and fetches, a fetch that fails, an event, a turn of the device. -/
theorem test_witness_StepRunsDecoded :
    let s := State.reset.withFetchWord 32 0xF2000007
    let busy (t : List Turn) : State := { s with agenda := t }
    s.canStep = true ∧ { s with powered := false }.canStep = false ∧
    (s.select 0 0).any (fun u => match u.fetch with
      | .ok (some w) => ((u.codeSeen u.wAddr).awaits w).isEmpty && decide (decodeVersion (u.codeSeen u.wAddr).version w = .ok (.trap 7))
      | _ => false) = true ∧
    (State.select { s with pendLoads := [{ id := 9, wave := 1, slot := 0, dest := 0x80, regs := 1, bits := 32, items := [] }] } 0 0).any
      (fun u => !((u.codeSeen u.wAddr).awaits 0x51808000).isEmpty) = true ∧
    ((s.setReg 0x1004 7).select 0 0).any (fun u => match u.fetch with
      | .ok none => true
      | _ => false) = true ∧
    (s.nextIssue).isSome = true ∧ (State.reset).nextIssue.isSome = false ∧ (State.reset).agenda = [] ∧
    (match (tUnit).fetch with
      | .ok _ => false
      | .error _ => true) = true ∧
    (tUnit).focus = true ∧ ({ (tUnit) with iss := { n := 1 } } : State).iss.n ≠ 0 ∧
    (busy [.issue 0 0]).agenda = .issue 0 0 :: [] ∧ (State.select { busy [] with agenda := [] } 5 0).isSome = false ∧
    (busy [.event 3 0 .ptsTick]).agenda = .event 3 0 .ptsTick :: [] ∧
    (busy [.chance 3 0 (.tmax 0 0 5)]).agenda = .chance 3 0 (.tmax 0 0 5) :: [] := by
  decide +kernel

theorem test_witness_MemoryKept_DecodeEncodeAgree :
    let s := State.reset.withFetchWord 32 0xF2000007
    Memory.wf s.mem = true ∧ encode (.trap 7) = some 0xF2000007 ∧ decode 0xF2000007 = .ok (.trap 7) ∧
    (match step s with
      | .next _ => true
      | _ => false) = true := by
  decide +kernel
end

/-! ### Units of control: branches, rejoins, ends and waits (R37 to R47, R190 to R206)

What follows settles the statements of chapter 2 of the spec: first a rule for each shared form that these units use, then
the statements. -/

namespace Sys2Proof.Machine

/-! One condition alone is the one that the unit raises (R409). -/

theorem raised_singleton (c : Cond) : ∃ c' : Cond, raised [c] = some c' ∧ c'.code = c.code ∧ c'.lanes = c.lanes := by
  have hsame : [c].filter (fun x => x.code == c.code) = [c] := by simp
  have hfirst : ∀ p, ([c].find? p).getD c = c := fun p => by cases h : p c <;> simp [h]
  simp only [raised, bestOf, List.foldl_nil, hsame, hfirst]
  exact ⟨_, rfl, rfl, by simp⟩

/-- A unit whose words are in order and whose only condition is `c` takes the trap of `c`. -/
theorem issue_trap_one {s : State} {c : Cond} {eff : State → State} (hw : s.wordsOk .plain) :
    ∃ c' : Cond, c'.code = c.code ∧ c'.lanes = c.lanes ∧ s.issue [c] eff = .next (s.takeTrap s.exec c') := by
  obtain ⟨c', hr, hcode, hlanes⟩ := raised_singleton c
  refine ⟨c', hcode, hlanes, issueK_trap ?_⟩
  rw [State.judged, show s.unitConds .plain = [] from hw, List.nil_append, hr]

/-! Sides, and the division of a fragment among them (R37, R38, R42). -/

/-- A branch with no condition, whose sides need no ninth deferral entry, has its effect and divides the fragment. -/
theorem branch_divides {s : State} {k : UnitKind} {cs : List Cond} {sides : List Side} {serial : Bool} {eff : State → State}
    (hw : s.wordsOk k) (hc : cs = []) (ho : s.overflows sides serial = false) :
    s.branch k cs sides serial eff = .next ((eff (s.retire k)).divide sides serial) :=
  issueK_next hw (by rw [hc, ho]; rfl)

/-- A jump to aligned targets, read from a register without poison, divides the fragment by target (R191). -/
theorem jump_divides {s : State} {cs : List Cond} {a : Operand} {dest : Nat → VAddr} (hw : s.wordsOk .plain) (hc : cs = [])
    (ha : ∀ l ∈ lanesOf s.exec, s.srcPois 1 a l = false) (hd : ∀ l ∈ lanesOf s.exec, (dest l).toNat % 4 = 0)
    (ho : s.overflows (s.targetSides dest) false = false) :
    s.jump cs a dest = .next ((s.retire .plain).divide (s.targetSides dest) false) := by
  have hodd : lanesWhere s.exec (fun l => (dest l).toNat % 4 != 0) = 0 := lanesWhere_zero (fun l hl => by simp [hd l hl])
  have hclean : s.cleanCond [(1, a)] = [] := cleanCond_nil (by simpa using ha)
  exact branch_divides hw (by rw [hc, hodd, hclean]; rfl) ho

/-- A single side with lanes: the fragment goes there, its token is dropped, and nothing divides (R37). -/
theorem divide_single {s : State} {sides : List Side} {serial : Bool} {x : Side}
    (h : sides.filter (fun x => x.mask ≠ 0) = [x]) :
    s.divide sides serial = { s with frag := { s.frag with pc := x.pc, armed := none } } := by
  simp only [State.divide, h]

/-- One side asks for no deferral entry. -/
theorem overflows_single {s : State} {sides : List Side} {serial : Bool} {x : Side}
    (h : sides.filter (fun x => x.mask ≠ 0) = [x]) : s.overflows sides serial = false := by
  simp only [State.overflows, h, List.length_singleton]
  rfl

/-- A branch of a single side: the fragment goes there once its effect is had, and nothing divides. -/
theorem branch_single {s : State} {k : UnitKind} {sides : List Side} {x : Side} {serial : Bool} {eff : State → State}
    (hw : s.wordsOk k) (h : sides.filter (fun x => x.mask ≠ 0) = [x]) :
    s.branch k [] sides serial eff = .next { eff (s.retire k) with
      frag := { (eff (s.retire k)).frag with pc := x.pc, armed := none } } := by
  rw [branch_divides hw rfl (overflows_single h), divide_single h]

theorem plainSides_taken {s : State} (off : BitVec 20) (hm : s.frag.mask ≠ 0) (he : s.exec = s.frag.mask) :
    (s.plainSides off).filter (fun x => x.mask ≠ 0) = [{ pc := s.target off, mask := s.exec }] := by
  have hrest : s.rest = 0 := by simp [State.rest, he]
  rw [State.plainSides, hrest, List.filter_cons_of_pos (by simpa [he] using hm), List.filter_cons_of_neg (by simp)]
  rfl

theorem plainSides_untaken {s : State} (off : BitVec 20) (hm : s.frag.mask ≠ 0) (he : s.exec = 0) :
    (s.plainSides off).filter (fun x => x.mask ≠ 0) = [{ pc := s.wAddr + 4, mask := s.frag.mask }] := by
  have hrest : s.rest = s.frag.mask := by
    rw [State.rest, he, show ~~~(0 : LaneMask) = BitVec.allOnes 32 by decide, BitVec.and_allOnes]
  rw [State.plainSides, hrest, he, List.filter_cons_of_neg (by simp), List.filter_cons_of_pos (by simpa using hm)]
  rfl

/-! Link registers (R192). -/

/-- Writing a vector register lane by lane is writing lanes whose results log nothing and step no generator. -/
theorem foldl_setV_eq_writeLanes (s : State) (r : Fin 128) (n v : Nat) (ls : List Nat) :
    ls.foldl (fun t l => t.setV r.val l n v false) s = s.writeLanes (.v r) n (ls.map (fun l => (l, { v := v }))) := by
  induction ls generalizing s with
  | nil => rfl
  | cons l ls ih => rw [List.foldl_cons, ih, List.map_cons, writeLanes_cons]; rfl

/-- The state in which a call has left `link` in register `r` of the lanes of its execution mask. -/
def State.linked (s t : State) (r : Fin 16) (link : Nat) : State :=
  (lanesOf s.exec).foldl (fun t l => t.setV r.val l 1 link false) t

theorem linked_eq_writeLanes (s t : State) (r : Fin 16) (link : Nat) :
    s.linked t r link = t.writeLanes (.v (r.castLE (by decide))) 1 ((lanesOf s.exec).map (fun l => (l, { v := link }))) :=
  foldl_setV_eq_writeLanes t (r.castLE (by decide)) 1 link (lanesOf s.exec)

theorem linked_frag (s t : State) (r : Fin 16) (link : Nat) : (s.linked t r link).frag = t.frag := by
  rw [linked_eq_writeLanes, writeLanes_frame]

theorem linked_mem (s t : State) (r : Fin 16) (link : Nat) : (s.linked t r link).mem = t.mem := by
  rw [linked_eq_writeLanes, writeLanes_frame]

/-- The link registers hold the link, and no other register has changed. -/
theorem linked_wrote (s : State) (k : UnitKind) (r : Fin 16) (link : Nat) :
    WroteV s (s.linked (s.retire k) r link) r.val 1 (lanesOf s.exec) (fun _ => link) (fun _ => false) ∧
      (s.linked (s.retire k) r link).wave.xregs = s.wave.xregs ∧ (s.linked (s.retire k) r link).wave.preds = s.wave.preds := by
  obtain ⟨hv, hx, hp, -⟩ := writeLanes_v (s.retire k) (r.castLE (by decide)) 1 (lanesOf s.exec) (fun _ => { v := link })
    (fun l hl => (mem_lanesOf.mp hl).1) (nodup_lanesOf s.exec)
  rw [linked_eq_writeLanes]
  exact ⟨by simpa [WroteV] using hv, by simpa using hx, by simpa using hp⟩

theorem execCall_divides {s : State} {r : Fin 16} {off : BitVec 20} (hw : s.wordsOk .plain)
    (ho : s.overflows (s.plainSides off) false = false) :
    execCall r off s = .next ((s.linked (s.retire .plain) r ((s.wAddr + 4 - s.wg.kbase).toNat % 2 ^ 32)).divide
      (s.plainSides off) false) := by
  unfold execCall
  exact branch_divides hw rfl ho

/-- Settles O17: the sides of the branch are one, and a call's link registers are written first. -/
theorem uniformBranches : Obligations.UniformBranches := by
  unfold Obligations.UniformBranches
  intro off r s hm
  refine ⟨fun hw he => ?_, fun hw he => ?_, fun hw he => ?_⟩
  · exact branch_single hw (plainSides_taken off hm he)
  · exact branch_single hw (plainSides_untaken off hm he)
  · have hone := plainSides_taken off hm he
    have hcall := execCall_divides (r := r) hw (overflows_single hone)
    rw [divide_single hone] at hcall
    obtain ⟨hv, hx, hp⟩ := linked_wrote s .plain r ((s.wAddr + 4 - s.wg.kbase).toNat % 2 ^ 32)
    refine ⟨_, hcall, rfl, ?_, ?_, hv, hx, hp⟩
    · simp only [linked_frag, State.retire_frag_mask]
    · simp only [linked_mem, State.retire_mem]

/-! brt (R190, R44). -/

/-- brt that leaves no undecided lane to read the second word for: its sides divide the fragment. -/
theorem execBrt_divides {s : State} {p : Fin 16} {off : BitVec 20} {serial : Bool} (hw : s.wordsOk .plain)
    (hu : s.und ≠ 2 ∨ s.lanesAt p.val .u = 0) (hs : decide (s.und = 3 ∧ s.lanesAt p.val .u ≠ 0) = serial)
    (ho : s.overflows (s.brtSides p.val off) serial = false) :
    execBrt p off s = .next ((s.retire .plain).divide (s.brtSides p.val off) serial) := by
  have hone : ¬(s.und = 2 ∧ s.lanesAt p.val .u ≠ 0 ∧ s.guardOf.1 ≠ 7) := by tauto
  subst hs
  simp only [execBrt, hone, if_false]
  exact branch_divides hw rfl ho

/-- brt with undecided lanes under UND = 2: it has read the word at W + 4, which is no lead-in word, and divides. -/
theorem execBrt_reads_next {s : State} {p : Fin 16} {off : BitVec 20} {w : Word} (hund : s.und = 2)
    (hu : s.lanesAt p.val .u ≠ 0) (hg : s.guardOf.1 ≠ 7) (hc : s.codeWord (s.wAddr + 4) = .ok (some w))
    (hl : isLeadIn w = false) (hw : (s.codeSeen (s.wAddr + 4)).wordsOk .plain)
    (ho : (s.codeSeen (s.wAddr + 4)).overflows (s.brtSides p.val off) false = false) :
    execBrt p off s = .next (((s.codeSeen (s.wAddr + 4)).retire .plain).divide (s.brtSides p.val off) false) := by
  have hthree : s.und = 2 ∧ s.lanesAt p.val .u ≠ 0 ∧ s.guardOf.1 ≠ 7 := ⟨hund, hu, hg⟩
  simp only [execBrt]
  rw [if_pos hthree, hc]
  exact branch_divides hw (by rw [hl]; rfl) ho

/-- A vector register names itself alone as a source of one register. -/
theorem srcPois_vector {s : State} {r : Fin 128} {l : Nat} : s.srcPois 1 (.v r) l = s.vpoison r.val l := by
  simp [State.srcPois]

/-- Settles O18: each form is the shared branch, with no condition left. -/
theorem branchesDivide : Obligations.BranchesDivide := by
  unfold Obligations.BranchesDivide
  intro off p r a s
  refine ⟨fun hw ho => branch_divides hw rfl ho, fun hw hu ho => ?_, fun hw hu hund ho => ?_, ?_,
    fun hw ho => execCall_divides hw ho, ?_, ?_⟩
  · exact execBrt_divides hw (.inr hu) (by simp only [hu, ne_eq, not_true, and_false, decide_false]) ho
  · exact execBrt_divides hw (.inl hund) (decide_eq_decide.mpr (and_iff_left hu)) ho
  · intro w hw hu hund hg hc hl ho
    exact execBrt_reads_next hund hu hg hc hl hw ho
  · intro hw hb ha dest hd ho
    exact jump_divides hw (encCond_nil.mpr hb) ha hd ho
  · intro hw hr dest hd ho
    exact jump_divides hw rfl (fun l hl => srcPois_vector.trans (hr l hl)) hd ho

/-! rejoin (R41, R42, R194). -/

theorem meet_passes {s : State} {k : Nat} {cs : List Cond} (hw : s.wordsOk .plain) (ht : s.topToken s.frag.pc = none) :
    s.meet k cs = .next (s.retire .plain) := by
  simp only [State.meet, ht]
  exact issue_next hw rfl

theorem meet_arrives {s : State} {k key : Nat} {r : Token} (hw : s.wordsOk .plain)
    (ht : s.topToken s.frag.pc = some (key, r)) (hd : s.overdue r = false) :
    s.meet k [] = .next ((s.retire .plain).arrive s.frag.pc key r (s.deadline r k)) := by
  simp only [State.meet, ht, hd]
  exact issue_next hw rfl

theorem meet_overdue {s : State} {k key : Nat} {r : Token} {cs : List Cond} (hw : s.wordsOk .plain)
    (ht : s.topToken s.frag.pc = some (key, r)) (hd : s.overdue r = true) :
    s.meet k cs = .next ((s.retire .plain).mergeToken key) := by
  simp only [State.meet, ht, hd, if_true]
  exact issue_next hw rfl

/-- A rejoin away from the rejoin address of its top deferral entry meets the token records; it may arrive unless that
entry has no rejoin address (R430). -/
theorem execRejoin_meets {s : State} {k : Fin 16} (h : ∀ e ∈ s.frag.defers.head?, e.token ≠ some s.frag.pc) :
    ∃ cs, execRejoin k s = s.meet k.val cs ∧ ((∀ e ∈ s.frag.defers.head?, e.token.isSome = true) → cs = []) := by
  unfold execRejoin
  cases hd : s.frag.defers with
  | nil => exact ⟨[], rfl, fun _ => rfl⟩
  | cons e es =>
    have hne : e.token ≠ some s.frag.pc := h e (by simp [hd])
    refine ⟨_, if_neg hne, fun hall => ?_⟩
    have hsome : e.token.isNone = false := by simpa using hall e (by simp)
    rw [hsome]; rfl

/-- A rejoin at its top deferral entry goes on as the entry has it (R42). -/
theorem execRejoin_advances {s : State} {k : Fin 16} {e : Deferral} {es : List Deferral} {f : Frag} (hw : s.wordsOk .plain)
    (hd : s.frag.defers = e :: es) (ht : e.token = some s.frag.pc)
    (hf : (s.retire .plain).frag.advance s.wave.live ({ e with resume := (s.retire .plain).frag.pc } :: es) = some f) :
    execRejoin k s = .next { s.retire .plain with frag := f } := by
  have hlive : (s.retire .plain).wave.live = s.wave.live := by simp
  simp only [execRejoin, hd]
  rw [if_pos ht, issue_next hw rfl]
  simp only [hlive, hf]

/-- Settles O19, by what the fragment finds at the rejoin: nothing, a token record, or its deferral entry. -/
theorem rejoin : Obligations.Rejoin := by
  unfold Obligations.Rejoin
  intro k s hw
  refine ⟨fun hd ht => ?_, fun key r hd ht => ?_, fun e es f hd ht hf => execRejoin_advances hw hd ht hf⟩
  · obtain ⟨cs, hcs, -⟩ := execRejoin_meets (k := k) hd
    exact hcs.trans (meet_passes hw ht)
  · obtain ⟨cs, hcs, hnil⟩ := execRejoin_meets (k := k) (fun e he => (hd e he).1)
    obtain rfl := hnil (fun e he => (hd e he).2)
    exact ⟨fun ho => hcs.trans (meet_arrives hw ht ho), fun ho => hcs.trans (meet_overdue hw ht ho)⟩

/-! Ends and waits (R45, R46, R198 to R206), and what a wait meets inside a handler (R435). -/

theorem waitCond_outside {s : State} {b : Bool} (h : s.wave.hx = none) : s.waitCond b = [] := by
  simp [State.waitCond, laneCond_nil, h]

theorem waitCond_inside {s : State} (h : s.wave.hx.isSome = true) (he : s.exec ≠ 0) :
    s.waitCond true = [{ code := 0x0F, lanes := s.exec }] := by
  simp only [State.waitCond, laneCond, h, he, Bool.and_self, if_true, if_false]

/-- A unit's outcome is the trap of a wait inside a handler: 0x0F in every lane of the execution mask (R435). -/
def State.TrapsWait (s : State) (r : Host.Outcome State Fault Refusal) : Prop :=
  ∃ c : Cond, c.code = 0x0F ∧ c.lanes = s.exec ∧ r = .next (s.takeTrap s.exec c)

theorem issue_trapsWait {s : State} {eff : State → State} (hw : s.wordsOk .plain) (he : s.exec ≠ 0)
    (hx : s.wave.hx.isSome = true) : s.TrapsWait (s.issue (s.waitCond true) eff) := by
  rw [waitCond_inside hx he]
  exact issue_trap_one (c := { code := 0x0F, lanes := s.exec }) hw

theorem issueLive_trapsWait {s : State} {eff : State → State} (hw : s.wordsOk .plain) (he : s.exec ≠ 0)
    (hx : s.wave.hx.isSome = true) : s.TrapsWait (s.issueLive (s.waitCond true) eff) := issue_trapsWait hw he hx

theorem execYield_trapsWait {s : State} (hw : s.wordsOk .plain) (he : s.exec ≠ 0) (hx : s.wave.hx.isSome = true) :
    s.TrapsWait (execYield s) := issueLive_trapsWait hw he hx

theorem execSleep_trapsWait {s : State} {n : BitVec 24} (hw : s.wordsOk .plain) (he : s.exec ≠ 0)
    (hx : s.wave.hx.isSome = true) (hn : n ≠ 0) : s.TrapsWait (execSleep n s) := by
  rw [execSleep, decide_eq_true hn]
  exact issueLive_trapsWait hw he hx

theorem execBarWait_trapsWait {s : State} {b : Fin 4} (hw : s.wordsOk .plain) (he : s.exec ≠ 0)
    (hx : s.wave.hx.isSome = true) : s.TrapsWait (execBarWait b s) := issueLive_trapsWait hw he hx

theorem execBar_trapsWait {s : State} {b : Fin 4} (hw : s.wordsOk .plain) (he : s.exec ≠ 0)
    (hx : s.wave.hx.isSome = true) : s.TrapsWait (execBar b s) := issue_trapsWait hw he hx

theorem execExit_ends {s : State} {a : Operand} (hw : s.wordsOk .plain) (he : s.exec ≠ 0) (hb : s.srcBad 1 a = false)
    (ha : ∀ l ∈ lanesOf s.exec, s.srcPois 1 a l = false) :
    execExit a s = .next ((s.retire .plain).endLanes s.exec (s.int a)) := by
  have hclean : s.cleanCond [(1, a)] = [] := cleanCond_nil (by simpa using ha)
  exact issueLive_next hw (by rw [encCond_nil.mpr hb, hclean]; rfl) he

theorem execBarArrive_arrives {s : State} {b : Fin 4} (hw : s.wordsOk .plain) :
    execBarArrive b s = .next ((s.retire .plain).barArrive b.val s.exec) := by
  rw [execBarArrive, issue_next hw rfl]

theorem execYield_readies {s : State} (hw : s.wordsOk .plain) (he : s.exec ≠ 0) (hx : s.wave.hx = none) :
    execYield s = .next { s.retire .plain with frag := { (s.retire .plain).frag with
      status := .pendingReady, since := (s.retire .plain).now } } := by
  rw [execYield, issueLive_next hw (waitCond_outside hx) he]

theorem execSleep_parks {s : State} {n : BitVec 24} (hw : s.wordsOk .plain) (he : s.exec ≠ 0) (hx : s.wave.hx = none)
    (hn : n ≠ 0) : execSleep n s = .next ((s.retire .plain).park s.frag.pc (.sleep (s.now + n.toNat))) := by
  rw [execSleep, issueLive_next hw (waitCond_outside hx) he, if_neg hn]

theorem execSleep_zero {s : State} (hw : s.wordsOk .plain) (he : s.exec ≠ 0) (hx : s.wave.hx = none) :
    execSleep 0 s = .next (s.retire .plain) := by
  rw [execSleep, issueLive_next hw (waitCond_outside hx) he, if_pos rfl]

theorem execBarWait_waits {s : State} {b : Fin 4} (hw : s.wordsOk .plain) (he : s.exec ≠ 0) (hx : s.wave.hx = none) :
    execBarWait b s = .next ((s.retire .plain).barWait s.frag.pc b.val) := by
  rw [execBarWait, issueLive_next hw (waitCond_outside hx) he]

theorem execBar_waits {s : State} {b : Fin 4} (hw : s.wordsOk .plain) (he : s.exec ≠ 0) (hx : s.wave.hx = none) :
    execBar b s = .next (((s.retire .plain).barArrive b.val s.exec).barWait s.frag.pc b.val) := by
  rw [execBar, issue_next hw (waitCond_outside hx)]
  simp only [he, if_false]

/-- Settles O20: outside a handler no condition is left, and inside one the wait is the only one. -/
theorem endsAndBarriers : Obligations.EndsAndBarriers := by
  unfold Obligations.EndsAndBarriers
  refine ⟨fun a n b s hw he => ⟨execExit_ends hw he, execBarArrive_arrives hw, fun hx => ⟨execYield_readies hw he hx,
    execSleep_parks hw he hx, execSleep_zero hw he hx, execBarWait_waits hw he hx, execBar_waits hw he hx⟩⟩, ?_⟩
  intro n b s hw he hx hn i hi
  simp only [List.mem_cons, List.not_mem_nil, or_false] at hi
  obtain rfl | rfl | rfl | rfl := hi
  · exact execYield_trapsWait hw he hx
  · exact execSleep_trapsWait hw he hx hn
  · exact execBarWait_trapsWait hw he hx
  · exact execBar_trapsWait hw he hx

end Sys2Proof.Machine

/-! ### Events of waits, fragments, waves and loads (R41, R62 to R71, R92, R199, R203, R431)

One rule for each event: what it does where all that it asks for holds. -/

namespace Sys2Proof.Machine

section FragmentRules

variable {s t : State} {wave slot : Nat}

theorem execRejoinTimeout_merges {k : Nat} {r : Token} (ht : s.focusWave wave = some t)
    (hr : t.wave.tokens.find? (fun x => x.1 == k) = some (k, r)) (hd : ∃ d, r.deadline = some d ∧ d < t.now)
    (hs : t.served t.wave = true) : execRejoinTimeout wave k s = .next (t.mergeToken k) := by
  obtain ⟨d, hdeadline, hlt⟩ := hd
  have hover : t.overdue r = true := by simp [State.overdue, hdeadline, hlt]
  simp only [execRejoinTimeout, ht, hr, hover, hs, Bool.and_self, if_true]

theorem execWaitRetest_tests (hw : (s.watchesOf wave slot).any (·.woken) = true) (ht : s.focusOn wave slot = some t)
    (ha : t.wave.away = false) (hs : t.served t.wave = true) : execWaitRetest wave slot s = .next t.retestAny := by
  simp [execWaitRetest, hw, ht, ha, hs]

theorem execWaitPeriodicRetest_tests {w : Wait} (ht : s.focusOn wave slot = some t) (hf : t.frag.wait = some w)
    (hw : w.watches = true) (hl : t.frag.left ≠ []) (hs : t.served { t.wave with away := false } = true)
    (hd : max t.frag.since t.frag.retested + 1024 ≤ t.now) :
    execWaitPeriodicRetest wave slot s = .next (State.retestDue { t with frag := { t.frag with retested := t.now } }) := by
  have hleft : t.frag.left.isEmpty = false := by simpa using hl
  simp only [execWaitPeriodicRetest, ht, hf, hw, hleft, hs, decide_eq_true hd, Bool.not_false, Bool.and_self, if_true]

theorem execPendingReadyReplace_swaps {core port : Nat} {w v : Wave} {f g : Frag} (ht : State.refill core port 8 s = t)
    (hf : bestOf t.outranks (t.portFrags core port (fun _ f => f.status == .pendingReady && decide (f.since + 256 ≤ t.coreCyc core))) =
      some (w, f))
    (hg : bestOf replacedFirst (t.portFrags core port (fun _ f => f.active)) = some (v, g)) :
    execPendingReadyReplace core port s =
      .next ((t.setStatus v.id g.slot .pendingReady).setStatus w.id f.slot (if f.wait.isSome then .blocked else .ready)) := by
  simp only [execPendingReadyReplace, ht, hf, hg]

/-- The state after the data of load `load` has landed: its lanes are written, and the fragments that waited for it alone
go on (R62, R92). -/
def State.landLoad (t : State) (p : PendLoad) (load : Nat) (data : List Byte) : State :=
  let u := { t with pendLoads := t.pendLoads.filter (fun x => x.id != load) }
  let vals := p.got.map (fun v => (v.1, { v := v.2.1, pois := v.2.2 : LaneOut })) ++
    p.answers data (fun w => (u.peerLinks u.wg.part w).isEmpty)
  let u := u.writeLanes (.ofCode p.dest) p.regs vals
  u.wakeIf (fun w f => w.id == p.wave && (match f.wait with
    | some (.loads ids) => ids.all (fun i => i == load || !u.pendLoads.any (fun x => x.id == i))
    | _ => false))

theorem execLoadDataReturn_lands {load : Nat} {data : List Byte} {p : PendLoad}
    (hp : s.pendLoads.find? (fun p => p.id == load) = some p) (ht : s.focusWave p.wave = some t) (ha : t.wave.away = false)
    (hh : ∀ h ∈ s.held, h.id ∉ p.behind) : execLoadDataReturn load data s = .next (t.landLoad p load data) := by
  have hfree : s.held.any (fun h => p.behind.contains h.id) = false := by simpa using hh
  simp only [execLoadDataReturn, hp, ht, ha, hfree, Bool.or_self]
  rfl

/-- The fragments of a wave that a missed load blocks are waiting from now on (R62). -/
def State.missLoad (s : State) (p : PendLoad) (load : Nat) : State :=
  State.modFrags { s with pendLoads := s.pendLoads.map (fun (x : PendLoad) => if x.id = load then { x with missed := true } else x) }
    (fun w f => if w.id = p.wave ∧ f.status = Status.blocked ∧ (match f.wait with
        | some (.loads ids) => ids.contains load
        | _ => false) = true then
      { f with status := .waiting, since := s.coreCyc w.core } else f)

/-- The port of a wave fills the free entries of its active set. -/
def State.refillPortOf (s : State) (wave : Nat) : Host.Outcome State Fault Refusal :=
  match s.box wave with
  | some b => .next (State.refill b.wave.core b.wave.port 8 s)
  | none => .next s

theorem refillPortOf_next {b : WaveBox} (hb : s.box wave = some b) :
    s.refillPortOf wave = .next (State.refill b.wave.core b.wave.port 8 s) := by
  simp only [State.refillPortOf, hb]

theorem execL2MissReport_waits {load : Nat} {p : PendLoad} {b : WaveBox}
    (hp : s.pendLoads.find? (fun p => p.id == load) = some p) (hb : (s.missLoad p load).box p.wave = some b) :
    execL2MissReport load s = .next (State.refill b.wave.core b.wave.port 8 (s.missLoad p load)) := by
  have hmiss : State.modFrags { s with pendLoads := s.pendLoads.map (fun (x : PendLoad) => if x.id = load then { x with missed := true } else x) }
      (fun w f => if w.id = p.wave && f.status == Status.blocked && (match f.wait with
          | some (.loads ids) => ids.contains load
          | _ => false) then
        { f with status := .waiting, since := s.coreCyc w.core } else f) = s.missLoad p load := by
    refine congrArg _ (funext fun w => funext fun f => if_congr ?_ rfl rfl)
    simp only [Bool.and_eq_true, decide_eq_true_eq, beq_iff_eq, and_assoc]
  unfold execL2MissReport
  rw [hp]
  exact (congrArg (State.refillPortOf · p.wave) hmiss).trans (refillPortOf_next hb)

end FragmentRules

section WaveRules

variable {s t : State} {wave : Nat} {b : WaveBox}

theorem execDeepPark_parks (hb : s.box wave = some b) (ha : b.wave.away = false) (hp : (parkedSince b.frags).isSome = true)
    (hn : b.wave.parkSince ≠ parkedSince b.frags)
    (hc : s.ctxBad (s.groupOf b.wave).part (s.groupOf b.wave).vf (s.groupOf b.wave).ctx 72 4 = none)
    (hd : s.parkDue b = true) :
    execDeepPark wave s = .next ((s.useCtx (s.groupOf b.wave).who 72 4).modWave wave
      (fun w => { w with parkSince := parkedSince b.frags })) := by
  have hnone : (parkedSince b.frags).isNone = false := by simpa using hp
  simp only [execDeepPark, hb, Workgroup.who, ha, hnone, hn, hc, hd, decide_false, Bool.or_self, Option.isSome_none, if_true]
  rfl

theorem execWaveEviction_evicts (hb : s.box wave = some b) (hl : s.longestParked b.wave.core b.wave.port = some wave)
    (hr : s.roomWanted (s.groupOf b.wave).part b.wave.core b.wave.port = true) (hf : (s.groupOf b.wave).frozen = false)
    (hc : s.confined (s.groupOf b.wave) = false) : execWaveEviction wave s = .next (s.evict b) := by
  simp [execWaveEviction, hb, hl, hr, hf, hc]

theorem execWaveRestore_restores {priv : SMap Byte} {pois : SMap Bool} (hu : s.unfocus = t) (hb : t.box wave = some b)
    (hn : (t.nextRestore b.wave.core b.wave.port).map (·.wave.id) = some wave) (hf : t.waveFits b = true)
    (hh : t.slotHeld (t.groupOf b.wave) b.wave = false)
    (hr : t.readSlot (t.groupOf b.wave) b.wave = .ok priv pois) :
    execWaveRestore wave s = .next ((t.seenSlot (t.groupOf b.wave) b.wave).comeBack b priv pois) := by
  simp [execWaveRestore, hu, hb, hn, hf, hh, hr]

end WaveRules

section SliceRules

variable {s t : State} {vf ctx : Nat}

/-- The workgroups of a context on the cores on which its slice ends (R68). -/
def State.slicedIds (s : State) (part vf ctx : Nat) : List Nat :=
  ((((s.groups.filter (fun g => g.vf == vf && g.ctx == ctx)).map (·.core)).eraseDups).filter (s.sliceEnds part vf ctx)).flatMap
    (s.running vf ctx) |>.map (·.id)

theorem execTimeSliceEnd_freezes {part : Nat} {x : Budget} (hp : s.partOfVf vf = some part)
    (hi : s.slicedIds part vf ctx ≠ []) (hx : s.ctxBudget part vf ctx = .ok x) :
    execTimeSliceEnd vf ctx s = .next (s.freeze (s.slicedIds part vf ctx)) := by
  have hsome : (s.slicedIds part vf ctx).isEmpty = false := by simpa using hi
  simp only [execTimeSliceEnd, hp, hx]
  exact congrArg Host.Outcome.next (if_neg (by simpa [State.slicedIds] using hsome))

/-- The frozen workgroups of a context. -/
def State.frozenGroups (s : State) (vf ctx : Nat) : List Workgroup :=
  s.wgs.filter (fun g => g.vf == vf && g.ctx == ctx && g.frozen)

/-- The end of the pre-emption of workgroups `gs` of a context: they are saved, their posted children go back to their
parents' lists, and the context's slices on their cores are over (R68 steps 3 to 6). -/
def State.saveAll (t : State) (vf ctx : Nat) (gs : List Workgroup) : State :=
  let cores := (gs.map (·.core)).eraseDups
  let u := (gs.foldl State.saveGroup t).unqueue vf ctx cores (gs.findSome? t.grantOf)
  { u with sliceTime := u.sliceTime.filter (fun e => !(cores.map (sliceKey · vf ctx)).contains e.1) }

theorem execPreemptionSave_saves (hu : s.unfocus.withdraw ((s.unfocus.frozenGroups vf ctx).map (·.id)) = t)
    (hg : s.unfocus.frozenGroups vf ctx ≠ []) (hs : (s.unfocus.frozenGroups vf ctx).all t.settled = true) :
    execPreemptionSave vf ctx s = .next (t.saveAll vf ctx (s.unfocus.frozenGroups vf ctx)) := by
  have hready : ((s.unfocus.frozenGroups vf ctx).isEmpty || !(s.unfocus.frozenGroups vf ctx).all t.settled) = false := by
    rw [hs]
    simpa using hg
  subst hu
  exact if_neg (Bool.eq_false_iff.mp hready)

/-- Pre-empted workgroup `wg`, as `g`, takes its place on its core again, with its cluster bank at `base` (R71, R76). -/
def State.readmit (t : State) (wg : Nat) (g : Workgroup) (x : SavedWg) (base : Nat) : State :=
  let u := (t.beginSlice g.core g.vf g.ctx).dropStale g.core
  let one := decide (g.tuple.length ≤ 1)
  { u with
    wgs := insertWg g u.wgs
    saved := u.saved.filter (fun y => y.wg.id != wg)
    images := u.images.filter (fun y => y.wg != wg)
    cmem := if one then giveBank g.core base g.cluster 1 x.bank u.cmem else u.cmem
    cpois := if one then giveBank g.core base g.cluster 16 x.bpois u.cpois else u.cpois }

theorem execResumption_restores {wg base : Nat} {x : SavedWg} {m : Image} (hu : s.unfocus = t)
    (hx : t.saved.find? (fun g => g.wg.id == wg) = some x) (hm : t.images.find? (fun m => m.wg == wg && m.preempted) = some m)
    (hb : t.resumable x.wg m.boxes = some base) (hf : t.slotFails x.wg m.boxes = none)
    (he : m.boxes.any (fun b => !b.wave.away && b.frags.any (fun f =>
      (t.fbEntryOf { x.wg with clusterBase := base, frozen := false } f).isNone)) = false) :
    execResumption wg s = .next ((m.boxes.foldl (State.resumeBox { x.wg with clusterBase := base, frozen := false })
      (t.readmit wg { x.wg with clusterBase := base, frozen := false } x base)).repost wg) := by
  subst hu
  simp only [execResumption, hx, hm, hb, hf, he]
  rfl

end SliceRules

/-- Settles O48: one event after another. -/
theorem fragmentEvents : Obligations.FragmentEvents := by
  unfold Obligations.FragmentEvents
  intro s t wave slot
  refine ⟨fun k r => execRejoinTimeout_merges, execWaitRetest_tests, fun w => execWaitPeriodicRetest_tests,
    fun core port w f v g => execPendingReadyReplace_swaps, rfl, rfl, fun load data p => execLoadDataReturn_lands,
    ?_, fun b hb ha => execDeepPark_parks hb ha, fun b => execWaveEviction_evicts, fun b priv pois => execWaveRestore_restores,
    ?_, ?_, ?_⟩
  · rintro load p b hp rfl hb
    exact execL2MissReport_waits hp hb
  · rintro vf ctx part hp cores ids hi ⟨x, hx⟩
    exact execTimeSliceEnd_freezes hp hi hx
  · intro vf ctx gs hu hg hs
    exact execPreemptionSave_saves hu hg hs
  · intro wg x m base hu hx hm hb hf g he
    exact execResumption_restores hu hx hm hb hf he

end Sys2Proof.Machine

/-! ### Events of queues, launches, dispatch and completion (R48, R55 to R59, R72, R442 to R444) -/

namespace Sys2Proof.Machine

section QueueRules

variable {s t : State} {vf ctx part : Nat}

theorem execDoorbellWrite_checks {widx : Word} (ho : s.openBar = true)
    (ht : (s.setBell vf ctx 0x00C widx.toNat).syncEmpty vf ctx = t) :
    execDoorbellWrite vf ctx widx s = .next (if t.queueOver vf ctx then t.haltQueue vf ctx 0x01 else t) := by
  subst ht
  simp only [execDoorbellWrite, ho, Bool.not_true, Bool.false_eq_true, if_false]

/-! A write to EN and LOG2N (R443). -/

/-- The LOG2N that holds after a write of `val`: it keeps its value while EN is 1. -/
def State.log2nAfter (s : State) (vf ctx : Nat) (val : Word) : Nat :=
  if s.queueOn vf ctx then s.log2n vf ctx else val.toNat % 32

/-- EN and LOG2N take a write. -/
def State.putEnable (s : State) (vf ctx : Nat) (val : Word) : State :=
  s.setBell vf ctx 0x008 (s.log2nAfter vf ctx val + if bitAt val.toNat 31 then 2 ^ 31 else 0)

/-- The queue after EN has been written to 1: from 0 it lets its watch go and HALT clears. -/
def State.enabled (s : State) (vf ctx : Nat) (val : Word) : State :=
  let u := s.putEnable vf ctx val
  if s.queueOn vf ctx then u
  else State.setBell { u with watches := u.watches.filter (fun w => w.wave != queueWatch vf ctx) } vf ctx 0x014
    (setField (u.bell vf ctx 0x014) 0 1 0)

/-- A context of a function that lies in a partition, and whose RCB is bound. -/
def State.ctxBound (s : State) (vf ctx : Nat) : Bool :=
  match s.partOfVf vf with
  | some i => (s.ctxRcb i vf ctx).isSome
  | none => false

theorem ctxBound_of_rcb (h : ∃ i, s.partOfVf vf = some i ∧ (s.ctxRcb i vf ctx).isSome = true) : s.ctxBound vf ctx = true := by
  obtain ⟨i, hi, hr⟩ := h
  simp only [State.ctxBound, hi, hr]

/-- The check of a queue's configuration under LOG2N `n` (R442 code 0x04). -/
def State.checkQueue (v : State) (vf ctx n : Nat) : State :=
  if n < 6 ∨ 16 < n ∨ v.s1root vf ctx = 0 ∨ !v.ctxBound vf ctx then v.haltQueue vf ctx 0x04 else v

theorem execQueueEnableWrite_eq (s : State) (vf ctx : Nat) (val : Word) : execQueueEnableWrite vf ctx val s =
    if !(s.putEnable vf ctx val).openBar then .next s
    else if bitAt val.toNat 31 then .next ((s.enabled vf ctx val).checkQueue vf ctx (s.log2nAfter vf ctx val))
    else .next (s.putEnable vf ctx val) := rfl

theorem putEnable_openBar (s : State) (vf ctx : Nat) (val : Word) : (s.putEnable vf ctx val).openBar = s.openBar := rfl

theorem execQueueEnableWrite_off {val : Word} (ho : s.openBar = true) (hv : bitAt val.toNat 31 = false) :
    execQueueEnableWrite vf ctx val s = .next (s.putEnable vf ctx val) := by
  simp only [execQueueEnableWrite_eq, putEnable_openBar, ho, hv, Bool.not_true, Bool.false_eq_true, if_false]

theorem execQueueEnableWrite_on {val : Word} (ho : s.openBar = true) (hv : bitAt val.toNat 31 = true) :
    execQueueEnableWrite vf ctx val s = .next ((s.enabled vf ctx val).checkQueue vf ctx (s.log2nAfter vf ctx val)) := by
  simp only [execQueueEnableWrite_eq, putEnable_openBar, ho, hv, Bool.not_true, Bool.false_eq_true, if_false, if_true]

theorem execQueueEnableWrite_passes {val : Word} (ho : s.openBar = true) (hv : bitAt val.toNat 31 = true)
    (hlo : 6 ≤ s.log2nAfter vf ctx val) (hhi : s.log2nAfter vf ctx val ≤ 16) (hroot : (s.enabled vf ctx val).s1root vf ctx ≠ 0)
    (hbound : (s.enabled vf ctx val).ctxBound vf ctx = true) :
    execQueueEnableWrite vf ctx val s = .next (s.enabled vf ctx val) := by
  rw [execQueueEnableWrite_on ho hv]
  refine congrArg _ (if_neg ?_)
  rw [hbound]
  rintro (h | h | h | h)
  · omega
  · omega
  · exact hroot h
  · exact absurd h (by decide)

theorem execQueueEnableWrite_halts {val : Word} (ho : s.openBar = true) (hv : bitAt val.toNat 31 = true)
    (hbad : s.log2nAfter vf ctx val < 6 ∨ 16 < s.log2nAfter vf ctx val ∨ (s.enabled vf ctx val).s1root vf ctx = 0) :
    execQueueEnableWrite vf ctx val s = .next ((s.enabled vf ctx val).haltQueue vf ctx 0x04) := by
  rw [execQueueEnableWrite_on ho hv]
  refine congrArg _ (if_pos ?_)
  tauto

/-! The look at a queue's next entry (R56). -/

/-- An entry that is good, that no key slot holds, and whose wait and order are met is released. -/
theorem execQueueEntryRelease_releases {who : Who} {i place rcb wait val : Nat} {serial : Bool} {u v : State}
    (hpart : s.partOfVf vf = some part) (hwho : ctxWho part vf ctx = who) (hi : s.ridx vf ctx = i)
    (hplace : s.queueBase vf ctx + 32 * (i % 2 ^ s.log2n vf ctx) = place) (hlive : s.queueLive who = true)
    (hwatch : s.watches.any (fun w => w.wave == queueWatch vf ctx && !w.woken) = false)
    (hread : s.ctxHeld who place 32 .read = false)
    (ht : { s with watches := s.watches.filter (fun w => w.wave != queueWatch vf ctx) } = t)
    (hover : t.queueOver vf ctx = false) (hentry : t.queueEntry who i = .good rcb wait val serial)
    (hu : t.seen who 0 place 32 .read = u) (hv : (if wait = 0 then u else u.seen who 0 wait 4 .read) = v)
    (hheld : u.launchHeld who rcb = false)
    (hwait : wait ≠ 0 → u.ctxHeld who wait 4 .read = false ∧ val ≤ (u.vaNat who wait 4).getD 0)
    (hserial : serial = true → v.serialHeld vf ctx i = false) :
    execQueueEntryRelease vf ctx s = .next (v.release who rcb i) := by
  have hlook : (!s.queueLive who || s.watches.any (fun w => w.wave == queueWatch vf ctx && !w.woken) ||
      s.ctxHeld who place 32 .read) = false := by rw [hlive, hwatch, hread]; rfl
  have hfree : (u.launchHeld who rcb || (decide (wait ≠ 0) && u.ctxHeld who wait 4 .read)) = false := by
    by_cases h : wait = 0
    · simp [hheld, h]
    · simp [hheld, (hwait h).1]
  have hnow : ¬(if wait = 0 then val else (u.vaNat who wait 4).getD 0) < val := by
    by_cases h : wait = 0
    · simp [h]
    · simpa [h] using (hwait h).2
  have horder : (serial && v.serialHeld vf ctx i) = false := by
    cases serial with
    | false => rfl
    | true => simpa using hserial rfl
  simp only [execQueueEntryRelease, hpart, hwho, hi, hplace, hlook, ht, hover, hentry, hu, hv, hfree, hnow, horder,
    Bool.false_eq_true, if_false]

/-! Dispatch and completion (R48, R59, R405). -/

theorem execWorkgroupDispatch_starts {c : Cand} {core : Nat} (hen : s.partEn part = true) (hu : s.unfocus = t)
    (hf : (t.candidates part).findSome? (fun c => c.fail.map (fun e => (c, e))) = none)
    (hc : t.firstStart (t.candidates part) [] = some (c, core)) :
    execWorkgroupDispatch part s = .next (t.startCand c core) := by
  simp only [execWorkgroupDispatch, hen, hu, hf, hc, Bool.not_true, Bool.false_eq_true, if_false]

theorem execWorkgroupComplete_ends {wg : Nat} {g : Workgroup} (hu : s.unfocus = t)
    (hg : t.wgs.find? (fun g => g.id == wg) = some g) (hd : t.groupDone g = true) :
    execWorkgroupComplete wg s = .next (t.endGroup g g.statOr g.statMax g.nzLanes false) := by
  simp only [execWorkgroupComplete, hu, hg, hd, if_true]

theorem execCtxBindWrite_binds {val : BitVec 64} (hq : s.queueOn vf ctx = false) (ho : s.openBar = true) :
    execCtxBindWrite part vf ctx val s = .next (s.setReg64 (blockOff part (0x30000 + 8 * (256 * vf + ctx)))
      (field val.toNat 8 44 * 256 + if bitAt val.toNat 63 then 2 ^ 63 else 0)) := by
  simp only [execCtxBindWrite, hq, ho, Bool.false_eq_true, Bool.not_true, or_self, if_false]

end QueueRules

/-- Settles O49: one event after another. -/
theorem queueEvents : Obligations.QueueEvents := by
  unfold Obligations.QueueEvents
  intro s t vf ctx part
  refine ⟨fun widx => execDoorbellWrite_checks, fun val ho => ?_, ?_, fun launch => rfl,
    fun c core => execWorkgroupDispatch_starts, fun wg g => execWorkgroupComplete_ends, fun val => execCtxBindWrite_binds⟩
  · exact ⟨execQueueEnableWrite_off ho,
      fun hv hlo hhi hroot hbound => execQueueEnableWrite_passes ho hv hlo hhi hroot (ctxBound_of_rcb hbound),
      execQueueEnableWrite_halts ho⟩
  · intro rcb wait val serial hpart hlive hwatch who i place hread ht hover hentry u v hheld hwait hserial
    exact execQueueEntryRelease_releases hpart rfl rfl rfl hlive hwatch hread ht hover hentry rfl rfl hheld hwait hserial

end Sys2Proof.Machine

/-! ### Flashback points, power-on and the step (R55, R62 to R64, R69, R159, R196, R368, R373, R393, R512)

What follows settles the statements of chapter 3 of the spec: what fpt leaves, what the device reads as after power-on, and
what each turn of a step does. -/

namespace Sys2Proof.Machine

/-! fpt (R69, R196). -/

/-- A unit of any kind whose words are in order and whose only condition is `c` takes the trap of `c`. -/
theorem issueK_trap_one {s : State} {k : UnitKind} {c : Cond} {eff : State → State} (hw : s.wordsOk k) :
    ∃ c' : Cond, c'.code = c.code ∧ c'.lanes = c.lanes ∧ s.issueK k [c] eff = .next (s.takeTrap s.exec c') := by
  obtain ⟨c', hr, hcode, hlanes⟩ := raised_singleton c
  refine ⟨c', hcode, hlanes, issueK_trap ?_⟩
  rw [State.judged, show s.unitConds k = [] from hw, List.nil_append, hr]

/-- Writing `g` at every key of a list: those keys read `g`, the others what they read before. -/
theorem SMap.get_foldl_set {α : Type} [DecidableEq α] (d : α) (g : Nat → α) (l : Nat) (ls : List Nat) (m : SMap α) :
    SMap.get d l (ls.foldl (fun m k => SMap.set d k (g k) m) m) = if l ∈ ls then g l else SMap.get d l m := by
  induction ls generalizing m with
  | nil => simp
  | cons k ls ih =>
    rw [List.foldl_cons, ih]
    by_cases hk : l = k
    · subst hk; simp
    · simp [hk, SMap.get_set_other d hk]

/-- The focused fragment's flashback point moves to where the fragment goes on, with entry `k` and the generators of its lanes
as the anchor (R69). -/
def State.flashAt (t : State) (k : Nat) : State :=
  { t with frag := { t.frag with
    fbPc := t.frag.pc, fbEntry := some k
    shadow := (lanesOf t.frag.mask).foldl (fun m l => SMap.set 0 l (t.gen l) m) t.frag.shadow } }

theorem flashAt_shadow (t : State) (k l : Nat) : SMap.get 0 l (t.flashAt k).frag.shadow =
    if l ∈ lanesOf t.frag.mask then t.gen l else SMap.get 0 l t.frag.shadow :=
  SMap.get_foldl_set 0 t.gen l (lanesOf t.frag.mask) t.frag.shadow

theorem execFpt_moves {k : BitVec 16} {s : State} (hw : s.wordsOk .fpt) (hx : s.wave.hx = none) (hk : k.toNat < s.wg.fbCount) :
    execFpt k s = .next ((s.retire .fpt).flashAt k.toNat) := by
  have hin : decide (s.wg.fbCount ≤ k.toNat) = false := by simpa using hk
  have hhx : (s.retire .fpt).wave.hx.isSome = false := by rw [State.retire_wave, hx]; rfl
  rw [execFpt, issueK_next hw (by rw [hin, Bool.and_false]; rfl), hhx]
  rfl

theorem execFpt_inside {k : BitVec 16} {s : State} (hw : s.wordsOk .fpt) (hx : s.wave.hx.isSome = true) :
    execFpt k s = .next (s.retire .fpt) := by
  have hnone : s.wave.hx.isNone = false := by rw [← Option.not_isSome, hx]; rfl
  have hhx : (s.retire .fpt).wave.hx.isSome = true := by rw [State.retire_wave]; exact hx
  rw [execFpt, issueK_next hw (by rw [hnone, Bool.false_and]; rfl), if_pos hhx]

theorem execFpt_traps {k : BitVec 16} {s : State} (hw : s.wordsOk .fpt) (hx : s.wave.hx = none)
    (hk : s.wg.fbCount ≤ k.toNat) (hm : s.frag.mask ≠ 0) :
    ∃ c : Cond, c.code = 0x0C ∧ c.lanes = s.frag.mask ∧ execFpt k s = .next (s.takeTrap s.exec c) := by
  have hout : (s.wave.hx.isNone && decide (s.wg.fbCount ≤ k.toNat)) = true := by simp [hx, hk]
  have hcond : laneCond 0x0C s.frag.mask = [{ code := 0x0C, lanes := s.frag.mask }] := if_neg hm
  rw [execFpt, hout, if_pos rfl, hcond]
  exact issueK_trap_one (c := { code := 0x0C, lanes := s.frag.mask }) hw

/-- Settles O21: outside a handler an entry of the table is taken or the unit traps; inside one nothing is left to do. -/
theorem flashbackPoint : Obligations.FlashbackPoint := by
  unfold Obligations.FlashbackPoint
  intro k s hw
  refine ⟨fun hx hk => ⟨_, execFpt_moves hw hx hk, rfl, fun l _ => ?_⟩, fun hx => execFpt_inside hw hx,
    fun hx hk hm => execFpt_traps hw hx hk hm⟩
  rw [flashAt_shadow, State.retire_frag_mask, State.retire_gen, State.retire_frag_shadow]

/-! What power-on leaves: registers hold their reset values, and no place of memory has been written. -/

theorem reset_reg (off : Nat) : State.reset.reg off = regReset off := BitVec.zero_xor

theorem reset_preg {i off : Nat} (h : off < 0x100000) : State.reset.preg i off = partReset off % 2 ^ 32 := by
  have hblock : ¬ blockOff i off < 0x100000 := by unfold blockOff; omega
  have hoff : blockOff i off % 0x100000 = off := by unfold blockOff; omega
  rw [State.preg, reset_reg, regReset, if_neg hblock, hoff, BitVec.toNat_ofNat]

theorem reset_bell (f c off : Nat) : State.reset.bell f c off = (dbellReset off).toNat :=
  congrArg BitVec.toNat BitVec.zero_xor

theorem reset_partEn (i : Nat) : State.reset.partEn i = false := by
  rw [State.partEn, reset_preg (by decide)]; rfl

theorem reset_partN (i : Nat) : State.reset.partN i = 0 := by
  rw [State.partN, reset_preg (by decide)]; rfl

theorem reset_partJ (i : Nat) : State.reset.partJ i = 40 * 2 ^ 30 := by
  rw [State.partJ, reset_preg (by decide)]; rfl

theorem reset_partK (i : Nat) : State.reset.partK i = 8 * 2 ^ 30 := by
  rw [State.partK, reset_preg (by decide)]; rfl

theorem partReset_vfCtl {f : Nat} (hf : f < 64) : partReset (0x6000 + 16 * f) = 0 := by
  unfold partReset
  rw [if_neg (by omega), if_neg (by omega), if_neg (by omega), if_neg (by omega)]

theorem reset_vfEn (i : Nat) {f : Nat} (hf : f < 64) : State.reset.vfEn i f = false := by
  rw [State.vfEn, reset_preg (by omega), partReset_vfCtl hf]; rfl

theorem reset_keyCtl {k : Nat} (hk : k < 64) : State.reset.reg (0x1000 + 4 * k) = if k = 0 then 3 else 0 := by
  rw [reset_reg, regReset, if_pos (by omega), rootReset]
  by_cases h : k = 0
  · rw [if_pos (by omega), if_pos h]; rfl
  · rw [if_neg (by omega), if_neg (by omega), if_neg (by omega), if_neg h]; rfl

theorem reset_keyMode {k : Nat} (hk : k < 64) : State.reset.keyMode k = if k = 0 then 3 else 0 := by
  rw [State.keyMode, reset_keyCtl hk]
  split <;> rfl

theorem reset_keyBusyBit {k : Nat} (hk : k < 64) : State.reset.keyBusyBit k = false := by
  rw [State.keyBusyBit, reset_keyCtl hk]
  split <;> rfl

/-- A place that is in no map reads as the map's default. -/
theorem SMap.getList_nil {α : Type} (d : α) (k n : Nat) : SMap.getList d k n [] = List.replicate n d := by
  rw [SMap.getList, show (fun i => SMap.get d (k + i) []) = fun _ => d from rfl, List.map_const', List.length_range]

/-- A sector that was never written reads as zero, its granule scrubbed or not (R512). -/
theorem reset_sectorBytes (k sec : Nat) : State.reset.sectorBytes k sec = List.replicate 16 0 := by
  unfold State.sectorBytes
  split
  · rfl
  · rw [if_pos (.inr (.inl rfl))]
    exact SMap.getList_nil 0 (16 * sec) 16

theorem reset_sectorBad (sec : Nat) : State.reset.sectorBad sec = false := Bool.and_false _

theorem reset_placeBytes (k p n : Nat) : State.reset.placeBytes k p n = List.replicate n 0 := by
  have hlen : n ≤ (p % 16 + n + 15) / 16 * 16 - p % 16 := by omega
  simp only [State.placeBytes, reset_sectorBytes, List.flatMap_def, List.map_const', List.length_range,
    List.flatten_replicate_replicate, List.drop_replicate, List.take_replicate, Nat.min_eq_left hlen]

theorem reset_placeBad (p n : Nat) : State.reset.placeBad p n = false := by
  simp only [State.placeBad, reset_sectorBad, List.any_eq_false, Bool.false_eq_true, not_false_eq_true, implies_true]

/-- Settles O56: the fields hold nothing, and every register reads its reset value. -/
theorem resetValues : Obligations.ResetValues := by
  unfold Obligations.ResetValues
  intro s
  refine ⟨rfl, rfl, rfl, rfl, rfl, rfl, rfl, rfl, fun k p n => ⟨reset_placeBytes k p n, reset_placeBad p n⟩, ?_, ?_,
    fun i _ => ⟨reset_partEn i, reset_partN i, reset_partJ i, reset_partK i⟩, fun i f _ hf => reset_vfEn i hf,
    fun k hk => ⟨reset_keyMode hk, reset_keyBusyBit hk⟩, fun f c => ⟨reset_bell f c _, reset_bell f c _, fun off h => ?_⟩⟩
  · rw [State.bootState, reset_reg]; rfl
  · rw [State.openBar, State.bootState, reset_reg]; rfl
  · rw [reset_bell]
    rcases h with rfl | rfl | rfl | rfl <;> rfl

/-! What the decoder makes of a word, and the unit's next step (R62, R159, R460, R464 to R468). -/

section UnitRules

variable {s u : State} {w : Word}

/-- The unit's record holds the word that has been fetched. -/
def State.withWord (s : State) (w : Word) : State := { s with iss := { s.iss with word := w } }

theorem withWord_version (s : State) (w : Word) : (s.withWord w).version = s.version := rfl

theorem formed_ok {i : Instr} (h : decodeVersion s.version w = .ok i) : s.formed w = (i, s.withWord w) := by
  rw [← withWord_version s w] at h
  simp only [State.formed, ← State.withWord.eq_def, h]

theorem formed_reservedField {i : Instr} (h : decodeVersion s.version w = .reservedField i) :
    s.formed w = (i, { s.withWord w with iss := { (s.withWord w).iss with resv := true } }) := by
  rw [← withWord_version s w] at h
  simp only [State.formed, ← State.withWord.eq_def, h]
  rfl

theorem formed_unassigned (h : decodeVersion s.version w = .unassigned) :
    s.formed w = (.unassignedOpcode w, s.withWord w) := by
  rw [← withWord_version s w] at h
  simp only [State.formed, ← State.withWord.eq_def, h]

theorem stepUnit_runs (hf : u.fetch = .ok (some w)) (ha : (u.codeSeen u.wAddr).awaits w = []) :
    stepUnit u = exec ((u.codeSeen u.wAddr).formed w).1 ((u.codeSeen u.wAddr).formed w).2 := by
  simp only [stepUnit, hf, ha, List.isEmpty_nil, if_true]

theorem stepUnit_awaits (hf : u.fetch = .ok (some w)) (ha : (u.codeSeen u.wAddr).awaits w ≠ []) :
    stepUnit u = .next ((u.codeSeen u.wAddr).awaitLoads ((u.codeSeen u.wAddr).awaits w)) := by
  simp only [stepUnit, hf, List.isEmpty_iff, if_neg ha]

theorem stepUnit_held (hf : u.fetch = .ok none) : stepUnit u = .next u.parkAgain := by
  simp only [stepUnit, hf]

theorem stepUnit_unfetched {e : XFail} (hf : u.fetch = .error e) : stepUnit u = .next (u.fetchTrap u.wAddr e) := by
  simp only [stepUnit, hf]

end UnitRules

/-! Whose turn it is (R61 to R64, R169, R504). -/

section TurnRules

variable {s u : State} {core port : Nat}

theorem stepPort_issues (h : s.select core port = some u) : stepPort core port s = stepUnit u := by
  simp only [stepPort, h]

theorem stepPort_idle (h : s.select core port = none) :
    stepPort core port s = .next ((State.settlePort core port 65 s).cycle core) := by
  simp only [stepPort, h]

theorem stepAlone_issues (h : s.nextIssue = some u) : stepAlone s = stepUnit u := by
  simp only [stepAlone, h]

theorem stepAlone_device (h : s.nextIssue = none) : stepAlone s = .next (deviceTurn s) := by
  simp only [stepAlone, h]

theorem step_unpowered (h : s.canStep = false) : step s = .fault .unpowered := by
  simp only [step, h, Bool.not_false, if_true]

variable (hc : s.canStep = true)
include hc

theorem step_unit (hf : s.focus = true) (hn : s.iss.n ≠ 0) : step s = ended (State.turnOver s.aclk) (stepUnit s) := by
  simp [step, hc, hf, hn]

/-! A step that finds no unit half formed takes the first turn of the agenda. -/

variable (hidle : (s.focus && decide (s.iss.n ≠ 0)) = false)
include hidle

theorem step_port {rest : List Turn} (ha : s.agenda = .issue core port :: rest) :
    step s = ended (State.turnOver s.aclk) (stepPort core port { s with agenda := rest }) := by
  simp only [step, hc, hidle, ha, Bool.not_true, Bool.false_eq_true, if_false]

theorem step_event {dt us : Nat} {ev : Instr} {rest : List Turn} (ha : s.agenda = .event dt us ev :: rest) :
    step s = ended State.tidied (stepEvent ev (State.passUs us (State.pass { s with agenda := rest } dt))) := by
  simp only [step, hc, hidle, ha, Bool.not_true, Bool.false_eq_true, if_false]

theorem step_chance {dt us : Nat} {c : Chance} {rest : List Turn} (ha : s.agenda = .chance dt us c :: rest) :
    step s = .next (((State.passUs us (State.pass { s with agenda := rest } dt)).befall c).tidied) := by
  simp only [step, hc, hidle, ha, Bool.not_true, Bool.false_eq_true, if_false]

theorem step_alone (ha : s.agenda = []) : step s = ended (State.turnOver s.aclk) (stepAlone s) := by
  simp only [step, hc, hidle, ha, Bool.not_true, Bool.false_eq_true, if_false]

end TurnRules

/-- Settles O59, by what the step finds: a unit half formed, or the first entry of the agenda. -/
theorem stepRunsDecoded : Obligations.StepRunsDecoded := by
  unfold Obligations.StepRunsDecoded
  intro s turn later
  refine ⟨step_unpowered, fun hc => ⟨fun u w hf => ⟨fun ha => ?_, stepUnit_awaits hf⟩, fun u => stepUnit_held,
    fun u e => stepUnit_unfetched, step_unit hc, fun hnone => ?_⟩⟩
  · rw [stepUnit_runs hf ha]
    exact ⟨fun i h => by rw [formed_ok h]; rfl, fun i h => by rw [formed_reservedField h]; rfl,
      fun h => by rw [formed_unassigned h]; rfl⟩
  · have hidle : (s.focus && decide (s.iss.n ≠ 0)) = false := by
      rcases hnone with h | h <;> simp [h]
    refine ⟨fun core port rest ha => ⟨fun u h => ?_, fun h => ?_⟩, fun dt us ev rest => step_event hc hidle,
      fun dt us c rest => step_chance hc hidle, fun ha => ⟨fun u h => ?_, fun h => ?_⟩⟩
    · rw [step_port hc hidle ha, stepPort_issues h]
    · rw [step_port hc hidle ha, stepPort_idle h]
    · rw [step_alone hc hidle ha, stepAlone_issues h]
    · rw [step_alone hc hidle ha, stepAlone_device h]

end Sys2Proof.Machine

/-! ### Loads and stores (R73, R76, R92, R108, R117, R174, R272 to R275)

A rule for each shared form, and for each kind of access what it does to the state; then the statements. -/

namespace Sys2Proof.Machine

/-! Loads (R92, R117, R272 to R275). -/

theorem addrConds_nil {s : State} {pair : Bool} {b : Fin 32} {x : Operand} (hp : pair = true → b.val % 2 = 0)
    (hx : s.srcBad 1 x = false) : s.addrConds pair b x = [] := by
  cases pair <;> simp [State.addrConds, encCond_nil, hx, hp]

/-- Where an access lands says which peer answers it. -/
theorem peerOf_spot {s : State} {i j : Item} (h : j.spot = i.spot) : s.peerOf j = s.peerOf i := by
  simp only [State.peerOf, State.peerSpot, h]

/-- Sharing a unit's accesses among its lanes moves none of them. -/
theorem sharedItems_from {s : State} {is : List Item} {j : Item} (h : j ∈ s.sharedItems is) :
    ∃ i ∈ is, j.lane = i.lane ∧ j.spot = i.spot := by
  obtain ⟨i, hi, rfl⟩ := List.mem_map.mp h
  exact ⟨i, hi, rfl, rfl⟩

theorem sharedItems_lanes (s : State) (is : List Item) : (s.sharedItems is).map (·.lane) = is.map (·.lane) := by
  rw [State.sharedItems, List.map_map]
  rfl

/-- A load of this device's memory alone reads its accesses in order and writes the lanes at once. -/
theorem loadItems_near {t : State} {d : Operand} {w : Width} {is : List Item} (h : ∀ i ∈ is, t.peerOf i = none) :
    State.loadItems d w is t = (readItems is (t.meetLoads is)).2.writeLanes d w.regs
      ((readItems is (t.meetLoads is)).1.map (fun v => (v.1, { v := w.value v.2.1 v.2.2, pois := v.2.2 : LaneOut }))) := by
  have hfar : is.filter (fun i => (t.peerOf i).isSome) = [] := List.filter_eq_nil_iff.mpr (fun i hi => by simp [h i hi])
  have hnear : is.filter (fun i => (t.peerOf i).isNone) = is := List.filter_eq_self.mpr (fun i hi => by simp [h i hi])
  simp only [State.loadItems, hfar, hnear, List.foldl_nil, State.takeLanes, List.isEmpty_nil, if_true]

/-- Reads that a scalar destination takes are not poisoned, or a peer gives them. -/
def State.ReadsClean (s : State) (d : Operand) (is : List Item) : Prop :=
  ∀ i ∈ is, d.isV = true ∨ (s.peerOf i).isSome = true ∨ (s.readItem i).1.2 = false

/-- A load whose lanes' accesses `is` are in order has them made (R272). -/
theorem loadUnit_next {s : State} {d : Operand} {cs : List Cond} {sp : Space} {addr : Nat → Nat} {w : Width}
    {srcs : List (Nat × Operand)} {is : List Item} (hd : dstBad w.regs d = false) (hc : cs = [])
    (hsrcs : ∀ x ∈ srcs, ∀ l ∈ lanesOf s.exec, s.srcPois x.1 x.2 l = false) (hclean : s.ReadsClean d is)
    (ha : s.accesses ((runLanes d s.exec).map (fun l => s.judgeLane sp .read w.bytes l (addr l) w.bytes)) is) :
    s.loadUnit d cs sp addr w srcs = .next (State.loadItems d w (s.sharedItems is) (s.begun is)) := by
  obtain ⟨hw, hr, hheld⟩ := ha
  have hpois : (if d.isV then [] else laneCond 0x0A (maskOf (((judgeAll (is.map .ok)).2.filter
      (fun i => (s.peerOf i).isNone && (s.readItem i).1.2)).map (·.lane))) 0 d.code) = [] := by
    split
    · rfl
    · next hv =>
      have hnone : is.filter (fun i => (s.peerOf i).isNone && (s.readItem i).1.2) = [] := by
        refine List.filter_eq_nil_iff.mpr (fun i hi => ?_)
        rcases hclean i hi with h | h | h
        · exact absurd h hv
        · simp [Option.isSome_iff_ne_none.mp h]
        · simp [h]
      rw [judgeAll_ok, hnone]
      rfl
  rw [← hr] at hpois
  refine issueMet_next hw ?_ hr hheld
  rw [hpois, hc, cleanCond_nil hsrcs, encCond_nil.mpr hd]
  rfl

/-- What a load gives: its accesses are made, and where no peer answers the lanes take their values (R92, R117, R272). -/
def State.LoadGives (s : State) (r : Host.Outcome State Fault Refusal) (d : Operand) (w : Width) (is : List Item) : Prop :=
  let js := s.sharedItems is
  let reads := readItems js ((s.begun is).meetLoads js)
  r = .next (State.loadItems d w js (s.begun is)) ∧
  ((∀ i ∈ is, (s.begun is).peerOf i = none) →
    r = .next (reads.2.writeLanes d w.regs
      (reads.1.map (fun v => (v.1, { v := w.value v.2.1 v.2.2, pois := v.2.2 : LaneOut })))))

theorem loadGives_of_next {s : State} {r : Host.Outcome State Fault Refusal} {d : Operand} {w : Width} {is : List Item}
    (h : r = .next (State.loadItems d w (s.sharedItems is) (s.begun is))) : s.LoadGives r d w is := by
  refine ⟨h, fun hnear => h.trans (congrArg _ (loadItems_near (fun j hj => ?_)))⟩
  obtain ⟨i, hi, -, hspot⟩ := sharedItems_from hj
  exact (peerOf_spot hspot).trans (hnear i hi)

/-- Settles O29: every form is the shared load, with no condition left. -/
theorem loads : Obligations.Loads := by
  unfold Obligations.Loads
  intro d x w b is s hx hpx hclean
  have hone : ∀ y ∈ [(1, x)], ∀ l ∈ lanesOf s.exec, s.srcPois y.1 y.2 l = false := by simpa using hpx
  refine ⟨fun hw => ⟨fun y hy hpair hd ha => ?_, fun hb hvb hd ha => ?_⟩, fun hw het hpair hd ha => ?_⟩
  · have hexec : exec y.1 s = s.ld y.2 d w b x := by
      simp only [List.mem_cons, List.not_mem_nil, or_false] at hy
      rcases hy with rfl | rfl | rfl | rfl | rfl <;> rfl
    have hcond : s.encCond (decide (w.val = 7)) 0x01 ++ s.addrConds y.2.pair b x = [] := by
      rw [addrConds_nil hpair hx, encCond_nil.mpr (decide_eq_false hw), List.nil_append]
    exact loadGives_of_next (hexec.trans (loadUnit_next hd hcond hone hclean ha))
  · have hcond : s.encCond (decide (w.val = 7)) 0x01 ++ s.addrConds true b x = [] := by
      rw [addrConds_nil (fun _ => hb) hx, encCond_nil.mpr (decide_eq_false hw), List.nil_append]
    have hboth : ∀ y ∈ [(1, x), (2, vecBase b)], ∀ l ∈ lanesOf s.exec, s.srcPois y.1 y.2 l = false := by
      simpa using ⟨hpx, hvb⟩
    exact loadGives_of_next (loadUnit_next hd hcond hboth hclean ha)
  · have hcond : s.ivlMemConds w b x = [] := by
      have hcode : (decide (4 < w.val) || !(s.et == 6 || s.et == 7)) = false := by
        rcases het with h | h <;> simp [h] <;> omega
      rw [State.ivlMemConds, addrConds_nil hpair hx, encCond_nil.mpr hcode, List.nil_append]
    exact loadGives_of_next (loadUnit_next hd hcond hone hclean ha)

/-! Bytes in memory. -/

@[simp] theorem length_bytesOf (n v : Nat) : (bytesOf n v).length = n := by
  induction n generalizing v with
  | zero => rfl
  | succ n ih => rw [bytesOf, List.length_cons, ih]

/-- Memory after the `n` bytes of a number have been written at `off`. -/
theorem SMap.get_setList_bytesOf (off n v a : Nat) (m : SMap Byte) :
    SMap.get 0 a (SMap.setList 0 off (bytesOf n v) m) =
      if off ≤ a ∧ a < off + n then BitVec.ofNat 8 (v / 2 ^ (8 * (a - off))) else SMap.get 0 a m := by
  induction n generalizing off v m with
  | zero => rw [if_neg (by omega)]; rfl
  | succ n ih =>
    rw [bytesOf, SMap.setList, ih]
    by_cases hfirst : a = off
    · subst hfirst
      rw [if_neg (by omega), if_pos (by omega), SMap.get_set_same, Nat.sub_self, Nat.mul_zero, Nat.pow_zero, Nat.div_one]
    · rw [SMap.get_set_other 0 hfirst]
      have hin : (off + 1 ≤ a ∧ a < off + 1 + n) ↔ (off ≤ a ∧ a < off + (n + 1)) := by omega
      simp only [hin]
      split
      · have hexp : 8 * (a - off) = 8 + 8 * (a - (off + 1)) := by omega
        rw [Nat.div_div_eq_div_mul, hexp, Nat.pow_add]
      · rfl

/-- A write inside one sector of an on-core memory writes its bytes. -/
theorem coreWrite_within {fuel p : Nat} {bs : List Byte} {m : SMap Byte × SMap Bool} (hlen : p % 16 + bs.length ≤ 16) :
    (coreWrite (fuel + 2) p bs m).1 = SMap.setList 0 p bs m.1 := by
  cases bs with
  | nil => rfl
  | cons b bs =>
    have hn : min (b :: bs).length (16 - p % 16) = (b :: bs).length := by omega
    simp only [coreWrite, hn, List.take_length, List.drop_length, List.isEmpty_nil, List.isEmpty_cons, Bool.false_eq_true,
      if_true, if_false, coreSector, Nat.div_add_mod]

/-- The focused workgroup is found by its number. -/
theorem insertWg_find {g : Workgroup} {gs : List Workgroup} (h : ∀ x ∈ gs, x.id ≠ g.id) :
    (insertWg g gs).find? (fun x => x.id == g.id) = some g := by
  induction gs with
  | nil => simp [insertWg]
  | cons x gs ih =>
    have hx : x.id ≠ g.id := h x (by simp)
    rw [insertWg]
    split
    · simp
    · rw [List.find?_cons_of_neg (by simpa using hx)]
      exact ih (fun y hy => h y (by simp [hy]))

theorem group_focused {s : State} (hf : s.focus = true) (hg : ∀ g ∈ s.wgs, g.id ≠ s.wg.id) :
    s.group s.wg.id = some s.wg := by
  rw [State.group, State.groups, if_pos hf]
  exact insertWg_find hg

theorem modGroup_focused {s : State} (hf : s.focus = true) (f : Workgroup → Workgroup) :
    s.modGroup s.wg.id f = { s with wg := f s.wg } := by
  simp only [State.modGroup, hf, beq_self_eq_true, Bool.and_self, if_true]

/-! Stores to local memory (R73, R76, R108, R272). -/

/-- What a store to local memory leaves as it is. -/
structure State.SameButLocal (s t : State) : Prop where
  focus : t.focus = s.focus
  mem : t.mem = s.mem
  wgs : t.wgs = s.wgs
  others : t.others = s.others
  wave : t.wave = s.wave
  wgId : t.wg.id = s.wg.id

theorem State.SameButLocal.refl (s : State) : s.SameButLocal s := ⟨rfl, rfl, rfl, rfl, rfl, rfl⟩

theorem State.SameButLocal.trans {s t u : State} (h : s.SameButLocal t) (k : t.SameButLocal u) : s.SameButLocal u :=
  ⟨k.focus.trans h.focus, k.mem.trans h.mem, k.wgs.trans h.wgs, k.others.trans h.others, k.wave.trans h.wave,
    k.wgId.trans h.wgId⟩

/-- A store inside one sector of local memory writes its bytes there, and touches nothing else. -/
theorem writeItem_local {s : State} {i : Item} {off : Nat} {bs : List Byte} (hi : i.spot = .scratch off)
    (hf : s.focus = true) (hg : ∀ g ∈ s.wgs, g.id ≠ s.wg.id) (hlen : off % 16 + bs.length ≤ 16) :
    s.SameButLocal (s.writeItem i bs) ∧ (s.writeItem i bs).wg.lmem = SMap.setList 0 off bs s.wg.lmem := by
  simp only [State.writeItem, State.writeItemAt, hi, State.putLocal, group_focused hf hg, modGroup_focused hf,
    State.setItemLease]
  exact ⟨⟨rfl, rfl, rfl, rfl, rfl, rfl⟩, coreWrite_within hlen⟩

/-- Stores lane by lane, each inside one sector of local memory: a byte that they cover is that of the last, and nothing
else changes. -/
theorem foldl_writeItem_local {s : State} {addr data : Nat → Nat} {n : Nat} {js : List Item}
    (hjs : ∀ j ∈ js, j.spot = .scratch (addr j.lane) ∧ addr j.lane % 16 + n ≤ 16) (hf : s.focus = true)
    (hg : ∀ g ∈ s.wgs, g.id ≠ s.wg.id) :
    let t := js.foldl (fun t j => t.writeItem j (bytesOf n (data j.lane))) s
    s.SameButLocal t ∧ ∀ a, SMap.get 0 a t.wg.lmem = js.foldl (fun v j =>
      if addr j.lane ≤ a ∧ a < addr j.lane + n then BitVec.ofNat 8 (data j.lane / 2 ^ (8 * (a - addr j.lane))) else v)
      (SMap.get 0 a s.wg.lmem) := by
  induction js generalizing s with
  | nil => exact ⟨.refl s, fun a => rfl⟩
  | cons j js ih =>
    obtain ⟨hspot, hlen⟩ := hjs j (by simp)
    obtain ⟨hsame, hmem⟩ := writeItem_local (bs := bytesOf n (data j.lane)) hspot hf hg (by rwa [length_bytesOf])
    obtain ⟨hrest, hbytes⟩ := ih (fun x hx => hjs x (by simp [hx])) (hsame.focus.trans hf)
      (by rw [hsame.wgs, hsame.wgId]; exact hg)
    refine ⟨hsame.trans hrest, fun a => ?_⟩
    rw [List.foldl_cons, hbytes a, hmem, SMap.get_setList_bytesOf]
    rfl

/-- A store whose lanes' accesses `is` are in order performs them (R272). -/
theorem storeUnit_next {s : State} {cs : List Cond} {sp : Space} {addr data : Nat → Nat} {w : Width} {d : Operand}
    {srcs : List (Nat × Operand)} {is : List Item} (hd : s.srcBad w.regs d = false) (hc : cs = [])
    (hsrcs : ∀ x ∈ (w.regs, d) :: srcs, ∀ l ∈ lanesOf s.exec, s.srcPois x.1 x.2 l = false)
    (ha : s.accesses ((runLanes d s.exec).map (fun l => s.judgeLane sp .write w.bytes l (addr l) w.bytes)) is) :
    s.storeUnit cs sp addr data w d srcs =
      .next (State.storeItems (fun l => bytesOf w.bytes (data l)) (s.sharedItems is) (s.begun is)) := by
  obtain ⟨hw, hr, hheld⟩ := ha
  refine issueItems_next hw ?_ hr hheld
  rw [hc, cleanCond_nil hsrcs, encCond_nil.mpr hd]
  rfl

/-- The access of lane `l` to `n` bytes of local memory at `a`. -/
def localItem (acc : Access) (n l a : Nat) : Item :=
  { lane := l, addr := a, n := n, spot := .scratch a, write := acc == .write }

theorem judgeLane_local {s : State} {acc : Access} {al l a n : Nat} (ha : a % al = 0) (hb : a + n ≤ s.wg.localBytes) :
    s.judgeLane .l acc al l a n = .ok (localItem acc n l a) := by
  simp only [State.judgeLane, ha, ne_eq, not_true, if_false, hb, if_true]
  rfl

/-- Accesses to local memory ask no home of device memory. -/
theorem askUnit_local {s : State} {need : Nat → Nat → Nat} {addr : Nat → Nat} {is : List Item}
    (h : ∀ i ∈ is, i.spot = .scratch (addr i.lane)) : s.askUnit need is = s := by
  have hlines : is.filterMap (fun i => (s.actPa i).map (· / 128)) = [] :=
    List.filterMap_eq_nil_iff.mpr (fun i hi => by simp only [State.actPa, h i hi, Option.map_none])
  rw [State.askUnit, State.unitLines, hlines]
  rfl

/-- The accesses of lanes `ls` to local memory are in order. -/
theorem accesses_local {s : State} {acc : Access} {n : Nat} {addr : Nat → Nat} {ls : List Nat} (hw : s.wordsOk .plain)
    (ha : ∀ l ∈ ls, addr l % n = 0 ∧ addr l + n ≤ s.wg.localBytes) :
    s.accesses (ls.map (fun l => s.judgeLane .l acc n l (addr l) n)) (ls.map (fun l => localItem acc n l (addr l))) := by
  refine ⟨hw, ?_, ?_⟩
  · rw [List.map_map]
    exact List.map_congr_left (fun l hl => judgeLane_local (ha l hl).1 (ha l hl).2)
  · simp only [List.forall_mem_map]
    exact fun l _ => rfl

/-- An access of a width aligned to it lies inside one sector. -/
theorem widthOf_within (w : Fin 8) {a : Nat} (h : a % (widthOf w.val).bytes = 0) :
    a % 16 + (widthOf w.val).bytes ≤ 16 := by
  fin_cases w <;> simp only [widthOf] at h ⊢ <;> omega

/-- The lanes' stores to local memory, each inside one sector, in ascending lane order. -/
theorem storeItems_local {s t : State} {addr data : Nat → Nat} {n : Nat} {ls : List Nat} (hf : t.focus = true)
    (hg : ∀ g ∈ t.wgs, g.id ≠ t.wg.id) (hin : ∀ l ∈ ls, addr l % 16 + n ≤ 16) :
    let u := State.storeItems (fun l => bytesOf n (data l)) (s.sharedItems (ls.map (fun l => localItem .write n l (addr l)))) t
    t.SameButLocal u ∧ ∀ a, SMap.get 0 a u.wg.lmem = ls.foldl (fun v l =>
      if addr l ≤ a ∧ a < addr l + n then BitVec.ofNat 8 (data l / 2 ^ (8 * (a - addr l))) else v)
      (SMap.get 0 a t.wg.lmem) := by
  intro u
  have hjs : ∀ j ∈ s.sharedItems (ls.map (fun l => localItem .write n l (addr l))),
      j.spot = .scratch (addr j.lane) ∧ addr j.lane % 16 + n ≤ 16 := by
    intro j hj
    obtain ⟨i, hi, hlane, hspot⟩ := sharedItems_from hj
    obtain ⟨l, hl, rfl⟩ := List.mem_map.mp hi
    rw [hspot, hlane]
    exact ⟨rfl, hin l hl⟩
  have hlanes : (s.sharedItems (ls.map (fun l => localItem .write n l (addr l)))).map (·.lane) = ls := by
    rw [sharedItems_lanes, List.map_map]
    exact List.map_id ls
  obtain ⟨hsame, hbytes⟩ := foldl_writeItem_local (data := data) hjs hf hg
  have hu : u = _ := congrArg (List.foldl _ · _) (askUnit_local (fun j hj => (hjs j hj).1))
  refine ⟨hu ▸ hsame, fun a => ?_⟩
  conv_rhs => rw [← hlanes, List.foldl_map]
  exact hu ▸ hbytes a

/-- A unit that has retired and then stored to local memory has written no register. -/
theorem State.SameButLocal.registers {s t : State} {k : UnitKind} (h : (s.retire k).SameButLocal t) :
    SameV s t ∧ t.wave.xregs = s.wave.xregs ∧ t.wave.preds = s.wave.preds ∧ t.wave.gens = s.wave.gens := by
  simp [SameV, h.wave]

/-- Settles O32, lane by lane: each store lies inside one sector, and writes its bytes over what the lanes below it left. -/
theorem localStores : Obligations.LocalStores := by
  unfold Obligations.LocalStores
  intro d x w b s hw hf hg hw7 hsgn hd hx hpois n addr haddr
  have hcond : s.encCond (decide (w.val = 7) || (widthOf w.val).sgn) 0x01 ++ s.addrConds false b x = [] := by
    rw [addrConds_nil (by simp) hx, encCond_nil.mpr (by simp [hw7, hsgn]), List.nil_append]
  have hsrcs : ∀ y ∈ [((widthOf w.val).regs, d), (1, x)], ∀ l ∈ lanesOf s.exec, s.srcPois y.1 y.2 l = false := by
    simpa using ⟨fun l hl => (hpois l hl).2, fun l hl => (hpois l hl).1⟩
  have hnext := storeUnit_next (data := s.dataOf d (widthOf w.val)) hd hcond hsrcs (accesses_local (acc := .write) hw haddr)
  rw [begun_plain (by simp only [List.forall_mem_map]; exact fun l _ => rfl)] at hnext
  obtain ⟨hsame, hbytes⟩ := storeItems_local (s := s) (t := s.retire .plain) (data := s.dataOf d (widthOf w.val))
    (by simpa using hf) (by simpa using hg) (fun l hl => widthOf_within w (haddr l hl).1)
  refine ⟨_, hnext, fun a => ?_, hsame.mem.trans (s.retire_mem .plain), hsame.wgs.trans (s.retire_wgs .plain),
    hsame.others.trans (s.retire_others .plain), hsame.registers⟩
  rw [hbytes a, State.retire_wg]

/-! Loads from local memory (R73, R107, R108): what a load shows to path v, it puts in the order of path v. -/

/-- A wave about to load from its local memory, whose workgroup is also listed beside it, and one write to the bytes it
loads that another path made and this wave, but no other, has observed. -/
def twinGroups : State :=
  { focus := true, frag := { mask := 1 }, wave := { id := 1, wgId := 1 }
    wg := { id := 1, localBytes := 16 }, wgs := [{ id := 1 }]
    older := [{ place := scratchPlace 1 0, old := [0, 0, 0, 0], seq := 0, path := 2, seen := [2], cmd := 0 }] }

/-- The load puts the write in the order of path v, and with it moves the lease of every workgroup of that number (R108). -/
theorem twinGroups_load_moves_wgs :
    (match exec (.ldL (.v 0) 4 0 (.x 1)) twinGroups with
      | .next t => decide (t.wgs = twinGroups.wgs)
      | _ => true) = false := by
  decide +kernel

/-- Refutes O30: while the focused workgroup is also listed among the others, a load that shows a write to path v moves the
lease of that listed one as well, and they are not as they were. O32 excludes such a state by a hypothesis; O30 does not. -/
theorem not_localLoads : ¬ Obligations.LocalLoads := by
  unfold Obligations.LocalLoads
  intro h
  have hwords : twinGroups.wordsOk .plain := by unfold State.wordsOk; decide +kernel
  have hknown : ∀ e ∈ twinGroups.older, e.known 0 twinGroups.wave.id = true := by decide +kernel
  obtain ⟨t, ht, -, -, -, -, -, -, hwgs⟩ :=
    h (.v 0) (.x 1) 4 0 twinGroups hwords (by decide) rfl rfl (fun _ _ => rfl) hknown (by decide +kernel)
  have hmoved := twinGroups_load_moves_wgs
  simp [ht, hwgs] at hmoved

end Sys2Proof.Machine

/-! ### Spill and fill (R100, R101, R295) -/

namespace Sys2Proof.Machine

/-! Numbers read from a list of bytes (R4). -/

theorem natOfBytes_bytesOf (n v : Nat) : natOfBytes (bytesOf n v) = v % 2 ^ (8 * n) := by
  induction n generalizing v with
  | zero => simp [bytesOf, natOfBytes, Nat.mod_one]
  | succ n ih =>
    have hpow : 2 ^ (8 * (n + 1)) = 256 * 2 ^ (8 * n) := by rw [Nat.mul_succ, Nat.pow_add, Nat.mul_comm]
    rw [bytesOf, natOfBytes, ih, BitVec.toNat_ofNat, hpow, Nat.mod_mul]

theorem slice_zero_length (xs : List Byte) : slice xs 0 xs.length = xs := by
  refine List.ext_getElem (by simp [slice]) (fun i h₁ h₂ => ?_)
  simp [slice, List.getElem?_eq_getElem h₂]

theorem natAt_bytesOf {n v : Nat} (h : v < 2 ^ (8 * n)) : natAt (bytesOf n v) 0 n = v := by
  have hall := slice_zero_length (bytesOf n v)
  rw [length_bytesOf] at hall
  rw [natAt, hall, natOfBytes_bytesOf, Nat.mod_eq_of_lt h]

theorem natAt_append_left {xs ys : List Byte} {i n : Nat} (h : i + n ≤ xs.length) :
    natAt (xs ++ ys) i n = natAt xs i n := by
  refine congrArg natOfBytes (List.map_congr_left (fun j hj => ?_))
  have hlt : i + j < xs.length := by have := List.mem_range.mp hj; omega
  simp [List.getD, List.getElem?_append_left hlt]

theorem natAt_append_right {xs ys : List Byte} {m : Nat} (i n : Nat) (h : xs.length = m) :
    natAt (xs ++ ys) (m + i) n = natAt ys i n := by
  subst h
  refine congrArg natOfBytes (List.map_congr_left (fun j _ => ?_))
  simp [List.getD, List.getElem?_append_right, Nat.add_assoc]

/-- The number that stands first in a list of bytes. -/
theorem natAt_first {n v : Nat} (ys : List Byte) (h : v < 2 ^ (8 * n)) : natAt (bytesOf n v ++ ys) 0 n = v :=
  (natAt_append_left (by simp)).trans (natAt_bytesOf h)

/-- A table of numbers of `n` bytes holds number `l` at offset `n * l`. -/
theorem natAt_table {n l : Nat} {f : Nat → Nat} {vs : List Nat} (hf : ∀ v ∈ vs, f v < 2 ^ (8 * n)) (hl : l < vs.length) :
    natAt (vs.flatMap (fun v => bytesOf n (f v))) (n * l) n = f (vs.getD l 0) := by
  induction vs generalizing l with
  | nil => simp at hl
  | cons v vs ih =>
    rw [List.flatMap_cons]
    cases l with
    | zero => exact natAt_first _ (hf v (by simp))
    | succ l =>
      rw [Nat.mul_succ, Nat.add_comm, natAt_append_right _ _ (length_bytesOf n (f v)),
        ih (fun x hx => hf x (by simp [hx])) (by simpa using hl), List.getD_cons_succ]

theorem length_table (n : Nat) (f : Nat → Nat) (vs : List Nat) :
    (vs.flatMap (fun v => bytesOf n (f v))).length = n * vs.length := by
  simp [List.length_flatMap, Nat.mul_comm]

/-! The forms of a register's image (R100). -/

/-- The difference of a value from the base, as the narrow forms hold it (R100). -/
def spillDelta (b v : Nat) : Int := signed 32 ((v + 2 ^ 32 - b) % 2 ^ 32)

theorem base_add_spillDelta {b v : Nat} (hb : b < 2 ^ 32) (hv : v < 2 ^ 32) :
    (b + unsigned 32 (spillDelta b v)) % 2 ^ 32 = v := by
  simp only [spillDelta, unsigned, signed]
  split <;> omega

theorem unsigned_lt (w : Nat) (i : Int) : unsigned w i < 2 ^ w := by
  have hpos : (0 : Int) < (2 ^ w : Nat) := by positivity
  have := Int.emod_lt_of_pos i hpos
  rw [unsigned]
  omega

/-- The base and the differences of a register's values, in `n` bytes each. -/
def deltaTable (n b : Nat) (vals : List Nat) : List Byte :=
  bytesOf 4 b ++ vals.flatMap (fun v => bytesOf n (unsigned (8 * n) (spillDelta b v)))

theorem length_deltaTable (n b : Nat) (vals : List Nat) : (deltaTable n b vals).length = 4 + n * vals.length := by
  rw [deltaTable, List.length_append, length_bytesOf, length_table]

/-- A form with a base restores a value whose difference fits its table. -/
theorem deltaTable_restores {n l b : Nat} {vals : List Nat} (hb : b < 2 ^ 32) (hl : l < vals.length)
    (hv : vals.getD l 0 < 2 ^ 32) (hfit : unsigned 32 (signed (8 * n) (unsigned (8 * n) (spillDelta b (vals.getD l 0)))) =
      unsigned 32 (spillDelta b (vals.getD l 0))) :
    (natAt (deltaTable n b vals) 0 4 +
      unsigned 32 (signed (8 * n) (natAt (deltaTable n b vals) (4 + n * l) n))) % 2 ^ 32 = vals.getD l 0 := by
  have hbase : natAt (deltaTable n b vals) 0 4 = b := natAt_first _ hb
  have hdelta : natAt (deltaTable n b vals) (4 + n * l) n = unsigned (8 * n) (spillDelta b (vals.getD l 0)) :=
    (natAt_append_right _ _ (length_bytesOf 4 b)).trans (natAt_table (fun _ _ => unsigned_lt _ _) hl)
  rw [hbase, hdelta, hfit]
  exact base_add_spillDelta hb hv

/-- The linear form restores a base and a multiple of a step. -/
theorem linear_restores {b k l v : Nat} (hb : b < 2 ^ 32) (hk : k < 2 ^ 32) (hv : v = (b + l * k) % 2 ^ 32) :
    spillLane 2 (bytesOf 4 b ++ bytesOf 4 k) l = v := by
  have hbase : natAt (bytesOf 4 b ++ bytesOf 4 k) 0 4 = b := natAt_first _ hb
  have hstep : natAt (bytesOf 4 b ++ bytesOf 4 k) 4 4 = k :=
    (natAt_append_right 0 4 (length_bytesOf 4 b)).trans (natAt_bytesOf hk)
  simp only [spillLane, hbase, hstep, hv]

/-- What holds of all present lanes of a register holds of each. -/
theorem present_all {present : LaneMask} {vals : List Nat} {p : Nat × Nat → Bool} {l : Nat}
    (h : ((lanesOf present).map (fun l => (l, vals.getD l 0))).all p = true) (hl : l ∈ lanesOf present) :
    p (l, vals.getD l 0) = true :=
  List.all_eq_true.mp h _ (List.mem_map_of_mem hl)

/-- Settles O41, form by form in the order in which they are tried. -/
theorem spillRestores : Obligations.SpillRestores := by
  unfold Obligations.SpillRestores
  intro present vals l hlen hvals _ hl
  have hlt : l < vals.length := hlen ▸ (mem_lanesOf.mp hl).1
  have hv : vals.getD l 0 < 2 ^ 32 := by
    rw [List.getD_eq_getElem _ _ hlt]
    exact hvals _ (List.getElem_mem hlt)
  have hb : vals.headD 0 < 2 ^ 32 := by
    cases vals with
    | nil => simp at hlt
    | cons v vs => exact hvals v (by simp)
  simp only [spillForm]
  split
  · next hall =>
    have hzero : vals.getD l 0 = 0 := beq_iff_eq.mp (present_all (p := fun x => x.2 == 0) hall hl)
    exact ⟨rfl, hzero.symm⟩
  split
  · next hall =>
    have hsame : vals.getD l 0 = vals.headD 0 := beq_iff_eq.mp (present_all (p := fun x => x.2 == vals.headD 0) hall hl)
    exact ⟨rfl, (natAt_bytesOf hb).trans hsame.symm⟩
  split
  · next hall => exact ⟨rfl, linear_restores hb (Nat.mod_lt _ (by decide)) (beq_iff_eq.mp (present_all hall hl))⟩
  split
  · next hall =>
    have hrestored := deltaTable_restores (n := 1) hb hlt hv (of_decide_eq_true (present_all hall hl))
    rw [Nat.one_mul] at hrestored
    exact ⟨(length_deltaTable 1 _ vals).trans (by rw [hlen]; rfl), hrestored⟩
  split
  · next hall =>
    have hrestored := deltaTable_restores (n := 2) hb hlt hv (of_decide_eq_true (present_all hall hl))
    exact ⟨(length_deltaTable 2 _ vals).trans (by rw [hlen]; rfl), hrestored⟩
  · exact ⟨(length_table 4 id vals).trans (by rw [hlen]; rfl), natAt_table (f := id) hvals hlt⟩

/-! Spill and fill (R100, R101, R295): each once its count and its addresses are in order. -/

theorem exec_ne_zero_of_lowest {m : LaneMask} {l : Nat} (h : lowest m = some l) : m ≠ 0 := by
  rintro rfl
  have hnone : lowest 0 = none := by decide
  exact nomatch hnone.symm.trans h

theorem runItems_zero (s : State) (acc : Access) (l va : Nat) : s.runItems acc l va 0 = [] := rfl

section SpillRules

variable {s : State} {d a b : Operand} {l : Nat} (hw : s.wordsOk .plain) (hc : s.spillConds d a b (s.lowInt a) = [])
  (hl : lowest s.exec = some l) (hva : s.addr56 b l % 16 = 0)
include hw hc hl hva

/-- The registers that spl stores: those of the absent lanes read as zero. -/
def State.spillRegs (s : State) (d : Operand) (n : Nat) : List (List Nat) :=
  (List.range n).map (fun i => (List.range 32).map (fun k =>
    if s.wave.present.getLsbD k then (s.vreg (d.num + i) k).toNat else 0))

theorem execSpl_stores {is : List Item} (hh : ∀ i ∈ is, s.heldItem i = false)
    (hpois : ∀ k ∈ lanesOf s.wave.present, ∀ i < s.lowInt a, s.vpoison (d.num + i) k = false)
    (hr : s.runItems .write l (s.addr56 b l) (spillImage s.wave.present (s.spillRegs d (s.lowInt a))).length = is.map .ok) :
    let image := spillImage s.wave.present (s.spillRegs d (s.lowInt a))
    execSpl d a b s = .next (((s.sharedItems is).zip (pieces (s.addr56 b l) image.length)).foldl
      (fun t x => t.writeItem x.1 ((image.drop x.2.2.1).take x.2.2.2)) ((s.begun is).askUnit partMask (s.sharedItems is))) := by
  intro image
  have hexec := exec_ne_zero_of_lowest hl
  have hbad : lanesWhere s.wave.present (fun k => (List.range (s.lowInt a)).any (fun i => s.vpoison (d.num + i) k)) = 0 :=
    lanesWhere_zero (fun k hk => by simpa using hpois k hk)
  simp only [execSpl, hl, Option.getD_some, hc, List.isEmpty_nil, hexec, ne_eq, not_false_eq_true, decide_true, Bool.and_self,
    if_true, hbad, hva, not_true, decide_false]
  exact issueItems_next hw rfl hr hh

theorem execFil_restores {is js ss : List Item} (hh : ∀ i ∈ is ++ js, s.heldItem i = false)
    (hr : s.runItems .read l (s.addr56 b l) (ceilDiv (s.lowInt a) 16 * 16) = is.map .ok)
    (hs : s.sectorItems .read l (s.addr56 b l) (ceilDiv (s.lowInt a) 16 * 16) = ss.map .ok)
    (hclean : ∀ x ∈ (readRun ss s).1, x.2 = false) {codes : List Nat}
    (hcodes : ((readRun ss s).1.take (s.lowInt a)).map (fun x => x.1.toNat) = codes) (hforms : ∀ c ∈ codes, c ≤ 5)
    (hb : s.runItems .read l (s.addr56 b l + ceilDiv (s.lowInt a) 16 * 16) ((codes.map spillSize).foldl (· + ·) 0) =
      js.map .ok) :
    let r := readRun (s.sharedItems (is ++ js)) (s.begun (is ++ js))
    execFil d a b s = .next ((spillOffsets (ceilDiv (s.lowInt a) 16 * 16) codes).zipIdx.foldl (fun t x =>
      let p := slice (r.1.map (·.1)) x.1.2 (spillSize x.1.1)
      let bad := ((r.1.drop x.1.2).take (spillSize x.1.1)).any (·.2)
      (lanesOf s.exec).foldl (fun t k => t.setV (d.num + x.2) k 1 (spillLane x.1.1 p k) bad) t) r.2) := by
  have hexec := exec_ne_zero_of_lowest hl
  have hdirty : (readRun ss s).1.any (·.2) = false := by simpa using hclean
  have hwrong : ((readRun ss s).1.take (s.lowInt a)).any (fun x => !x.2 && decide (5 < x.1.toNat)) = false := by
    refine List.any_eq_false.mpr (fun x hx => ?_)
    have hcode : x.1.toNat ≤ 5 := hforms _ (hcodes ▸ List.mem_map_of_mem hx)
    simp [Nat.not_lt.mpr hcode]
  have hbody : (if (readRun ss s).1.isEmpty = true then [] else
      s.runItems .read l (s.addr56 b l + ceilDiv (s.lowInt a) 16 * 16) ((codes.map spillSize).foldl (· + ·) 0)) =
        js.map .ok := by
    cases hrun : (readRun ss s).1 with
    | nil =>
      rw [hrun, List.take_nil, List.map_nil] at hcodes
      subst hcodes
      rw [List.isEmpty_nil, if_pos rfl]
      exact (runItems_zero s .read l _).symm.trans hb
    | cons x xs => exact hb
  simp only [execFil, hl, Option.getD_some, hc, List.isEmpty_nil, hexec, ne_eq, not_false_eq_true, decide_true, Bool.and_self,
    if_true, hva, not_true, decide_false, hr, hs, judgeAll_ok, hdirty, hwrong, hcodes, Bool.false_or, hbody]
  refine issueMet_next hw ?_ ?_ hh
  · rfl
  · rw [List.map_append]

end SpillRules

/-- Settles O40: neither unit has a condition left, whatever the forms are. -/
theorem spillAndFill : Obligations.SpillAndFill := by
  unfold Obligations.SpillAndFill
  intro d a b l is js ss s hw hc hl hva hh
  refine ⟨fun hpois hr => ?_, fun hr hs hclean hforms hb => ?_⟩
  · exact execSpl_stores hw hc hl hva (fun i hi => hh i (List.mem_append_left js hi)) hpois hr
  · exact execFil_restores hw hc hl hva hh hr hs hclean rfl hforms hb

end Sys2Proof.Machine

/-! ### Translation, caches, clocks, accesses from outside and migrations (R84 to R118, R284, R457) -/

namespace Sys2Proof.Machine

/-! Walks and invalidations (R94 to R99). The walk is named as a function of its own, `walk`, so that no check of these rules
has to run it. -/

section TranslationRules

variable {s : State} {vf ctx i : Nat} {va : VAddr} {acc : Access} {walk : Nat → Nat → Nat → Nat → Access → Except XFail XOk}

theorem execPageWalk_installs {x : XOk} (hp : s.partOfVf vf = some i) (hwalk : s.walk = walk)
    (hx : walk i vf ctx va.toNat acc = .ok x) (hm : s.marksHeld x.marks = false) :
    execPageWalk vf ctx va acc s = .next ((s.mark (ctxWho i vf ctx) x.marks).install i vf ctx va.toNat acc x) := by
  unfold execPageWalk
  rw [hwalk]
  simp only [hp, hx, hm, Bool.false_eq_true, if_false]

theorem execPageWalk_fails {e : XFail} (hp : s.partOfVf vf = some i) (hwalk : s.walk = walk)
    (he : walk i vf ctx va.toNat acc = .error e) : execPageWalk vf ctx va acc s = .next (s.walkFails i vf ctx e) := by
  unfold execPageWalk
  rw [hwalk]
  simp only [hp, he]

theorem execTlbInvalidate_begins {val : Word} (ho : s.openBar = true) :
    execTlbInvalidate vf ctx val s = .next { s.setBell vf ctx 0x110 1 with
      invs := s.invs ++ [(256 * vf + ctx, if bitAt val.toNat 31 then invEvery
        else s.bell vf ctx 0x108 / 4096 * 4096 + val.toNat % 2 ^ 24 * 2 ^ 32)] } :=
  if_neg (by simp [ho])

theorem execInvalidationComplete_ends (hi : s.invs.filter (fun x => x.1 == 256 * vf + ctx) ≠ [])
    (hu : s.usesOld vf ctx = false) :
    execInvalidationComplete vf ctx s = .next (State.setBell { s with
      tlb := s.tlb.filter (fun t => !(s.invs.filter (fun x => x.1 == 256 * vf + ctx)).any (fun v => invCovers v t))
      invs := s.invs.filter (fun x => x.1 != 256 * vf + ctx) } vf ctx 0x110 0) := by
  have hmine : ¬((s.invs.filter (fun x => x.1 == 256 * vf + ctx)).isEmpty = true ∨ s.usesOld vf ctx = true) := by
    simp [hi, hu]
  exact if_neg hmine

end TranslationRules

/-! The memory-side cache and the reference clock (R83 to R86, R108). -/

section MscRules

variable {s t : State} {sl p index tag : Nat} {wr : Option (BitVec 8)}

/-- A request for a line of the tier reaches the index of the line's sector (R83). -/
theorem execMscRequest_asks (hn : (s.mscShape sl).1 ≠ 0) (hsl : sl < 12) (hp : p < 2 ^ 37) :
    execMscRequest sl p wr s = .next (s.mscAsk sl (p / 128 * 128) (if wr.isSome then 0 else 0xFF) wr) :=
  if_neg (by omega)

theorem line_sector (p : Nat) : p / 128 * 128 / 2048 = p / 2048 := by omega

/-- The state of a slice's memory-side cache at the index that serves tier offset `p`. -/
abbrev State.mscServing (s : State) (sl p : Nat) : MscSector := s.mscOf sl (p / 2048 % (s.mscShape sl).1)

theorem mscAsk_lost {need : Nat} (hl : (s.mscServing sl p).lost = 0xFFFF) :
    s.mscAsk sl (p / 128 * 128) need wr = State.mscServe sl (p / 2048 % (s.mscShape sl).1) (s.mscShape sl).1
      [(p / 128 * 128, need, wr)] {} (s.mscLose sl (p / 2048 % (s.mscShape sl).1) (s.mscShape sl).1 (s.mscServing sl p)) := by
  simp only [State.mscAsk, line_sector, hl, if_true]

theorem mscAsk_filling {need : Nat} (hl : (s.mscServing sl p).lost ≠ 0xFFFF)
    (hf : (s.mscServing sl p).filling.isSome = true) :
    s.mscAsk sl (p / 128 * 128) need wr = s.setMsc sl (p / 2048 % (s.mscShape sl).1)
      { s.mscServing sl p with queue := (s.mscServing sl p).queue ++ [(p / 128 * 128, need, wr)] } := by
  simp only [State.mscAsk, line_sector, hl, hf, if_true, if_false]

theorem mscAsk_idle {need : Nat} (hl : (s.mscServing sl p).lost ≠ 0xFFFF) (hf : (s.mscServing sl p).filling = none) :
    s.mscAsk sl (p / 128 * 128) need wr = State.mscServe sl (p / 2048 % (s.mscShape sl).1) (s.mscShape sl).1
      [(p / 128 * 128, need, wr)] (s.mscServing sl p) s := by
  simp only [State.mscAsk, line_sector, hl, hf, if_false, Option.isSome_none, Bool.false_eq_true]

/-- The sectors beyond correction of the sector that a fill of index `index` brings in under tag `tag` (R456). -/
def State.fillLost (s : State) (sl index tag : Nat) : List Nat :=
  let first := mscFirst sl index (s.mscShape sl).1 tag
  (((s.uncorr.map (·.1)) ++ (s.below.map (·.1))).eraseDups).filter
    (fun x => (decide (first ≤ x) && decide (x < first + 128)) && (s.belowStored x).uncorr)

theorem execMscFillComplete_serves (hf : (s.mscOf sl index).filling = some tag)
    (ht : (s.fillLost sl index tag).foldl (fun u x => ((u.keepTier x).owe sl 0x09 x).poisonBelow x) s = t) :
    execMscFillComplete sl index s =
      .next (State.mscServe sl index (s.mscShape sl).1 (s.mscOf sl index).queue { v := true, tag := tag } t) := by
  subst ht
  simp only [execMscFillComplete, State.mscFilled, hf]
  rfl

end MscRules

/-- The reference clock reaches its next multiple of 64 (R108). -/
theorem pass_aclk_next_tick (s : State) : (s.pass (64 - s.aclk % 64)).aclk = (s.aclk / 64 + 1) * 64 := by
  change s.aclk + (64 - s.aclk % 64) = _
  omega

/-! Migrations (R118, R284, R457): which step one takes, and then the steps. -/

section MigrationRules

variable {s : State} {cmd : Nat} {c : Command} (hc : s.cmd cmd = some c) (hp : c.phase = .running) (hk : c.kind = .migrate)
include hc hp hk

theorem execPageMigration_begins (hs : s.cmdStopped c = false) (ht : c.total = 0) (hh : s.leafHeld c = false) :
    execPageMigration cmd s = .next (s.beginMigration c) := by
  simp [execPageMigration, hc, hp, hk, hs, ht, hh]

theorem execPageMigration_line (hs : s.cmdStopped c = false) (ht : c.progress < c.total) (hb : c.broken = none) :
    execPageMigration cmd s = .next (s.migrateLine c) := by
  have htotal : c.total ≠ 0 := by omega
  simp [execPageMigration, hc, hp, hk, hs, ht, htotal, hb]

theorem execPageMigration_leaf (hs : s.cmdStopped c = false) (h0 : 0 < c.total) (ht : c.progress = c.total)
    (hb : c.broken = none) (hh : s.leafHeld c = false) : execPageMigration cmd s = .next (s.migrateLeaf c) := by
  simp [execPageMigration, hc, hp, hk, hs, ht, hb, hh, h0.ne']

/-- Past the leaf a migration waits for the accesses that used the old translation (R118 step 3). -/
theorem execPageMigration_invalidates (h0 : 0 < c.total) (ht : c.progress = c.total + 1) :
    execPageMigration cmd s = .next (if s.usesOld c.vf c.ctx then s
      else (s.dropTlb c.vf c.ctx (CopyDesc.ofBytes c.desc).src (128 * c.total)).putCmd { c with progress := c.total + 2 }) := by
  cases hu : s.usesOld c.vf c.ctx <;> simp [execPageMigration, hc, hp, hk, ht, h0.ne', hu]

theorem execPageMigration_ends (h0 : 0 < c.total) (ht : c.total + 1 < c.progress) :
    execPageMigration cmd s =
      .next (((List.range c.total).foldl (fun t i => t.settleLine c i) s).freeHeld.putCmd { c with phase := .done }) := by
  have hpast : ¬ c.progress ≤ c.total := by omega
  have hline : ¬ c.progress < c.total := by omega
  have hleaf : c.progress ≠ c.total := by omega
  have hinvalid : c.progress ≠ c.total + 1 := by omega
  simp [execPageMigration, hc, hp, hk, h0.ne', hpast, hline, hleaf, hinvalid]

end MigrationRules

section MigrationSteps

variable {s : State} {c : Command} {l : XLeaf} {ms : List (Nat × Nat)} {ea e : Nat}

theorem beginMigration_aborts
    (hw : s.walk1 c.part c.vf (CopyDesc.ofBytes c.desc).src 0 4 (s.s1root c.vf c.ctx) [] = .ok (l, ms))
    (hleaf : s.leafEntry c = .ok none) : s.beginMigration c = s.abortMigration c 0x21 (CopyDesc.ofBytes c.desc).leaf := by
  simp only [State.beginMigration, hleaf, hw]

/-- A migration begins whose leaf entry is the first of a writable leaf of its page, of one of the three sizes (R284, R457). -/
theorem beginMigration_begins
    (hw : s.walk1 c.part c.vf (CopyDesc.ofBytes c.desc).src 0 4 (s.s1root c.vf c.ctx) [] = .ok (l, ms))
    (hleaf : s.leafEntry c = .ok (some (ea, e))) (hsize : l.size = 2 ^ 12 ∨ l.size = 2 ^ 16 ∨ l.size = 2 ^ 21)
    (hbit : bitAt e 7 = true) (hfirst : ea = if l.size = 2 ^ 16 then l.at_ / 128 * 128 else l.at_)
    (hsrc : (CopyDesc.ofBytes c.desc).src % l.size = 0) (hdst : (CopyDesc.ofBytes c.desc).dst % l.size = 0) :
    s.beginMigration c = s.putCmd { c with total := l.size / 128, acc := [e, ea, l.addr (CopyDesc.ofBytes c.desc).src] } := by
  have hlisted : [2 ^ 12, 2 ^ 16, 2 ^ 21].contains l.size = true := by simpa using hsize
  simp only [State.beginMigration, hleaf, hw]
  rw [if_neg]
  simp only [hlisted, hbit, ← hfirst, hsrc, hdst, bne_self_eq_false, Bool.not_true, Bool.or_self, Bool.false_eq_true,
    not_false_eq_true]

/-- The line of a migration's page that is next, both its places locked, is copied sector by sector (R118 step 1). -/
theorem migrateLine_copies {x : XOk} {a b : Nat}
    (hx : s.engXlate (s.cmdGroup c) .read ((CopyDesc.ofBytes c.desc).src + 128 * c.progress) = .ok x)
    (ha : s.frameAt c (c.pageFrom + 128 * c.progress) = .ok a)
    (hb : s.frameAt c ((CopyDesc.ofBytes c.desc).dst + 128 * c.progress) = .ok b)
    (hla : s.lockedBy c.id a = false) (hlb : s.lockedBy c.id b = false) (hk : s.keyBusyBit (b / 2 ^ 46 % 64) = false) :
    let t := (s.mark c.who x.marks).setLock (s.placeOf a) (c.id + 1)
    s.migrateLine c = (((List.range 8).foldl (fun u j =>
      let r := u.engLatest c (s.cmdGroup c) (a + 16 * j) 16
      r.2.engWritePa 2 c (s.cmdGroup c) { pa := b + 16 * j, size := 128, w := true, x := false } r.1.1 r.1.2)
      (t.setLock (s.placeOf b) (c.id + 1))).freshLine b).putCmd { c with progress := c.progress + 1 } := by
  simp only [State.migrateLine, hx, ha, hb, hla, hlb, hk, Bool.or_self, Bool.false_eq_true, if_false]

/-- The entries of the leaf of a migration's page, each with its place (R284). -/
def State.leafEntries (s : State) (c : Command) (ea : Nat) : List (Nat × Nat) :=
  (List.range (leafCount (128 * c.total))).map (fun i => (ea + 8 * i, natOfBytes (s.physBytes (ea + 8 * i) 8).1))

/-- A leaf entry without its A and D bits (R284). -/
def flatEntry (x : Nat) : Nat := x &&& (2 ^ 64 - 1 - 0x60)

theorem migrateLeaf_aborts (hleaf : s.leafEntry c = .ok (some (ea, e)))
    (hchanged : ∃ x ∈ s.leafEntries c ea, flatEntry x.2 ≠ flatEntry (c.acc.headD 0)) :
    s.migrateLeaf c = s.abortMigration c 0x20 (CopyDesc.ofBytes c.desc).leaf := by
  have hany : (s.leafEntries c ea).any (fun x => flatEntry x.2 != flatEntry (c.acc.headD 0)) = true := by simpa using hchanged
  simp only [State.migrateLeaf, hleaf]
  exact if_pos hany

/-- Each leaf entry that is as the migration found it takes the new frame (R118 step 2). -/
theorem migrateLeaf_swaps (hleaf : s.leafEntry c = .ok (some (ea, e)))
    (hkept : ∀ x ∈ s.leafEntries c ea, flatEntry x.2 = flatEntry (c.acc.headD 0)) :
    s.migrateLeaf c = ((s.leafEntries c ea).foldl (fun (t : State) x =>
      let t := t.physWrite 0 c.vf x.1 (bytesOf 8 (setField x.2 12 40 ((CopyDesc.ofBytes c.desc).dst / 4096)))
      t.setHome x.1 (t.homeLease x.1).next) s).putCmd { c with progress := c.total + 1 } := by
  have hnone : ¬(s.leafEntries c ea).any (fun x => flatEntry x.2 != flatEntry (c.acc.headD 0)) = true := by simpa using hkept
  simp only [State.migrateLeaf, hleaf]
  exact if_neg hnone

end MigrationSteps

/-- Settles O50: one event after another; a migration step by step. -/
theorem translationAndCacheEvents : Obligations.TranslationAndCacheEvents := by
  unfold Obligations.TranslationAndCacheEvents
  intro s t vf ctx
  refine ⟨fun va acc i hp => ⟨fun x hx => execPageWalk_installs hp rfl hx, fun e he => execPageWalk_fails hp rfl he⟩,
    fun val => execTlbInvalidate_begins, execInvalidationComplete_ends, ?_, fun sl index tag => execMscFillComplete_serves,
    ⟨rfl, pass_aclk_next_tick s⟩, fun core line => rfl, fun src addr data => rfl, fun src addr len => rfl, ?_⟩
  · intro sl p wr n index m r hn hsl hp
    have hasks := execMscRequest_asks (wr := wr) hn hsl hp
    exact ⟨fun hl => hasks.trans (congrArg _ (mscAsk_lost hl)), fun hl hf => hasks.trans (congrArg _ (mscAsk_idle hl hf)),
      fun hl hf => hasks.trans (congrArg _ (mscAsk_filling hl hf))⟩
  · intro cmd c hc hp hk d gives
    refine ⟨fun hs ht _ hh l ms hw => ?_, fun hs ht hb x a b hx ha hfb hla hlb hkey hlock => ?_,
      fun hs h0 ht hb hh ea e hleaf => ?_, fun h0 ht => ?_, execPageMigration_ends hc hp hk⟩
    · have hbegin := execPageMigration_begins hc hp hk hs ht hh
      exact ⟨fun hleaf => hbegin.trans (congrArg _ (beginMigration_aborts hw hleaf)),
        fun ea e hleaf hsize hbit hfirst hsrc hdst =>
          hbegin.trans (congrArg _ (beginMigration_begins hw hleaf hsize hbit hfirst hsrc hdst))⟩
    · subst hlock
      exact (execPageMigration_line hc hp hk hs ht hb).trans (congrArg _ (migrateLine_copies hx ha hfb hla hlb hkey))
    · have hstep := execPageMigration_leaf hc hp hk hs h0 ht hb hh
      exact ⟨fun hchanged => hstep.trans (congrArg _ (migrateLeaf_aborts hleaf hchanged)),
        fun hkept => hstep.trans (congrArg _ (migrateLeaf_swaps hleaf hkept))⟩
    · have hstep := execPageMigration_invalidates hc hp hk h0 ht
      exact ⟨fun hu => hstep.trans (congrArg _ (if_pos hu)),
        fun hu => hstep.trans (congrArg _ (if_neg (Bool.eq_false_iff.mp hu)))⟩

end Sys2Proof.Machine

/-! ### Waits on memory, atomics and fences (R106, R110, R111, R116, R117, R200 to R203, R277 to R279, R294)

A rule for each shared form, and for each of an atomic's two ways, at home and at a peer; then the statements. -/

namespace Sys2Proof.Machine

/-! waitf and waitv (R116, R200 to R203). -/

/-- Where each lane's access is in order, the lanes' accesses are a list of accesses in order. -/
theorem exists_items_of_forall_ok {f : Nat → Except Cond Item} {p : Item → Prop} {ls : List Nat}
    (h : ∀ l ∈ ls, ∃ i, f l = .ok i ∧ p i) : ∃ is : List Item, ls.map f = is.map .ok ∧ ∀ i ∈ is, p i := by
  induction ls with
  | nil => exact ⟨[], rfl, by simp⟩
  | cons l ls ih =>
    obtain ⟨i, hi, hp⟩ := h l (by simp)
    obtain ⟨is, his, hps⟩ := ih (fun k hk => h k (by simp [hk]))
    exact ⟨i :: is, by rw [List.map_cons, List.map_cons, hi, his], by simpa using ⟨hp, hps⟩⟩

/-- No lane's access lands in a peer window. -/
theorem peerLanes_zero {s : State} {is : List Item} (h : ∀ i ∈ is, s.peerSpot i = none) : s.peerLanes is = 0 := by
  have hnone : is.filter (fun i => (s.peerSpot i).isSome) = [] := List.filter_eq_nil_iff.mpr (fun i hi => by simp [h i hi])
  rw [State.peerLanes, hnone]
  rfl

/-- The cells of a wait: the lanes of the execution mask, each with its address and its value to compare (R200, R202). -/
def State.waitCells (s : State) (a : Operand) (val : Nat → Word) : List Cell :=
  (lanesOf s.exec).map (fun l => { lane := l, addr := BitVec.ofNat 56 (s.addr56 a l), val := val l })

section WaitRules

variable {s : State} {a : Operand} (hw : s.wordsOk .plain) (hp : a.isPair = true) (hx : s.wave.hx = none)
  (he : s.exec ≠ 0) (ha : ∀ l ∈ lanesOf s.exec, s.srcPois 2 a l = false)
include hw hp hx he ha

/-- A wait outside a handler whose cells this device's memory holds and lets it read begins (R201, R435). -/
theorem waitUnit_begins {n : Nat} {cs : List Cond} {w : List Cell → Wait} {val : Nat → Word} (hc : cs = [])
    (hcells : ∀ l ∈ lanesOf s.exec, ∃ i, s.judgeLane .g .read n l (s.addr56 a l) n = .ok i ∧
      s.heldItem i = false ∧ s.peerSpot i = none) :
    s.waitUnit cs a n w val = .next ((s.retire .plain).beginWait s.frag.pc (w (s.waitCells a val))) := by
  obtain ⟨is, hr, his⟩ := exists_items_of_forall_ok hcells
  have hbegun : s.begun is = s.retire .plain := begun_judged hr (fun _ _ => judgeLane_save (by decide))
  have hpair : s.encCond (!a.isPair) 0x01 = [] := encCond_nil.mpr (by rw [hp]; rfl)
  have hclean : s.cleanCond [(2, a)] = [] := cleanCond_nil (by simpa using ha)
  have hpeers : s.peerLanes is = 0 := peerLanes_zero (fun i hi => (his i hi).2)
  refine (issueItems_next hw ?_ hr (fun i hi => (his i hi).1)).trans ?_
  · rw [hr, judgeAll_ok, hpair, hclean, hc, hpeers, waitCond_outside hx]
    rfl
  · rw [if_neg he, hbegun]
    rfl

end WaitRules

/-- Settles O22: the cells of either width are judged in order, and the one shared wait begins on them. -/
theorem memoryWaits : Obligations.MemoryWaits := by
  unfold Obligations.MemoryWaits
  intro a b c s hw hp hx he ha hcells
  refine ⟨fun hal => ?_, fun hal hb hbp => ?_⟩
  · exact waitUnit_begins hw hp hx he ha rfl (fun l hl => hcells l hl 8 (by simp) (hal l hl))
  · have hvalue : s.encCond (s.srcBad 1 b) 0x01 ++ s.cleanCond [(1, b)] = [] := by
      rw [encCond_nil.mpr hb, cleanCond_nil (by simpa using hbp), List.nil_append]
    exact waitUnit_begins hw hp hx he ha hvalue (fun l hl => hcells l hl 4 (by simp) (hal l hl))

/-! atom, red and cas (R106, R117, R277 to R279). -/

/-- Bytes of an atomic's operand (R277). -/
def rmwBytes (q : Bool) : Nat := if q then 8 else 4

/-- What a read-modify-write unit does with its accesses (R106, R117): those of this device are events of their own, in order,
and those in a peer's windows are sent there; then the old values are taken, but by red. -/
def State.rmwEach (unit : VAddr) (dataOf : Nat → Nat) (op : Nat) (d : Operand) (regs n : Nat) (red : Bool)
    (f : Nat → Nat → Option Nat × List Nat) (is : List Item) (t : State) : State :=
  let far := is.filter (fun i => (t.peerSpot i).isSome)
  let near := is.filter (fun i => (t.peerSpot i).isNone)
  let r := rmwItems red f near (t.askRmw near)
  let outs := r.1.map (fun o => (o.1, { v := o.2.old, pois := o.2.pois, ev := o.2.ev : LaneOut }))
  let u := far.foldl (fun t i => t.sendRmw op i (bytesOf (4 * regs) (dataOf i.lane))) r.2
  (if red then u
    else u.takeLanes d { bytes := n, regs := n / 4 } true (far.filter (fun i => (u.peerOf i).isSome)) outs).logLanes unit outs

/-- A read-modify-write's accesses and operands are in order (R272, R277, R419). -/
def State.RmwFits (s : State) (d x : Operand) (q : Bool) (b : Fin 32) (is : List Item) (regs : Nat) (red : Bool) : Prop :=
  (if red then s.srcBad regs d else dstBad regs d) = false ∧
  (∀ l ∈ lanesOf s.exec, s.srcPois 1 x l = false ∧ s.srcPois regs d l = false) ∧
  s.accesses ((runLanes d s.exec).map (fun l => s.judgeRmw (rmwBytes q) l (s.baseAddr b x l) (rmwBytes q))) is

/-- Every access is of this device's memory, and none brings poison to a scalar (R222, R277). -/
def State.RmwNear (s : State) (d : Operand) (red : Bool) (is : List Item) : Prop :=
  ∀ i ∈ is, s.peerSpot i = none ∧ (d.isV = true ∨ red = true ∨ (s.homeItem i).2 = false)

/-- A peer answers every access (R117). -/
def State.RmwFar (s : State) (is : List Item) : Prop := ∀ i ∈ is, (s.peerOf i).isSome = true

/-- No access brings poison of this device's memory to a scalar. -/
def State.RmwClean (s : State) (d : Operand) (red : Bool) (is : List Item) : Prop :=
  ∀ i ∈ is, (d.isV || red) = true ∨ (s.peerOf i).isSome = true ∨ (s.homeItem i).2 = false

theorem State.RmwNear.clean {s : State} {d : Operand} {red : Bool} {is : List Item} (h : s.RmwNear d red is) :
    s.RmwClean d red is := by
  intro i hi
  obtain ⟨-, hv | hred | hhome⟩ := h i hi
  · exact .inl (by rw [hv]; rfl)
  · exact .inl (by rw [hred, Bool.or_true])
  · exact .inr (.inr hhome)

theorem State.RmwFar.clean {s : State} {d : Operand} {red : Bool} {is : List Item} (h : s.RmwFar is) :
    s.RmwClean d red is :=
  fun i hi => .inr (.inl (h i hi))

theorem askUnit_nil (s : State) (need : Nat → Nat → Nat) : s.askUnit need [] = s := rfl

theorem askRmw_nil (s : State) : s.askRmw [] = s := by
  simp only [State.askRmw, List.map_nil, askUnit_nil, ite_self]

section RmwRules

variable {s : State} {d x : Operand} {q : Bool} {b : Fin 32} {is : List Item} {regs op : Nat} {red : Bool}
  {f : Nat → Nat → Option Nat × List Nat}

/-- A read-modify-write unit whose accesses are in order retires and acts on them. -/
theorem rmwUnit_acts {cs : List Cond} (hx : s.srcBad 1 x = false) (hb : b.val % 2 = 0)
    (hfits : s.RmwFits d x q b is regs red) (hclean : s.RmwClean d red is) (hc : cs = []) :
    s.rmwUnit op d regs (rmwBytes q) red cs b x f = .next (State.rmwEach s.frag.pc
      (s.dataOf d { bytes := 4 * regs, regs := regs }) op d regs (rmwBytes q) red f (s.sharedItems is) (s.retire .plain)) := by
  obtain ⟨-, hpois, hw, hr, hheld⟩ := hfits
  have hbad : (if d.isV || red then [] else laneCond 0x0A (maskOf ((is.filter
      (fun i => (s.peerOf i).isNone && (s.homeItem i).2)).map (·.lane))) 0 d.code) = [] := by
    split
    · rfl
    · next hscalar =>
      have hnone : is.filter (fun i => (s.peerOf i).isNone && (s.homeItem i).2) = [] := by
        refine List.filter_eq_nil_iff.mpr (fun i hi => ?_)
        rcases hclean i hi with h | h | h
        · exact absurd h hscalar
        · simp [Option.isSome_iff_ne_none.mp h]
        · simp [h]
      rw [hnone]
      rfl
  have hoperands : s.cleanCond [(regs, d), (1, x)] = [] :=
    cleanCond_nil (by simpa using ⟨fun l hl => (hpois l hl).2, fun l hl => (hpois l hl).1⟩)
  have hbegun : s.begun is = s.retire .plain := begun_judged hr (fun _ _ => judgeRmw_save)
  rw [← hbegun]
  unfold State.rmwUnit
  refine issueMet_next hw ?_ hr hheld
  rw [hr, judgeAll_ok, hbad, hc, addrConds_nil (fun _ => hb) hx, hoperands]
  rfl

theorem retire_peerSpot : (s.retire .plain).peerSpot = s.peerSpot := peerSpot_congr (by simp) (by simp)

theorem peerSpot_spot {i j : Item} (h : j.spot = i.spot) : s.peerSpot j = s.peerSpot i := by
  simp only [State.peerSpot, h]

/-- A peer answers only what lands in its window. -/
theorem peerSpot_of_peerOf {i : Item} (h : (s.peerOf i).isSome = true) : (s.peerSpot i).isSome = true := by
  cases hspot : s.peerSpot i with
  | none => rw [State.peerOf, hspot] at h; exact h
  | some p => rfl

/-- Accesses of this device alone are read-modify-writes in order, and the lanes take the old values at once (R106). -/
theorem rmwEach_near {unit : VAddr} {data : Nat → Nat} {n : Nat} {js : List Item} {t : State}
    (h : ∀ j ∈ js, t.peerSpot j = none) :
    let r := rmwItems red f js (t.askRmw js)
    let outs := r.1.map (fun o => (o.1, { v := o.2.old, pois := o.2.pois, ev := o.2.ev : LaneOut }))
    State.rmwEach unit data op d regs n red f js t =
      (if red then r.2 else r.2.writeLanes d (n / 4) outs).logLanes unit outs := by
  have hfar : js.filter (fun j => (t.peerSpot j).isSome) = [] := List.filter_eq_nil_iff.mpr (fun j hj => by simp [h j hj])
  have hnear : js.filter (fun j => (t.peerSpot j).isNone) = js := List.filter_eq_self.mpr (fun j hj => by simp [h j hj])
  simp only [State.rmwEach, hfar, hnear, List.foldl_nil, List.filter_nil, State.takeLanes, List.isEmpty_nil, if_true]

/-- Accesses of peers alone are sent to them in order, and what is to be taken is waited for (R117). -/
theorem rmwEach_far {unit : VAddr} {data : Nat → Nat} {n : Nat} {js : List Item} {t : State}
    (h : ∀ j ∈ js, (t.peerSpot j).isSome = true) :
    let u := js.foldl (fun t j => t.sendRmw op j (bytesOf (4 * regs) (data j.lane))) t
    State.rmwEach unit data op d regs n red f js t = if red then u
      else u.takeLanes d { bytes := n, regs := n / 4 } true (js.filter (fun j => (u.peerOf j).isSome)) [] := by
  have hfar : js.filter (fun j => (t.peerSpot j).isSome) = js := List.filter_eq_self.mpr h
  have hnear : js.filter (fun j => (t.peerSpot j).isNone) = [] :=
    List.filter_eq_nil_iff.mpr (fun j hj => by simp [Option.isSome_iff_ne_none.mp (h j hj)])
  simp only [State.rmwEach, hfar, hnear, rmwItems, askRmw_nil, List.map_nil]
  exact logLanes_none _ _ _ (by simp)

theorem rmwUnit_exchanges {i : Instr} {cs : List Cond} (hi : exec i s = s.rmwUnit op d regs (rmwBytes q) red cs b x f)
    (hx : s.srcBad 1 x = false) (hb : b.val % 2 = 0) (hc : cs = []) (hfits : s.RmwFits d x q b is regs red)
    (hnear : s.RmwNear d red is) : Exchanged i s d (rmwBytes q) red is f := by
  refine (hi.trans (rmwUnit_acts hx hb hfits hnear.clean hc)).trans (congrArg _ (rmwEach_near (fun j hj => ?_)))
  obtain ⟨k, hk, -, hspot⟩ := sharedItems_from hj
  rw [retire_peerSpot, peerSpot_spot hspot]
  exact (hnear k hk).1

theorem rmwUnit_asks {i : Instr} {cs : List Cond} (hi : exec i s = s.rmwUnit op d regs (rmwBytes q) red cs b x f)
    (hx : s.srcBad 1 x = false) (hb : b.val % 2 = 0) (hc : cs = []) (hfits : s.RmwFits d x q b is regs red)
    (hfar : s.RmwFar is) : Asked i s d (rmwBytes q) regs op red is := by
  refine (hi.trans (rmwUnit_acts hx hb hfits hfar.clean hc)).trans (congrArg _ (rmwEach_far (fun j hj => ?_)))
  obtain ⟨k, hk, -, hspot⟩ := sharedItems_from hj
  rw [retire_peerSpot, peerSpot_spot hspot]
  exact peerSpot_of_peerOf (hfar k hk)

end RmwRules

/-! The operations of atom and red (R278 Table 2). -/

/-- atom, or red, with an operation. -/
def atomInstr (d : Operand) (q : Bool) (b : Fin 32) (x : Operand) : AtomOp → Bool → Instr
  | .add, red => if red then .redAdd d q b x else .atomAdd d q b x
  | .fadd, red => if red then .redFadd d q b x else .atomFadd d q b x
  | .min, red => if red then .redMin d q b x else .atomMin d q b x
  | .max, red => if red then .redMax d q b x else .atomMax d q b x
  | .and, red => if red then .redAnd d q b x else .atomAnd d q b x
  | .or, red => if red then .redOr d q b x else .atomOr d q b x
  | .xor, red => if red then .redXor d q b x else .atomXor d q b x
  | .exch, red => if red then .redExch d q b x else .atomExch d q b x
  | .inc, red => if red then .redInc d q b x else .atomInc d q b x
  | .dec, red => if red then .redDec d q b x else .atomDec d q b x

/-- The operand of an atomic in a lane: under fadd a floating source, else the register's bits. -/
def State.atomData (s : State) (op : AtomOp) (d : Operand) (q : Bool) (l : Nat) : Nat :=
  if op = .fadd then s.src (if q then .f64 else (floatShape s.et).getD .f32) d l
  else s.dataOf d { bytes := rmwBytes q, regs := rmwBytes q / 4 } l

theorem exec_atomInstr (s : State) (d : Operand) (q : Bool) (b : Fin 32) (x : Operand) (op : AtomOp) (red : Bool) :
    exec (atomInstr d q b x op red) s = s.rmwUnit (op.opcode + if op.readsEt then 256 * s.et else 0) d (rmwBytes q / 4)
      (rmwBytes q) red
      (s.encCond (if red then s.srcBad (rmwBytes q / 4) d else dstBad (rmwBytes q / 4) d) 0x01 ++ s.atomConds op q) b x
      (fun l old => let r := atomNew op s.et (8 * rmwBytes q) old (s.atomData op d q l); (some r.1, r.2)) := by
  have hexec : exec (atomInstr d q b x op red) s = s.atomic op red d q b x := by cases op <;> cases red <;> rfl
  rw [hexec]
  cases q <;> rfl

/-- What holds of an operation's atom and its red, with the flag that tells them apart. -/
theorem forall_atom_red {d : Operand} {q : Bool} {b : Fin 32} {x : Operand} {op : AtomOp} {p : Instr × Bool → Prop}
    (h : ∀ red, p (atomInstr d q b x op red, red)) :
    ∀ y ∈ [(atomInstr d q b x op false, false), (atomInstr d q b x op true, true)], p y := by
  simpa using ⟨h false, h true⟩

/-- The element type is one under which integer atomics work (R278). -/
def State.AtomEt (s : State) : Prop := etOk s.et = true ∧ s.et ≠ 6 ∧ s.et ≠ 7

/-- The element type is one under which the floating atomic of a width works (R278). -/
def State.FaddEt (s : State) (q : Bool) : Prop := if q then s.et = 5 else s.et = 4 ∨ s.et = 8 ∨ s.et = 9

theorem State.FaddEt.atomEt {s : State} {q : Bool} (h : s.FaddEt q) : s.AtomEt := by
  have het : s.et = 5 ∨ s.et = 4 ∨ s.et = 8 ∨ s.et = 9 := by
    cases q
    · exact .inr h
    · exact .inl h
  simp only [State.AtomEt, etOk, decide_eq_true_eq]
  omega

theorem atomConds_nil {s : State} {op : AtomOp} {q : Bool} (het : op.readsEt = true → s.AtomEt)
    (hfadd : op = .fadd → s.FaddEt q) : s.atomConds op q = [] := by
  have hread : (op.readsEt && (!etOk s.et || s.et == 6 || s.et == 7)) = false := by
    cases hr : op.readsEt with
    | false => rfl
    | true =>
      obtain ⟨hok, h6, h7⟩ := het hr
      simp [hok, h6, h7]
  have hfloat : (op == .fadd && !(if q then s.et == 5 else s.et == 4 || s.et == 8 || s.et == 9)) = false := by
    by_cases hop : op = .fadd
    · have het := hfadd hop
      cases q
      · have hlisted : s.et = 4 ∨ s.et = 8 ∨ s.et = 9 := het
        simp only [Bool.false_eq_true, if_false]
        rcases hlisted with h | h | h <;> simp [h]
      · have hf64 : s.et = 5 := het
        simp [hf64]
    · simp [hop]
  simp only [State.atomConds, encCond_nil.mpr hread, encCond_nil.mpr hfloat, List.append_nil]

section AtomRules

variable {s : State} {d x : Operand} {q : Bool} {b : Fin 32} {is : List Item} {red : Bool} {op : AtomOp}
  (hx : s.srcBad 1 x = false) (hb : b.val % 2 = 0)
include hx hb

theorem atomInstr_exchanges (hc : s.atomConds op q = []) (hfits : s.RmwFits d x q b is (rmwBytes q / 4) red)
    (hnear : s.RmwNear d red is) :
    Exchanged (atomInstr d q b x op red) s d (rmwBytes q) red is
      (fun l old => let r := atomNew op s.et (8 * rmwBytes q) old (s.atomData op d q l); (some r.1, r.2)) :=
  rmwUnit_exchanges (exec_atomInstr s d q b x op red) hx hb (by rw [encCond_nil.mpr hfits.1, hc]; rfl) hfits hnear

theorem atomInstr_asks (hc : s.atomConds op q = []) (hfits : s.RmwFits d x q b is (rmwBytes q / 4) red)
    (hfar : s.RmwFar is) :
    Asked (atomInstr d q b x op red) s d (rmwBytes q) (rmwBytes q / 4)
      (op.opcode + if op.readsEt then 256 * s.et else 0) red is :=
  rmwUnit_asks (exec_atomInstr s d q b x op red) hx hb (by rw [encCond_nil.mpr hfits.1, hc]; rfl) hfits hfar

/-- An operation that logs nothing gives each lane its new value `g`, of the old value and of the lane's data. -/
theorem atomInstr_gives {g : Nat → Nat → Nat} (hc : s.atomConds op q = [])
    (hnew : ∀ old v, atomNew op s.et (8 * rmwBytes q) old v = (g old v, [])) (hop : op ≠ .fadd := by decide) :
    ∀ y ∈ [(atomInstr d q b x op false, false), (atomInstr d q b x op true, true)],
      s.RmwFits d x q b is (rmwBytes q / 4) y.2 → s.RmwNear d y.2 is →
      Exchanged y.1 s d (rmwBytes q) y.2 is
        (fun l old => (some (g old (s.dataOf d { bytes := rmwBytes q, regs := rmwBytes q / 4 } l)), [])) := by
  refine forall_atom_red (fun red hfits hnear => ?_)
  have hexchanged := atomInstr_exchanges hx hb hc hfits hnear
  simp only [hnew, State.atomData, hop, if_false] at hexchanged
  exact hexchanged

/-- Operations whose request carries the same mode `k` beside its opcode are asked of a peer (R117). -/
theorem atomInstr_asks_all {ops : List AtomOp} {k : Nat} (hc : ∀ op ∈ ops, s.atomConds op q = [])
    (hk : ∀ op ∈ ops, (if op.readsEt then 256 * s.et else 0) = k) (hfar : s.RmwFar is) :
    ∀ y ∈ ops.flatMap (fun op =>
        [(atomInstr d q b x op false, op.opcode, false), (atomInstr d q b x op true, op.opcode, true)]),
      s.RmwFits d x q b is (rmwBytes q / 4) y.2.2 → Asked y.1 s d (rmwBytes q) (rmwBytes q / 4) (y.2.1 + k) y.2.2 is := by
  intro y hy
  obtain ⟨op, hop, hy⟩ := List.mem_flatMap.mp hy
  rw [← hk op hop]
  simp only [List.mem_cons, List.not_mem_nil, or_false] at hy
  obtain rfl | rfl := hy
  · exact fun hfits => atomInstr_asks hx hb (hc op hop) hfits hfar
  · exact fun hfits => atomInstr_asks hx hb (hc op hop) hfits hfar

end AtomRules

/-- The value that min and max compare: signed under s32 and s64 (R278). -/
def State.atomVal (s : State) (q : Bool) (y : Nat) : Int :=
  if s.et = 1 ∨ s.et = 3 then signed (8 * rmwBytes q) y else y

theorem atomVal_eq (s : State) (q : Bool) (y : Nat) :
    (if (s.et == 1 || s.et == 3) = true then signed (8 * rmwBytes q) y else (y : Int)) = s.atomVal q y :=
  if_congr (by simp) rfl rfl

theorem atomNew_min (s : State) (q : Bool) (old v : Nat) : atomNew .min s.et (8 * rmwBytes q) old v =
    (if s.atomVal q v < s.atomVal q old then v else old, []) := by
  simp only [atomNew, atomVal_eq]

theorem atomNew_max (s : State) (q : Bool) (old v : Nat) : atomNew .max s.et (8 * rmwBytes q) old v =
    (if s.atomVal q old < s.atomVal q v then v else old, []) := by
  simp only [atomNew, atomVal_eq]

/-- Settles O34: every atomic is the one read-modify-write unit; what remains is each operation's new value and encoding. -/
theorem atomics : Obligations.Atomics := by
  unfold Obligations.Atomics
  intro d x q b is s hx hb ls n fits near far v val does
  have hplain : ∀ op : AtomOp, op.readsEt = false → s.atomConds op q = [] :=
    fun op hr => atomConds_nil (fun h => absurd h (by simp [hr])) (fun h => absurd hr (by rw [h]; decide))
  have hinteger : s.AtomEt → ∀ op : AtomOp, op ≠ .fadd → s.atomConds op q = [] :=
    fun het op hop => atomConds_nil (fun _ => het) (fun h => absurd h hop)
  have hfloat : s.FaddEt q → s.atomConds .fadd q = [] := fun het => atomConds_nil (fun _ => het.atomEt) (fun _ => het)
  refine ⟨fun hok h6 h7 => ?_, ?_, ?_, ?_, ?_, fun het => ?_, fun hfits hnear => ?_, fun hfar hfits => ?_, fun hfar => ?_,
    fun hfar hok h6 h7 => ?_, fun hfar het => ?_⟩
  · have hconds := hinteger ⟨hok, h6, h7⟩
    exact ⟨atomInstr_gives (op := .add) (g := fun old v => (old + v) % 2 ^ (8 * n))
        hx hb (hconds _ (by decide)) (fun _ _ => rfl),
      atomInstr_gives (op := .min) (g := fun old v => if val v < val old then v else old)
        hx hb (hconds _ (by decide)) (atomNew_min s q),
      atomInstr_gives (op := .max) (g := fun old v => if val old < val v then v else old)
        hx hb (hconds _ (by decide)) (atomNew_max s q),
      atomInstr_gives (op := .inc) (g := fun old v => if v ≤ old then 0 else old + 1)
        hx hb (hconds _ (by decide)) (fun _ _ => rfl),
      atomInstr_gives (op := .dec) (g := fun old v => if old = 0 ∨ v < old then v else old - 1)
        hx hb (hconds _ (by decide)) (fun _ _ => rfl)⟩
  · exact atomInstr_gives (op := .and) (g := fun old v => old &&& v) hx hb (hplain _ rfl) (fun _ _ => rfl)
  · exact atomInstr_gives (op := .or) (g := fun old v => old ||| v) hx hb (hplain _ rfl) (fun _ _ => rfl)
  · exact atomInstr_gives (op := .xor) (g := fun old v => old ^^^ v) hx hb (hplain _ rfl) (fun _ _ => rfl)
  · exact atomInstr_gives (op := .exch) (g := fun _ v => v) hx hb (hplain _ rfl) (fun _ _ => rfl)
  · exact forall_atom_red (op := .fadd) (fun _ => atomInstr_exchanges hx hb (hfloat het))
  · exact rmwUnit_exchanges (i := .cas d q b x) rfl hx hb (encCond_nil.mpr hfits.1) hfits hnear
  · exact rmwUnit_asks (i := .cas d q b x) rfl hx hb (encCond_nil.mpr hfits.1) hfits hfar
  · exact atomInstr_asks_all (ops := [.and, .or, .xor, .exch]) (k := 0) hx hb
      (fun op hop => hplain op (by revert op; decide)) (by simp [AtomOp.readsEt]) hfar
  · exact atomInstr_asks_all (ops := [.add, .min, .max, .inc, .dec]) (k := 256 * s.et) hx hb
      (fun op hop => hinteger ⟨hok, h6, h7⟩ op (by revert op; decide)) (by simp [AtomOp.readsEt]) hfar
  · exact forall_atom_red (op := .fadd) (fun _ hfits => atomInstr_asks hx hb (hfloat het) hfits hfar)

/-! Fences (R110, R111, R294). -/

section FenceRules

variable {s : State} (hw : s.wordsOk .plain)
include hw

theorem execFenceX_blocks {p q : Fin 8} (he : s.exec ≠ 0) (hv : p.val ≠ 0 ∨ q.val ≠ 0) (hi : p.val ≠ 1) :
    execFenceX p q s = .next (((s.retire .plain).fence s.wave.core p.val q.val s.wave.id).block s.frag.pc
      (.fence p.val q.val false)) := by
  rw [execFenceX, issueLive_next hw rfl he, if_neg (by omega), State.retire_wave]

/-- Path v orders itself, and a fence after path i has an empty before set (R110). -/
theorem execFenceX_passes {p q : Fin 8} (he : s.exec ≠ 0) (hp : (p.val = 0 ∧ q.val = 0) ∨ p.val = 1) :
    execFenceX p q s = .next (s.retire .plain) := by
  rw [execFenceX, issueLive_next hw rfl he, if_pos hp]

theorem execFenceH_blocks (he : s.exec ≠ 0) :
    execFenceH s = .next ((s.retire .plain).block s.frag.pc (.fence 7 7 true)) := issueLive_next hw rfl he

theorem execFenceX_idle {p q : Fin 8} (he : s.exec = 0) : execFenceX p q s = .next (s.retire .plain) :=
  issueLive_none hw rfl he

theorem execFenceH_idle (he : s.exec = 0) : execFenceH s = .next (s.retire .plain) := issueLive_none hw rfl he

end FenceRules

/-- Settles O39, by the paths that the fence names; without lanes neither form acts. -/
theorem fences : Obligations.Fences := by
  unfold Obligations.Fences
  intro p q wave slot s hw
  refine ⟨execFenceX_blocks hw, execFenceX_passes hw, execFenceH_blocks hw, fun he i hi => ?_, rfl⟩
  simp only [List.mem_cons, List.not_mem_nil, or_false] at hi
  obtain rfl | rfl := hi
  · exact execFenceX_idle hw he
  · exact execFenceH_idle hw he

end Sys2Proof.Machine

/-! ### Numbers: reductions, floating point, packed dots, generators (R123 to R157, R238, R239, R246 to R251, R257 to R259)

What follows settles the statements of chapter 6 of the spec about register instructions. Each form's meaning is one of the
shared forms, whose rule stands under Laws; what each instruction adds is its operation. -/

namespace Sys2Proof.Machine

/-! The floating chapter's forms (R126, R137, R244, R245). -/

theorem floatGives_of_exec {i : Instr} {s : State} {ok rounds : Bool} {d : Operand} {nd : Nat} {srcs : List (Nat × Operand)}
    {more : List Cond} {out : Nat → LaneOut} (h : exec i s = s.floatUnit ok rounds d nd srcs more out) :
    FloatGives i s ok rounds d nd srcs more out := by
  intro hready hrnd hmore
  rw [h]
  exact floatUnit_gives out hready hrnd hmore

theorem arithGives_of_exec {i : Instr} {s : State} {d : Operand} {srcs : List Operand} {rounds flushes : Bool}
    {pt : Mode → FFmt → Word → List Nat → Elem} {iv : Mode → FFmt → List Ivl → IvlOut}
    (h : exec i s = s.arithUnit d srcs rounds flushes pt iv) : ArithGives i s d srcs rounds flushes pt iv :=
  floatGives_of_exec h

/-- Settles O8: every form but fscale is the arithmetic unit with its point and its interval operation; fscale, whose second
operand is an integer, is the floating unit itself. -/
theorem floatArithmetic : Obligations.FloatArithmetic := by
  unfold Obligations.FloatArithmetic
  refine ⟨fun d a b s => ⟨?fadd, ?fsub, ?fmul, ?fdiv, ?ffma, ?fsqrt⟩,
    fun d a b s => ⟨?fmin, ?fmax, ?fabs, ?fneg, ?fround, ?ffrac, ?fscale⟩⟩
  case fscale => exact floatGives_of_exec rfl
  all_goals exact arithGives_of_exec rfl

/-! Comparison (R139, R249). -/

/-- A unit that has retired and set a predicate lane by lane. -/
theorem retire_setsPred {s : State} (hw : s.wordsOk .plain) (p : Nat) (v : Nat → Tri) :
    SetsPred (.next ((lanesOf s.exec).foldl (fun t l => t.setP p l (v l)) (s.retire .plain))) s p (lanesOf s.exec) v :=
  issue_next (eff := fun t => (lanesOf s.exec).foldl (fun t l => t.setP p l (v l)) t) hw rfl ▸
    issue_setsPred (cs := []) hw rfl

section FcmpRules

variable {s : State} {r p : Fin 16} {a b : Operand} (het : wideOk s.et = true) (hr : r.val < 7)
  (hsrcs : ∀ o ∈ [a, b], s.srcBad s.fsh.regs o = false)
  (hpois : s.poisonCond (.p p) [(s.fsh.regs, a), (s.fsh.regs, b)] = [])
include het hr hsrcs hpois

theorem fcmpConds_nil : s.encCond (!wideOk s.et) 0x01 ++ s.encCond (decide (7 ≤ r.val)) 0x01 ++
    s.encCond ([a, b].any (s.srcBad s.fsh.regs)) 0x01 ++ s.poisonCond (.p p) [(s.fsh.regs, a), (s.fsh.regs, b)] = [] := by
  rw [encCond_nil.mpr (by rw [het]; rfl), encCond_nil.mpr (decide_eq_false (by omega)),
    encCond_nil.mpr (any_srcBad_false hsrcs), hpois]
  rfl

/-- Intervals compare in three values, and log nothing. -/
theorem execFcmp_ivl (hw : s.wordsOk .plain) (hiv : s.fsh.isIvl = true) :
    let iv (o : Operand) (l : Nat) : Ivl := s.mode.readIvl s.ptFmt (s.src s.fsh o l)
    let em (l : Nat) : Bool := (iv a l).empty s.ptFmt || (iv b l).empty s.ptFmt
    s.emptyCond (.p p) em (fun _ => false) = [] →
      SetsPred (execFcmp r p a b s) s p.val (lanesOf s.exec)
        (fun l => fcmpIvl r.val (em l) ((iv a l).nums s.ptFmt) ((iv b l).nums s.ptFmt)) := by
  intro iv em hempty
  have hlog : ∀ t : State, t.logLanes s.frag.pc ((lanesOf s.exec).map (fun l => (l, {}))) = t :=
    fun t => logLanes_none t _ _ (by simp)
  simp only [execFcmp, hiv, if_true, hlog]
  refine issue_setsPred hw ?_
  rw [fcmpConds_nil het hr hsrcs hpois]
  exact hempty

/-- Points compare in two values, and what they met is logged. -/
theorem execFcmp_point (hw : s.wordsOk .plain) (hiv : s.fsh.isIvl = false) :
    let pt (o : Operand) (l : Nat) : Machine.Num := s.mode.read s.ptFmt (s.src s.fsh o l)
    execFcmp r p a b s = .next (State.logLanes
      ((lanesOf s.exec).foldl (fun t l => t.setP p.val l (if fcmpPoint r.val (pt a l) (pt b l) then .t else .f))
        (s.retire .plain))
      s.frag.pc ((lanesOf s.exec).map (fun l => (l, { ev := fcmpEv r.val (pt a l) (pt b l) : LaneOut })))) := by
  intro pt
  simp only [execFcmp, hiv, Bool.false_eq_true, if_false, List.append_nil]
  exact issue_next hw (fcmpConds_nil het hr hsrcs hpois)

end FcmpRules

/-- Settles O9: fcmp by its two kinds of operand; fcls and the special functions are the floating unit. -/
theorem floatCompareAndSpecials : Obligations.FloatCompareAndSpecials := by
  unfold Obligations.FloatCompareAndSpecials
  refine ⟨fun r p a b s hw het hr hsrcs hpois => ⟨fun hiv hempty => ?_, fun hiv => ?_⟩, fun d a s => ⟨?_, fun x hx => ?_⟩⟩
  · exact execFcmp_ivl het hr hsrcs hpois hw hiv hempty
  · exact ⟨_, retire_setsPred hw p.val _, execFcmp_point het hr hsrcs hpois hw hiv⟩
  · exact floatGives_of_exec rfl
  · have hexec : exec x.1 s = s.specialUnit d a x.2 := by
      simp only [List.mem_cons, List.not_mem_nil, or_false] at hx
      rcases hx with rfl | rfl | rfl | rfl | rfl | rfl <;> rfl
    exact floatGives_of_exec hexec

/-! Packed dots (R257, R258). -/

theorem foldl_add_eq_sum {α : Type} (f : α → Int) (xs : List α) (z : Int) :
    xs.foldl (fun t x => t + f x) z = z + (xs.map f).sum := by
  induction xs generalizing z with
  | nil => simp
  | cons x xs ih => rw [List.foldl_cons, ih, List.map_cons, List.sum_cons, Int.add_assoc]

/-- An integer dot's running sum is the addend and the sum of the products. -/
theorem foldl_products {f g : Nat → Int} (xs ys : List Nat) (z : Int) :
    ((xs.map f).zip (ys.map g)).foldl (fun t p => t + p.1 * p.2) z =
      z + ((xs.zip ys).map (fun e => f e.1 * g e.2)).sum := by
  rw [foldl_add_eq_sum (fun p : Int × Int => p.1 * p.2), List.zip_map, List.map_map]
  rfl

theorem runsDot_of_mem {d a b : Operand} {s : State} {x : Instr × List Nat × Nat × Nat}
    (hx : x ∈ [(Instr.dot2 d a b, [3, 4, 11, 12], 2, 16), (.dot4 d a b, [5, 6, 7, 13, 14], 4, 8),
      (.dot8 d a b, [10, 15, 16], 8, 4)]) : exec x.1 s = s.dotUnit x.2.1 x.2.2.1 x.2.2.2 d a b := by
  simp only [List.mem_cons, List.not_mem_nil, or_false] at hx
  rcases hx with rfl | rfl | rfl <;> rfl

/-- Settles O12: with legal descriptors no condition is left, and what the unit gives is its sum, by the element type. -/
theorem packedDots : Obligations.PackedDots := by
  unfold Obligations.PackedDots
  intro d a b s het ha hb hready hrnd x hx word elems int float hlegal
  have hbad : lanesWhere s.exec (fun l => !(dotWordOk x.2.1 (word a l) && dotWordOk x.2.1 (word b l) &&
      (codeFloat (word a l % 32)).isSome == (codeFloat (word b l % 32)).isSome &&
      (codeFloat (word a l % 32)).isSome == (s.et == 4))) = 0 := by
    refine lanesWhere_zero (fun l hl => ?_)
    obtain ⟨hwa, hwb, hsame, htype⟩ := hlegal l hl
    simp only [hwa, hwb, ← hsame, htype, beq_self_eq_true, Bool.and_self, Bool.not_true]
  have hround : (s.et == 4 && decide (6 ≤ s.rnd)) = false := by
    by_cases h4 : s.et = 4
    · simp [h4, hrnd h4]
    · simp [h4]
  have hconds : s.encCond (!(s.et == 0 || s.et == 1 || s.et == 4)) 0x01 ++ s.encCond (!a.isPair || !b.isPair) 0x01 ++
      laneCond 0x01 0 0 s.iss.word.toNat = [] := by
    rw [encCond_nil.mpr (by rcases het with h | h | h <;> rw [h] <;> rfl), encCond_nil.mpr (by rw [ha, hb]; rfl),
      laneCond_nil.mpr rfl]
    rfl
  rw [runsDot_of_mem hx]
  refine ⟨_, floatUnit_gives _ hready hround (hbad.symm ▸ hconds), fun l => ?_, fun l hint => ?_, fun l hflt => ?_⟩
  · simp only [List.any_cons, List.any_nil, Bool.or_false, Bool.or_assoc]
  · simp only [if_neg hint, foldl_products]
    exact ⟨rfl, rfl, trivial⟩
  · simp only [if_pos hflt]
    exact ⟨rfl, rfl, rfl⟩

/-! Generators (R132, R259). -/

theorem gens_foldl_set (ls : List Nat) (f : Nat → Word) (m : SMap Word) (k : Nat) :
    SMap.get 0 k (ls.foldl (fun m l => SMap.set 0 l (f l) m) m) = if k ∈ ls then f k else SMap.get 0 k m := by
  induction ls generalizing m with
  | nil => rfl
  | cons l ls ih =>
    rw [List.foldl_cons, ih]
    by_cases hk : k ∈ ls
    · rw [if_pos hk, if_pos (List.mem_cons_of_mem l hk)]
    · rw [if_neg hk]
      by_cases hl : k = l
      · subst hl
        rw [SMap.get_set_same, if_pos List.mem_cons_self]
      · rw [SMap.get_set_other _ hl, if_neg (by simp [hl, hk])]

@[simp] theorem State.setGens_gen (s : State) (ls : List Nat) (f : Nat → Word) (k : Nat) :
    (s.setGens ls f).gen k = if k ∈ ls then f k else s.gen k := gens_foldl_set ls f s.wave.gens k

/-- Setting generators after a unit's writes leaves the registers and the rest of the state as they are. -/
theorem retired_setGens {s t : State} {k : UnitKind} (h : Retired k s t) (ls : List Nat) (f : Nat → Word) :
    Retired k s (t.setGens ls f) := by
  unfold Retired at h ⊢
  conv => lhs; rw [h]
  rfl

theorem wrote_setGens {s t : State} {d : Operand} {n : Nat} {rs : List Nat} {v : Nat → Nat} {p : Nat → Bool}
    (h : Wrote s t d n rs v p) (ls : List Nat) (f : Nat → Word) : Wrote s (t.setGens ls f) d n rs v p := by
  cases d <;> exact h

/-- rnext and rnext.h (R259). -/
theorem rnextUnit_steps {s : State} {d : Operand} (f : Word × Nat → Nat) (hw : s.wordsOk .plain) (hd : dstBad 1 d = false) :
    ∃ t, s.rnextUnit d f = .next t ∧ Retired .plain s t ∧
      Wrote s t d 1 (runLanes d s.exec) (fun l => f (stoStep (s.gen l))) (fun _ => false) ∧
      ∀ l, l < 32 → t.gen l = if l ∈ lanesOf s.exec then (stoStep (s.gen l)).1 else s.gen l := by
  obtain ⟨u, hu, hretired, hwrote, hgens⟩ := issue_writes (cs := []) (n := 1)
    (out := fun l => { v := f (stoStep (s.gen l)) }) hw rfl (lanesFor_run d s.exec) (dstBad_isReg hd) (fun _ _ => rfl)
  rw [issue_next hw rfl, Host.Outcome.next.injEq] at hu
  refine ⟨_, issue_next hw (encCond_nil.mpr hd), ?_, ?_, fun l _ => ?_⟩
  · exact hu ▸ retired_setGens hretired _ _
  · exact hu ▸ wrote_setGens hwrote _ _
  · rw [State.setGens_gen, hu, show u.gen l = s.gen l from congrArg (SMap.get 0 l) hgens]

/-- Settles O13: rseed sets generators alone; the two forms of rnext differ in the word that they write. -/
theorem generators : Obligations.Generators := by
  unfold Obligations.Generators
  intro d a s hw
  refine ⟨fun ha hclean => ?_, fun hd x hx => ?_⟩
  · have hconds : s.encCond (s.srcBad 1 a) 0x01 ++ s.cleanCond [(1, a)] = [] := by
      rw [encCond_nil.mpr ha, hclean]
      rfl
    have hnext : execRseed a s =
        .next ((s.retire .plain).setGens (lanesOf s.exec) (fun l => BitVec.ofNat 32 (s.int a l))) := issue_next hw hconds
    refine ⟨_, hnext, rfl, fun l _ => ?_⟩
    rw [State.setGens_gen, State.retire_gen]
  · simp only [List.mem_cons, List.not_mem_nil, or_false] at hx
    obtain rfl | rfl := hx
    · exact rnextUnit_steps (fun r => r.1.toNat) hw hd
    · exact rnextUnit_steps (fun r => r.2) hw hd

/-! Reductions (R150, R238, R239). -/

/-- A reduction without a condition completes: its lanes are written, and then the generators of its nodes (R132, R416). -/
theorem finishRed_reduces {i : Instr} {s : State} {d : Operand} {op : Nat} {out : Nat → LaneOut} {r : RedState}
    {cs : List Cond} (hw : s.wordsOk .plain) (hc : cs = []) (hd : dstBad (s.redShape op).regs d = false)
    (hi : exec i s = s.issue cs (fun t => t.finishRed s.frag.pc d (s.redShape op).regs
      ((runLanes d s.exec).map (fun l => (l, out l))) r)) (hg : ∀ l ∈ runLanes d s.exec, (out l).gen = none) :
    Reduces i s d op out r := by
  obtain ⟨u, hu, hretired, hwrote, -⟩ := issue_writes (cs := []) hw rfl (lanesFor_run d s.exec) (dstBad_isReg hd) hg
  rw [issue_next hw rfl, Host.Outcome.next.injEq] at hu
  refine ⟨{ u with wave := { u.wave with gens := r.gens } }, ?_, rfl, ?_, ?_⟩
  · unfold Retired at hretired ⊢
    conv => lhs; rw [hretired]
  · cases d <;> exact hwrote
  · rw [hi, issue_next hw hc, State.finishRed, hu]

theorem redConds_dst {s : State} {d a : Operand} {op : Nat} (h : s.redConds d a op = []) :
    dstBad (s.redShape op).regs d = false := by
  simp only [State.redConds, List.append_eq_nil_iff, encCond_nil] at h
  obtain ⟨⟨-, hd⟩, -⟩ := h
  exact hd

/-- A reduction whose sources are clean, or go to a vector, raises no poison (R222). -/
theorem redPois_nil {d : Operand} {m : LaneMask} {c : Nat} (h : d.isV = true ∨ m = 0) :
    (if d.isV then [] else laneCond 0x0A m 0 c) = [] := by
  rcases h with h | h
  · rw [if_pos h]
  · rw [laneCond_nil.mpr h, ite_self]

theorem any_srcPois_false {s : State} {n : Nat} {a : Operand} (h : ∀ l ∈ lanesOf s.exec, s.srcPois n a l = false)
    (p : Nat → Bool) : ((lanesOf s.exec).filter p).any (s.srcPois n a) = false :=
  List.any_eq_false.mpr (fun l hl => by simp [h l (List.mem_of_mem_filter hl)])

/-- Settles O7: each of the two leaves no condition, puts its tree's results and generators in place and logs its nodes. -/
theorem reductions : Obligations.Reductions := by
  unfold Obligations.Reductions
  intro d a o e q s
  constructor
  · rintro ho res out ⟨hw, hconds, hempty, hpois⟩
    have hexec : exec (.redux d a o) s = s.issue (s.redConds d a o.toNat ++ s.encCond (decide (16 ≤ o.toNat)) 0x02 ++
        (if d.isV then [] else laneCond 0x0A (lanesWhere s.exec (s.srcPois (s.redShape o.toNat).regs a)) 0 a.code) ++
        laneCond 0x06 (s.emptyIn (s.redShape o.toNat) [a] |||
          s.emptyOut (s.redShape o.toNat) ((runLanes d s.exec).map (fun l => (l, out l)))))
        (fun t => t.finishRed s.frag.pc d (s.redShape o.toNat).regs ((runLanes d s.exec).map (fun l => (l, out l))) res.2) := by
      change execRedux d a o s = _
      rw [execRedux, Nat.mod_eq_of_lt ho] <;> rfl
    refine finishRed_reduces hw ?_ (redConds_dst hconds) hexec (fun _ _ => rfl)
    rw [hconds, encCond_nil.mpr (decide_eq_false (by omega)), redPois_nil (hpois.imp_right lanesWhere_zero), hempty]
    rfl
  · rintro res upTo out ⟨hw, hconds, hempty, hpois⟩
    refine finishRed_reduces hw ?_ (redConds_dst hconds) (show execScan d a e q s = _ from rfl) (fun _ _ => rfl)
    have hbad : d.isV = true ∨ maskOf ((((runLanes d s.exec).map (fun l => (l, out l))).filter (·.2.pois)).map (·.1)) = 0 := by
      refine hpois.imp_right (fun hclean => ?_)
      rw [List.filter_eq_nil_iff.mpr]
      · rfl
      · simp only [List.forall_mem_map]
        exact fun l _ => by simp [out, any_srcPois_false hclean]
    rw [hconds, redPois_nil hbad, hempty]
    rfl

end Sys2Proof.Machine

/-! ### Tiles in registers (R141, R142, R147, R223, R300, R317 to R320) -/

namespace Sys2Proof.Machine

/-! What a write of a tile's registers leaves alone. -/

/-- `t` is `s` but for vector registers `d` to `d + m` in the lanes of `e`. -/
structure State.SameButTile (s t : State) (e : LaneMask) (d m : Nat) : Prop where
  rest : t = { s with wave := { s.wave with vregs := t.wave.vregs, vpois := t.wave.vpois } }
  keeps : ∀ q l, l < 32 → (l ∉ lanesOf e ∨ q < d ∨ d + m < q) → t.vreg q l = s.vreg q l ∧ t.vpoison q l = s.vpoison q l

theorem State.SameButTile.refl (s : State) (e : LaneMask) (d m : Nat) : s.SameButTile s e d m :=
  ⟨rfl, fun _ _ _ _ => ⟨rfl, rfl⟩⟩

theorem State.SameButTile.trans {s t u : State} {e : LaneMask} {d m : Nat} (h : s.SameButTile t e d m)
    (k : t.SameButTile u e d m) : s.SameButTile u e d m where
  rest := by
    conv => lhs; rw [k.rest, h.rest]
  keeps q l hl hout := by
    obtain ⟨hreg, hpois⟩ := h.keeps q l hl hout
    obtain ⟨kreg, kpois⟩ := k.keeps q l hl hout
    exact ⟨kreg.trans hreg, kpois.trans hpois⟩

theorem setV_sameButTile (s : State) {e : LaneMask} {d m l q : Nat} (v : Nat) (p : Bool) (hl : l ∈ lanesOf e) (hq : q ≤ m) :
    s.SameButTile (s.setV (d + q) l 1 v p) e d m where
  rest := setV_frame s (d + q) l 1 v p
  keeps r k hk hout := by
    have hother : ¬(k = l ∧ d + q ≤ r ∧ r < d + q + 1) := by
      rintro ⟨rfl, hlow, hhigh⟩
      rcases hout with h | h | h
      · exact h hl
      · omega
      · omega
    obtain ⟨hreg, hpois⟩ := setV_reads s (d + q) l 1 v p (mem_lanesOf.mp hl).1 r k hk
    exact ⟨hreg.trans (if_neg hother), hpois.trans (if_neg hother)⟩

/-- Steps that each change no more than a tile's registers change no more together. -/
theorem foldl_sameButTile {α : Type} {f : State → α → State} {xs : List α} {s : State} {e : LaneMask} {d m : Nat}
    (h : ∀ t : State, ∀ x ∈ xs, t.SameButTile (f t x) e d m) : s.SameButTile (xs.foldl f s) e d m :=
  List.foldlRecOn xs f (motive := fun t => s.SameButTile t e d m) (.refl s e d m) (fun t ht x hx => ht.trans (h t x hx))

/-! The registers of a tile (R317). -/

/-- Writes register `d + q` of each lane of `ls` with what `v` gives for `q` and the lane, for `q` below `k`. -/
def State.putRegs (s : State) (ls : List Nat) (d k : Nat) (v : Nat → Nat → Nat × Bool) : State :=
  ls.foldl (fun t l => (List.range k).foldl (fun t q => t.setV (d + q) l 1 (v q l).1 (v q l).2) t) s

theorem foldl_setV_reads (s : State) {d l : Nat} (hl : l < 32) (k : Nat) (v : Nat → Nat × Bool) {r l' : Nat} (hl' : l' < 32) :
    let t := (List.range k).foldl (fun t q => t.setV (d + q) l 1 (v q).1 (v q).2) s
    t.vreg r l' = (if l' = l ∧ d ≤ r ∧ r < d + k then BitVec.ofNat 32 (v (r - d)).1 else s.vreg r l') ∧
    t.vpoison r l' = (if l' = l ∧ d ≤ r ∧ r < d + k then (v (r - d)).2 else s.vpoison r l') := by
  induction k with
  | zero =>
    have hnone : ¬(l' = l ∧ d ≤ r ∧ r < d + 0) := by omega
    exact ⟨(if_neg hnone).symm, (if_neg hnone).symm⟩
  | succ k ih =>
    intro t
    have ht : t = State.setV ((List.range k).foldl (fun t q => t.setV (d + q) l 1 (v q).1 (v q).2) s) (d + k) l 1
        (v k).1 (v k).2 := by
      simp only [t, List.range_succ, List.foldl_append, List.foldl_cons, List.foldl_nil]
    obtain ⟨hreg, hpois⟩ := setV_reads ((List.range k).foldl (fun t q => t.setV (d + q) l 1 (v q).1 (v q).2) s) (d + k) l 1
      (v k).1 (v k).2 hl r l' hl'
    rw [ht, hreg, hpois, ih.1, ih.2]
    by_cases hlast : l' = l ∧ r = d + k
    · obtain ⟨rfl, rfl⟩ := hlast
      simp
    · have hnew : ¬(l' = l ∧ d + k ≤ r ∧ r < d + k + 1) := by omega
      have hold : (l' = l ∧ d ≤ r ∧ r < d + (k + 1)) ↔ (l' = l ∧ d ≤ r ∧ r < d + k) := by omega
      simp only [hnew, hold, if_false, and_self]

theorem putRegs_reads (s : State) {ls : List Nat} (hls : ∀ l ∈ ls, l < 32) (d : Nat) {k q l : Nat}
    (v : Nat → Nat → Nat × Bool) (hl : l < 32) (hq : q < k) :
    (s.putRegs ls d k v).vreg (d + q) l = (if l ∈ ls then BitVec.ofNat 32 (v q l).1 else s.vreg (d + q) l) ∧
      (s.putRegs ls d k v).vpoison (d + q) l = (if l ∈ ls then (v q l).2 else s.vpoison (d + q) l) := by
  induction ls generalizing s with
  | nil => exact ⟨rfl, rfl⟩
  | cons x xs ih =>
    obtain ⟨hreg, hpois⟩ := foldl_setV_reads s (hls x (by simp)) k (fun q => v q x) (d := d) (r := d + q) hl
    simp only [Nat.le_add_right, Nat.add_lt_add_iff_left, hq, and_self, and_true, Nat.add_sub_cancel_left] at hreg hpois
    obtain ⟨ihreg, ihpois⟩ := ih ((List.range k).foldl (fun t q => t.setV (d + q) x 1 (v q x).1 (v q x).2) s)
      (fun y hy => hls y (by simp [hy]))
    rw [hreg] at ihreg
    rw [hpois] at ihpois
    by_cases hx : l = x
    · subst hx
      simp only [if_true, ite_self] at ihreg ihpois
      simpa only [List.mem_cons, true_or, if_true] using ⟨ihreg, ihpois⟩
    · simp only [if_neg hx] at ihreg ihpois
      simpa only [List.mem_cons, hx, false_or] using ⟨ihreg, ihpois⟩

/-- What a register tile image holds for register `q` of lane `l`: the payload's, then the header's. -/
def imageReg (m : Nat) (pay : List (Byte × Bool)) (hdr : List (Nat × Bool)) (q l : Nat) : Nat × Bool :=
  if q < m then
    let bs := (List.range 4).map (fun i => pay.getD (128 * q + 4 * l + i) (0, false))
    (natOfBytes (bs.map (·.1)), bs.any (·.2))
  else hdr.getD l (0, false)

theorem putImage_eq_putRegs (t : State) (e : LaneMask) (d m : Nat) (pay : List (Byte × Bool)) (hdr : List (Nat × Bool)) :
    t.putImage e d m pay hdr = t.putRegs (lanesOf e) d (m + 1) (imageReg m pay hdr) := by
  have hpay : ∀ (l : Nat) (t : State), (List.range m).foldl (fun t q =>
      t.setV (d + q) l 1 (imageReg m pay hdr q l).1 (imageReg m pay hdr q l).2) t = (List.range m).foldl (fun t q =>
        let bs := (List.range 4).map (fun i => pay.getD (128 * q + 4 * l + i) (0, false))
        t.setV (d + q) l 1 (natOfBytes (bs.map (·.1))) (bs.any (·.2))) t := fun l t =>
    List.foldl_ext _ _ t (fun t q hq => by simp only [imageReg, if_pos (List.mem_range.mp hq)])
  have hhdr : ∀ l, imageReg m pay hdr m l = hdr.getD l (0, false) := fun l => if_neg (Nat.lt_irrefl m)
  simp only [State.putRegs, List.range_succ, List.foldl_append, List.foldl_cons, List.foldl_nil, hpay, hhdr]
  rfl

theorem putImage_sameButTile (t : State) (e : LaneMask) (d m : Nat) (pay : List (Byte × Bool)) (hdr : List (Nat × Bool)) :
    t.SameButTile (t.putImage e d m pay hdr) e d m := by
  rw [putImage_eq_putRegs]
  exact foldl_sameButTile (fun t l hl => foldl_sameButTile (fun t q hq =>
    setV_sameButTile t _ _ hl (Nat.lt_succ_iff.mp (List.mem_range.mp hq))))

theorem fst_getD {α : Type} (xs : List (α × Bool)) (x : α) (i : Nat) :
    (xs.getD i (x, false)).1 = (xs.map (·.1)).getD i x := (List.getD_map xs (x, false) (·.1)).symm

theorem map_tag_fst {α : Type} (xs : List α) (b : Bool) : (xs.map (fun x => (x, b))).map (·.1) = xs := by
  rw [List.map_map]
  exact List.map_id xs

theorem snd_getD_false {α : Type} {xs : List (α × Bool)} (h : ∀ y ∈ xs, y.2 = false) (x : α) (i : Nat) :
    (xs.getD i (x, false)).2 = false := by
  by_cases hi : i < xs.length
  · rw [List.getD_eq_getElem _ _ hi]
    exact h _ (List.getElem_mem hi)
  · rw [List.getD_eq_default _ _ (Nat.le_of_not_lt hi)]

theorem imageReg_payload {m : Nat} (pay : List (Byte × Bool)) (hdr : List (Nat × Bool)) {q : Nat} (l : Nat) (hq : q < m) :
    (imageReg m pay hdr q l).1 = natAt (pay.map (·.1)) (128 * q + 4 * l) 4 := by
  rw [imageReg, if_pos hq]
  simp only [natAt, slice, List.map_map, Function.comp_def, fst_getD]

theorem imageReg_header (m : Nat) (pay : List (Byte × Bool)) (hdr : List (Nat × Bool)) (l : Nat) :
    (imageReg m pay hdr m l).1 = (hdr.map (·.1)).getD l 0 := by
  rw [imageReg, if_neg (Nat.lt_irrefl m), fst_getD]

theorem imageReg_clean {m : Nat} {pay : List (Byte × Bool)} {hdr : List (Nat × Bool)} (hp : ∀ y ∈ pay, y.2 = false)
    (hh : ∀ y ∈ hdr, y.2 = false) (q l : Nat) : (imageReg m pay hdr q l).2 = false := by
  rw [imageReg]
  split
  · simp only [List.any_map, List.any_eq_false, Function.comp_def, snd_getD_false hp]
    simp
  · exact snd_getD_false hh 0 l

theorem natOfBytes_lt (bs : List Byte) : natOfBytes bs < 2 ^ (8 * bs.length) := by
  induction bs with
  | nil => simp [natOfBytes]
  | cons b bs ih =>
    have hpow : 2 ^ (8 * (bs.length + 1)) = 256 * 2 ^ (8 * bs.length) := by rw [Nat.mul_succ, Nat.pow_add, Nat.mul_comm]
    rw [natOfBytes, List.length_cons, hpow]
    have := b.isLt
    omega

theorem natAt_lt (bs : List Byte) (i n : Nat) : natAt bs i n < 2 ^ (8 * n) := by
  simpa [natAt, slice] using natOfBytes_lt (slice bs i n)

/-- What the registers of a clean image hold. -/
theorem putImage_reads (t : State) {e : LaneMask} (d m : Nat) {pay : List (Byte × Bool)} {hdr : List (Nat × Bool)}
    (hp : ∀ y ∈ pay, y.2 = false) (hh : ∀ y ∈ hdr, y.2 = false) {l : Nat} (hl : l ∈ lanesOf e) :
    let u := t.putImage e d m pay hdr
    (∀ q, q < m → (u.vreg (d + q) l).toNat = natAt (pay.map (·.1)) (128 * q + 4 * l) 4) ∧
      u.vreg (d + m) l = BitVec.ofNat 32 ((hdr.map (·.1)).getD l 0) ∧ ∀ q, q ≤ m → u.vpoison (d + q) l = false := by
  intro u
  have hreads : ∀ q, q ≤ m → u.vreg (d + q) l = BitVec.ofNat 32 (imageReg m pay hdr q l).1 ∧
      u.vpoison (d + q) l = (imageReg m pay hdr q l).2 := by
    intro q hq
    obtain ⟨hreg, hpois⟩ := putRegs_reads t (fun k hk => (mem_lanesOf.mp hk).1) d (imageReg m pay hdr) (mem_lanesOf.mp hl).1
      (Nat.lt_succ_of_le hq)
    rw [if_pos hl, ← putImage_eq_putRegs] at hreg hpois
    exact ⟨hreg, hpois⟩
  refine ⟨fun q hq => ?_, ?_, fun q hq => ?_⟩
  · rw [(hreads q hq.le).1, imageReg_payload pay hdr l hq, BitVec.toNat_ofNat, Nat.mod_eq_of_lt (natAt_lt _ _ 4)]
  · rw [(hreads m le_rfl).1, imageReg_header]
  · rw [(hreads q hq).2, imageReg_clean hp hh]

/-! tld and tld.t (R318). -/

/-- The payload of the image that a stored payload gives, transposed where `tr`; `n` bits an element. -/
def loadedBytes (n : Nat) (tr : Bool) (pay : List Byte) : List Byte :=
  bytesOf (32 * n)
    (((List.range 256).map (fun k => field (natOfBytes pay) (n * tileSource tr k) n)).foldr (fun e v => e + 2 ^ n * v) 0)

/-- The same with poison: a byte's is that of the bytes that supply its bits. -/
def loadedTagged (n : Nat) (tr : Bool) (pay : List (Byte × Bool)) : List (Byte × Bool) :=
  (loadedBytes n tr (pay.map (·.1))).zipIdx.map (fun y => (y.1,
    if pay.any (·.2) then
      (List.range 8).any (fun j =>
        (pay.getD ((n * tileSource tr ((8 * y.2 + j) / n) + (8 * y.2 + j) % n) / 8) (0, false)).2)
    else false))

/-- The words of the image that a stored header gives, rows' and columns' exchanged where `tr`. -/
def loadedWords (tr : Bool) (h : List Byte) : List Nat :=
  [natAt h 0 2, natAt h (if tr then 6 else 2) 4, natAt h (if tr then 2 else 6) 4]

theorem loadedTagged_fst (n : Nat) (tr : Bool) (pay : List (Byte × Bool)) :
    (loadedTagged n tr pay).map (·.1) = loadedBytes n tr (pay.map (·.1)) := by
  rw [loadedTagged, List.map_map]
  exact List.zipIdx_map_fst 0 _

theorem loadedTagged_clean {n : Nat} {tr : Bool} {pay : List (Byte × Bool)} (h : pay.any (·.2) = false) :
    ∀ y ∈ loadedTagged n tr pay, y.2 = false := by
  simp only [loadedTagged, List.forall_mem_map, h, Bool.false_eq_true, if_false, implies_true]

theorem loadedWords_lt (tr : Bool) (h : List Byte) (l : Nat) : (loadedWords tr h).getD l 0 < 2 ^ 32 := by
  match l with
  | 0 => exact (natAt_lt h 0 2).trans (by decide)
  | 1 => exact natAt_lt h _ 4
  | 2 => exact natAt_lt h _ 4
  | _ + 3 => exact Nat.two_pow_pos 32

/-- The state after a tile's load: its sectors have been read at one timestamp, and its registers written. -/
def State.loadTile (s : State) (d w : Nat) (is : List Item) (tr : Bool) : State :=
  let r := readRunTogether (s.sharedItems is) (s.begun is)
  let n := 32 * classBits_ w
  r.2.putImage s.exec d (classRegs w) (loadedTagged (classBits_ w) tr (r.1.take n))
    ((loadedWords tr ((r.1.drop n).map (·.1))).map (fun v => (v, (r.1.drop n).any (·.2))))

theorem tileLoad_next {s : State} {d x : Operand} {w : Nat} {b : Fin 32} {is : List Item} (hw : s.wordsOk .plain)
    (he : s.exec ≠ 0) (hc : s.tileConds d w b x = []) (hr : s.tileItems .read w b x = is.map .ok)
    (hh : ∀ i ∈ is, s.heldItem i = false) (tr : Bool) : s.tileLoad d w b x tr = .next (s.loadTile d.num w is tr) :=
  (issueItems_next hw hc hr hh).trans (congrArg _ (if_neg he))

/-- What the tile's registers hold when no sector of it is poisoned. -/
theorem loadTile_reads {s : State} {d w : Nat} {is : List Item} {tr : Bool} {l : Nat} (hl : l ∈ lanesOf s.exec) :
    let r := readRunTogether (s.sharedItems is) (s.begun is)
    let n := 32 * classBits_ w
    (∀ z ∈ r.1, z.2 = false) →
      (∀ q, q < classRegs w → ((s.loadTile d w is tr).vreg (d + q) l).toNat =
        natAt (loadedBytes (classBits_ w) tr ((r.1.take n).map (·.1))) (128 * q + 4 * l) 4) ∧
      ((s.loadTile d w is tr).vreg (d + classRegs w) l).toNat = (loadedWords tr ((r.1.drop n).map (·.1))).getD l 0 ∧
      ∀ q, q ≤ classRegs w → (s.loadTile d w is tr).vpoison (d + q) l = false := by
  intro r n hclean
  have hpay : (r.1.take n).any (·.2) = false :=
    List.any_eq_false.mpr (fun z hz => by simp [hclean z (List.mem_of_mem_take hz)])
  have hhead : (r.1.drop n).any (·.2) = false :=
    List.any_eq_false.mpr (fun z hz => by simp [hclean z (List.mem_of_mem_drop hz)])
  have hwords : ∀ y ∈ (loadedWords tr ((r.1.drop n).map (·.1))).map (fun v => (v, (r.1.drop n).any (·.2))), y.2 = false := by
    simp only [List.forall_mem_map, hhead, implies_true]
  obtain ⟨hregs, hlast, hpois⟩ := putImage_reads r.2 d (classRegs w) (loadedTagged_clean hpay) hwords hl
  rw [loadedTagged_fst] at hregs
  refine ⟨hregs, (congrArg BitVec.toNat hlast).trans ?_, hpois⟩
  rw [map_tag_fst, BitVec.toNat_ofNat, Nat.mod_eq_of_lt (loadedWords_lt tr _ l)]

/-! tst (R319) and tscale (R320): an absent lane reads as zero, without poison. -/

theorem State.laneWord_toNat (s : State) (r l : Nat) :
    (s.laneWord r l).toNat = if s.wave.present.getLsbD l then (s.vreg r l).toNat else 0 := apply_ite BitVec.toNat _ _ _

theorem lanePois_false {s : State} {r l : Nat} (h : s.wave.present.getLsbD l = true → s.vpoison r l = false) :
    s.lanePois r l = false := by
  rw [State.lanePois, Bool.and_eq_false_iff]
  cases hp : s.wave.present.getLsbD l with
  | false => exact .inl rfl
  | true => exact .inr (h hp)

/-- A tile whose registers are clean is stored: its image, 16 bytes to an access, at one timestamp. -/
theorem execTst_stores {s : State} {d x : Operand} {w : Fin 8} {b : Fin 32} {is : List Item} (hw : s.wordsOk .plain)
    (hc : s.tileConds d w.val b x = []) (hr : s.tileItems .write w.val b x = is.map .ok)
    (hh : ∀ i ∈ is, s.heldItem i = false)
    (hclean : ∀ l, l < 32 → (∀ q, q < classRegs w.val → s.lanePois (d.num + q) l = false) ∧
      (l < 3 → s.lanePois (d.num + classRegs w.val) l = false)) :
    let word (r l : Nat) : Nat := (s.laneWord r l).toNat
    let h (l : Nat) : Nat := word (d.num + classRegs w.val) l
    let pay := (List.range (classRegs w.val)).flatMap (fun q => (List.range 32).flatMap (fun l => bytesOf 4 (word (d.num + q) l)))
    let image := pay.take (32 * classBits_ w.val) ++ bytesOf 2 (h 0) ++ bytesOf 4 (h 1) ++ bytesOf 4 (h 2) ++ List.replicate 6 0
    execTst d w b x s = .next ((s.begun is).writeTogether
      ((s.sharedItems is).zipIdx.map (fun i => (i.1, (image.drop (16 * i.2)).take 16)))) := by
  have hbad : (List.range 32).filter (fun l => (List.range (classRegs w.val)).any (fun q => s.lanePois (d.num + q) l) ||
      (decide (l < 3) && s.lanePois (d.num + classRegs w.val) l)) = [] := by
    refine List.filter_eq_nil_iff.mpr (fun l hl => ?_)
    obtain ⟨hpay, hhead⟩ := hclean l (List.mem_range.mp hl)
    simpa using ⟨hpay, hhead⟩
  refine issueItems_next hw ?_ hr hh
  rw [hbad, hc, maskOf_nil, ite_self]
  rfl

/-- tscale's tile: the scaled values of the registers that it reads (R320). -/
def State.scaledTile (s : State) (a f : Nat) : Requant :=
  requant f s.rnd s.flushBit
    ((List.range 256).map (fun k => s.mode.read .f32 (s.laneWord (a + k / 32) (k % 32)).toNat))
    ((List.range 256).map (fun k => if s.rnd = 5 then (drawSteps (s.gen (k % 32)) 8).1.getD (k / 32) 0 else 0))

/-- The poison of tscale's operand, which goes to every register of its tile. -/
def State.scalePois (s : State) (a : Nat) : Bool :=
  (List.range 8).any (fun r => (List.range 32).any (fun l => s.lanePois (a + r) l))

/-- Poisons registers `d` to `d + m` in the lanes of `e`. -/
def State.poisonTile (t : State) (e : LaneMask) (d m : Nat) : State :=
  (lanesOf e).foldl (fun t l => (List.range (m + 1)).foldl (fun t i => t.setV (d + i) l 1 (t.vreg (d + i) l).toNat true) t) t

theorem poisonTile_sameButTile (t : State) (e : LaneMask) (d m : Nat) : t.SameButTile (t.poisonTile e d m) e d m :=
  foldl_sameButTile (fun _ _ hl => foldl_sameButTile (fun t _ hq =>
    setV_sameButTile t _ _ hl (Nat.lt_succ_iff.mp (List.mem_range.mp hq))))

/-- The registers that tscale has written: the tile's image in `m` registers and its header. -/
def State.putScaled (s t : State) (d a f m : Nat) : State :=
  let q := s.scaledTile a f
  let bad := s.scalePois a
  let pay := bytesOf (32 * fmtBits f) (q.elems.foldr (fun e v => e.bits + 2 ^ fmtBits f * v) 0)
  let u := t.putImage s.exec d m (pay.map (fun b => (b, bad))) ([q.s + 256 * f, q.rho, q.gam].map (fun v => (v, bad)))
  if bad then u.poisonTile s.exec d m else u

theorem putScaled_sameButTile (s t : State) (d a f m : Nat) : t.SameButTile (s.putScaled t d a f m) s.exec d m := by
  rw [State.putScaled]
  split
  · exact (putImage_sameButTile ..).trans (poisonTile_sameButTile ..)
  · exact putImage_sameButTile ..

theorem putScaled_reads {s : State} (t : State) (d : Nat) {a : Nat} (f m : Nat) (hclean : s.scalePois a = false) {l : Nat}
    (hl : l ∈ lanesOf s.exec) :
    let q := s.scaledTile a f
    let u := s.putScaled t d a f m
    (∀ r, r < m → (u.vreg (d + r) l).toNat =
      natAt (bytesOf (32 * fmtBits f) (q.elems.foldr (fun e v => e.bits + 2 ^ fmtBits f * v) 0)) (128 * r + 4 * l) 4) ∧
    u.vreg (d + m) l = BitVec.ofNat 32 ([q.s + 256 * f, q.rho, q.gam].getD l 0) ∧ ∀ r, r ≤ m → u.vpoison (d + r) l = false := by
  intro q u
  have hu : u = t.putImage s.exec d m
      ((bytesOf (32 * fmtBits f) (q.elems.foldr (fun e v => e.bits + 2 ^ fmtBits f * v) 0)).map (fun b => (b, false)))
      ([q.s + 256 * f, q.rho, q.gam].map (fun v => (v, false))) := by
    simp only [u, State.putScaled, hclean, Bool.false_eq_true, if_false]
    rfl
  have hreads := putImage_reads t d m (by simp : ∀ y ∈ (bytesOf (32 * fmtBits f) (q.elems.foldr
    (fun e v => e.bits + 2 ^ fmtBits f * v) 0)).map (fun b => (b, false)), y.2 = false)
    (by simp : ∀ y ∈ [q.s + 256 * f, q.rho, q.gam].map (fun v => (v, false)), y.2 = false) hl
  rwa [map_tag_fst, map_tag_fst, ← hu] at hreads

/-- The generators of the present lanes step eight times under STO, once for each value of a lane. -/
def State.scaleGens (s u : State) : State :=
  if s.rnd = 5 then u.setGens (lanesOf s.wave.present) (fun l => (drawSteps (s.gen l) 8).2) else u

theorem scaleGens_same (s u : State) : SameV u (s.scaleGens u) ∧ (s.scaleGens u).wave.xregs = u.wave.xregs ∧
    (s.scaleGens u).wave.preds = u.wave.preds := by
  unfold State.scaleGens
  split <;> exact ⟨⟨rfl, rfl⟩, rfl, rfl⟩

theorem scaleGens_retired {s u : State} {k : UnitKind} (h : Retired k s u) : Retired k s (s.scaleGens u) := by
  unfold State.scaleGens
  split
  · exact retired_setGens h _ _
  · exact h

theorem scaleGens_gen {s u : State} (hu : u.wave.gens = s.wave.gens) (l : Nat) : (s.scaleGens u).gen l =
    if s.rnd = 5 ∧ l ∈ lanesOf s.wave.present then (drawSteps (s.gen l) 8).2 else s.gen l := by
  have hgen : u.gen l = s.gen l := congrArg (SMap.get 0 l) hu
  by_cases h5 : s.rnd = 5
  · rw [State.scaleGens, if_pos h5, State.setGens_gen, hgen]
    simp only [h5, true_and]
  · rw [State.scaleGens, if_neg h5, hgen, if_neg (fun h => h5 h.1)]

/-- tscale with its operands in order writes its tile, steps generators and logs its elements' causes. -/
theorem execTscale_next {s : State} {d a : Operand} {f : Fin 32} {m : Nat} (hm : m = if fmtBits f.val = 4 then 1 else 2)
    (hw : s.wordsOk .plain) (he : s.exec ≠ 0) (het : s.et = 4) (hrnd : s.rnd < 6) (hf : fmtTiled f.val = true)
    (hd : d.isV = true) (hdn : d.num + m + 1 ≤ 128) (ha : a.isV = true) (han : a.num + 8 ≤ 128) :
    execTscale d a f s = .next (State.logLanes (s.scaleGens (s.putScaled (s.retire .plain) d.num a.num f.val m)) s.frag.pc
      ((s.scaledTile a.num f.val).elems.zipIdx.map (fun e => (e.2 % 32, { ev := e.1.ev : LaneOut })))) := by
  subst hm
  refine issueLive_next hw (encCond_nil.mpr ?_) he
  simp [het, hrnd, hf, hd, ha, han, hdn]

/-- A unit that has retired and then written a tile's registers has changed nothing else. -/
theorem State.SameButTile.retired {s t : State} {k : UnitKind} {e : LaneMask} {d m : Nat}
    (h : (s.retire k).SameButTile t e d m) : Retired k s t ∧ t.wave.xregs = s.wave.xregs ∧ t.wave.preds = s.wave.preds ∧
      t.wave.gens = s.wave.gens := by
  refine ⟨?_, ?_, ?_, ?_⟩
  · unfold Retired
    conv => lhs; rw [h.rest]
    rw [h.rest]
  all_goals rw [h.rest, State.retire_wave]

theorem State.SameButTile.keeps_retired {s t : State} {k : UnitKind} {e : LaneMask} {d m : Nat}
    (h : (s.retire k).SameButTile t e d m) {q l : Nat} (hl : l < 32) (hout : l ∉ lanesOf e ∨ q < d ∨ d + m < q) :
    t.vreg q l = s.vreg q l ∧ t.vpoison q l = s.vpoison q l := by
  simpa using h.keeps q l hl hout

/-! fmtv (R300). -/

theorem execFmtv_votes {s : State} {d a : Operand} (hw : s.wordsOk .plain) (he : s.exec ≠ 0) (hd : d.isReg = true)
    (ha : a.isV = true) (hc : s.cleanCond [(1, a)] = []) :
    let agree := (s.voteCond a fmtOk).isEmpty
    ∃ u t, Writes (.next u) s d 1 (runLanes d s.exec) (fun _ => if agree then s.lowInt a else 0xFFFFFFFF) (fun _ => false) ∧
      execFmtv d a s = .next t ∧ t = { u with wave := { u.wave with preds := t.wave.preds } } ∧
      WroteP u t 15 (lanesOf s.exec) (fun _ => if agree then .t else .f) := by
  intro agree
  have hconds : s.encCond (!d.isReg || !a.isV) 0x01 ++ s.cleanCond [(1, a)] = [] := by
    rw [encCond_nil.mpr (by rw [hd, ha]; rfl), hc]
    rfl
  have hwrites := issue_writes (cs := []) (n := 1) (out := fun _ => { v := if agree then s.lowInt a else 0xFFFFFFFF }) hw rfl
    (lanesFor_run d s.exec) (.inl hd) (fun _ _ => rfl)
  rw [issue_next hw rfl] at hwrites
  obtain ⟨hpred, hrest⟩ := foldl_setP (State.writeLanes (s.retire .plain) d 1 ((runLanes d s.exec).map (fun l =>
    (l, { v := if agree then s.lowInt a else 0xFFFFFFFF })))) 15 (fun _ => if agree then .t else .f) (lanesOf s.exec)
    (fun l hl => (mem_lanesOf.mp hl).1) (nodup_lanesOf s.exec)
  exact ⟨_, _, hwrites, issueLive_next hw hconds he, hrest, hpred⟩

/-- Settles O44, form by form: what each writes is a tile's registers, or a tile in memory, or one word and p15. -/
theorem tiles : Obligations.Tiles := by
  unfold Obligations.Tiles
  intro d a x w b f is s hw he word clean keeps
  have hpois : ∀ {r l : Nat}, clean r l → s.lanePois r l = false := lanePois_false
  refine ⟨fun hc hh => ⟨?loads, ?stores⟩, ?scales, fun hd ha hc => execFmtv_votes hw he hd ha hc⟩
  case loads =>
    intro hr r y hy
    have hload : exec y.1 s = .next (s.loadTile d.num w.val is y.2) := by
      simp only [List.mem_cons, List.not_mem_nil, or_false] at hy
      obtain rfl | rfl := hy
      · exact tileLoad_next hw he hc hr hh false
      · exact tileLoad_next hw he hc hr hh true
    have hsame : r.2.SameButTile (s.loadTile d.num w.val is y.2) s.exec d.num (classRegs w.val) := putImage_sameButTile ..
    exact ⟨_, hload, hsame.rest, hsame.keeps, fun hclean l hl => loadTile_reads hl hclean⟩
  case stores =>
    intro hr hclean
    have hnext := execTst_stores hw hc hr hh
      (fun l hl => ⟨fun q hq => hpois ((hclean l hl).1 q hq), fun h3 => hpois ((hclean l hl).2 h3)⟩)
    simp only [State.laneWord_toNat] at hnext
    exact hnext
  case scales =>
    intro n m het hrnd hf hd hdn ha han t
    have ht : s.scaledTile a.num f.val = t := by
      simp only [State.scaledTile, State.laneWord_toNat]
      rfl
    have hsame := putScaled_sameButTile s (s.retire .plain) d.num a.num f.val m
    obtain ⟨hretired, hx, hp, hg⟩ := hsame.retired
    have hnext := execTscale_next (m := m) rfl hw he het hrnd hf hd hdn ha han
    obtain ⟨⟨hvregs, hvpois⟩, hgx, hgp⟩ := scaleGens_same s (s.putScaled (s.retire .plain) d.num a.num f.val m)
    obtain ⟨hreg, hpoison⟩ := reads_congr hvregs hvpois
    rw [ht] at hnext
    refine ⟨_, hnext, scaleGens_retired hretired, hgx.trans hx, hgp.trans hp, fun q l hl hout => ?_,
      fun l _ => scaleGens_gen hg l, ?_⟩
    · rw [hreg, hpoison]
      exact hsame.keeps_retired hl hout
    · intro hclean pay l hl
      have hnone : s.scalePois a.num = false := by
        simp only [State.scalePois, List.any_eq_false, List.mem_range, Bool.not_eq_true]
        exact fun r hr => fun l hl => hpois (hclean r hr l hl)
      have hread := putScaled_reads (s.retire .plain) d.num f.val m hnone hl
      rw [ht] at hread
      simp only [hreg, hpoison]
      exact hread

end Sys2Proof.Machine

/-! ### Decoding and encoding (R160 to R178 and the encoding tables)

An operand is its code, a word is its opcode over 24 bits, and each layout of those bits is read back once for all the
instructions that have it. -/

namespace Sys2Proof

theorem Operand.code_ofCode {c : Nat} (h : c < 256) : (Operand.ofCode c).code = c := by
  unfold Operand.ofCode
  split_ifs <;> simp only [Operand.code] <;> omega

theorem Operand.code_injective : Function.Injective Operand.code := by
  intro o o' h
  cases o <;> cases o' <;> simp only [Operand.code, Operand.v.injEq, Operand.x.injEq, Operand.p.injEq, Operand.sp.injEq,
    Operand.k.injEq, Fin.ext_iff, reduceCtorEq] at h ⊢ <;> omega

theorem Operand.ofCode_code (o : Operand) : Operand.ofCode o.code = o :=
  Operand.code_injective (Operand.code_ofCode o.code_lt)

/-- The instruction of opcode `op` over the 24 bits `l` below it. -/
def decodeOp (op l : Nat) : Decoded :=
  let d := l / 65536
  let a := l / 256 % 256
  let b := l % 256
  if op < 0x20 then decodeControl op l d a b
  else if op < 0x50 then decodeInteger op l d a b
  else if op < 0x80 then decodeFloat op l d a b
  else if op < 0xB0 then decodeMemory op l d a b
  else if op < 0xE0 then decodeMatrix op l d a b
  else decodeSystem op l d a b

theorem decodeNat_eq (w : Nat) : decodeNat w = decodeOp (w / 16777216 % 256) (w % 16777216) := rfl

theorem resv_eq_ok {z : Bool} {i j : Instr} : resv z i = .ok j ↔ z = true ∧ i = j := by
  cases z <;> simp [resv]

/-! What decodes is the word that encodes. -/

/-- Whatever instruction a decoding gives has the word `w`. -/
def Decoded.HasWord (r : Decoded) (w : Nat) : Prop := ∀ i, r = .ok i → encodeNat i = some w

theorem toNat_beq_one (n : Nat) : (n % 2 == 1).toNat = n % 2 := by
  rcases Nat.mod_two_eq_zero_or_one n with h | h <;> simp [h]

section HasWord

variable {w : Nat} {i j : Instr}

theorem Decoded.hasWord_ok : HasWord (.ok i) w ↔ encodeNat i = some w := by simp [HasWord]

theorem Decoded.hasWord_reservedField : HasWord (.reservedField i) w ↔ True := by simp [HasWord]

theorem Decoded.hasWord_unassigned : HasWord .unassigned w ↔ True := by simp [HasWord]

theorem Decoded.hasWord_resv {zero : Bool} : HasWord (resv zero i) w ↔ (zero = true → encodeNat i = some w) := by
  simp [HasWord, resv_eq_ok]

theorem Decoded.hasWord_ite {c : Prop} [Decidable c] {r r' : Decoded} :
    HasWord (if c then r else r') w ↔ (c → HasWord r w) ∧ (¬c → HasWord r' w) := by
  by_cases h : c <;> simp [h]

theorem encodeNat_ite {c : Prop} [Decidable c] :
    encodeNat (if c then i else j) = some w ↔ (c → encodeNat i = some w) ∧ (¬c → encodeNat j = some w) := by
  by_cases h : c <;> simp [h]

theorem Decoded.hasWord_atomRed {l : Nat} : HasWord (atomRed l i j) w ↔
    (l / 16384 % 4 = 2 → encodeNat i = some w) ∧ (l / 16384 % 4 ≠ 2 → l / 16384 % 4 = 0 → encodeNat j = some w) := by
  simp [atomRed, hasWord_ite, hasWord_ok, hasWord_unassigned]

end HasWord

section WordsOfDecoded

open Decoded

variable {l : Nat} (op : Nat) (hl : l < 16777216)
include hl

/-- The codes of the operands that the three bytes of a word give are those bytes. -/
theorem codes_of_bytes : (Operand.ofCode (l / 65536)).code = l / 65536 ∧
    (Operand.ofCode (l / 256 % 256)).code = l / 256 % 256 ∧ (Operand.ofCode (l % 256)).code = l % 256 :=
  ⟨Operand.code_ofCode (by omega), Operand.code_ofCode (by omega), Operand.code_ofCode (by omega)⟩

theorem decodeControl_hasWord : (decodeControl op l (l / 65536) (l / 256 % 256) (l % 256)).HasWord (op * 16777216 + l) := by
  obtain ⟨hd, ha, hb⟩ := codes_of_bytes hl
  unfold decodeControl
  split
  all_goals
    simp only [hasWord_ok, hasWord_resv, hasWord_ite, hasWord_unassigned, hasWord_reservedField, beq_iff_eq,
      Bool.and_eq_true, implies_true, and_true]
  all_goals
    repeat' apply And.intro
    all_goals
      intros
      refine congrArg some ?_
      simp -failIfUnchanged only [hd, ha, hb, Fin.val_ofNat, BitVec.toNat_ofNat]
      omega

theorem decodeInteger_hasWord : (decodeInteger op l (l / 65536) (l / 256 % 256) (l % 256)).HasWord (op * 16777216 + l) := by
  obtain ⟨hd, ha, hb⟩ := codes_of_bytes hl
  unfold decodeInteger
  split
  all_goals
    simp only [hasWord_ok, hasWord_resv, hasWord_unassigned, beq_iff_eq]
  all_goals
    intros
    refine congrArg some ?_
    simp only [hd, ha, hb, Fin.val_ofNat, BitVec.toNat_ofNat, toNat_beq_one]
    omega

theorem decodeFloat_hasWord : (decodeFloat op l (l / 65536) (l / 256 % 256) (l % 256)).HasWord (op * 16777216 + l) := by
  obtain ⟨hd, ha, hb⟩ := codes_of_bytes hl
  unfold decodeFloat
  split
  all_goals
    simp only [hasWord_ok, hasWord_resv, hasWord_unassigned, encodeNat_ite, beq_iff_eq, Bool.and_eq_true, imp_and]
  all_goals
    repeat' apply And.intro
    all_goals
      intros
      refine congrArg some ?_
      simp only [hd, ha, hb, Fin.val_ofNat]
      omega

theorem decodeMemory_hasWord : (decodeMemory op l (l / 65536) (l / 256 % 256) (l % 256)).HasWord (op * 16777216 + l) := by
  obtain ⟨hd, ha, hb⟩ := codes_of_bytes hl
  unfold decodeMemory
  split
  all_goals
    simp only [hasWord_ok, hasWord_resv, hasWord_ite, hasWord_atomRed, hasWord_unassigned, beq_iff_eq,
      Bool.and_eq_true, implies_true, and_true]
  all_goals
    repeat' apply And.intro
    all_goals
      intros
      refine congrArg some ?_
      simp -failIfUnchanged only [hd, ha, hb, Fin.val_ofNat, toNat_beq_one]
      omega

theorem decodeMatrix_hasWord : (decodeMatrix op l (l / 65536) (l / 256 % 256) (l % 256)).HasWord (op * 16777216 + l) := by
  obtain ⟨hd, ha, hb⟩ := codes_of_bytes hl
  unfold decodeMatrix
  split
  all_goals
    simp only [hasWord_ok, hasWord_resv, hasWord_unassigned, encodeNat_ite, beq_iff_eq, Bool.and_eq_true, imp_and]
  all_goals
    repeat' apply And.intro
    all_goals
      intros
      refine congrArg some ?_
      simp only [hd, ha, hb, Fin.val_ofNat]
      omega

theorem decodeSystem_hasWord : (decodeSystem op l (l / 65536) (l / 256 % 256) (l % 256)).HasWord (op * 16777216 + l) := by
  obtain ⟨hd, ha, hb⟩ := codes_of_bytes hl
  unfold decodeSystem
  split
  all_goals
    simp only [hasWord_ok, hasWord_resv, hasWord_unassigned, beq_iff_eq, Bool.and_eq_true]
  all_goals
    intros
    refine congrArg some ?_
    simp only [hd, ha, hb, BitVec.toNat_ofNat]
    omega

theorem decodeOp_hasWord : (decodeOp op l).HasWord (op * 16777216 + l) := by
  unfold decodeOp
  split_ifs
  · exact decodeControl_hasWord op hl
  · exact decodeInteger_hasWord op hl
  · exact decodeFloat_hasWord op hl
  · exact decodeMemory_hasWord op hl
  · exact decodeMatrix_hasWord op hl
  · exact decodeSystem_hasWord op hl

end WordsOfDecoded

theorem encodeNat_of_decodeNat {w : Nat} {i : Instr} (hw : w < 2 ^ 32) (h : decodeNat w = .ok i) : encodeNat i = some w := by
  have hsplit : w / 16777216 % 256 * 16777216 + w % 16777216 = w := by omega
  rw [← hsplit]
  exact decodeOp_hasWord _ (by omega) i (decodeNat_eq w ▸ h)

/-! The word that encodes decodes: one lemma for each layout of the 24 bits below the opcode. -/

/-- What `encodeNat` gives of the instruction, if anything, is a word that decodes to it. -/
def ReadsBack (i : Instr) : Prop := ∀ n, encodeNat i = some n → n < 2 ^ 32 ∧ decodeNat n = .ok i

namespace ReadsBack

theorem of_decodeOp {i j : Instr} {op l n : Nat} (henc : encodeNat i = some n) (hdec : decodeOp op l = .ok j)
    (hop : op < 256) (hn : n = op * 16777216 + l) (hl : l < 16777216) (hij : j = i) : ReadsBack i := by
  intro m hm
  obtain rfl : n = m := Option.some.inj (henc.symm.trans hm)
  have h1 : n / 16777216 % 256 = op := by omega
  have h2 : n % 16777216 = l := by omega
  exact ⟨by omega, by rw [decodeNat_eq, h1, h2, hdec, hij]⟩

theorem of_resv {i j : Instr} {op l n : Nat} {zero : Bool} (henc : encodeNat i = some n) (hdec : decodeOp op l = resv zero j)
    (hop : op < 256) (hn : n = op * 16777216 + l) (hl : l < 16777216) (hzero : zero = true) (hij : j = i) : ReadsBack i :=
  of_decodeOp henc (hdec.trans (resv_eq_ok.mpr ⟨hzero, rfl⟩)) hop hn hl hij

theorem ofCode_eq {c : Nat} {o : Operand} (h : c = o.code) : Operand.ofCode c = o := by rw [h, Operand.ofCode_code]

theorem finOfNat_eq {n x : Nat} [NeZero n] {i : Fin n} (h : x % n = i.val) : Fin.ofNat n x = i := Fin.ext h

theorem bvOfNat_eq {n x : Nat} {i : BitVec n} (h : x % 2 ^ n = i.toNat) : BitVec.ofNat n x = i :=
  BitVec.eq_of_toNat_eq ((BitVec.toNat_ofNat x n).trans h)

theorem bitOfNat_eq {x : Nat} {e : Bool} (h : x % 2 = e.toNat) : (x % 2 == 1) = e := by cases e <;> simp_all

theorem off {mk : BitVec 20 → Instr} (op : Nat) (off : BitVec 20)
    (hop : op < 256 := by decide)
    (henc : encodeNat (mk off) = some (op * 16777216 + off.toNat) := by rfl)
    (hdec : ∀ l, decodeOp op l = resv (l / 1048576 == 0)
      (mk (BitVec.ofNat 20 (l % 1048576))) := by intro; rfl) :
    ReadsBack (mk off) := by
  have := off.isLt
  refine of_resv henc (hdec (off.toNat)) hop (by omega) (by omega) (beq_iff_eq.mpr (by omega)) ?_
  rw [bvOfNat_eq (i := off) (by omega)]

theorem pOff {mk : Fin 16 → BitVec 20 → Instr} (op : Nat) (p : Fin 16) (off : BitVec 20)
    (hop : op < 256 := by decide)
    (henc : encodeNat (mk p off) = some (op * 16777216 + p.val * 1048576 + off.toNat) := by rfl)
    (hdec : ∀ l, decodeOp op l = resv true
      (mk (Fin.ofNat 16 (l / 1048576)) (BitVec.ofNat 20 (l % 1048576))) := by intro; rfl) :
    ReadsBack (mk p off) := by
  have := p.isLt
  have := off.isLt
  refine of_resv henc (hdec (p.val * 1048576 + off.toNat)) hop (by omega) (by omega) rfl ?_
  rw [finOfNat_eq (i := p) (by omega), bvOfNat_eq (i := off) (by omega)]

theorem a {mk : Operand → Instr} (op : Nat) (a : Operand)
    (hop : op < 256 := by decide)
    (henc : encodeNat (mk a) = some (op * 16777216 + a.code * 256) := by rfl)
    (hdec : ∀ l, decodeOp op l = resv (l % 256 == 0 && l / 65536 == 0)
      (mk (.ofCode (l / 256 % 256))) := by intro; rfl) :
    ReadsBack (mk a) := by
  have := a.code_lt
  refine of_resv henc (hdec (a.code * 256)) hop (by omega) (by omega) (by simp only [beq_iff_eq, Bool.and_eq_true]; omega) ?_
  rw [ofCode_eq (o := a) (by omega)]

theorem k {mk : Fin 16 → Instr} (op : Nat) (r : Fin 16)
    (hop : op < 256 := by decide)
    (henc : encodeNat (mk r) = some (op * 16777216 + r.val) := by rfl)
    (hdec : ∀ l, decodeOp op l = resv (l / 16 == 0)
      (mk (Fin.ofNat 16 (l % 16))) := by intro; rfl) :
    ReadsBack (mk r) := by
  have := r.isLt
  refine of_resv henc (hdec (r.val)) hop (by omega) (by omega) (beq_iff_eq.mpr (by omega)) ?_
  rw [finOfNat_eq (i := r) (by omega)]

theorem top {mk : Fin 16 → Instr} (op : Nat) (k : Fin 16)
    (hop : op < 256 := by decide)
    (henc : encodeNat (mk k) = some (op * 16777216 + k.val * 1048576) := by rfl)
    (hdec : ∀ l, decodeOp op l = resv (l % 1048576 == 0)
      (mk (Fin.ofNat 16 (l / 1048576))) := by intro; rfl) :
    ReadsBack (mk k) := by
  have := k.isLt
  refine of_resv henc (hdec (k.val * 1048576)) hop (by omega) (by omega) (beq_iff_eq.mpr (by omega)) ?_
  rw [finOfNat_eq (i := k) (by omega)]

theorem nab {mk : Fin 4 → Operand → Operand → Instr} (op : Nat) (n : Fin 4) (a b : Operand)
    (hop : op < 256 := by decide)
    (henc : encodeNat (mk n a b) = some (op * 16777216 + n.val * 65536 + a.code * 256 + b.code) := by rfl)
    (hdec : ∀ l, decodeOp op l = resv (l / 262144 == 0)
      (mk (Fin.ofNat 4 (l / 65536 % 4)) (.ofCode (l / 256 % 256)) (.ofCode (l % 256))) := by intro; rfl) :
    ReadsBack (mk n a b) := by
  have := n.isLt
  have := a.code_lt
  have := b.code_lt
  refine of_resv henc (hdec (n.val * 65536 + a.code * 256 + b.code)) hop (by omega) (by omega) (beq_iff_eq.mpr (by omega)) ?_
  rw [finOfNat_eq (i := n) (by omega), ofCode_eq (o := a) (by omega), ofCode_eq (o := b) (by omega)]

theorem half {mk : BitVec 16 → Instr} (op : Nat) (k : BitVec 16)
    (hop : op < 256 := by decide)
    (henc : encodeNat (mk k) = some (op * 16777216 + k.toNat) := by rfl)
    (hdec : ∀ l, decodeOp op l = resv (l / 65536 == 0)
      (mk (BitVec.ofNat 16 (l % 65536))) := by intro; rfl) :
    ReadsBack (mk k) := by
  have := k.isLt
  refine of_resv henc (hdec (k.toNat)) hop (by omega) (by omega) (beq_iff_eq.mpr (by omega)) ?_
  rw [bvOfNat_eq (i := k) (by omega)]

theorem all {mk : BitVec 24 → Instr} (op : Nat) (n : BitVec 24)
    (hop : op < 256 := by decide)
    (henc : encodeNat (mk n) = some (op * 16777216 + n.toNat) := by rfl)
    (hdec : ∀ l, decodeOp op l = resv true
      (mk (BitVec.ofNat 24 (l))) := by intro; rfl) :
    ReadsBack (mk n) := by
  have := n.isLt
  refine of_resv henc (hdec (n.toNat)) hop (by omega) (by omega) rfl ?_
  rw [bvOfNat_eq (i := n) (by omega)]

theorem n {mk : Fin 4 → Instr} (op : Nat) (n : Fin 4)
    (hop : op < 256 := by decide)
    (henc : encodeNat (mk n) = some (op * 16777216 + n.val) := by rfl)
    (hdec : ∀ l, decodeOp op l = resv (l / 4 == 0)
      (mk (Fin.ofNat 4 (l % 4))) := by intro; rfl) :
    ReadsBack (mk n) := by
  have := n.isLt
  refine of_resv henc (hdec (n.val)) hop (by omega) (by omega) (beq_iff_eq.mpr (by omega)) ?_
  rw [finOfNat_eq (i := n) (by omega)]

theorem sv {mk : BitVec 8 → BitVec 16 → Instr} (op : Nat) (s : BitVec 8) (v : BitVec 16)
    (hop : op < 256 := by decide)
    (henc : encodeNat (mk s v) = some (op * 16777216 + s.toNat * 65536 + v.toNat) := by rfl)
    (hdec : ∀ l, decodeOp op l = resv true
      (mk (BitVec.ofNat 8 (l / 65536)) (BitVec.ofNat 16 (l % 65536))) := by intro; rfl) :
    ReadsBack (mk s v) := by
  have := s.isLt
  have := v.isLt
  refine of_resv henc (hdec (s.toNat * 65536 + v.toNat)) hop (by omega) (by omega) rfl ?_
  rw [bvOfNat_eq (i := s) (by omega), bvOfNat_eq (i := v) (by omega)]

theorem d {mk : Operand → Instr} (op : Nat) (d : Operand)
    (hop : op < 256 := by decide)
    (henc : encodeNat (mk d) = some (op * 16777216 + d.code * 65536) := by rfl)
    (hdec : ∀ l, decodeOp op l = resv (l % 65536 == 0)
      (mk (.ofCode (l / 65536))) := by intro; rfl) :
    ReadsBack (mk d) := by
  have := d.code_lt
  refine of_resv henc (hdec (d.code * 65536)) hop (by omega) (by omega) (beq_iff_eq.mpr (by omega)) ?_
  rw [ofCode_eq (o := d) (by omega)]

theorem sp {mk : Fin 8 → Fin 16 → Instr} (op : Nat) (s : Fin 8) (p : Fin 16)
    (hop : op < 256 := by decide)
    (henc : encodeNat (mk s p) = some (op * 16777216 + s.val * 16 + p.val) := by rfl)
    (hdec : ∀ l, decodeOp op l = resv (l / 128 == 0)
      (mk (Fin.ofNat 8 (l / 16 % 8)) (Fin.ofNat 16 (l % 16))) := by intro; rfl) :
    ReadsBack (mk s p) := by
  have := s.isLt
  have := p.isLt
  refine of_resv henc (hdec (s.val * 16 + p.val)) hop (by omega) (by omega) (beq_iff_eq.mpr (by omega)) ?_
  rw [finOfNat_eq (i := s) (by omega), finOfNat_eq (i := p) (by omega)]

theorem ab {mk : Operand → Operand → Instr} (op : Nat) (a b : Operand)
    (hop : op < 256 := by decide)
    (henc : encodeNat (mk a b) = some (op * 16777216 + a.code * 256 + b.code) := by rfl)
    (hdec : ∀ l, decodeOp op l = resv (l / 65536 == 0)
      (mk (.ofCode (l / 256 % 256)) (.ofCode (l % 256))) := by intro; rfl) :
    ReadsBack (mk a b) := by
  have := a.code_lt
  have := b.code_lt
  refine of_resv henc (hdec (a.code * 256 + b.code)) hop (by omega) (by omega) (beq_iff_eq.mpr (by omega)) ?_
  rw [ofCode_eq (o := a) (by omega), ofCode_eq (o := b) (by omega)]

theorem byte {mk : BitVec 8 → Instr} (op : Nat) (c : BitVec 8)
    (hop : op < 256 := by decide)
    (henc : encodeNat (mk c) = some (op * 16777216 + c.toNat) := by rfl)
    (hdec : ∀ l, decodeOp op l = resv (l / 256 == 0)
      (mk (BitVec.ofNat 8 (l % 256))) := by intro; rfl) :
    ReadsBack (mk c) := by
  have := c.isLt
  refine of_resv henc (hdec (c.toNat)) hop (by omega) (by omega) (beq_iff_eq.mpr (by omega)) ?_
  rw [bvOfNat_eq (i := c) (by omega)]

theorem di {mk : Operand → BitVec 16 → Instr} (op : Nat) (d : Operand) (i : BitVec 16)
    (hop : op < 256 := by decide)
    (henc : encodeNat (mk d i) = some (op * 16777216 + d.code * 65536 + i.toNat) := by rfl)
    (hdec : ∀ l, decodeOp op l = resv true
      (mk (.ofCode (l / 65536)) (BitVec.ofNat 16 (l % 65536))) := by intro; rfl) :
    ReadsBack (mk d i) := by
  have := d.code_lt
  have := i.isLt
  refine of_resv henc (hdec (d.code * 65536 + i.toNat)) hop (by omega) (by omega) rfl ?_
  rw [ofCode_eq (o := d) (by omega), bvOfNat_eq (i := i) (by omega)]

theorem dab {mk : Operand → Operand → Operand → Instr} (op : Nat) (d a b : Operand)
    (hop : op < 256 := by decide)
    (henc : encodeNat (mk d a b) = some (op * 16777216 + d.code * 65536 + a.code * 256 + b.code) := by rfl)
    (hdec : ∀ l, decodeOp op l = resv true
      (mk (.ofCode (l / 65536)) (.ofCode (l / 256 % 256)) (.ofCode (l % 256))) := by intro; rfl) :
    ReadsBack (mk d a b) := by
  have := d.code_lt
  have := a.code_lt
  have := b.code_lt
  refine of_resv henc (hdec (d.code * 65536 + a.code * 256 + b.code)) hop (by omega) (by omega) rfl ?_
  rw [ofCode_eq (o := d) (by omega), ofCode_eq (o := a) (by omega), ofCode_eq (o := b) (by omega)]

theorem da {mk : Operand → Operand → Instr} (op : Nat) (d a : Operand)
    (hop : op < 256 := by decide)
    (henc : encodeNat (mk d a) = some (op * 16777216 + d.code * 65536 + a.code * 256) := by rfl)
    (hdec : ∀ l, decodeOp op l = resv (l % 256 == 0)
      (mk (.ofCode (l / 65536)) (.ofCode (l / 256 % 256))) := by intro; rfl) :
    ReadsBack (mk d a) := by
  have := d.code_lt
  have := a.code_lt
  refine of_resv henc (hdec (d.code * 65536 + a.code * 256)) hop (by omega) (by omega) (beq_iff_eq.mpr (by omega)) ?_
  rw [ofCode_eq (o := d) (by omega), ofCode_eq (o := a) (by omega)]

theorem rpab {mk : Fin 16 → Fin 16 → Operand → Operand → Instr} (op : Nat) (r p : Fin 16) (a b : Operand)
    (hop : op < 256 := by decide)
    (henc : encodeNat (mk r p a b) = some (op * 16777216 + r.val * 1048576 + p.val * 65536 + a.code * 256 + b.code) := by rfl)
    (hdec : ∀ l, decodeOp op l = resv true
      (mk (Fin.ofNat 16 (l / 1048576)) (Fin.ofNat 16 (l / 65536 % 16)) (.ofCode (l / 256 % 256)) (.ofCode (l % 256))) := by intro; rfl) :
    ReadsBack (mk r p a b) := by
  have := r.isLt
  have := p.isLt
  have := a.code_lt
  have := b.code_lt
  refine of_resv henc (hdec (r.val * 1048576 + p.val * 65536 + a.code * 256 + b.code)) hop (by omega) (by omega)
    rfl ?_
  rw [finOfNat_eq (i := r) (by omega), finOfNat_eq (i := p) (by omega), ofCode_eq (o := a) (by omega),
    ofCode_eq (o := b) (by omega)]

theorem dak {mk : Operand → Operand → BitVec 8 → Instr} (op : Nat) (d a : Operand) (k : BitVec 8)
    (hop : op < 256 := by decide)
    (henc : encodeNat (mk d a k) = some (op * 16777216 + d.code * 65536 + a.code * 256 + k.toNat) := by rfl)
    (hdec : ∀ l, decodeOp op l = resv true
      (mk (.ofCode (l / 65536)) (.ofCode (l / 256 % 256)) (BitVec.ofNat 8 (l % 256))) := by intro; rfl) :
    ReadsBack (mk d a k) := by
  have := d.code_lt
  have := a.code_lt
  have := k.isLt
  refine of_resv henc (hdec (d.code * 65536 + a.code * 256 + k.toNat)) hop (by omega) (by omega) rfl ?_
  rw [ofCode_eq (o := d) (by omega), ofCode_eq (o := a) (by omega), bvOfNat_eq (i := k) (by omega)]

theorem das {mk : Operand → Operand → Fin 4 → Instr} (op : Nat) (d a : Operand) (s : Fin 4)
    (hop : op < 256 := by decide)
    (henc : encodeNat (mk d a s) = some (op * 16777216 + d.code * 65536 + a.code * 256 + s.val) := by rfl)
    (hdec : ∀ l, decodeOp op l = resv (l / 4 % 64 == 0)
      (mk (.ofCode (l / 65536)) (.ofCode (l / 256 % 256)) (Fin.ofNat 4 (l % 4))) := by intro; rfl) :
    ReadsBack (mk d a s) := by
  have := d.code_lt
  have := a.code_lt
  have := s.isLt
  refine of_resv henc (hdec (d.code * 65536 + a.code * 256 + s.val)) hop (by omega) (by omega) (beq_iff_eq.mpr (by omega)) ?_
  rw [ofCode_eq (o := d) (by omega), ofCode_eq (o := a) (by omega), finOfNat_eq (i := s) (by omega)]

theorem dao {mk : Operand → Operand → BitVec 5 → Instr} (op : Nat) (d a : Operand) (o : BitVec 5)
    (hop : op < 256 := by decide)
    (henc : encodeNat (mk d a o) = some (op * 16777216 + d.code * 65536 + a.code * 256 + o.toNat) := by rfl)
    (hdec : ∀ l, decodeOp op l = resv (l / 32 % 8 == 0)
      (mk (.ofCode (l / 65536)) (.ofCode (l / 256 % 256)) (BitVec.ofNat 5 (l % 32))) := by intro; rfl) :
    ReadsBack (mk d a o) := by
  have := d.code_lt
  have := a.code_lt
  have := o.isLt
  refine of_resv henc (hdec (d.code * 65536 + a.code * 256 + o.toNat)) hop (by omega) (by omega) (beq_iff_eq.mpr (by omega)) ?_
  rw [ofCode_eq (o := d) (by omega), ofCode_eq (o := a) (by omega), bvOfNat_eq (i := o) (by omega)]

theorem daeo {mk : Operand → Operand → Bool → Fin 16 → Instr} (op : Nat) (d a : Operand) (e : Bool) (o : Fin 16)
    (hop : op < 256 := by decide)
    (henc : encodeNat (mk d a e o) = some (op * 16777216 + d.code * 65536 + a.code * 256 + e.toNat * 16 + o.val) := by rfl)
    (hdec : ∀ l, decodeOp op l = resv (l / 32 % 8 == 0)
      (mk (.ofCode (l / 65536)) (.ofCode (l / 256 % 256)) (l / 16 % 2 == 1) (Fin.ofNat 16 (l % 16))) := by intro; rfl) :
    ReadsBack (mk d a e o) := by
  have := d.code_lt
  have := a.code_lt
  have := e.toNat_lt
  have := o.isLt
  refine of_resv henc (hdec (d.code * 65536 + a.code * 256 + e.toNat * 16 + o.val)) hop (by omega) (by omega)
    (beq_iff_eq.mpr (by omega)) ?_
  rw [ofCode_eq (o := d) (by omega), ofCode_eq (o := a) (by omega), bitOfNat_eq (e := e) (by omega),
    finOfNat_eq (i := o) (by omega)]

theorem dac {mk : Operand → Operand → Fin 16 → Instr} (op : Nat) (d a : Operand) (c : Fin 16)
    (hop : op < 256 := by decide)
    (henc : encodeNat (mk d a c) = some (op * 16777216 + d.code * 65536 + a.code * 256 + c.val) := by rfl)
    (hdec : ∀ l, decodeOp op l = resv (l / 16 % 16 == 0)
      (mk (.ofCode (l / 65536)) (.ofCode (l / 256 % 256)) (Fin.ofNat 16 (l % 16))) := by intro; rfl) :
    ReadsBack (mk d a c) := by
  have := d.code_lt
  have := a.code_lt
  have := c.isLt
  refine of_resv henc (hdec (d.code * 65536 + a.code * 256 + c.val)) hop (by omega) (by omega) (beq_iff_eq.mpr (by omega)) ?_
  rw [ofCode_eq (o := d) (by omega), ofCode_eq (o := a) (by omega), finOfNat_eq (i := c) (by omega)]

theorem dakf {mk : Operand → Operand → Fin 8 → Fin 32 → Instr} (op : Nat) (d a : Operand) (k : Fin 8) (f : Fin 32)
    (hop : op < 256 := by decide)
    (henc : encodeNat (mk d a k f) = some (op * 16777216 + d.code * 65536 + a.code * 256 + k.val * 32 + f.val) := by rfl)
    (hdec : ∀ l, decodeOp op l = resv true
      (mk (.ofCode (l / 65536)) (.ofCode (l / 256 % 256)) (Fin.ofNat 8 (l / 32 % 8)) (Fin.ofNat 32 (l % 32))) := by intro; rfl) :
    ReadsBack (mk d a k f) := by
  have := d.code_lt
  have := a.code_lt
  have := k.isLt
  have := f.isLt
  refine of_resv henc (hdec (d.code * 65536 + a.code * 256 + k.val * 32 + f.val)) hop (by omega) (by omega)
    rfl ?_
  rw [ofCode_eq (o := d) (by omega), ofCode_eq (o := a) (by omega), finOfNat_eq (i := k) (by omega),
    finOfNat_eq (i := f) (by omega)]

theorem dwbx {mk : Operand → Fin 8 → Fin 32 → Operand → Instr} (op : Nat) (d : Operand) (w : Fin 8) (b : Fin 32) (x : Operand)
    (hop : op < 256 := by decide)
    (henc : encodeNat (mk d w b x) = some (op * 16777216 + d.code * 65536 + w.val * 8192 + b.val * 256 + x.code) := by rfl)
    (hdec : ∀ l, decodeOp op l = resv true
      (mk (.ofCode (l / 65536)) (Fin.ofNat 8 (l / 8192 % 8)) (Fin.ofNat 32 (l / 256 % 32)) (.ofCode (l % 256))) := by intro; rfl) :
    ReadsBack (mk d w b x) := by
  have := d.code_lt
  have := w.isLt
  have := b.isLt
  have := x.code_lt
  refine of_resv henc (hdec (d.code * 65536 + w.val * 8192 + b.val * 256 + x.code)) hop (by omega) (by omega)
    rfl ?_
  rw [ofCode_eq (o := d) (by omega), finOfNat_eq (i := w) (by omega), finOfNat_eq (i := b) (by omega),
    ofCode_eq (o := x) (by omega)]

theorem wbx {mk : Fin 8 → Fin 32 → Operand → Instr} (op : Nat) (w : Fin 8) (b : Fin 32) (x : Operand)
    (hop : op < 256 := by decide)
    (henc : encodeNat (mk w b x) = some (op * 16777216 + w.val * 8192 + b.val * 256 + x.code) := by rfl)
    (hdec : ∀ l, decodeOp op l = resv (l / 65536 == 0)
      (mk (Fin.ofNat 8 (l / 8192 % 8)) (Fin.ofNat 32 (l / 256 % 32)) (.ofCode (l % 256))) := by intro; rfl) :
    ReadsBack (mk w b x) := by
  have := w.isLt
  have := b.isLt
  have := x.code_lt
  refine of_resv henc (hdec (w.val * 8192 + b.val * 256 + x.code)) hop (by omega) (by omega) (beq_iff_eq.mpr (by omega)) ?_
  rw [finOfNat_eq (i := w) (by omega), finOfNat_eq (i := b) (by omega), ofCode_eq (o := x) (by omega)]

theorem pq {mk : Fin 8 → Fin 8 → Instr} (op : Nat) (p q : Fin 8)
    (hop : op < 256 := by decide)
    (henc : encodeNat (mk p q) = some (op * 16777216 + p.val * 8 + q.val) := by rfl)
    (hdec : ∀ l, decodeOp op l = resv (l / 64 == 0)
      (mk (Fin.ofNat 8 (l / 8 % 8)) (Fin.ofNat 8 (l % 8))) := by intro; rfl) :
    ReadsBack (mk p q) := by
  have := p.isLt
  have := q.isLt
  refine of_resv henc (hdec (p.val * 8 + q.val)) hop (by omega) (by omega) (beq_iff_eq.mpr (by omega)) ?_
  rw [finOfNat_eq (i := p) (by omega), finOfNat_eq (i := q) (by omega)]

theorem darn {mk : Operand → Operand → Fin 4 → Fin 4 → Instr} (op : Nat) (d a : Operand) (r n : Fin 4)
    (hop : op < 256 := by decide)
    (henc : encodeNat (mk d a r n) = some (op * 16777216 + d.code * 65536 + a.code * 256 + r.val * 4 + n.val) := by rfl)
    (hdec : ∀ l, decodeOp op l = resv (l / 16 % 16 == 0)
      (mk (.ofCode (l / 65536)) (.ofCode (l / 256 % 256)) (Fin.ofNat 4 (l / 4 % 4)) (Fin.ofNat 4 (l % 4))) := by intro; rfl) :
    ReadsBack (mk d a r n) := by
  have := d.code_lt
  have := a.code_lt
  have := r.isLt
  have := n.isLt
  refine of_resv henc (hdec (d.code * 65536 + a.code * 256 + r.val * 4 + n.val)) hop (by omega) (by omega)
    (beq_iff_eq.mpr (by omega)) ?_
  rw [ofCode_eq (o := d) (by omega), ofCode_eq (o := a) (by omega), finOfNat_eq (i := r) (by omega),
    finOfNat_eq (i := n) (by omega)]

theorem daf {mk : Operand → Operand → Fin 32 → Instr} (op : Nat) (d a : Operand) (f : Fin 32)
    (hop : op < 256 := by decide)
    (henc : encodeNat (mk d a f) = some (op * 16777216 + d.code * 65536 + a.code * 256 + f.val) := by rfl)
    (hdec : ∀ l, decodeOp op l = resv (l / 32 % 8 == 0)
      (mk (.ofCode (l / 65536)) (.ofCode (l / 256 % 256)) (Fin.ofNat 32 (l % 32))) := by intro; rfl) :
    ReadsBack (mk d a f) := by
  have := d.code_lt
  have := a.code_lt
  have := f.isLt
  refine of_resv henc (hdec (d.code * 65536 + a.code * 256 + f.val)) hop (by omega) (by omega) (beq_iff_eq.mpr (by omega)) ?_
  rw [ofCode_eq (o := d) (by omega), ofCode_eq (o := a) (by omega), finOfNat_eq (i := f) (by omega)]

/-! lfsr and lfsr.rd, and the pairs of instructions that a bit of the word tells apart. -/

theorem lfsr (d a : Operand) : ReadsBack (.lfsr d a) := by
  have := d.code_lt
  have := a.code_lt
  have hdec : ∀ l, l % 256 = 0 → decodeOp 0x11 l = .ok (.lfsr (.ofCode (l / 65536)) (.ofCode (l / 256 % 256))) :=
    fun l h => if_pos (beq_iff_eq.mpr h)
  refine of_decodeOp rfl (hdec (d.code * 65536 + a.code * 256) (by omega)) (by decide) (by omega) (by omega) ?_
  rw [ofCode_eq (o := d) (by omega), ofCode_eq (o := a) (by omega)]

theorem lfsrRd (d : Operand) : ReadsBack (.lfsrRd d) := by
  have := d.code_lt
  have hdec : ∀ l, l % 256 = 1 → decodeOp 0x11 l = resv (l / 256 % 256 == 0) (.lfsrRd (.ofCode (l / 65536))) := by
    intro l h
    have h0 : ¬(l % 256 == 0) = true := by rw [h]; decide
    exact (if_neg h0).trans (if_pos (beq_iff_eq.mpr h))
  refine of_resv rfl (hdec (1 + d.code * 65536) (by omega)) (by decide) (by omega) (by omega)
    (beq_iff_eq.mpr (by omega)) ?_
  rw [ofCode_eq (o := d) (by omega)]

theorem rnexts (d : Operand) (h : Bool) : ReadsBack (if h.toNat % 2 == 0 then .rnext d else .rnextH d) := by
  have := d.code_lt
  have := h.toNat_lt
  have hdec : ∀ l, decodeOp 0x70 l = resv (l / 256 % 256 == 0 && l % 256 / 2 == 0)
    (if l % 256 % 2 == 0 then .rnext (.ofCode (l / 65536)) else .rnextH (.ofCode (l / 65536))) := by intro; rfl
  refine of_resv (n := 0x70000000 + h.toNat + d.code * 65536) ?_ (hdec (h.toNat + d.code * 65536)) (by decide) (by omega) (by omega)
    (by simp only [beq_iff_eq, Bool.and_eq_true]; omega) ?_
  · cases h <;> rfl
  · have hbit : (h.toNat + d.code * 65536) % 256 % 2 = h.toNat % 2 := by omega
    rw [hbit, ofCode_eq (o := d) (by omega)]

theorem cvtFfs (d a : Operand) (p : Fin 16) (t : Bool) :
    ReadsBack (if t.toNat % 2 == 0 then .cvtFfFrom d a p else .cvtFfTo d a p) := by
  have := d.code_lt
  have := a.code_lt
  have := p.isLt
  have := t.toNat_lt
  have hdec : ∀ l, decodeOp 0x67 l = resv (l % 256 / 32 == 0)
    (if l % 256 / 16 % 2 == 0 then .cvtFfFrom (.ofCode (l / 65536)) (.ofCode (l / 256 % 256)) (Fin.ofNat 16 (l % 16))
      else .cvtFfTo (.ofCode (l / 65536)) (.ofCode (l / 256 % 256)) (Fin.ofNat 16 (l % 16))) := by intro; rfl
  refine of_resv (n := 0x67000000 + 16 * t.toNat + d.code * 65536 + a.code * 256 + p.val) ?_
    (hdec (16 * t.toNat + d.code * 65536 + a.code * 256 + p.val)) (by decide) (by omega) (by omega)
    (beq_iff_eq.mpr (by omega)) ?_
  · cases t <;> rfl
  · have hbit : (16 * t.toNat + d.code * 65536 + a.code * 256 + p.val) % 256 / 16 % 2 = t.toNat % 2 := by omega
    rw [hbit, ofCode_eq (o := d) (by omega), ofCode_eq (o := a) (by omega), finOfNat_eq (i := p) (by omega)]

theorem accZeros (n : Fin 4) (v : Bool) : ReadsBack (if v.toNat % 2 == 0 then .accZero n else .accZeroV n) := by
  have := n.isLt
  have := v.toNat_lt
  have hdec : ∀ l, decodeOp 0xB4 l = resv (l / 8 == 0)
    (if l / 4 % 2 == 0 then .accZero (Fin.ofNat 4 (l % 4)) else .accZeroV (Fin.ofNat 4 (l % 4))) := by intro; rfl
  refine of_resv (n := 0xB4000000 + 4 * v.toNat + n.val) ?_ (hdec (4 * v.toNat + n.val)) (by decide) (by omega) (by omega)
    (beq_iff_eq.mpr (by omega)) ?_
  · cases v <;> rfl
  · have hbit : (4 * v.toNat + n.val) / 4 % 2 = v.toNat % 2 := by omega
    rw [hbit, finOfNat_eq (i := n) (by omega)]

/-! The word of an atomic has 2 in bits [15:14] (R277), that of ldf and stf has 5 in [15:13] (R271). -/

theorem dqbx {mk : Operand → Bool → Fin 32 → Operand → Instr} {op l : Nat} (sel : Nat) (d : Operand) (q : Bool) (b : Fin 32)
    (x : Operand) (hop : op < 256) (hsel : sel < 4)
    (hl : l = 16384 * sel + d.code * 65536 + q.toNat * 8192 + b.val * 256 + x.code)
    (henc : encodeNat (mk d q b x) = some (op * 16777216 + 16384 * sel + d.code * 65536 + q.toNat * 8192 + b.val * 256 + x.code))
    (hdec : l / 16384 % 4 = sel → decodeOp op l =
      .ok (mk (.ofCode (l / 65536)) (l / 8192 % 2 == 1) (Fin.ofNat 32 (l / 256 % 32)) (.ofCode (l % 256)))) :
    ReadsBack (mk d q b x) := by
  have := d.code_lt
  have := q.toNat_lt
  have := b.isLt
  have := x.code_lt
  refine of_decodeOp henc (hdec (by omega)) hop (by omega) (by omega) ?_
  rw [ofCode_eq (o := d) (by omega), bitOfNat_eq (e := q) (by omega), finOfNat_eq (i := b) (by omega),
    ofCode_eq (o := x) (by omega)]

theorem atom {mk mk' : Operand → Bool → Fin 32 → Operand → Instr} (op : Nat) (d : Operand) (q : Bool) (b : Fin 32) (x : Operand)
    (hop : op < 256 := by decide)
    (henc : encodeNat (mk d q b x) =
      some (op * 16777216 + 16384 * 2 + d.code * 65536 + q.toNat * 8192 + b.val * 256 + x.code) := by rfl)
    (hdec : ∀ l, decodeOp op l = atomRed l
      (mk (.ofCode (l / 65536)) (l / 8192 % 2 == 1) (Fin.ofNat 32 (l / 256 % 32)) (.ofCode (l % 256)))
      (mk' (.ofCode (l / 65536)) (l / 8192 % 2 == 1) (Fin.ofNat 32 (l / 256 % 32)) (.ofCode (l % 256))) := by intro; rfl) :
    ReadsBack (mk d q b x) :=
  dqbx 2 d q b x hop (by decide) rfl henc (fun h => (hdec _).trans (if_pos (beq_iff_eq.mpr h)))

theorem red {mk mk' : Operand → Bool → Fin 32 → Operand → Instr} (op : Nat) (d : Operand) (q : Bool) (b : Fin 32) (x : Operand)
    (hop : op < 256 := by decide)
    (henc : encodeNat (mk' d q b x) =
      some (op * 16777216 + 16384 * 0 + d.code * 65536 + q.toNat * 8192 + b.val * 256 + x.code) := by rfl)
    (hdec : ∀ l, decodeOp op l = atomRed l
      (mk (.ofCode (l / 65536)) (l / 8192 % 2 == 1) (Fin.ofNat 32 (l / 256 % 32)) (.ofCode (l % 256)))
      (mk' (.ofCode (l / 65536)) (l / 8192 % 2 == 1) (Fin.ofNat 32 (l / 256 % 32)) (.ofCode (l % 256))) := by intro; rfl) :
    ReadsBack (mk' d q b x) := by
  refine dqbx 0 d q b x hop (by decide) rfl henc (fun h => (hdec _).trans ?_)
  simp only [atomRed, h, Nat.reduceBEq, Bool.false_eq_true, ↓reduceIte, beq_self_eq_true]

theorem cas (d : Operand) (q : Bool) (b : Fin 32) (x : Operand) : ReadsBack (.cas d q b x) :=
  dqbx (op := 0x99) 2 d q b x (by decide) (by decide) rfl rfl (fun h => if_pos (beq_iff_eq.mpr h))

theorem dbx {mk : Operand → Fin 32 → Operand → Instr} (op : Nat) (d : Operand) (b : Fin 32) (x : Operand)
    (hop : op < 256 := by decide)
    (henc : encodeNat (mk d b x) = some (op * 16777216 + 0xA000 + d.code * 65536 + b.val * 256 + x.code) := by rfl)
    (hdec : ∀ l, decodeOp op l = if l / 8192 % 8 == 5 then
      .ok (mk (.ofCode (l / 65536)) (Fin.ofNat 32 (l / 256 % 32)) (.ofCode (l % 256))) else .unassigned := by intro; rfl) :
    ReadsBack (mk d b x) := by
  have := d.code_lt
  have := b.isLt
  have := x.code_lt
  refine of_decodeOp henc ((hdec (0xA000 + d.code * 65536 + b.val * 256 + x.code)).trans (if_pos ?_)) hop (by omega) (by omega) ?_
  · rw [beq_iff_eq]
    omega
  · rw [ofCode_eq (o := d) (by omega), finOfNat_eq (i := b) (by omega), ofCode_eq (o := x) (by omega)]

end ReadsBack

theorem readsBack (i : Instr) : ReadsBack i := by
  cases i with
  | nop => rintro _ ⟨⟩; exact ⟨by decide, rfl⟩
  | br off => exact .off 0x01 off
  | brt p off => exact .pOff 0x02 p off
  | brx a => exact .a 0x03 a
  | call r off => exact .pOff 0x04 r off
  | ret r => exact .k 0x05 r
  | tok off => exact .off 0x06 off
  | rejoin k => exact .top 0x07 k
  | exit a => exact .a 0x08 a
  | yield => rintro _ ⟨⟩; exact ⟨by decide, rfl⟩
  | waitf a => exact .a 0x0A a
  | waitv c a b => exact .nab 0x0B c a b
  | fpt k => exact .half 0x0C k
  | sleep n => exact .all 0x0D n
  | bar n => exact .n 0x0E n
  | barArrive n => exact .n 0x0F n
  | barWait n => exact .n 0x10 n
  | lfsr d a => exact .lfsr d a
  | lfsrRd d => exact .lfsrRd d
  | modeSet s v => exact .sv 0x12 s v
  | modeGet d => exact .d 0x13 d
  | modePut a => exact .a 0x14 a
  | guard s p => exact .sp 0x15 s p
  | lrec a b => exact .ab 0xE8 a b
  | launch a => exact .a 0xE9 a
  | lit l => exact .all 0xF0 l
  | lih h => exact .byte 0xF1 h
  | trap c => exact .byte 0xF2 c
  | sysr d s => exact .di 0xF3 d s
  | sysw d s => exact .di 0xF4 d s
  | brk c => exact .byte 0xF5 c
  | add d a b => exact .dab 0x20 d a b
  | sub d a b => exact .dab 0x21 d a b
  | addc d a b => exact .dab 0x22 d a b
  | subb d a b => exact .dab 0x23 d a b
  | mul d a b => exact .dab 0x24 d a b
  | mulh d a b => exact .dab 0x25 d a b
  | mad d a b => exact .dab 0x26 d a b
  | madh d a b => exact .dab 0x27 d a b
  | div d a b => exact .dab 0x28 d a b
  | rem d a b => exact .dab 0x29 d a b
  | neg d a => exact .da 0x2A d a
  | abs d a => exact .da 0x2B d a
  | min d a b => exact .dab 0x2C d a b
  | max d a b => exact .dab 0x2D d a b
  | and d a b => exact .dab 0x2E d a b
  | or d a b => exact .dab 0x2F d a b
  | xor d a b => exact .dab 0x30 d a b
  | not d a => exact .da 0x31 d a
  | andn d a b => exact .dab 0x32 d a b
  | shl d a b => exact .dab 0x33 d a b
  | shr d a b => exact .dab 0x34 d a b
  | sar d a b => exact .dab 0x35 d a b
  | rol d a b => exact .dab 0x36 d a b
  | bfx d a b => exact .dab 0x37 d a b
  | bfi d a b => exact .dab 0x38 d a b
  | popc d a => exact .da 0x39 d a
  | clz d a => exact .da 0x3A d a
  | ctz d a => exact .da 0x3B d a
  | brev d a => exact .da 0x3C d a
  | cmp r p a b => exact .rpab 0x3D r p a b
  | sel d a b => exact .dab 0x3E d a b
  | mov d a => exact .da 0x3F d a
  | movi d i => exact .di 0x40 d i
  | movs d a b => exact .dab 0x41 d a b
  | shflIdx d a b => exact .dab 0x42 d a b
  | shflXor d a b => exact .dab 0x43 d a b
  | shflUp d a b => exact .dab 0x44 d a b
  | shflDown d a b => exact .dab 0x45 d a b
  | vote d a k => exact .dak 0x46 d a k
  | ballot d a s => exact .das 0x47 d a s
  | redux d a o => exact .dao 0x48 d a o
  | scan d a e o => exact .daeo 0x49 d a e o
  | pand d a b => exact .dab 0x4A d a b
  | por d a b => exact .dab 0x4B d a b
  | pxor d a b => exact .dab 0x4C d a b
  | pnot d a => exact .da 0x4D d a
  | pcnt d a s => exact .das 0x4E d a s
  | fadd d a b => exact .dab 0x50 d a b
  | fsub d a b => exact .dab 0x51 d a b
  | fmul d a b => exact .dab 0x52 d a b
  | ffma d a b => exact .dab 0x53 d a b
  | fabs d a => exact .da 0x54 d a
  | fneg d a => exact .da 0x55 d a
  | fmin d a b => exact .dab 0x56 d a b
  | fmax d a b => exact .dab 0x57 d a b
  | fcmp r p a b => exact .rpab 0x58 r p a b
  | fcls d a => exact .da 0x59 d a
  | frcp d a => exact .da 0x5A d a
  | frsq d a => exact .da 0x5B d a
  | fsqrt d a => exact .da 0x5C d a
  | fdiv d a b => exact .dab 0x5D d a b
  | fex2 d a => exact .da 0x5E d a
  | flg2 d a => exact .da 0x5F d a
  | fsin d a => exact .da 0x60 d a
  | fcos d a => exact .da 0x61 d a
  | ffrac d a => exact .da 0x62 d a
  | fround d a => exact .da 0x63 d a
  | fscale d a b => exact .dab 0x64 d a b
  | cvtFi d a c => exact .dac 0x65 d a c
  | cvtIf d a c => exact .dac 0x66 d a c
  | cvtFfFrom d a p => exact .cvtFfs d a p false
  | cvtFfTo d a p => exact .cvtFfs d a p true
  | pack8 d a k f => exact .dakf 0x68 d a k f
  | pack6 d a k f => exact .dakf 0x69 d a k f
  | pack4 d a k f => exact .dakf 0x6A d a k f
  | unpack d a k f => exact .dakf 0x6B d a k f
  | dot2 d a b => exact .dab 0x6C d a b
  | dot4 d a b => exact .dab 0x6D d a b
  | dot8 d a b => exact .dab 0x6E d a b
  | rseed a => exact .a 0x6F a
  | rnext d => exact .rnexts d false
  | rnextH d => exact .rnexts d true
  | ipt d a b => exact .dab 0x71 d a b
  | ilo d a => exact .da 0x72 d a
  | ihi d a => exact .da 0x73 d a
  | imid d a => exact .da 0x74 d a
  | iwid d a => exact .da 0x75 d a
  | ihull d a b => exact .dab 0x76 d a b
  | isect d a b => exact .dab 0x77 d a b
  | iin d a b => exact .dab 0x78 d a b
  | ibis d a b => exact .dab 0x79 d a b
  | itake d a b => exact .dab 0x7A d a b
  | bbox d a b => exact .dab 0x7B d a b
  | ldG d w b x => exact .dwbx 0x80 d w b x
  | ldL d w b x => exact .dwbx 0x81 d w b x
  | ldC d w b x => exact .dwbx 0x82 d w b x
  | ldS d w b x => exact .dwbx 0x83 d w b x
  | ldP d w b x => exact .dwbx 0x84 d w b x
  | stG d w b x => exact .dwbx 0x85 d w b x
  | stL d w b x => exact .dwbx 0x86 d w b x
  | stC d w b x => exact .dwbx 0x87 d w b x
  | stS d w b x => exact .dwbx 0x88 d w b x
  | stP d w b x => exact .dwbx 0x89 d w b x
  | ldx d w b x => exact .dwbx 0x8A d w b x
  | stx d w b x => exact .dwbx 0x8B d w b x
  | ild d w b x => exact .dwbx 0x8C d w b x
  | ist d w b x => exact .dwbx 0x8D d w b x
  | prf w b x => exact .wbx 0x8E w b x
  | atomAdd d q b x => exact .atom 0x8F d q b x
  | atomFadd d q b x => exact .atom 0x90 d q b x
  | atomMin d q b x => exact .atom 0x91 d q b x
  | atomMax d q b x => exact .atom 0x92 d q b x
  | atomAnd d q b x => exact .atom 0x93 d q b x
  | atomOr d q b x => exact .atom 0x94 d q b x
  | atomXor d q b x => exact .atom 0x95 d q b x
  | atomExch d q b x => exact .atom 0x96 d q b x
  | atomInc d q b x => exact .atom 0x97 d q b x
  | atomDec d q b x => exact .atom 0x98 d q b x
  | redAdd d q b x => exact .red 0x8F d q b x
  | redFadd d q b x => exact .red 0x90 d q b x
  | redMin d q b x => exact .red 0x91 d q b x
  | redMax d q b x => exact .red 0x92 d q b x
  | redAnd d q b x => exact .red 0x93 d q b x
  | redOr d q b x => exact .red 0x94 d q b x
  | redXor d q b x => exact .red 0x95 d q b x
  | redExch d q b x => exact .red 0x96 d q b x
  | redInc d q b x => exact .red 0x97 d q b x
  | redDec d q b x => exact .red 0x98 d q b x
  | cas d q b x => exact .cas d q b x
  | ldf d b x => exact .dbx 0x9A d b x
  | stf d b x => exact .dbx 0x9B d b x
  | cpy a => exact .a 0x9C a
  | cpyCol a => exact .a 0x9D a
  | cpyMc a => exact .a 0x9E a
  | cpyThen a b => exact .ab 0x9F a b
  | sealBatch d => exact .d 0xA0 d
  | bwait k => exact .k 0xA1 k
  | slotFree a => exact .a 0xA2 a
  | tbarInit a b => exact .ab 0xA3 a b
  | tbarExpect a b => exact .ab 0xA4 a b
  | tbarArrive d a => exact .da 0xA5 d a
  | tbarWait a b => exact .ab 0xA6 a b
  | fenceX p q => exact .pq 0xA7 p q
  | fenceH => rintro _ ⟨⟩; exact ⟨by decide, rfl⟩
  | spl d a b => exact .dab 0xA9 d a b
  | fil d a b => exact .dab 0xAA d a b
  | mma n a b => exact .nab 0xB0 n a b
  | mmaB n a b => exact .nab 0xB1 n a b
  | mmat a => exact .a 0xB2 a
  | accSwap n => exact .n 0xB3 n
  | accZero n => exact .accZeros n false
  | accZeroV n => exact .accZeros n true
  | accRd d a r n => exact .darn 0xB5 d a r n
  | accWr d a r n => exact .darn 0xB6 d a r n
  | tld d w b x => exact .dwbx 0xB7 d w b x
  | tldT d w b x => exact .dwbx 0xB8 d w b x
  | tst d w b x => exact .dwbx 0xB9 d w b x
  | tscale d a f => exact .daf 0xBA d a f
  | fmtv d a => exact .da 0xBB d a
  | scq d a b => exact .dab 0xD0 d a b
  | scfill d a b => exact .dab 0xD1 d a b
  | scinv d a => exact .da 0xD2 d a
  | scage d a b => exact .dab 0xD3 d a b
  | rast a => exact .a 0xD4 a
  | ray a b => exact .ab 0xD5 a b
  | qpost a => exact .a 0xE0 a
  | amerge d a b => exact .dab 0xE1 d a b
  | afin d a => exact .da 0xE2 d a
  | _ => exact nofun

theorem decode_of_encode {i : Instr} {w : Word} (h : encode i = some w) : decode w = .ok i := by
  obtain ⟨n, hn, rfl⟩ := Option.map_eq_some_iff.mp h
  obtain ⟨hlt, hdec⟩ := readsBack i n hn
  rw [decode, BitVec.toNat_ofNat, Nat.mod_eq_of_lt hlt, hdec]

theorem encode_of_decode {w : Word} {i : Instr} (h : decode w = .ok i) : encode i = some w := by
  rw [encode, encodeNat_of_decodeNat w.isLt h, Option.map_some, BitVec.ofNat_toNat, BitVec.setWidth_eq]

end Sys2Proof

namespace Sys2Proof.Machine

/-- Settles O58: an encoded word decodes by the layout of its instruction, a decoded one encodes by its opcode's family. -/
theorem decodeEncodeAgree : Obligations.DecodeEncodeAgree := by
  unfold Obligations.DecodeEncodeAgree
  exact ⟨fun _ _ h => decode_of_encode h, fun _ _ h => encode_of_decode h⟩

/-- Settles O57: each word is the word of its instruction, and so decodes to it. -/
theorem decodeWords : Obligations.DecodeWords := by
  unfold Obligations.DecodeWords
  refine ⟨?_, ?_, ?_, ?_, ?_, ?_, ?_, ?_, ?_, ?_, ?_, ?_, ?_, ?_, ?_⟩ <;> exact decode_of_encode rfl

end Sys2Proof.Machine

/-! ### Memory stays in its canonical form (R159, R512)

O60 speaks of every step from every state, so each function of the model that gives a state, or a step's outcome, has one lemma
here, in the order of the model's files: from a state whose memory is in its canonical form it gives such a state. The functions
that write the memory are those of `Laws/Memory.lean`; all others only call them or change other fields (`State.MemWf.update`).
A lemma's proof follows its function's branches. -/

namespace Sys2Proof.Machine

/-- The memory of a state is in its canonical form. -/
def State.MemWf (s : State) : Prop := Memory.wf s.mem = true

/-- Whatever an optional value is, it has the property. -/
def OnSome {α : Type} (P : α → Prop) (o : Option α) : Prop := ∀ x, o = some x → P x

/-- Whatever a computation that may fail gives has the property. -/
def OnOk {ε α : Type} (P : α → Prop) (r : Except ε α) : Prop := ∀ x, r = .ok x → P x

/-- The next state of an outcome, if there is one, has its memory in the canonical form. -/
def EndsWf (r : Host.Outcome State Fault Refusal) : Prop := ∀ t, r = .next t → t.MemWf

theorem OnSome.none {α : Type} {P : α → Prop} : OnSome P none := nofun
theorem OnSome.some {α : Type} {P : α → Prop} {x : α} (h : P x) : OnSome P (some x) := by rintro _ ⟨⟩; exact h
theorem OnOk.error {ε α : Type} {P : α → Prop} {e : ε} : OnOk P (.error e) := nofun
theorem OnOk.ok {ε α : Type} {P : α → Prop} {x : α} (h : P x) : OnOk (ε := ε) P (.ok x) := by rintro _ ⟨⟩; exact h
theorem EndsWf.next {t : State} (h : t.MemWf) : EndsWf (.next t) := by rintro _ ⟨⟩; exact h
theorem EndsWf.fault {e : Fault} : EndsWf (.fault e) := fun _ h => by simp at h
theorem EndsWf.refused {e : Refusal} : EndsWf (.refused e) := fun _ h => by simp at h

section
variable {s : State}

/-- A change of any fields but the memory keeps its form. -/
theorem State.MemWf.update
    {focus frag wave sibs wg iss others wgs images saved gone goneWgs aclk lag us pts poison uncorr tags locs below tier
    scrubbed scrubs bootScrub cmem cpois cleases l1 l2 l2E l2Tmax l2Stamp l2Foreign frameLeases steppeLeases locks msc tlb
    invs older oseq watches deficits weights pendLoads regs dbell launches pending listed cmds withdrawn doneCmds ended matq
    sliceTime scTags jobs jobBlocks bauFailed confs owed alogLast alogKey doneFlags keyGen keyBusy meterTokens held logSeq
    logHash logPending imageHash extReads injecting heldIn heldOut sent powered wdogStart sliceMHz sliceCeil sliceHot
    hotStacks sliceOut laneTaps readEye replays training linkDown linkIds colReplays colSpares pcieUp rowActs throttled sideQ
    refreshes hostMem atc pri halts halted testIr rbacc bsr testBypass agenda free nextId}
    (h : s.MemWf) :
    State.MemWf (.mk
      focus frag wave sibs wg iss others wgs images saved gone goneWgs aclk lag us pts s.mem poison uncorr tags locs below
    tier scrubbed scrubs bootScrub cmem cpois cleases l1 l2 l2E l2Tmax l2Stamp l2Foreign frameLeases steppeLeases locks msc
    tlb invs older oseq watches deficits weights pendLoads regs dbell launches pending listed cmds withdrawn doneCmds ended
    matq sliceTime scTags jobs jobBlocks bauFailed confs owed alogLast alogKey doneFlags keyGen keyBusy meterTokens held
    logSeq logHash logPending imageHash extReads injecting heldIn heldOut sent powered wdogStart sliceMHz sliceCeil sliceHot
    hotStacks sliceOut laneTaps readEye replays training linkDown linkIds colReplays colSpares pcieUp rowActs throttled sideQ
    refreshes hostMem atc pri halts halted testIr rbacc bsr testBypass agenda free nextId) := h

theorem State.MemWf.ite {c : Prop} [Decidable c] {t u : State} (ht : t.MemWf) (hu : u.MemWf) : (if c then t else u).MemWf := by
  split
  · exact ht
  · exact hu

theorem State.MemWf.ite_snd {α : Type} {c : Prop} [Decidable c] {x y : α × State} (hx : x.2.MemWf) (hy : y.2.MemWf) :
    (if c then x else y).2.MemWf := by
  split
  · exact hx
  · exact hy

theorem State.MemWf.of_pair {α : Type} {x : α × State} {a : α} {t : State} (h : x.2.MemWf) (e : x = (a, t)) : t.MemWf := by
  subst e
  exact h

theorem State.MemWf.getD {o : Option State} (h : s.MemWf) (ho : OnSome State.MemWf o) : (o.getD s).MemWf := by
  cases o with
  | none => exact h
  | some t => exact ho t rfl

theorem State.MemWf.foldl {α : Type} {f : State → α → State} {l : List α} (h : s.MemWf)
    (hf : ∀ t, t.MemWf → ∀ x, (f t x).MemWf) : (l.foldl f s).MemWf :=
  foldl_mem_wf (fun t x ht => hf t ht x) l h

theorem State.MemWf.foldl_snd {α β : Type} {f : β × State → α → β × State} {l : List α} {r : β × State} (h : r.2.MemWf)
    (hf : ∀ r, r.2.MemWf → ∀ x, (f r x).2.MemWf) : (l.foldl f r).2.MemWf := by
  induction l generalizing r with
  | nil => exact h
  | cons x xs ih => exact ih (hf r h x)

theorem OnSome.findSome? {α β : Type} {P : β → Prop} {f : α → Option β} {l : List α} (h : ∀ x, OnSome P (f x)) :
    OnSome P (l.findSome? f) := by
  intro y hy
  obtain ⟨x, -, hx⟩ := List.exists_of_findSome?_eq_some hy
  exact h x y hx

theorem OnSome.orElse {α : Type} {P : α → Prop} {o p : Option α} (ho : OnSome P o) (hp : OnSome P p) : OnSome P (o <|> p) := by
  cases o with
  | none => exact hp
  | some x => exact ho

theorem EndsWf.ite {c : Prop} [Decidable c] {r q : Host.Outcome State Fault Refusal} (hr : EndsWf r) (hq : EndsWf q) :
    EndsWf (if c then r else q) := by
  split
  · exact hr
  · exact hq

theorem EndsWf.ended {f : State → State} {r : Host.Outcome State Fault Refusal} (hr : EndsWf r)
    (hf : ∀ t, t.MemWf → (f t).MemWf) : EndsWf (ended f r) := by
  cases r with
  | next t => exact .next (hf t (hr t rfl))
  | fault e => exact .fault
  | refused e => exact .refused

/-- Each event of a list keeps the memory in its canonical form. -/
def EventsWf (es : List (State → Host.Outcome State Fault Refusal)) : Prop := ∀ e ∈ es, ∀ s : State, s.MemWf → EndsWf (e s)

theorem EventsWf.nil : EventsWf [] := nofun

theorem EventsWf.cons {e : State → Host.Outcome State Fault Refusal} {es : List (State → Host.Outcome State Fault Refusal)}
    (he : ∀ s : State, s.MemWf → EndsWf (e s)) (hes : EventsWf es) : EventsWf (e :: es) := by
  intro x hx
  rcases List.mem_cons.mp hx with rfl | hx
  · exact he
  · exact hes x hx

theorem EventsWf.append {es fs : List (State → Host.Outcome State Fault Refusal)} (he : EventsWf es) (hf : EventsWf fs) :
    EventsWf (es ++ fs) := fun x hx => (List.mem_append.mp hx).elim (he x) (hf x)

theorem EventsWf.map {α : Type} {f : α → State → Host.Outcome State Fault Refusal} {l : List α}
    (hf : ∀ x, ∀ s : State, s.MemWf → EndsWf (f x s)) : EventsWf (l.map f) := by
  intro e he
  obtain ⟨x, -, rfl⟩ := List.mem_map.mp he
  exact hf x

theorem EventsWf.flatMap {α : Type} {f : α → List (State → Host.Outcome State Fault Refusal)} {l : List α}
    (hf : ∀ x, EventsWf (f x)) : EventsWf (l.flatMap f) := by
  intro e he
  obtain ⟨x, -, hx⟩ := List.mem_flatMap.mp he
  exact hf x e hx

theorem EventsWf.ite {c : Prop} [Decidable c] {es fs : List (State → Host.Outcome State Fault Refusal)} (he : EventsWf es)
    (hf : EventsWf fs) : EventsWf (if c then es else fs) := by
  split
  · exact he
  · exact hf

/-! #### The functions of Machine/State.lean -/

theorem memWf_reset : State.reset.MemWf :=
  reset_mem_wf

/-! #### The functions of Machine/Regs.lean -/

theorem State.MemWf.setReg {off w} (h : s.MemWf) : (s.setReg off w).MemWf := h.update

theorem State.MemWf.setPreg {i off v} (h : s.MemWf) : (s.setPreg i off v).MemWf := h.setReg

theorem State.MemWf.setReg64 {off v} (h : s.MemWf) : (s.setReg64 off v).MemWf := h.setReg.setReg

theorem State.MemWf.setBell {f c off v} (h : s.MemWf) : (s.setBell f c off v).MemWf := h.update

theorem State.MemWf.pass {n} (h : s.MemWf) : (s.pass n).MemWf := h.update

theorem State.MemWf.cycle {core} (h : s.MemWf) : (s.cycle core).MemWf := h.pass

/-! #### The functions of Machine/Mem.lean -/

theorem State.MemWf.scrubNow {g} (h : s.MemWf) : (s.scrubNow g).MemWf :=
  scrubNow_mem_wf _ h

theorem State.MemWf.wakeLine {line} (h : s.MemWf) : (s.wakeLine line).MemWf := h.update

theorem State.MemWf.setPts {core t} (h : s.MemWf) : (s.setPts core t).MemWf := h.update

theorem State.MemWf.raisePts {core t} (h : s.MemWf) : (s.raisePts core t).MemWf := h.setPts

theorem State.MemWf.l2Mod {slc pa f} (h : s.MemWf) : (s.l2Mod slc pa f).MemWf := by
  unfold State.l2Mod
  extract_lets
  exact h.update

theorem State.MemWf.setBelow {sec x} (h : s.MemWf) : (s.setBelow sec x).MemWf :=
  setBelow_mem_wf _ _ h

theorem State.MemWf.setMsc {sl index m} (h : s.MemWf) : (s.setMsc sl index m).MemWf := h.update

theorem State.MemWf.countUE {slc code} (h : s.MemWf) : (s.countUE slc code).MemWf := by
  unfold State.countUE
  extract_lets
  exact h.setReg

theorem State.MemWf.countCE {slc code} (h : s.MemWf) : (s.countCE slc code).MemWf := by
  unfold State.countCE
  extract_lets
  exact h.setReg

theorem State.MemWf.poisonBelow {sec} (h : s.MemWf) : (s.poisonBelow sec).MemWf :=
  poisonBelow_mem_wf _ h

theorem State.MemWf.poisonMsc {sl sec} (h : s.MemWf) : (s.poisonMsc sl sec).MemWf :=
  poisonMsc_mem_wf _ _ h

theorem State.MemWf.mscDrop {sl index n m} (h : s.MemWf) : (s.mscDrop sl index n m).MemWf :=
  mscDrop_mem_wf _ _ _ _ h

theorem State.MemWf.mscLose {sl index n m} (h : s.MemWf) : (s.mscLose sl index n m).MemWf :=
  mscLose_mem_wf _ _ _ _ h

theorem State.MemWf.mscAsk {sl t need wr} (h : s.MemWf) : (s.mscAsk sl t need wr).MemWf :=
  mscAsk_mem_wf _ _ _ _ h

theorem State.MemWf.mscFilled {sl index} (h : s.MemWf) : (s.mscFilled sl index).MemWf :=
  mscFilled_mem_wf _ _ h

theorem State.MemWf.mscTouch {p need wr} (h : s.MemWf) : (s.mscTouch p need wr).MemWf :=
  mscTouch_mem_wf _ _ _ h

theorem State.MemWf.setArray {sec x} (h : s.MemWf) : (s.setArray sec x).MemWf := by
  unfold State.setArray
  split
  · exact h.update
  · exact h.setBelow

theorem State.MemWf.dropPhys {p} (h : s.MemWf) : (s.dropPhys p).MemWf :=
  dropPhys_mem_wf _ h

theorem State.MemWf.l2Fill {p need} (h : s.MemWf) : (s.l2Fill p need).MemWf :=
  l2Fill_mem_wf _ _ h

theorem State.MemWf.l2Touch {f pa p need} (h : s.MemWf) : (s.l2Touch f pa p need).MemWf :=
  l2Touch_mem_wf _ _ _ _ h

theorem State.MemWf.raiseTmax {slc t} (h : s.MemWf) : (s.raiseTmax slc t).MemWf := by
  unfold State.raiseTmax
  extract_lets
  exact h.update

theorem State.MemWf.l2Grant {slc pa le} (h : s.MemWf) : (s.l2Grant slc pa le).MemWf := by
  unfold State.l2Grant
  extract_lets s1
  have hs1 : s1.MemWf := h.raiseTmax
  split
  · exact hs1.l2Mod
  · exact hs1.update

theorem State.MemWf.l1Put {core c} (h : s.MemWf) : (s.l1Put core c).MemWf := by
  unfold State.l1Put
  extract_lets
  exact h.update

theorem State.MemWf.dropStale {core} (h : s.MemWf) : (s.dropStale core).MemWf := by
  unfold State.dropStale
  extract_lets
  exact h.update

theorem State.MemWf.nextLease {p} (h : s.MemWf) : (s.nextLease p).MemWf := by
  unfold State.nextLease
  extract_lets
  split
  · exact h.update
  · split
    · exact h.update
    · split
      · exact h.update
      · split
        · exact h.l2Grant
        · exact h.update.raiseTmax

theorem State.MemWf.markSeen {sel q w} (h : s.MemWf) : (s.markSeen sel q w).MemWf := by
  unfold State.markSeen
  extract_lets _ _ s1
  have hs1 : s1.MemWf := h.update
  split
  · exact hs1.foldl (fun _ hs2 _ => hs2.nextLease)
  · exact hs1

theorem State.MemWf.orderV {core sel} (h : s.MemWf) : (s.orderV core sel).MemWf := by
  unfold State.orderV
  extract_lets s1
  have hs1 : s1.MemWf := h.markSeen
  exact hs1.foldl (fun _ hs2 _ => hs2.raisePts)

theorem State.MemWf.observeAt {d q w p n} (h : s.MemWf) : (s.observeAt d q w p n).MemWf := by
  unfold State.observeAt
  extract_lets
  split
  · exact h.markSeen
  · exact h

theorem State.MemWf.nextDraw (h : s.MemWf) : s.nextDraw.MemWf := by
  unfold State.nextDraw
  split
  · exact h
  · exact h.update

theorem State.MemWf.observe {q w p n} (h : s.MemWf) : (s.observe q w p n).MemWf := h.observeAt.nextDraw

theorem State.MemWf.observeAll {q p n} (h : s.MemWf) : (s.observeAll q p n).MemWf := by
  unfold State.observeAll
  split
  · exact h.markSeen
  · exact h

theorem State.MemWf.putLine {path cmd k p bs} (h : s.MemWf) : (s.putLine path cmd k p bs).MemWf :=
  putLine_mem_wf _ _ _ _ _ h

theorem State.MemWf.scrubFirst {p} (h : s.MemWf) : (s.scrubFirst p).MemWf :=
  scrubFirst_mem_wf _ h

theorem State.MemWf.putPlace {path cmd f k p bs} (h : s.MemWf) : (s.putPlace path cmd f k p bs).MemWf :=
  putPlace_mem_wf _ _ _ _ _ _ h

theorem State.MemWf.observeMask {w p m} (h : s.MemWf) : (s.observeMask w p m).MemWf :=
  (h.foldl (fun _ ht _ => ht.observeAt)).nextDraw

theorem State.MemWf.setHome {pa le} (h : s.MemWf) : (s.setHome pa le).MemWf := by
  unfold State.setHome
  split
  · split
    · exact h.update
    · exact h.l2Grant
  · exact h

theorem State.MemWf.homeLoad {pa clock} (h : s.MemWf) : (s.homeLoad pa clock).2.MemWf := by
  unfold State.homeLoad
  extract_lets
  exact h.setHome

theorem State.MemWf.vloadIn {who pa n need} (h : s.MemWf) : (s.vloadIn who pa n need).2.MemWf := by
  unfold State.vloadIn
  extract_lets
  split
  · extract_lets _ s1 _ h1
    have hs1 : s1.MemWf := h.l2Touch
    have hh1 : h1.2.MemWf := hs1.observeMask.homeLoad
    split
    · exact h.setPts
    · exact hh1.l1Put.setPts
  · extract_lets h1
    have hh1 : h1.2.MemWf := h.observe.homeLoad
    exact hh1.setPts
  · split
    · exact h
    · exact h.update
  · exact h.update

theorem State.MemWf.vload {who pa n} (h : s.MemWf) : (s.vload who pa n).2.MemWf := h.vloadIn

theorem State.MemWf.vloadAt {who pa n clock} (h : s.MemWf) : (s.vloadAt who pa n clock).2.MemWf := by
  unfold State.vloadAt
  extract_lets h1
  have hh1 : h1.2.MemWf := h.homeLoad
  split
  · exact hh1.raisePts
  · split
    · split
      · exact h
      · exact h
    · exact h

theorem State.MemWf.askFor {f pa n} (h : s.MemWf) : (s.askFor f pa n).MemWf :=
  askFor_mem_wf _ _ _ h

theorem State.MemWf.vstoreAt {who pa ts bs} (h : s.MemWf) : (s.vstoreAt who pa ts bs).MemWf :=
  vstoreAt_mem_wf _ _ _ _ h

theorem State.MemWf.vstore {who pa bs} (h : s.MemWf) : (s.vstore who pa bs).MemWf := h.askFor.vstoreAt

theorem State.MemWf.vtouch {who pa n} (h : s.MemWf) : (s.vtouch who pa n).MemWf := by
  unfold State.vtouch
  split
  · extract_lets s1
    have hs1 : s1.MemWf := h.observeAll
    exact hs1.setHome.raisePts
  · exact h

theorem State.MemWf.mark {who ms} (h : s.MemWf) : (s.mark who ms).MemWf := by
  induction ms generalizing s with
  | nil => exact h
  | cons m ms ih =>
    unfold State.mark
    extract_lets e t
    have ht : t.MemWf := by
      unfold t
      split
      · exact (h.l2Touch.observeAll.homeLoad.raisePts).ite h.l2Touch.observeAll.homeLoad.raisePts.vstore
      · exact h
    exact ih ht

theorem State.MemWf.physWrite {path f pa bs} (h : s.MemWf) : (s.physWrite path f pa bs).MemWf :=
  physWrite_mem_wf _ _ _ _ h

theorem State.MemWf.physTouch {f pa n} (h : s.MemWf) : (s.physTouch f pa n).MemWf := by
  unfold State.physTouch
  exact h.foldl (fun _ hs1 _ => by
      split
      · exact hs1.l2Touch
      · exact hs1)

/-! #### The functions of Machine/Ops.lean -/

theorem State.MemWf.unfocus (h : s.MemWf) : s.unfocus.MemWf := by
  unfold State.unfocus
  split
  · exact h.update
  · exact h

theorem State.MemWf.focusOn {id slot} (h : s.MemWf) : OnSome State.MemWf (s.focusOn id slot) := by
  unfold State.focusOn
  extract_lets s1
  have hs1 : s1.MemWf := h.unfocus
  split
  · exact .some h
  · split
    · exact .none
    · split
      · exact .some hs1.update
      · exact .none

theorem State.MemWf.modGroup {id f} (h : s.MemWf) : (s.modGroup id f).MemWf := by
  unfold State.modGroup
  split
  · exact h.update
  · exact h.update

theorem State.MemWf.modWave {id f} (h : s.MemWf) : (s.modWave id f).MemWf := by
  unfold State.modWave
  split
  · exact h.update
  · exact h.update

theorem State.MemWf.modFrags {f} (h : s.MemWf) : (s.modFrags f).MemWf := by
  unfold State.modFrags
  extract_lets s1
  have hs1 : s1.MemWf := h.update.ite h
  exact hs1.update

theorem State.MemWf.poisonUE {sec} (h : s.MemWf) : (s.poisonUE sec).MemWf := h.update.countUE

theorem State.MemWf.meetBy {on r pa p secs} (h : s.MemWf) (hon : ∀ t : State, t.MemWf → ∀ r, (on t r).MemWf) :
    (s.meetBy on r pa p secs).MemWf := by
  unfold State.meetBy
  extract_lets _ _ s1 _ _ s2 s3
  have hs1 : s1.MemWf := h.l2Fill.ite h
  have hs2 : s2.MemWf := hs1.update
  have hs3 : s3.MemWf := hs2.foldl (fun _ hs4 _ => by
      split
      · exact hon _ hs4 _
      · exact hs4)
  exact hs3.foldl (fun _ hs4 _ => (hon _ hs4.poisonUE _).ite hs4)

theorem State.MemWf.oweRec {r} (h : s.MemWf) : (s.oweRec r).MemWf := h.update

theorem State.MemWf.oweMet {who grant pa p secs} (h : s.MemWf) : (s.oweMet who grant pa p secs).MemWf :=
  h.meetBy (fun _ hs1 _ => hs1.oweRec)

theorem State.MemWf.oweConf {r} (h : s.MemWf) : (s.oweConf r).MemWf := by
  unfold State.oweConf
  extract_lets
  split
  · exact h
  · exact h.oweRec

theorem State.MemWf.captureS2 {i f ipa} (h : s.MemWf) : (s.captureS2 i f ipa).MemWf := by
  unfold State.captureS2
  extract_lets _ _ s1
  have hs1 : s1.MemWf := h.setPreg
  split
  · exact hs1
  · exact hs1.setPreg.setPreg.setPreg

theorem State.MemWf.oweFail {who e} (h : s.MemWf) : (s.oweFail who e).MemWf := by
  unfold State.oweFail
  extract_lets s1
  have hs1 : s1.MemWf := h.foldl (fun _ hs2 _ => hs2.captureS2)
  split
  · exact hs1.oweConf
  · exact hs1

theorem State.MemWf.s12Write {q who pa bs} (h : s.MemWf) : (s.s12Write q who pa bs).MemWf := by
  unfold State.s12Write
  split
  · exact h.vstore
  · split
    · exact h.putPlace
    · exact h

theorem State.MemWf.ctxPutOn {q who grant va bs} (h : s.MemWf) : (s.ctxPutOn q who grant va bs).2.MemWf := by
  unfold State.ctxPutOn
  split
  · exact h.oweFail
  · split
    · exact h.update
    · exact h.mark.foldl (fun _ hs1 _ => by
        extract_lets s2
        have hs2 : s2.MemWf := by
          unfold s2
          split
          · exact hs1.oweMet
          · exact hs1
        exact hs2.s12Write)

theorem State.MemWf.ctxPut {who grant va bs} (h : s.MemWf) : (s.ctxPut who grant va bs).2.MemWf := h.ctxPutOn

theorem State.MemWf.releaseHeld (h : s.MemWf) : s.releaseHeld.MemWf := h.update.foldl (fun _ hs1 _ => hs1.ctxPutOn)

theorem State.MemWf.look {who va n} (h : s.MemWf) : (s.look who va n).MemWf := by
  unfold State.look
  extract_lets
  split
  · exact h.oweFail
  · exact (h.foldl (fun _ hs1 _ => by
      split
      · extract_lets s2 s3
        have hs2 : s2.MemWf := hs1.mark.oweMet
        have hs3 : s3.MemWf := hs2.l2Touch.observeAt
        exact hs3.setHome
      · exact hs1)).nextDraw

theorem State.MemWf.oweCtx {who off n} (h : s.MemWf) : (s.oweCtx who off n).MemWf := by
  unfold State.oweCtx
  split
  · split
    · exact h
    · exact h.oweConf
  · exact h

theorem State.MemWf.useCtx {who off n} (h : s.MemWf) : (s.useCtx who off n).MemWf := by
  unfold State.useCtx
  split
  · exact h.oweCtx.physTouch
  · exact h

theorem State.MemWf.lostRec {who grant base} (h : s.MemWf) : (s.lostRec who grant base).MemWf := by
  unfold State.lostRec
  extract_lets
  exact h.look.ctxPut

theorem State.MemWf.writeRec {who grant r} (h : s.MemWf) : (s.writeRec who grant r).MemWf := by
  unfold State.writeRec
  extract_lets s1 _ _ _ s2
  have hs1 : s1.MemWf := h.useCtx
  have hs2 : s2.MemWf := hs1.look
  split
  · exact hs1
  · split
    · split
      next t e =>
        have ht : t.MemWf := hs2.ctxPut.of_pair e
        exact ht.lostRec
      next t e =>
        have ht : t.MemWf := hs2.ctxPut.of_pair e
        exact ht.ctxPut
    · exact hs2.lostRec

theorem State.MemWf.writeFwRec {r} (h : s.MemWf) : (s.writeFwRec r).MemWf := by
  unfold State.writeFwRec
  extract_lets
  split
  · exact h.setReg
  · exact h.physWrite.setReg

theorem State.MemWf.noteLost {pa} (h : s.MemWf) : (s.noteLost pa).MemWf := by
  unfold State.noteLost
  split
  · exact h.writeFwRec
  · split
    · exact h
    · split
      · exact h.poisonUE
      · exact h

theorem State.MemWf.report {who grant r} (h : s.MemWf) : (s.report who grant r).MemWf := by
  unfold State.report
  extract_lets s1
  have hs1 : s1.MemWf := h.writeRec
  split
  · exact hs1.writeFwRec
  · exact hs1

theorem State.MemWf.tell {who grant r} (h : s.MemWf) : (s.tell who grant r).MemWf := by
  unfold State.tell
  split
  · exact h.report
  · exact h.writeFwRec

theorem State.MemWf.meetUE {who grant r pa p n} (h : s.MemWf) : (s.meetUE who grant r pa p n).MemWf :=
  h.meetBy (fun _ hs1 _ => hs1.tell)

theorem State.MemWf.seen {who q va n acc} (h : s.MemWf) : (s.seen who q va n acc).MemWf := by
  unfold State.seen
  extract_lets
  split
  · exact h.foldl (fun _ hs1 _ => hs1.captureS2)
  · exact (h.foldl (fun _ hs1 _ => by
      split
      · extract_lets s2 s3
        have hs2 : s2.MemWf := hs1.mark.meetUE
        have hs3 : s3.MemWf := hs2.l2Touch.observeAt
        split
        · exact hs3.setHome
        · exact hs3
      · exact hs1.update)).nextDraw

theorem State.MemWf.setDumpState {who grant v} (h : s.MemWf) : (s.setDumpState who grant v).MemWf := by
  unfold State.setDumpState
  extract_lets s1
  have hs1 : s1.MemWf := h.useCtx
  split
  · exact hs1
  · exact hs1.ctxPut

theorem State.MemWf.confRecord {r} (h : s.MemWf) : (s.confRecord r).MemWf := by
  unfold State.confRecord
  extract_lets _ _ s1
  have hs1 : s1.MemWf := h.writeRec.ite (h.foldl (fun _ hs2 _ => hs2.writeRec))
  split
  · exact hs1.writeFwRec
  · exact hs1

theorem State.MemWf.confine {level who g r} (h : s.MemWf) : (s.confine level who g r).MemWf := by
  unfold State.confine
  extract_lets _ _ s1 t _ _ s2 _ s3
  have hs1 : s1.MemWf := h.update
  have ht : t.MemWf := hs1.update
  have hs2 : s2.MemWf := hs1.update
  have hs3 : s3.MemWf := hs2.ite (hs2.foldl (fun _ hs4 _ => hs4.setBell.setBell))
  split
  · split
    · exact ht.foldl (fun _ hs4 _ => hs4.confRecord)
    · exact ht
  · exact hs3.foldl (fun _ hs4 _ => hs4.setDumpState)

theorem State.MemWf.confineWg {source c} (h : s.MemWf) : (s.confineWg source c).MemWf := h.update.confine

theorem State.MemWf.confineEntry {code lanes header} (h : s.MemWf) : (s.confineEntry code lanes header).MemWf := by
  unfold State.confineEntry
  extract_lets
  exact h.update.confine

theorem State.MemWf.confineOwner {c u} (h : s.MemWf) : (s.confineOwner c u).MemWf := by
  unfold State.confineOwner
  extract_lets
  exact h.update.noteLost.confine

theorem State.MemWf.enterHandler {exec c header ver entry} (h : s.MemWf) : (s.enterHandler exec c header ver entry).MemWf :=
    by
  unfold State.enterHandler
  extract_lets
  exact h.update

theorem State.MemWf.parkAgain (h : s.MemWf) : s.parkAgain.MemWf := by
  unfold State.parkAgain
  extract_lets
  exact h.update.cycle

theorem State.MemWf.takeTrap {exec c} (h : s.MemWf) : (s.takeTrap exec c).MemWf := by
  unfold State.takeTrap
  extract_lets s1 _ s2 r s3
  have hs1 : s1.MemWf := h.foldl fun _ ht _ => ht.captureS2
  have hs2 : s2.MemWf := hs1.useCtx
  split
  · exact h.parkAgain
  · split
    · exact hs1.confineOwner
    · split
      · exact hs1.confineWg
      · split
        · exact hs1.confineWg
        · split
          · exact hs1.confineOwner
          · split
            · exact hs2.confineWg
            · have hs3 : s3.MemWf := hs2.seen
              clear_value r s3
              split
              · exact hs3.confineOwner
              · exact hs3.confineEntry
              · exact hs3.confineEntry.ite hs3.enterHandler

theorem State.MemWf.leaveHandler {hx pc} (h : s.MemWf) : (s.leaveHandler hx pc).MemWf := by
  unfold State.leaveHandler
  extract_lets
  exact h.update

theorem State.MemWf.endInHandler {hx} (h : s.MemWf) : (s.endInHandler hx).MemWf := by
  unfold State.endInHandler
  extract_lets
  exact h.update.confine

/-! #### The functions of Machine/Unit.lean -/

theorem State.MemWf.setFrameLease {f c le} (h : s.MemWf) : (s.setFrameLease f c le).MemWf := h.update

theorem State.MemWf.frameLoad {f c core} (h : s.MemWf) : (s.frameLoad f c core).MemWf := by
  unfold State.frameLoad
  extract_lets
  exact h.setFrameLease.raisePts

theorem State.MemWf.frameStore {f c core v} (h : s.MemWf) : (s.frameStore f c core v).MemWf := by
  unfold State.frameStore
  extract_lets
  exact h.setBell.setFrameLease.raisePts

theorem State.MemWf.frameHost {f c v} (h : s.MemWf) : (s.frameHost f c v).MemWf := by
  unfold State.frameHost
  split
  · exact h.setFrameLease
  · exact h.setBell.setFrameLease

theorem State.MemWf.frameRead (h : s.MemWf) : s.frameRead.MemWf := by
  unfold State.frameRead
  split
  · exact h.frameLoad
  · exact h

theorem State.MemWf.retire {k} (h : s.MemWf) : (s.retire k).MemWf := by
  unfold State.retire
  extract_lets s1
  have hs1 : s1.MemWf := h.frameRead
  exact hs1.update.cycle

theorem State.MemWf.issueK {k conds eff} (h : s.MemWf) (heff : ∀ t : State, t.MemWf → (eff t).MemWf) :
    EndsWf (s.issueK k conds eff) := by
  unfold State.issueK
  split
  · exact .next h.takeTrap
  · exact .next (heff _ h.retire)

theorem State.MemWf.issue {conds eff} (h : s.MemWf) (heff : ∀ t : State, t.MemWf → (eff t).MemWf) :
    EndsWf (s.issue conds eff) :=
  h.issueK heff

theorem State.MemWf.issueLive {conds eff} (h : s.MemWf) (heff : ∀ t : State, t.MemWf → (eff t).MemWf) :
    EndsWf (s.issueLive conds eff) :=
  h.issue (fun _ ht => ht.ite (heff _ ht))

theorem State.MemWf.park {unit w} (h : s.MemWf) : (s.park unit w).MemWf := by
  unfold State.park
  extract_lets
  exact h.update

theorem State.MemWf.parkOldest {n} (h : s.MemWf) : (s.parkOldest n).MemWf := by
  unfold State.parkOldest
  extract_lets t
  have ht : t.MemWf := h.parkAgain
  exact ht.update

theorem State.MemWf.blockAgain (h : s.MemWf) : s.blockAgain.MemWf := by
  unfold State.blockAgain
  extract_lets
  exact h.update.cycle

theorem State.MemWf.block {unit w} (h : s.MemWf) : (s.block unit w).MemWf := by
  unfold State.block
  extract_lets
  exact h.update

theorem State.MemWf.wakeIf {p g} (h : s.MemWf) : (s.wakeIf p g).MemWf := by
  unfold State.wakeIf
  extract_lets _ _ _ _ s1
  have hs1 : s1.MemWf := h.update.ite h
  exact hs1.update

/-! #### The functions of Machine/Operands.lean -/

theorem State.MemWf.setV {r l n v pois} (h : s.MemWf) : (s.setV r l n v pois).MemWf := h.foldl (fun _ hs1 _ => hs1.update)

theorem State.MemWf.setX {r n v} (h : s.MemWf) : (s.setX r n v).MemWf := h.foldl (fun _ hs1 _ => hs1.update)

theorem State.MemWf.setP {p l v} (h : s.MemWf) : (s.setP p l v).MemWf := by
  unfold State.setP
  extract_lets
  exact h.update

theorem State.MemWf.setD {d l n v pois} (h : s.MemWf) : (s.setD d l n v pois).MemWf := by
  unfold State.setD
  split
  · exact h.setV
  · exact h.setX
  · exact h.setP
  · exact h

theorem State.MemWf.writeLanes {d n outs} (h : s.MemWf) : (s.writeLanes d n outs).MemWf := by
  unfold State.writeLanes
  exact h.foldl (fun _ hs1 _ => by
      extract_lets s2
      have hs2 : s2.MemWf := hs1.setD
      split
      · exact hs2.update
      · exact hs2)

/-! #### The functions of Machine/Flags.lean -/

theorem State.MemWf.alog {who grant r} (h : s.MemWf) : (s.alog who grant r).MemWf := by
  unfold State.alog
  extract_lets s1 _ _ _ _ s2
  have hs1 : s1.MemWf := h.useCtx
  have hs2 : s2.MemWf := hs1.look.look
  split
  · exact hs1
  · split
    · exact hs2.ctxPut
    · split
      next e => exact hs2.ctxPut.of_pair e
      next t e =>
        have ht : t.MemWf := hs2.ctxPut.of_pair e
        extract_lets s'
        have hs' : s'.MemWf := ht.ctxPut
        exact hs'.update

theorem State.MemWf.logLanes {pc outs} (h : s.MemWf) : (s.logLanes pc outs).MemWf := by
  unfold State.logLanes
  exact h.foldl (fun _ hs1 _ => by
      extract_lets
      split
      · exact hs1
      · exact hs1.alog)

theorem State.MemWf.finish {pc d n outs} (h : s.MemWf) : (s.finish pc d n outs).MemWf := h.writeLanes.logLanes

/-! #### The functions of Machine/Integer.lean -/

theorem State.MemWf.intUnit {d srcs readsD f} (h : s.MemWf) : EndsWf (s.intUnit d srcs readsD f) := by
  unfold State.intUnit
  extract_lets
  exact h.issue (fun _ ht => ht.finish)

theorem State.MemWf.execAdd {d a b} (h : s.MemWf) : EndsWf (execAdd d a b s) := h.intUnit

theorem State.MemWf.execSub {d a b} (h : s.MemWf) : EndsWf (execSub d a b s) := h.intUnit

theorem State.MemWf.carryUnit {d a b f} (h : s.MemWf) : EndsWf (s.carryUnit d a b f) := by
  unfold State.carryUnit
  extract_lets
  exact h.issue (fun _ ht => ht.writeLanes.foldl (fun _ ht1 _ => ht1.setP))

theorem State.MemWf.execAddc {d a b} (h : s.MemWf) : EndsWf (execAddc d a b s) := h.carryUnit

theorem State.MemWf.execSubb {d a b} (h : s.MemWf) : EndsWf (execSubb d a b s) := h.carryUnit

theorem State.MemWf.execMul {d a b} (h : s.MemWf) : EndsWf (execMul d a b s) := h.intUnit

theorem State.MemWf.execMulh {d a b} (h : s.MemWf) : EndsWf (execMulh d a b s) := h.intUnit

theorem State.MemWf.execMad {d a b} (h : s.MemWf) : EndsWf (execMad d a b s) := h.intUnit

theorem State.MemWf.execMadh {d a b} (h : s.MemWf) : EndsWf (execMadh d a b s) := h.intUnit

theorem State.MemWf.execDiv {d a b} (h : s.MemWf) : EndsWf (execDiv d a b s) := h.intUnit

theorem State.MemWf.execRem {d a b} (h : s.MemWf) : EndsWf (execRem d a b s) := h.intUnit

theorem State.MemWf.execNeg {d a} (h : s.MemWf) : EndsWf (execNeg d a s) := h.intUnit

theorem State.MemWf.execAbs {d a} (h : s.MemWf) : EndsWf (execAbs d a s) := h.intUnit

theorem State.MemWf.execMin {d a b} (h : s.MemWf) : EndsWf (execMin d a b s) := h.intUnit

theorem State.MemWf.execMax {d a b} (h : s.MemWf) : EndsWf (execMax d a b s) := h.intUnit

theorem State.MemWf.execAnd {d a b} (h : s.MemWf) : EndsWf (execAnd d a b s) := h.intUnit

theorem State.MemWf.execOr {d a b} (h : s.MemWf) : EndsWf (execOr d a b s) := h.intUnit

theorem State.MemWf.execXor {d a b} (h : s.MemWf) : EndsWf (execXor d a b s) := h.intUnit

theorem State.MemWf.execNot {d a} (h : s.MemWf) : EndsWf (execNot d a s) := h.intUnit

theorem State.MemWf.execAndn {d a b} (h : s.MemWf) : EndsWf (execAndn d a b s) := h.intUnit

theorem State.MemWf.execShl {d a b} (h : s.MemWf) : EndsWf (execShl d a b s) := h.intUnit

theorem State.MemWf.execShr {d a b} (h : s.MemWf) : EndsWf (execShr d a b s) := h.intUnit

theorem State.MemWf.execSar {d a b} (h : s.MemWf) : EndsWf (execSar d a b s) := h.intUnit

theorem State.MemWf.execRol {d a b} (h : s.MemWf) : EndsWf (execRol d a b s) := by
  unfold Machine.execRol
  extract_lets
  exact h.intUnit

theorem State.MemWf.execBfx {d a b} (h : s.MemWf) : EndsWf (execBfx d a b s) := h.intUnit

theorem State.MemWf.execBfi {d a b} (h : s.MemWf) : EndsWf (execBfi d a b s) := by
  unfold Machine.execBfi
  extract_lets
  exact h.intUnit

theorem State.MemWf.execPopc {d a} (h : s.MemWf) : EndsWf (execPopc d a s) := h.intUnit

theorem State.MemWf.execClz {d a} (h : s.MemWf) : EndsWf (execClz d a s) := h.intUnit

theorem State.MemWf.execCtz {d a} (h : s.MemWf) : EndsWf (execCtz d a s) := h.intUnit

theorem State.MemWf.execBrev {d a} (h : s.MemWf) : EndsWf (execBrev d a s) := h.intUnit

theorem State.MemWf.execCmp {r p a b} (h : s.MemWf) : EndsWf (execCmp r p a b s) := by
  unfold Machine.execCmp
  extract_lets
  exact h.issue (fun _ ht => ht.foldl (fun _ ht1 _ => ht1.setP))

theorem State.MemWf.execSel {d a b} (h : s.MemWf) : EndsWf (execSel d a b s) := by
  unfold Machine.execSel
  extract_lets
  exact h.issue (fun _ ht => ht.writeLanes)

theorem State.MemWf.execMov {d a} (h : s.MemWf) : EndsWf (execMov d a s) := by
  unfold Machine.execMov
  extract_lets
  exact h.issue (fun _ ht => ht.writeLanes)

theorem State.MemWf.execMovi {d i} (h : s.MemWf) : EndsWf (execMovi d i s) := by
  unfold Machine.execMovi
  extract_lets
  exact h.issue (fun _ ht => ht.writeLanes)

/-! #### The functions of Machine/Lanes.lean -/

theorem State.MemWf.exchange {d a b from_ idx} (h : s.MemWf) : EndsWf (s.exchange d a b from_ idx) := by
  unfold State.exchange
  extract_lets
  exact h.issue (fun _ ht => ht.writeLanes)

theorem State.MemWf.execMovs {d a b} (h : s.MemWf) : EndsWf (execMovs d a b s) := by
  unfold Machine.execMovs
  extract_lets
  exact h.exchange

theorem State.MemWf.execShflIdx {d a b} (h : s.MemWf) : EndsWf (execShflIdx d a b s) := h.exchange

theorem State.MemWf.execShflXor {d a b} (h : s.MemWf) : EndsWf (execShflXor d a b s) := h.exchange

theorem State.MemWf.execShflUp {d a b} (h : s.MemWf) : EndsWf (execShflUp d a b s) := h.exchange

theorem State.MemWf.execShflDown {d a b} (h : s.MemWf) : EndsWf (execShflDown d a b s) := h.exchange

theorem State.MemWf.execVote {d a k} (h : s.MemWf) : EndsWf (execVote d a k s) := by
  unfold Machine.execVote
  extract_lets
  exact h.issue (fun _ ht => ht.writeLanes)

theorem State.MemWf.countUnit {d a k f} (h : s.MemWf) : EndsWf (s.countUnit d a k f) := by
  unfold State.countUnit
  extract_lets
  exact h.issue (fun _ ht => ht.writeLanes)

theorem State.MemWf.execBallot {d a k} (h : s.MemWf) : EndsWf (execBallot d a k s) := h.countUnit

theorem State.MemWf.execPcnt {d a k} (h : s.MemWf) : EndsWf (execPcnt d a k s) := h.countUnit

theorem State.MemWf.finishRed {pc d n outs r} (h : s.MemWf) : (s.finishRed pc d n outs r).MemWf := by
  unfold State.finishRed
  extract_lets t
  have ht : t.MemWf := h.writeLanes
  exact ht.update.logLanes

theorem State.MemWf.execRedux {d a o} (h : s.MemWf) : EndsWf (execRedux d a o s) := by
  unfold Machine.execRedux
  extract_lets
  exact h.issue (fun _ ht => ht.finishRed)

theorem State.MemWf.execScan {d a e o} (h : s.MemWf) : EndsWf (execScan d a e o s) := by
  unfold Machine.execScan
  extract_lets
  exact h.issue (fun _ ht => ht.finishRed)

theorem State.MemWf.predUnit {d srcs f} (h : s.MemWf) : EndsWf (s.predUnit d srcs f) :=
  h.issue (fun _ ht => ht.foldl (fun _ ht1 _ => ht1.setP))

theorem State.MemWf.execPand {d a b} (h : s.MemWf) : EndsWf (execPand d a b s) := h.predUnit

theorem State.MemWf.execPor {d a b} (h : s.MemWf) : EndsWf (execPor d a b s) := h.predUnit

theorem State.MemWf.execPxor {d a b} (h : s.MemWf) : EndsWf (execPxor d a b s) := h.predUnit

theorem State.MemWf.execPnot {d a} (h : s.MemWf) : EndsWf (execPnot d a s) := h.predUnit

/-! #### The functions of Machine/Float.lean -/

theorem State.MemWf.floatUnit {ok rounds d nd srcs more f} (h : s.MemWf) : EndsWf (s.floatUnit ok rounds d nd srcs more f) :=
    by
  unfold State.floatUnit
  extract_lets
  exact h.issue (fun _ ht => ht.finish)

theorem State.MemWf.arithUnit {d srcs rounds flushes pt iv} (h : s.MemWf) :
    EndsWf (s.arithUnit d srcs rounds flushes pt iv) := by
  unfold State.arithUnit
  extract_lets
  exact h.floatUnit

theorem State.MemWf.binary {d a b op x} (h : s.MemWf) : EndsWf (s.binary d a b op x) := h.arithUnit

theorem State.MemWf.execFadd {d a b} (h : s.MemWf) : EndsWf (execFadd d a b s) := h.binary

theorem State.MemWf.execFsub {d a b} (h : s.MemWf) : EndsWf (execFsub d a b s) := h.binary

theorem State.MemWf.execFmul {d a b} (h : s.MemWf) : EndsWf (execFmul d a b s) := h.binary

theorem State.MemWf.execFdiv {d a b} (h : s.MemWf) : EndsWf (execFdiv d a b s) := h.binary

theorem State.MemWf.execFfma {d a b} (h : s.MemWf) : EndsWf (execFfma d a b s) := h.arithUnit

theorem State.MemWf.execFsqrt {d a} (h : s.MemWf) : EndsWf (execFsqrt d a s) := h.arithUnit

theorem State.MemWf.minmaxUnit {d a b mx op} (h : s.MemWf) : EndsWf (s.minmaxUnit d a b mx op) := h.arithUnit

theorem State.MemWf.execFmin {d a b} (h : s.MemWf) : EndsWf (execFmin d a b s) := h.minmaxUnit

theorem State.MemWf.execFmax {d a b} (h : s.MemWf) : EndsWf (execFmax d a b s) := h.minmaxUnit

theorem State.MemWf.execFabs {d a} (h : s.MemWf) : EndsWf (execFabs d a s) := h.arithUnit

theorem State.MemWf.execFneg {d a} (h : s.MemWf) : EndsWf (execFneg d a s) := h.arithUnit

theorem State.MemWf.execFround {d a} (h : s.MemWf) : EndsWf (execFround d a s) := h.arithUnit

theorem State.MemWf.execFfrac {d a} (h : s.MemWf) : EndsWf (execFfrac d a s) := h.arithUnit

theorem State.MemWf.execFscale {d a b} (h : s.MemWf) : EndsWf (execFscale d a b s) := by
  unfold Machine.execFscale
  extract_lets
  exact h.floatUnit

theorem State.MemWf.execFcmp {r p a b} (h : s.MemWf) : EndsWf (execFcmp r p a b s) := by
  unfold Machine.execFcmp
  extract_lets
  exact h.issue (fun _ ht => (ht.foldl (fun _ ht1 _ => ht1.setP)).logLanes)

theorem State.MemWf.execFcls {d a} (h : s.MemWf) : EndsWf (execFcls d a s) := by
  unfold Machine.execFcls
  extract_lets
  exact h.floatUnit

theorem State.MemWf.specialUnit {d a k} (h : s.MemWf) : EndsWf (s.specialUnit d a k) := by
  unfold State.specialUnit
  extract_lets
  exact h.floatUnit

theorem State.MemWf.execFrcp {d a} (h : s.MemWf) : EndsWf (execFrcp d a s) := h.specialUnit

theorem State.MemWf.execFrsq {d a} (h : s.MemWf) : EndsWf (execFrsq d a s) := h.specialUnit

theorem State.MemWf.execFex2 {d a} (h : s.MemWf) : EndsWf (execFex2 d a s) := h.specialUnit

theorem State.MemWf.execFlg2 {d a} (h : s.MemWf) : EndsWf (execFlg2 d a s) := h.specialUnit

theorem State.MemWf.execFsin {d a} (h : s.MemWf) : EndsWf (execFsin d a s) := h.specialUnit

theorem State.MemWf.execFcos {d a} (h : s.MemWf) : EndsWf (execFcos d a s) := h.specialUnit

theorem State.MemWf.execCvtFi {d a c} (h : s.MemWf) : EndsWf (execCvtFi d a c s) := by
  unfold Machine.execCvtFi
  extract_lets
  exact h.floatUnit

theorem State.MemWf.execCvtIf {d a c} (h : s.MemWf) : EndsWf (execCvtIf d a c s) := by
  unfold Machine.execCvtIf
  extract_lets
  exact h.floatUnit

theorem State.MemWf.execCvtFfFrom {d a p} (h : s.MemWf) : EndsWf (execCvtFfFrom d a p s) := by
  unfold Machine.execCvtFfFrom
  extract_lets
  exact h.floatUnit

theorem State.MemWf.execCvtFfTo {d a p} (h : s.MemWf) : EndsWf (execCvtFfTo d a p s) := by
  unfold Machine.execCvtFfTo
  extract_lets
  exact h.floatUnit

theorem State.MemWf.packUnit {codes d a k f} (h : s.MemWf) : EndsWf (s.packUnit codes d a k f) := by
  unfold State.packUnit
  extract_lets
  exact h.floatUnit

theorem State.MemWf.execPack8 {d a k f} (h : s.MemWf) : EndsWf (execPack8 d a k f s) := h.packUnit

theorem State.MemWf.execPack6 {d a k f} (h : s.MemWf) : EndsWf (execPack6 d a k f s) := h.packUnit

theorem State.MemWf.execPack4 {d a k f} (h : s.MemWf) : EndsWf (execPack4 d a k f s) := h.packUnit

theorem State.MemWf.execUnpack {d a k f} (h : s.MemWf) : EndsWf (execUnpack d a k f s) := by
  unfold Machine.execUnpack
  extract_lets
  exact h.floatUnit

theorem State.MemWf.dotUnit {codes n w d a b} (h : s.MemWf) : EndsWf (s.dotUnit codes n w d a b) := by
  unfold State.dotUnit
  extract_lets
  exact h.floatUnit

theorem State.MemWf.execDot2 {d a b} (h : s.MemWf) : EndsWf (execDot2 d a b s) := h.dotUnit

theorem State.MemWf.execDot4 {d a b} (h : s.MemWf) : EndsWf (execDot4 d a b s) := h.dotUnit

theorem State.MemWf.execDot8 {d a b} (h : s.MemWf) : EndsWf (execDot8 d a b s) := h.dotUnit

theorem State.MemWf.setGens {ls f} (h : s.MemWf) : (s.setGens ls f).MemWf := by
  unfold State.setGens
  extract_lets
  exact h.update

theorem State.MemWf.execRseed {a} (h : s.MemWf) : EndsWf (execRseed a s) := h.issue (fun _ ht => ht.setGens)

theorem State.MemWf.rnextUnit {d f} (h : s.MemWf) : EndsWf (s.rnextUnit d f) := h.issue (fun _ ht => ht.writeLanes.setGens)

theorem State.MemWf.execRnext {d} (h : s.MemWf) : EndsWf (execRnext d s) := h.rnextUnit

theorem State.MemWf.execRnextH {d} (h : s.MemWf) : EndsWf (execRnextH d s) := h.rnextUnit

/-! #### The functions of Machine/Egress.lean -/

theorem State.MemWf.addSent {m n} (h : s.MemWf) : (s.addSent m n).MemWf := h.setReg64

theorem State.MemWf.charge {m} (h : s.MemWf) : (s.charge m).MemWf := h.update.addSent

theorem State.MemWf.trip {m} (h : s.MemWf) : (s.trip m).MemWf := h.setReg

theorem State.MemWf.hold {hx} (h : s.MemWf) : (s.hold hx).MemWf := by
  unfold State.hold
  extract_lets s1
  have hs1 : s1.MemWf := h.trip.ite h
  exact hs1.update

theorem State.MemWf.sendOut {q sealed_ wave window x ms} (h : s.MemWf) :
    (State.sendOut q sealed_ wave window x ms s).MemWf := by
  induction ms generalizing s with
  | nil => exact h.update
  | cons m ms ih =>
    unfold State.sendOut
    split
    · exact State.MemWf.hold h.update
    · exact ih (h.charge.ite h)

theorem State.MemWf.passOn {hx} (h : s.MemWf) : (s.passOn hx).MemWf := by
  unfold State.passOn
  extract_lets s1 s2
  have hs1 : s1.MemWf := h.charge.ite h
  have hs2 : s2.MemWf := hs1.update
  split
  · split
    · exact hs2
    · exact hs2.update
  · exact hs2.sendOut

theorem State.MemWf.letPass {fuel} (h : s.MemWf) : (State.letPass fuel s).MemWf := by
  induction fuel generalizing s with
  | zero => exact h
  | succ fuel ih =>
    unfold State.letPass
    split
    · exact ih h.passOn
    · exact h

theorem State.MemWf.fillTokens {k} (h : s.MemWf) : (s.fillTokens k).MemWf := h.update

theorem State.MemWf.oneUs (h : s.MemWf) : s.oneUs.MemWf := by
  unfold State.oneUs
  extract_lets s1
  have hs1 : s1.MemWf := h.update.fillTokens
  exact hs1.letPass

theorem State.MemWf.passUs {n} (h : s.MemWf) : (State.passUs n s).MemWf := by
  induction n generalizing s with
  | zero => exact h
  | succ n ih =>
    unfold State.passUs
    split
    · exact State.MemWf.fillTokens h.update
    · exact ih h.oneUs

theorem State.MemWf.peerWrite {part q sealed_ wave first w off bs bad} (h : s.MemWf) :
    (s.peerWrite part q sealed_ wave first w off bs bad).MemWf := by
  unfold State.peerWrite
  exact h.foldl (fun _ hs1 _ => by
      extract_lets
      exact hs1.sendOut)

/-! #### The functions of Machine/Access.lean -/

theorem State.MemWf.parkHeld {is} (h : s.MemWf) : (s.parkHeld is).MemWf := by
  unfold State.parkHeld
  extract_lets t
  have ht : t.MemWf := h.parkAgain
  split
  · exact ht
  · exact ht.update

theorem State.MemWf.putLocal {path cmd id off bs} (h : s.MemWf) : (s.putLocal path cmd id off bs).MemWf := by
  unfold State.putLocal
  split
  · exact h
  · extract_lets _ _ s1
    have hs1 : s1.MemWf := h.modGroup
    exact hs1.update.wakeLine

theorem State.MemWf.putBank {path cmd key bs} (h : s.MemWf) : (s.putBank path cmd key bs).MemWf := by
  unfold State.putBank
  extract_lets
  exact h.update.wakeLine

theorem State.MemWf.unitUE {lanes pa n} (h : s.MemWf) : (s.unitUE lanes pa n).MemWf := by
  unfold State.unitUE
  extract_lets
  split
  · exact h.meetUE
  · exact h

theorem State.MemWf.setItemLease {i le} (h : s.MemWf) : (s.setItemLease i le).MemWf := by
  unfold State.setItemLease
  extract_lets
  split
  · exact h.setHome
  · exact h.update
  · exact h.update
  · exact h.update

theorem State.MemWf.coreLoadAt {i clock} (h : s.MemWf) : (s.coreLoadAt i clock).2.MemWf := by
  unfold State.coreLoadAt
  extract_lets
  exact h.setItemLease.raisePts

theorem State.MemWf.observeItem {d i} (h : s.MemWf) : (s.observeItem d i).MemWf := by
  unfold State.observeItem
  split
  · exact h
  · split
    · exact h.observeAt
    · exact h
  · exact h.observeAt

theorem State.MemWf.coreLoad {i} (h : s.MemWf) : (s.coreLoad i).2.MemWf := by
  unfold State.coreLoad
  extract_lets t r
  have ht : t.MemWf := h.observeItem
  have hr : r.2.MemWf := ht.coreLoadAt
  split
  · exact hr
  · exact hr.nextDraw

theorem State.MemWf.readItem {i} (h : s.MemWf) : (s.readItem i).2.MemWf := by
  unfold State.readItem
  split
  · extract_lets s1 s2
    have hs1 : s1.MemWf := h.mark
    have hs2 : s2.MemWf := hs1.ite hs1.unitUE
    exact hs2.vloadIn
  · exact h.coreLoad

theorem State.MemWf.readItemAt {clock i} (h : s.MemWf) : (s.readItemAt clock i).2.MemWf := by
  unfold State.readItemAt
  split
  · exact h.vloadAt
  · exact h.coreLoadAt

theorem State.MemWf.askUnit {need is} (h : s.MemWf) : (s.askUnit need is).MemWf := by
  unfold State.askUnit
  exact h.foldl (fun _ ht _ => by
      split
      · exact ht.scrubFirst.l2Touch
      · exact ht)

theorem State.MemWf.writeItemAt {ts i bs} (h : s.MemWf) : (s.writeItemAt ts i bs).MemWf := by
  unfold State.writeItemAt
  extract_lets _ _ _ _ _ s1
  have hs1 : s1.MemWf := by
    unfold s1
    split
    · exact h.putLocal
    · exact h.putBank
    · extract_lets
      exact h.update
    · exact h
  split
  · extract_lets _ s2 s3
    have hs2 : s2.MemWf := h.mark
    have hs3 : s3.MemWf := hs2.ite hs2.unitUE
    split
    · split
      · split
        · exact h
        · exact h.confine
      · exact hs2.peerWrite
    · exact (hs3.ite hs3.askFor).vstoreAt
  · exact hs1.setItemLease.raisePts

theorem State.MemWf.writeItem {i bs} (h : s.MemWf) : (s.writeItem i bs).MemWf := h.writeItemAt

theorem State.MemWf.readItems {is} (h : s.MemWf) : (readItems is s).2.MemWf := by
  induction is generalizing s with
  | nil => exact h
  | cons i is ih => exact ih h.readItem

theorem State.MemWf.readItemsAt {clock is} (h : s.MemWf) : (readItemsAt clock is s).2.MemWf := by
  induction is generalizing s with
  | nil => exact h
  | cons i is ih => exact ih h.readItemAt

theorem State.MemWf.askReads {is} (h : s.MemWf) : (s.askReads is).MemWf := by
  unfold State.askReads
  extract_lets s1
  have hs1 : s1.MemWf := h.foldl (fun _ hs2 _ => by
      split
      · exact hs2.mark.unitUE
      · exact hs2)
  exact hs1.askUnit

theorem State.MemWf.readTogether {is} (h : s.MemWf) : (readTogether is s).2.MemWf := by
  unfold Machine.readTogether
  extract_lets s1 t r s2
  have hs1 : s1.MemWf := h.askReads
  have ht : t.MemWf := hs1.foldl (fun _ ht1 _ => ht1.observeItem)
  have hr : r.2.MemWf := ht.readItemsAt
  have hs2 : s2.MemWf := hr
  exact hs2.update.nextDraw

theorem State.MemWf.writeTogether {ws} (h : s.MemWf) : (s.writeTogether ws).MemWf := by
  unfold State.writeTogether
  extract_lets s1
  have hs1 : s1.MemWf := h.askUnit
  exact hs1.foldl (fun _ hs2 _ => hs2.writeItemAt)

theorem State.MemWf.meetItems {met} (h : s.MemWf) : (s.meetItems met).MemWf := by
  unfold State.meetItems
  extract_lets _ s1
  have hs1 : s1.MemWf := h.update
  exact hs1.foldl (fun _ hs2 _ => by
      split
      · exact hs2.unitUE
      · exact hs2)

theorem State.MemWf.begun {is} (h : s.MemWf) : (s.begun is).MemWf := by
  unfold State.begun
  extract_lets t
  have ht : t.MemWf := h.retire
  split
  · exact ht.useCtx
  · exact ht

theorem State.MemWf.meetLoads {is} (h : s.MemWf) : (s.meetLoads is).MemWf := by
  unfold State.meetLoads
  exact h.foldl (fun _ ht _ => by
      split
      · split
        · exact ht
        · exact ht.mark.unitUE
      · exact ht)

theorem State.MemWf.issueMet {met conds rs eff} (h : s.MemWf) (heff : ∀ (a : List Item) (t : State), t.MemWf →
    (eff a t).MemWf) : EndsWf (s.issueMet met conds rs eff) := by
  unfold State.issueMet
  extract_lets
  split
  · exact .next ((h.meetItems.ite h).takeTrap)
  · split
    · exact .next h.parkHeld
    · exact .next (heff _ _ h.begun)

theorem State.MemWf.issueItems {conds rs eff} (h : s.MemWf) (heff : ∀ (a : List Item) (t : State), t.MemWf → (eff a t).MemWf)
    : EndsWf (s.issueItems conds rs eff) :=
  h.issueMet heff

/-! #### The functions of Machine/Frags.lean -/

theorem State.MemWf.pick {k} (h : s.MemWf) : (s.pick k).2.MemWf := by
  unfold State.pick
  extract_lets
  exact h.update

theorem State.MemWf.setFrags {fs} (h : s.MemWf) : (s.setFrags fs).MemWf := by
  unfold State.setFrags
  split
  · exact h.update
  · split
    · exact h.update
    · exact h.update

theorem State.MemWf.detach {sides keep} (h : s.MemWf) : (s.detach sides keep).MemWf := by
  unfold State.detach
  extract_lets
  exact h.update

theorem State.MemWf.serialise {sides first} (h : s.MemWf) : (s.serialise sides first).MemWf := by
  unfold State.serialise
  extract_lets
  exact h.update

theorem State.MemWf.divide {sides serial} (h : s.MemWf) : (s.divide sides serial).MemWf := by
  unfold State.divide
  dsimp only
  split
  · exact h.update
  · exact h.update
  · split
    · split
      · exact h.detach
      · exact h.pick.detach
    · exact h.pick.serialise

theorem State.MemWf.mergeToken {k} (h : s.MemWf) : (s.mergeToken k).MemWf := by
  unfold State.mergeToken
  extract_lets _ _ _ s1
  have hs1 : s1.MemWf := h.update
  split
  · exact h
  · split
    · exact hs1.setFrags
    · extract_lets
      exact hs1.setFrags

theorem State.MemWf.mergeReady (h : s.MemWf) : s.mergeReady.MemWf := by
  unfold State.mergeReady
  exact h.foldl (fun _ hs1 _ => by
      split
      · exact hs1
      · split
        · exact hs1.mergeToken
        · exact hs1)

theorem State.MemWf.barCheck {id n} (h : s.MemWf) : (s.barCheck id n).MemWf := by
  unfold State.barCheck
  extract_lets
  split
  · exact h
  · extract_lets _ s1
    have hs1 : s1.MemWf := h.modGroup
    split
    · exact h
    · exact hs1.wakeIf

theorem State.MemWf.barArrive {n lanes} (h : s.MemWf) : (s.barArrive n lanes).MemWf := by
  unfold State.barArrive
  extract_lets _ _ _ _ _ _ s1
  have hs1 : s1.MemWf := h.update
  exact hs1.barCheck

theorem State.MemWf.barWait {unit n} (h : s.MemWf) : (s.barWait unit n).MemWf := by
  unfold State.barWait
  extract_lets
  split
  · exact h
  · exact h.park

theorem State.MemWf.endLanes {lanes status} (h : s.MemWf) : (s.endLanes lanes status).MemWf := by
  unfold State.endLanes
  extract_lets _ _ _ _ _ _ _ s1 s2 _ _ s3
  have hs1 : s1.MemWf := h.update
  have hs2 : s2.MemWf := hs1.setFrags.mergeReady
  have hs3 : s3.MemWf := hs2.setFrags.ite hs2
  exact hs3.foldl (fun _ hs4 _ => hs4.barCheck)

/-! #### The functions of Machine/Wait.lean -/

theorem State.MemWf.homeRead {i} (h : s.MemWf) : (s.homeRead i).2.MemWf := by
  unfold State.homeRead
  split
  · exact h.update.readItem
  · exact h.readItem

/-- What a test of a wait leaves, if it leaves anything, has its memory in the canonical form. -/
def TestedWf : Tested → Prop
  | .holds _ t => State.MemWf t
  | .stays _ t => State.MemWf t
  | .broken => True

theorem State.MemWf.testCells {n ok cs} (h : s.MemWf) : TestedWf (s.testCells n ok cs) := by
  unfold State.testCells
  extract_lets rs items z open_ sorted
  have hz : z.2.MemWf := State.MemWf.foldl_snd h fun _ hr _ => hr.homeRead
  split
  · exact trivial
  · split
    · exact hz
    · exact hz

theorem State.MemWf.testWait {w} (h : s.MemWf) : TestedWf (s.testWait w) := by
  unfold State.testWait
  split
  · exact h.testCells
  · exact h.testCells
  · exact h.testCells
  · dsimp only
    split
    · exact trivial
    · split
      · exact h.readItem
      · exact h.readItem
  · split
    · exact h
    · exact h
  · split
    · exact h
    · exact h
  · exact h

theorem State.MemWf.unwatch (h : s.MemWf) : s.unwatch.MemWf := by
  unfold State.unwatch
  extract_lets
  exact h.update

theorem State.MemWf.watchLines {lines} (h : s.MemWf) : (s.watchLines lines).MemWf := by
  unfold State.watchLines
  extract_lets
  exact h.update

theorem State.MemWf.rewatch {lines} (h : s.MemWf) : (s.rewatch lines).MemWf := by
  unfold State.rewatch
  extract_lets
  exact h.update.watchLines

theorem State.MemWf.sawBatches {wave stop} (h : s.MemWf) : (s.sawBatches wave stop).MemWf := by
  unfold State.sawBatches
  extract_lets _ s1
  have hs1 : s1.MemWf := h.markSeen
  exact hs1.update

theorem State.MemWf.waitEffect {w vals} (h : s.MemWf) : (s.waitEffect w vals).MemWf := by
  unfold State.waitEffect
  split
  · exact h.sawBatches
  · exact h.writeLanes
  · exact h

theorem State.MemWf.beginWait {unit w} (h : s.MemWf) : (s.beginWait unit w).MemWf := by
  have htest : TestedWf (s.testWait w) := h.testWait
  unfold State.beginWait
  split
  next e => exact (e ▸ htest : TestedWf (.holds _ _)).waitEffect
  next e => exact ((e ▸ htest : TestedWf (.stays _ _)).park).watchLines
  · exact h.park

theorem State.MemWf.wakeAgain (h : s.MemWf) : s.wakeAgain.MemWf := h.wakeIf.modFrags

theorem State.MemWf.retest (h : s.MemWf) : s.retest.MemWf := by
  unfold State.retest
  extract_lets u
  have hu : u.MemWf := h.unwatch
  split
  · exact hu
  · exact hu.wakeIf
  · exact hu.wakeIf
  next w _ _ _ =>
    have htest : TestedWf (u.testWait w) := hu.testWait
    split
    next e =>
      rw [e] at htest
      exact (State.MemWf.waitEffect htest).wakeIf
    next e =>
      rw [e] at htest
      exact State.MemWf.watchLines htest.update
    · exact hu.wakeAgain

theorem State.MemWf.retestLeft (h : s.MemWf) : s.retestLeft.MemWf := by
  unfold State.retestLeft
  split
  · exact h
  next w _ =>
    have htest : TestedWf (s.testWait (w.narrow s.onLeft)) := h.testWait
    extract_lets whole
    have hwhole : ∀ t, t.MemWf → (whole t).MemWf := fun t ht => by
      unfold whole
      exact (ht.ite ht.update).ite ht.retest
    split
    next e =>
      rw [e] at htest
      exact htest.update
    next e =>
      rw [e] at htest
      exact State.MemWf.ite (htest.update) (hwhole _ (htest.update))
    · exact hwhole _ h

/-! #### The functions of Machine/Rcb.lean -/

theorem State.MemWf.confineCtx {who code addr launch} (h : s.MemWf) : (s.confineCtx who code addr launch).MemWf := h.confine

theorem State.MemWf.rcbPut {who grant va off n v} (h : s.MemWf) : (s.rcbPut who grant va off n v).MemWf := by
  unfold State.rcbPut
  split
  next e => exact h.ctxPut.of_pair e
  next t e1 =>
    have ht : t.MemWf := h.ctxPut.of_pair e1
    split
    · exact ht
    · exact ht.confineCtx

theorem State.MemWf.postChild {who parent child} (h : s.MemWf) : (s.postChild who parent child).MemWf := by
  unfold State.postChild
  extract_lets _ _ s1 _ s2 _ s3 s4
  have hs1 : s1.MemWf := h.look.rcbPut
  have hs2 : s2.MemWf := hs1.update
  have hs3 : s3.MemWf := hs2.rcbPut.ite hs2.rcbPut
  have hs4 : s4.MemWf := hs3.rcbPut
  split
  · exact hs2.update
  · exact hs4.update

/-! #### The functions of Machine/Turn.lean -/

theorem State.MemWf.setStatus {id slot st} (h : s.MemWf) : (s.setStatus id slot st).MemWf := h.modFrags

theorem State.MemWf.refill {core port n} (h : s.MemWf) : (State.refill core port n s).MemWf := by
  induction n generalizing s with
  | zero => exact h
  | succ n ih =>
    unfold State.refill
    split
    · split
      · exact ih h.setStatus
      · exact h
    · exact h

theorem State.MemWf.chooseVf {core port es resident} (h : s.MemWf) :
    OnSome (fun x => x.2.MemWf) (s.chooseVf core port es resident) := by
  unfold State.chooseVf
  extract_lets
  split
  · exact .none
  · extract_lets
    exact .some h.update

theorem State.MemWf.awaitBy {id slot ids} (h : s.MemWf) : (s.awaitBy id slot ids).MemWf := by
  unfold State.awaitBy
  extract_lets
  exact h.setStatus.modFrags

theorem State.MemWf.awaitLoads {ids} (h : s.MemWf) : (s.awaitLoads ids).MemWf := h.update.awaitBy

theorem State.MemWf.settlePort {core port n} (h : s.MemWf) : (State.settlePort core port n s).MemWf := by
  induction n generalizing s with
  | zero => exact h.refill
  | succ n ih =>
    unfold State.settlePort
    extract_lets t
    have ht : t.MemWf := h.refill
    split
    · exact ih ht.awaitBy
    · exact ht

theorem State.MemWf.select {core port} (h : s.MemWf) : OnSome State.MemWf (s.select core port) := by
  unfold State.select
  extract_lets s1
  have hs1 : s1.MemWf := h.settlePort
  split
  · exact .none
  next s' e =>
    have ht : s'.MemWf := hs1.chooseVf _ e
    split
    · exact ht.focusOn
    · exact .none

theorem State.MemWf.codeSeen {a} (h : s.MemWf) : (s.codeSeen a).MemWf := by
  unfold State.codeSeen
  extract_lets _ s1
  have hs1 : s1.MemWf := h.seen
  split
  · exact hs1.update
  · exact hs1

theorem State.MemWf.fetchTrap {a e exec} (h : s.MemWf) : (s.fetchTrap a e exec).MemWf := h.takeTrap

theorem State.MemWf.formed {w} (h : s.MemWf) : (s.formed w).2.MemWf := by
  unfold State.formed
  extract_lets _ s1
  have hs1 : s1.MemWf := h.update
  split
  · exact hs1
  · exact hs1.update
  · exact hs1

/-! #### The functions of Machine/Control.lean -/

theorem State.MemWf.join {late f} (h : s.MemWf) : EndsWf (s.join late f) := by
  unfold State.join
  extract_lets
  split
  · exact .next h.takeTrap
  · exact .next h.update

theorem State.MemWf.execGuard {sense p} (h : s.MemWf) : EndsWf (execGuard sense p s) := h.join

theorem State.MemWf.execLih {hx} (h : s.MemWf) : EndsWf (execLih hx s) := h.join

theorem State.MemWf.execLit {l} (h : s.MemWf) : EndsWf (execLit l s) := h.join

theorem State.MemWf.execUnassignedOpcode {w} (h : s.MemWf) : EndsWf (execUnassignedOpcode w s) := h.issue (fun _ ha => ha)

theorem State.MemWf.execNop (h : s.MemWf) : EndsWf (execNop s) := h.issue (fun _ ha => ha)

theorem State.MemWf.branch {k conds sides serial eff} (h : s.MemWf) (heff : ∀ t : State, t.MemWf → (eff t).MemWf) :
    EndsWf (s.branch k conds sides serial eff) :=
  h.issueK (fun _ ht => (heff _ ht).divide)

theorem State.MemWf.execBr {off} (h : s.MemWf) : EndsWf (execBr off s) := h.branch (fun _ ha => ha)

theorem State.MemWf.execBrt {p off} (h : s.MemWf) : EndsWf (execBrt p off s) := by
  unfold Machine.execBrt
  extract_lets
  split
  · split
    · exact .next h.fetchTrap
    · exact .next h.parkAgain
    · exact h.codeSeen.branch (fun _ ha => ha)
  · exact h.branch (fun _ ha => ha)

theorem State.MemWf.jump {conds a dest} (h : s.MemWf) : EndsWf (s.jump conds a dest) := by
  unfold State.jump
  extract_lets
  exact h.branch (fun _ ha1 => ha1)

theorem State.MemWf.execBrx {a} (h : s.MemWf) : EndsWf (execBrx a s) := h.jump

theorem State.MemWf.execRet {r} (h : s.MemWf) : EndsWf (execRet r s) := h.jump

theorem State.MemWf.execCall {r off} (h : s.MemWf) : EndsWf (execCall r off s) := by
  unfold Machine.execCall
  extract_lets
  exact h.branch (fun _ ht => ht.foldl (fun _ ht1 _ => ht1.setV))

theorem State.MemWf.execTok {off} (h : s.MemWf) : EndsWf (execTok off s) := h.issueLive (fun _ ht => ht.update)

theorem State.MemWf.arrive {unit key r deadline} (h : s.MemWf) : (s.arrive unit key r deadline).MemWf := by
  unfold State.arrive
  extract_lets _ _ _ t
  have ht : t.MemWf := h.update.park
  split
  · exact ht.mergeToken
  · exact ht

theorem State.MemWf.meet {k conds} (h : s.MemWf) : EndsWf (s.meet k conds) := by
  unfold State.meet
  extract_lets
  split
  · exact h.issue (fun _ ha => ha)
  · split
    · exact h.issue (fun _ ht1 => ht1.mergeToken)
    · exact h.issue (fun _ ht1 => ht1.arrive)

theorem State.MemWf.execRejoin {k} (h : s.MemWf) : EndsWf (execRejoin k s) := by
  unfold Machine.execRejoin
  extract_lets
  split
  · split
    · exact h.issue (fun _ ht => by
        split
        · exact ht.update
        · exact ht)
    · exact h.meet
  · exact h.meet

theorem State.MemWf.execExit {a} (h : s.MemWf) : EndsWf (execExit a s) := h.issueLive (fun _ ht => ht.endLanes)

theorem State.MemWf.execYield (h : s.MemWf) : EndsWf (execYield s) := h.issueLive (fun _ ht => ht.update)

theorem State.MemWf.execSleep {n} (h : s.MemWf) : EndsWf (execSleep n s) := h.issueLive (fun _ ht => ht.ite ht.park)

theorem State.MemWf.execFpt {k} (h : s.MemWf) : EndsWf (execFpt k s) := by
  unfold Machine.execFpt
  extract_lets
  exact h.issueK (fun _ ht => ht.ite ht.update)

theorem State.MemWf.waitUnit {conds a n w val} (h : s.MemWf) : EndsWf (s.waitUnit conds a n w val) := by
  unfold State.waitUnit
  extract_lets
  exact h.issueItems (fun _ _ ht => ht.ite ht.beginWait)

theorem State.MemWf.execWaitf {a} (h : s.MemWf) : EndsWf (execWaitf a s) := h.waitUnit

theorem State.MemWf.execWaitv {c a b} (h : s.MemWf) : EndsWf (execWaitv c a b s) := h.waitUnit

theorem State.MemWf.execBarArrive {n} (h : s.MemWf) : EndsWf (execBarArrive n s) := h.issue (fun _ ht => ht.barArrive)

theorem State.MemWf.execBarWait {n} (h : s.MemWf) : EndsWf (execBarWait n s) := h.issueLive (fun _ ht => ht.barWait)

theorem State.MemWf.execBar {n} (h : s.MemWf) : EndsWf (execBar n s) := by
  unfold Machine.execBar
  exact h.issue (fun _ ht => by
      extract_lets t1
      have ht1 : t1.MemWf := ht.barArrive
      split
      · exact ht1
      · exact ht1.barWait)

theorem State.MemWf.putAll {d e v} (h : s.MemWf) : (s.putAll d e v).MemWf := h.writeLanes

theorem State.MemWf.execLfsr {d a} (h : s.MemWf) : EndsWf (execLfsr d a s) := by
  unfold Machine.execLfsr
  exact h.issueLive (fun _ ht => by
      extract_lets t1
      have ht1 : t1.MemWf := ht.putAll
      exact ht1.update)

theorem State.MemWf.execLfsrRd {d} (h : s.MemWf) : EndsWf (execLfsrRd d s) := h.issueLive (fun _ ht => ht.putAll)

theorem State.MemWf.execModeSet {sel v} (h : s.MemWf) : EndsWf (execModeSet sel v s) := by
  unfold Machine.execModeSet
  extract_lets
  exact h.issueLive (fun _ ht => ht.update)

theorem State.MemWf.execModeGet {d} (h : s.MemWf) : EndsWf (execModeGet d s) := h.issue (fun _ ht => ht.putAll)

theorem State.MemWf.execModePut {a} (h : s.MemWf) : EndsWf (execModePut a s) := h.issueLive (fun _ ht => ht.update)

/-! #### The functions of Machine/System.lean -/

theorem State.MemWf.lrecLanes {parent is} (h : s.MemWf) : (lrecLanes parent is s).MemWf := by
  induction is, s using Sys2Proof.Machine.lrecLanes.induct (parent := parent) with
  | case1 s r a b is x bs ih =>
    unfold Sys2Proof.Machine.lrecLanes
    exact ih h.readItem.writeTogether
  | case2 is s hshort =>
    unfold Sys2Proof.Machine.lrecLanes
    split
    · exact absurd rfl (hshort _ _ _ _)
    · exact h

theorem State.MemWf.execLrec {a b} (h : s.MemWf) : EndsWf (execLrec a b s) := by
  unfold Machine.execLrec
  extract_lets
  exact h.issueMet (fun _ _ ha2 => ha2.lrecLanes)

theorem State.MemWf.postLanes {parent addr ls is} (h : s.MemWf) : (State.postLanes parent addr ls is s).MemWf :=
  h.meetLoads.readItems.foldl (fun _ ht _ => ht.postChild)

theorem State.MemWf.execLaunch {a} (h : s.MemWf) : EndsWf (execLaunch a s) := by
  unfold Machine.execLaunch
  extract_lets
  exact h.issueMet (fun _ _ ht => ht.postLanes)

theorem State.MemWf.execTrap {c} (h : s.MemWf) : EndsWf (execTrap c s) := h.issue (fun _ ha => ha)

theorem State.MemWf.execBrk {c} (h : s.MemWf) : EndsWf (execBrk c s) := by
  unfold Machine.execBrk
  exact h.issueLive (fun _ ht => by
      extract_lets t1
      have ht1 : t1.MemWf := ht.park
      split
      · exact ht1.update
      · exact ht)

theorem State.MemWf.sysMoves {s1 k} (h : s.MemWf) : (s.sysMoves s1 k).MemWf := by
  unfold State.sysMoves
  extract_lets
  split
  · exact h.update
  · split
    · exact h.update
    · split
      · exact h.frameLoad
      · exact h

theorem State.MemWf.execSysr {d k} (h : s.MemWf) : EndsWf (Machine.execSysr d k s) := by
  unfold Machine.execSysr
  refine h.issueLive fun t ht => ?_
  dsimp only
  split
  · exact ht.putAll
  · exact ht.sysMoves.putAll

theorem State.MemWf.returnAfter {hx} (h : s.MemWf) : (s.returnAfter hx).MemWf := h.leaveHandler

theorem State.MemWf.returnTo {hx} (h : s.MemWf) : (s.returnTo hx).MemWf := h.leaveHandler

theorem State.MemWf.handlerReturn {hx v} (h : s.MemWf) : (s.handlerReturn hx v).MemWf := by
  unfold State.handlerReturn
  split
  · exact h.endInHandler
  · split
    · exact h.returnAfter
    · exact h.returnTo
    · exact h.endInHandler

theorem State.MemWf.writeHx {hx k v} (h : s.MemWf) : (s.writeHx hx k v).MemWf := by
  unfold State.writeHx
  extract_lets
  split
  · exact h.update
  · exact h.update
  · exact h.update
  · exact h.handlerReturn
  · exact h

theorem State.MemWf.execSysw {d k} (h : s.MemWf) : EndsWf (execSysw d k s) := by
  unfold Machine.execSysw
  extract_lets
  exact h.issueLive (fun _ ht => by
      split
      · exact ht.frameStore
      · split
        · exact ht.writeHx
        · exact ht)

theorem State.MemWf.execHandlerReturnContinue (h : s.MemWf) : EndsWf (execHandlerReturnContinue s) := by
  unfold Machine.execHandlerReturnContinue
  split
  · exact .next h.handlerReturn
  · exact .next h

theorem State.MemWf.execHandlerReturnPc (h : s.MemWf) : EndsWf (execHandlerReturnPc s) := by
  unfold Machine.execHandlerReturnPc
  split
  · exact .next h.handlerReturn
  · exact .next h

theorem State.MemWf.execHandlerReturnEnd (h : s.MemWf) : EndsWf (execHandlerReturnEnd s) := by
  unfold Machine.execHandlerReturnEnd
  split
  · exact .next h.handlerReturn
  · exact .next h

/-! #### The functions of Machine/Memory.lean -/

theorem State.MemWf.takeLanes {d w atomic far outs} (h : s.MemWf) : (s.takeLanes d w atomic far outs).MemWf := by
  unfold State.takeLanes
  extract_lets
  split
  · exact h.writeLanes
  · exact h.update

theorem State.MemWf.loadItems {d w is} (h : s.MemWf) : (State.loadItems d w is s).MemWf := by
  unfold State.loadItems
  extract_lets _ _ r s1
  have hr : r.2.MemWf := h.meetLoads.readItems
  have hs1 : s1.MemWf := hr.foldl (fun _ hs2 _ => by
      split
      · exact hs2.mark
      · exact hs2)
  exact hs1.takeLanes

theorem State.MemWf.loadUnit {d conds sp addr w srcs} (h : s.MemWf) : EndsWf (s.loadUnit d conds sp addr w srcs) := by
  unfold State.loadUnit
  extract_lets
  exact h.issueMet (fun _ _ ht => ht.loadItems)

theorem State.MemWf.storeItems {data is} (h : s.MemWf) : (State.storeItems data is s).MemWf :=
  h.askUnit.foldl (fun _ ht _ => ht.writeItem)

theorem State.MemWf.storeUnit {conds sp addr data w d srcs} (h : s.MemWf) :
    EndsWf (s.storeUnit conds sp addr data w d srcs) := by
  unfold State.storeUnit
  extract_lets
  exact h.issueItems (fun _ _ ht => ht.storeItems)

theorem State.MemWf.ld {sp d w b x} (h : s.MemWf) : EndsWf (s.ld sp d w b x) := h.loadUnit

theorem State.MemWf.st {sp d w b x} (h : s.MemWf) : EndsWf (s.st sp d w b x) := by
  unfold State.st
  extract_lets
  exact h.storeUnit

theorem State.MemWf.execLdG {d w b x} (h : s.MemWf) : EndsWf (execLdG d w b x s) := h.ld

theorem State.MemWf.execLdL {d w b x} (h : s.MemWf) : EndsWf (execLdL d w b x s) := h.ld

theorem State.MemWf.execLdC {d w b x} (h : s.MemWf) : EndsWf (execLdC d w b x s) := h.ld

theorem State.MemWf.execLdS {d w b x} (h : s.MemWf) : EndsWf (execLdS d w b x s) := h.ld

theorem State.MemWf.execLdP {d w b x} (h : s.MemWf) : EndsWf (execLdP d w b x s) := h.ld

theorem State.MemWf.execStG {d w b x} (h : s.MemWf) : EndsWf (execStG d w b x s) := h.st

theorem State.MemWf.execStL {d w b x} (h : s.MemWf) : EndsWf (execStL d w b x s) := h.st

theorem State.MemWf.execStC {d w b x} (h : s.MemWf) : EndsWf (execStC d w b x s) := h.st

theorem State.MemWf.execStS {d w b x} (h : s.MemWf) : EndsWf (execStS d w b x s) := h.st

theorem State.MemWf.execStP {d w b x} (h : s.MemWf) : EndsWf (execStP d w b x s) := h.st

theorem State.MemWf.execLdx {d w b x} (h : s.MemWf) : EndsWf (execLdx d w b x s) := h.loadUnit

theorem State.MemWf.execStx {d w b x} (h : s.MemWf) : EndsWf (execStx d w b x s) := by
  unfold Machine.execStx
  extract_lets
  exact h.storeUnit

theorem State.MemWf.execIld {d w b x} (h : s.MemWf) : EndsWf (execIld d w b x s) := h.loadUnit

theorem State.MemWf.execIst {d w b x} (h : s.MemWf) : EndsWf (execIst d w b x s) := by
  unfold Machine.execIst
  extract_lets
  exact h.storeUnit

theorem State.MemWf.prefetch {w l a} (h : s.MemWf) : (s.prefetch w l a).MemWf := by
  unfold State.prefetch
  split
  · exact h
  · extract_lets s1
    have hs1 : s1.MemWf := h.ite h.unitUE
    split
    · split
      · exact h
      · split
        · exact hs1.vload.setPts
        · split
          · exact h.unitUE.l2Touch
          · split
            · exact h.mscTouch
            · exact h
    · exact h

theorem State.MemWf.execPrf {w b x} (h : s.MemWf) : EndsWf (execPrf w b x s) :=
  h.issue (fun _ ht => ht.foldl (fun _ ht1 _ => ht1.prefetch))

theorem State.MemWf.rmw {i red f} (h : s.MemWf) : (s.rmw i red f).2.MemWf := by
  unfold State.rmw
  split
  · extract_lets s1 _ _ t _ _ _ _ t1
    have hs1 : s1.MemWf := h.mark
    have ht : t.MemWf := hs1.unitUE.observeAll
    have ht1 : t1.MemWf := ht.vtouch
    split
    · exact ht1.report.ite ht1
    · split
      · exact ht.vstoreAt
      · exact ht1
  · exact h

theorem State.MemWf.rmwItems {red f is} (h : s.MemWf) : (rmwItems red f is s).2.MemWf := by
  induction is generalizing s with
  | nil => exact h
  | cons i is ih => exact ih h.rmw

theorem State.MemWf.askRmw {is} (h : s.MemWf) : (s.askRmw is).MemWf := (h.askUnit.ite h).askUnit

theorem State.MemWf.sendRmw {op i bs} (h : s.MemWf) : (s.sendRmw op i bs).MemWf := by
  unfold State.sendRmw
  split
  · extract_lets
    split
    · exact h.writeItem
    · exact h.mark.sendOut
  · exact h

theorem State.MemWf.rmwUnit {op d regs n red conds b x f} (h : s.MemWf) : EndsWf (s.rmwUnit op d regs n red conds b x f) := by
  unfold State.rmwUnit
  extract_lets
  exact h.issueMet (fun _ _ ht => by
      extract_lets _ _ r _ t1
      have hr : r.2.MemWf := ht.askRmw.rmwItems
      have ht1 : t1.MemWf := hr.foldl (fun _ ht2 _ => ht2.sendRmw)
      exact (ht1.ite ht1.takeLanes).logLanes)

theorem State.MemWf.atomic {op red d q b x} (h : s.MemWf) : EndsWf (s.atomic op red d q b x) := by
  unfold State.atomic
  extract_lets
  exact h.rmwUnit

theorem State.MemWf.execAtomAdd {d q b x} (h : s.MemWf) : EndsWf (execAtomAdd d q b x s) := h.atomic

theorem State.MemWf.execAtomFadd {d q b x} (h : s.MemWf) : EndsWf (execAtomFadd d q b x s) := h.atomic

theorem State.MemWf.execAtomMin {d q b x} (h : s.MemWf) : EndsWf (execAtomMin d q b x s) := h.atomic

theorem State.MemWf.execAtomMax {d q b x} (h : s.MemWf) : EndsWf (execAtomMax d q b x s) := h.atomic

theorem State.MemWf.execAtomAnd {d q b x} (h : s.MemWf) : EndsWf (execAtomAnd d q b x s) := h.atomic

theorem State.MemWf.execAtomOr {d q b x} (h : s.MemWf) : EndsWf (execAtomOr d q b x s) := h.atomic

theorem State.MemWf.execAtomXor {d q b x} (h : s.MemWf) : EndsWf (execAtomXor d q b x s) := h.atomic

theorem State.MemWf.execAtomExch {d q b x} (h : s.MemWf) : EndsWf (execAtomExch d q b x s) := h.atomic

theorem State.MemWf.execAtomInc {d q b x} (h : s.MemWf) : EndsWf (execAtomInc d q b x s) := h.atomic

theorem State.MemWf.execAtomDec {d q b x} (h : s.MemWf) : EndsWf (execAtomDec d q b x s) := h.atomic

theorem State.MemWf.execRedAdd {d q b x} (h : s.MemWf) : EndsWf (execRedAdd d q b x s) := h.atomic

theorem State.MemWf.execRedFadd {d q b x} (h : s.MemWf) : EndsWf (execRedFadd d q b x s) := h.atomic

theorem State.MemWf.execRedMin {d q b x} (h : s.MemWf) : EndsWf (execRedMin d q b x s) := h.atomic

theorem State.MemWf.execRedMax {d q b x} (h : s.MemWf) : EndsWf (execRedMax d q b x s) := h.atomic

theorem State.MemWf.execRedAnd {d q b x} (h : s.MemWf) : EndsWf (execRedAnd d q b x s) := h.atomic

theorem State.MemWf.execRedOr {d q b x} (h : s.MemWf) : EndsWf (execRedOr d q b x s) := h.atomic

theorem State.MemWf.execRedXor {d q b x} (h : s.MemWf) : EndsWf (execRedXor d q b x s) := h.atomic

theorem State.MemWf.execRedExch {d q b x} (h : s.MemWf) : EndsWf (execRedExch d q b x s) := h.atomic

theorem State.MemWf.execRedInc {d q b x} (h : s.MemWf) : EndsWf (execRedInc d q b x s) := h.atomic

theorem State.MemWf.execRedDec {d q b x} (h : s.MemWf) : EndsWf (execRedDec d q b x s) := h.atomic

theorem State.MemWf.execCas {d q b x} (h : s.MemWf) : EndsWf (execCas d q b x s) := by
  unfold Machine.execCas
  extract_lets
  exact h.rmwUnit

theorem State.MemWf.execLdf {d b x} (h : s.MemWf) : EndsWf (execLdf d b x s) := by
  unfold Machine.execLdf
  extract_lets
  exact h.issueMet (fun _ _ ht => ht.ite ht.beginWait)

theorem State.MemWf.execStf {d b x} (h : s.MemWf) : EndsWf (execStf d b x s) := by
  unfold Machine.execStf
  extract_lets
  exact h.issueItems (fun _ _ ht => ht.storeItems)

/-! #### The functions of Machine/Tbars.lean -/

theorem State.MemWf.tbarUnit {conds a code bad eff} (h : s.MemWf) (heff : ∀ (a : ℕ) (t : State), t.MemWf → (eff a t).MemWf) :
    EndsWf (s.tbarUnit conds a code bad eff) := by
  unfold State.tbarUnit
  extract_lets
  exact h.issueLive (fun _ ha1 => heff _ _ ha1)

theorem State.MemWf.putTbar {a b} (h : s.MemWf) : (s.putTbar a b).MemWf := h.writeItem

theorem State.MemWf.execTbarInit {a b} (h : s.MemWf) : EndsWf (execTbarInit a b s) := by
  unfold Machine.execTbarInit
  extract_lets
  exact h.tbarUnit (fun _ _ ht => ht.putTbar)

theorem State.MemWf.execTbarExpect {a b} (h : s.MemWf) : EndsWf (execTbarExpect a b s) := by
  unfold Machine.execTbarExpect
  extract_lets
  exact h.tbarUnit (fun _ _ ht => by
      extract_lets
      exact ht.putTbar)

theorem State.MemWf.execTbarArrive {d a} (h : s.MemWf) : EndsWf (execTbarArrive d a s) := by
  unfold Machine.execTbarArrive
  exact h.tbarUnit (fun _ _ ht => by
      extract_lets
      exact ht.putTbar.putAll)

theorem State.MemWf.execTbarWait {a b} (h : s.MemWf) : EndsWf (execTbarWait a b s) := by
  unfold Machine.execTbarWait
  extract_lets
  exact h.tbarUnit (fun _ _ ht => ht.beginWait)

theorem State.MemWf.execSlotFree {a} (h : s.MemWf) : EndsWf (execSlotFree a s) := by
  unfold Machine.execSlotFree
  extract_lets
  exact h.issueLive (fun _ ht => by
      extract_lets t1
      have ht1 : t1.MemWf := ht.markSeen
      exact ht1.update)

theorem State.MemWf.execSealBatch {d} (h : s.MemWf) : EndsWf (execSealBatch d s) := by
  unfold Machine.execSealBatch
  extract_lets _ _ t
  have ht : t.MemWf := h.retire
  split
  · exact .next h.takeTrap
  · split
    · exact .next h.parkOldest
    · exact .next (ht.ite ht.update.putAll)

theorem State.MemWf.execBwait {k} (h : s.MemWf) : EndsWf (execBwait k s) := h.issueLive (fun _ ht => ht.beginWait)

theorem State.MemWf.fence {core p q w} (h : s.MemWf) : (s.fence core p q w).MemWf := by
  unfold State.fence
  extract_lets
  split
  · exact h
  · split
    · exact h.orderV
    · exact h.markSeen

theorem State.MemWf.noteEnd {line ts cmds} (h : s.MemWf) : (s.noteEnd line ts cmds).MemWf := by
  unfold State.noteEnd
  extract_lets
  exact h.update

theorem State.MemWf.execFenceX {p q} (h : s.MemWf) : EndsWf (execFenceX p q s) :=
  h.issueLive (fun _ ht => ht.ite ht.fence.block)

theorem State.MemWf.execFenceH (h : s.MemWf) : EndsWf (execFenceH s) := h.issueLive (fun _ ht => ht.block)

theorem State.MemWf.execFenceComplete {wave slot} (h : s.MemWf) : EndsWf (execFenceComplete wave slot s) := .next h.wakeIf

theorem State.MemWf.execSpl {d a b} (h : s.MemWf) : EndsWf (execSpl d a b s) := by
  unfold Machine.execSpl
  extract_lets
  exact h.issueItems (fun _ _ ht => ht.askUnit.foldl (fun _ ht1 _ => ht1.writeItem))

theorem State.MemWf.readRun {is} (h : s.MemWf) : (readRun is s).2.MemWf := by
  induction is generalizing s with
  | nil => exact h
  | cons i is ih => exact ih h.readItem

theorem State.MemWf.readRunTogether {is} (h : s.MemWf) : (readRunTogether is s).2.MemWf := by
  unfold Machine.readRunTogether
  extract_lets r
  have hr : r.2.MemWf := h.readTogether
  exact hr

theorem State.MemWf.execFil {d a b} (h : s.MemWf) : EndsWf (execFil d a b s) := by
  unfold Machine.execFil
  extract_lets
  exact h.issueMet (fun _ _ ht => by
      extract_lets r
      have hr : r.2.MemWf := ht.readRun
      exact hr.foldl (fun _ ht1 _ => by
          extract_lets
          exact ht1.foldl (fun _ ht2 _ => ht2.setV)))

/-! #### The functions of Machine/Interval.lean -/

theorem State.MemWf.execIpt {d a b} (h : s.MemWf) : EndsWf (execIpt d a b s) := by
  unfold Machine.execIpt
  extract_lets
  exact h.floatUnit

theorem State.MemWf.endUnit {d a g} (h : s.MemWf) : EndsWf (s.endUnit d a g) := by
  unfold State.endUnit
  extract_lets
  exact h.floatUnit

theorem State.MemWf.execIlo {d a} (h : s.MemWf) : EndsWf (execIlo d a s) := h.endUnit

theorem State.MemWf.execIhi {d a} (h : s.MemWf) : EndsWf (execIhi d a s) := h.endUnit

theorem State.MemWf.execImid {d a} (h : s.MemWf) : EndsWf (execImid d a s) := h.endUnit

theorem State.MemWf.execIwid {d a} (h : s.MemWf) : EndsWf (execIwid d a s) := h.endUnit

theorem State.MemWf.joinUnit {d a b g} (h : s.MemWf) : EndsWf (s.joinUnit d a b g) := by
  unfold State.joinUnit
  extract_lets
  exact h.floatUnit

theorem State.MemWf.execIhull {d a b} (h : s.MemWf) : EndsWf (execIhull d a b s) := h.joinUnit

theorem State.MemWf.execIsect {d a b} (h : s.MemWf) : EndsWf (execIsect d a b s) := h.joinUnit

theorem State.MemWf.execIin {d a b} (h : s.MemWf) : EndsWf (execIin d a b s) := by
  unfold Machine.execIin
  extract_lets
  exact h.issue (fun _ ht => ht.foldl (fun _ ht1 _ => ht1.setP))

theorem State.MemWf.execBbox {d a b} (h : s.MemWf) : EndsWf (execBbox d a b s) := by
  unfold Machine.execBbox
  extract_lets
  exact h.issue (fun _ ht => (ht.foldl (fun _ ht1 _ => ht1.setP)).ite ht.writeLanes)

theorem State.MemWf.ringAccess {reads writes} (h : s.MemWf) : (s.ringAccess reads writes).MemWf := by
  unfold State.ringAccess
  extract_lets
  exact h.readItemsAt.foldl (fun _ hs1 _ => hs1.writeItemAt)

theorem State.MemWf.execIbis {d a b} (h : s.MemWf) : EndsWf (execIbis d a b s) := by
  unfold Machine.execIbis
  extract_lets
  exact h.issueLive (fun _ ht => by
      extract_lets t1 t2
      have ht1 : t1.MemWf := ht.ringAccess
      have ht2 : t2.MemWf := ht1.foldl (fun _ ht3 _ => ht3.setP)
      exact ht2.writeLanes.logLanes)

theorem State.MemWf.execItake {d a b} (h : s.MemWf) : EndsWf (execItake d a b s) := by
  unfold Machine.execItake
  extract_lets
  exact h.issueLive (fun _ ht => by
      extract_lets t1 t2 t3
      have ht1 : t1.MemWf := ht.ringAccess
      have ht2 : t2.MemWf := ht1.foldl (fun _ ht4 _ => ht4.setP)
      have ht3 : t3.MemWf := ht2.writeLanes
      exact ht3.writeLanes)

/-! #### The functions of Machine/Blocks.lean -/

theorem State.MemWf.post {c} (h : s.MemWf) : (s.post c).MemWf := h.update

theorem State.MemWf.postUnit {a n conds codes full mxFull more eff} (h : s.MemWf)
    (heff : ∀ (a : List Byte) (t : State), t.MemWf → (eff a t).MemWf) :
        EndsWf (s.postUnit a n conds codes full mxFull more eff) := by
  unfold State.postUnit
  extract_lets _ _ _ _ t t1
  have ht : t.MemWf := h.retire
  have ht1 : t1.MemWf := ht.foldl (fun _ ht2 _ => ht2.readItem)
  split
  · exact .next h.takeTrap
  · split
    · exact .next h.parkAgain
    · split
      · exact .next h.blockAgain
      · exact .next (ht.ite (heff _ _ ht1))

/-! #### The functions of Machine/Copies.lean -/

theorem State.MemWf.copyUnit {kind a conds blk} (h : s.MemWf) : EndsWf (s.copyUnit kind a conds blk) := by
  unfold State.copyUnit
  extract_lets
  exact h.postUnit (fun _ _ ht => by
      extract_lets
      exact ht.post)

theorem State.MemWf.execCpy {a} (h : s.MemWf) : EndsWf (execCpy a s) := h.copyUnit

theorem State.MemWf.execCpyCol {a} (h : s.MemWf) : EndsWf (execCpyCol a s) := h.copyUnit

theorem State.MemWf.execCpyMc {a} (h : s.MemWf) : EndsWf (execCpyMc a s) := h.copyUnit

theorem State.MemWf.execCpyThen {a b} (h : s.MemWf) : EndsWf (execCpyThen a b s) := h.copyUnit

/-! #### The functions of Machine/Engine.lean -/

theorem State.MemWf.putCmd {c} (h : s.MemWf) : (s.putCmd c).MemWf := h.update

theorem State.MemWf.engReadPa {path c g pa n} (h : s.MemWf) : (s.engReadPa path c g pa n).2.MemWf := by
  unfold State.engReadPa
  extract_lets
  split
  · extract_lets t
    have ht : t.MemWf := h.meetUE.l2Touch
    exact ht.observe
  · split
    · exact h
    · exact h.update

theorem State.MemWf.meetArray {c g pa p n} (h : s.MemWf) : (s.meetArray c g pa p n).MemWf := by
  unfold State.meetArray
  exact h.foldl (fun _ hs1 _ => by
      extract_lets t
      have ht : t.MemWf := hs1.poisonUE.ite hs1.countUE.poisonBelow
      split
      · exact hs1
      · exact ht.tell)

theorem State.MemWf.engReadArray {c g pa n} (h : s.MemWf) : (s.engReadArray c g pa n).2.MemWf := by
  unfold State.engReadArray
  split
  · extract_lets t
    have ht : t.MemWf := h.meetArray
    exact ht.observe
  · exact h

theorem State.MemWf.engReadVa {path c g ps} (h : s.MemWf) : OnOk (fun x => x.2.MemWf) (State.engReadVa path c g ps s) := by
  induction ps generalizing s with
  | nil => exact .ok h
  | cons p ps ih =>
    unfold State.engReadVa
    split
    · exact .error
    · split
      · exact .error
      · extract_lets r
        have hr : r.2.MemWf := h.mark.engReadPa
        split
        · exact .error
        next t e => exact .ok (ih hr t e)

theorem State.MemWf.engRead {path c g sp a n} (h : s.MemWf) : OnOk (fun x => x.2.MemWf) (s.engRead path c g sp a n) := by
  unfold State.engRead
  split
  · exact h.engReadVa
  · exact .ok h.observe
  · exact .ok h.observe

theorem State.MemWf.poisonPlace {p} (h : s.MemWf) : (s.poisonPlace p).MemWf := h.update

theorem State.MemWf.engWritePa {path c g x bs bad} (h : s.MemWf) : (s.engWritePa path c g x bs bad).MemWf := by
  unfold State.engWritePa
  extract_lets _ s1
  have hs1 : s1.MemWf := h.mark
  split
  · exact hs1.peerWrite
  · extract_lets s2 s3
    have hs2 : s2.MemWf := hs1.ite hs1.meetUE
    have hs3 : s3.MemWf := hs2.putPlace
    split
    · exact hs3.poisonPlace
    · exact hs3
  · extract_lets s2 s3
    have hs2 : s2.MemWf := hs1.ite hs1.meetUE
    have hs3 : s3.MemWf := hs2.putPlace
    split
    · exact hs3.poisonPlace
    · exact hs3
  · exact hs1

theorem State.MemWf.engWrite {path c g sp a bs bad} (h : s.MemWf) : OnOk State.MemWf (s.engWrite path c g sp a bs bad) := by
  unfold State.engWrite
  extract_lets s1 s2
  have hs1 : s1.MemWf := h.putLocal
  have hs2 : s2.MemWf := h.putBank
  split
  · split
    · exact .error
    · split
      · exact .error
      · exact .ok h.engWritePa
  · exact .ok (hs1.modGroup.ite hs1)
  · exact .ok (hs2.update.ite hs2)

theorem State.MemWf.engineConfine {c code addr} (h : s.MemWf) : (s.engineConfine c code addr).MemWf := by
  unfold State.engineConfine
  extract_lets
  exact h.confine

theorem State.MemWf.cmdPage {c page addr} (h : s.MemWf) : (s.cmdPage c page addr).MemWf := by
  unfold State.cmdPage
  split
  · exact h.update
  · split
    · exact h
    · exact h.update.engineConfine

theorem State.MemWf.engineFail {c addr a} (h : s.MemWf) : (s.engineFail c addr a).MemWf := by
  unfold State.engineFail
  extract_lets
  split
  · exact h
  · exact h.cmdPage
  · exact h.engineConfine
  · exact h.engineConfine
  · extract_lets s1
    have hs1 : s1.MemWf := by
      unfold s1
      split
      · exact h.captureS2
      · exact h
    exact hs1.engineConfine
  · exact h.noteLost.confine

theorem State.MemWf.engineNote {c code addr} (h : s.MemWf) : (s.engineNote c code addr).MemWf := h.report

theorem State.MemWf.lowerBar {c g a n} (h : s.MemWf) : (s.lowerBar c g a n).MemWf := by
  unfold State.lowerBar
  extract_lets
  split
  · exact h.confine
  · exact (h.putBank.ite h.putLocal).nextLease

theorem State.MemWf.logCmd {c src} (h : s.MemWf) : (s.logCmd c src).MemWf := by
  unfold State.logCmd
  extract_lets
  exact h.foldl (fun _ hs1 _ => by
      split
      · exact hs1.alog
      · exact hs1)

theorem State.MemWf.wakeCmd {c} (h : s.MemWf) : (s.wakeCmd c).MemWf := by
  unfold State.wakeCmd
  extract_lets _ _ s1
  have hs1 : s1.MemWf := h.foldl (fun _ hs2 _ => hs2.sawBatches)
  exact hs1.wakeIf

theorem State.MemWf.retireCmd {c} (h : s.MemWf) : (s.retireCmd c).MemWf := by
  unfold State.retireCmd
  extract_lets _ s1
  have hs1 : s1.MemWf := h.update
  exact hs1.wakeCmd

theorem State.MemWf.execCommandComplete {cmd} (h : s.MemWf) : EndsWf (execCommandComplete cmd s) := by
  unfold Machine.execCommandComplete
  split
  · split
    · exact .next h.retireCmd
    · exact .next h
  · exact .next h

/-! #### The functions of Machine/CopyEngine.lean -/

theorem State.MemWf.guardWord {c a} (h : s.MemWf) : OnOk (fun x => x.2.MemWf) (s.guardWord c a) := by
  unfold State.guardWord
  split
  · exact .error
  next e => exact .ok (h.engRead _ e)

theorem State.MemWf.runCopy {c} (h : s.MemWf) : (s.runCopy c).MemWf := by
  unfold State.runCopy
  split
  · exact h.putCmd
  · exact h.putCmd

theorem State.MemWf.judgeGuard {c a q run} (h : s.MemWf) (hrun : ∀ t : State, t.MemWf → (run t).MemWf) :
    (s.judgeGuard c a q run).MemWf := by
  unfold State.judgeGuard
  split
  · exact h.engineFail
  next t e =>
    have ht : t.MemWf := h.guardWord _ e
    split
    · exact ht.putCmd
    · split
      · exact hrun _ ht.fence
      · exact ht.putCmd

theorem State.MemWf.execCopyCommandStart {engine} (h : s.MemWf) : EndsWf (execCopyCommandStart engine s) := by
  unfold Machine.execCopyCommandStart
  split
  · exact .next h
  · extract_lets
    split
    · exact .next h.runCopy
    · exact .next (h.judgeGuard (fun _ ht => ht.runCopy))

theorem State.MemWf.takeSlot {id} (h : s.MemWf) : (s.takeSlot id).MemWf := h.modGroup

theorem State.MemWf.execMulticastStart {cmd} (h : s.MemWf) : EndsWf (execMulticastStart cmd s) := by
  unfold Machine.execMulticastStart
  split
  · exact .next h
  · extract_lets
    split
    · exact .next h
    · split
      · exact .next h.putCmd.engineConfine
      · split
        · extract_lets
          exact .next h.confine
        · split
          · exact .next ((h.foldl (fun _ hs1 _ => hs1.takeSlot)).putCmd)
          · exact .next h

theorem State.MemWf.execGuardWordResolve {cmd} (h : s.MemWf) : EndsWf (execGuardWordResolve cmd s) := by
  unfold Machine.execGuardWordResolve
  split
  · exact .next h
  · split
    · exact .next h
    · split
      · exact .next (h.judgeGuard (fun _ ht => ht.runCopy))
      · exact .next h.putCmd

theorem State.MemWf.engHome {c g sp a n} (h : s.MemWf) : OnOk (fun x => x.2.MemWf) (s.engHome c g sp a n) := by
  unfold State.engHome
  split
  · split
    · exact .error
    · extract_lets t
      have ht : t.MemWf := by
        unfold t
        split
        · exact h.meetUE.l2Touch.observeAll
        · exact h.update
      split
      · exact .error
      · exact .ok ht
  · exact .ok h
  · exact .ok h

theorem State.MemWf.readPiece {c g sp a n} (h : s.MemWf) : OnOk (fun x => x.2.MemWf) (s.readPiece c g sp a n) := by
  unfold State.readPiece
  extract_lets
  split
  · exact .error
  next s1 e =>
    have ht : s1.MemWf := h.engRead _ e
    split
    · exact .ok ht
    · split
      · exact .error
      next e1 => exact .ok (ht.engRead _ e1)

theorem State.MemWf.movePiece {c d a b n} (h : s.MemWf) : OnOk (fun x => x.1.MemWf) (s.movePiece c d a b n) := by
  unfold State.movePiece
  extract_lets
  split
  · exact .error
  next s1 e =>
    have ht : s1.MemWf := h.readPiece _ e
    split
    · exact .ok (ht.foldl (fun _ hs2 _ => by
        split
        · exact hs2
        · split
          · exact hs2
          · split
            next e3 => exact hs2.engWrite _ e3
            · exact hs2))
    · split
      · exact .error
      next s2 e2 =>
        have ht1 : s2.MemWf := ht.engHome _ e2
        extract_lets
        split
        · exact .error
        next e3 => exact .ok (ht1.engWrite _ e3)
    · split
      · exact .error
      next e1 => exact .ok (ht.engWrite _ e1)

theorem State.MemWf.landSectors {d id fuel} (h : s.MemWf) : (landSectors d id fuel s).1.MemWf := by
  induction fuel generalizing s with
  | zero => exact h
  | succ fuel ih =>
    unfold Sys2Proof.Machine.landSectors
    split
    · exact h
    · dsimp only
      split
      · exact h
      · split
        · exact h
        · split
          · exact h.engineFail
          next t ev e => exact ih (State.MemWf.putCmd (h.movePiece _ e))

theorem State.MemWf.lowerAll {c d n} (h : s.MemWf) : (s.lowerAll c d n).MemWf := by
  unfold State.lowerAll
  split
  · exact h
  · split
    · exact h.foldl (fun _ hs1 _ => by
        split
        · exact hs1
        · split
          · exact hs1
          · exact hs1.lowerBar)
    · exact h.lowerBar

theorem State.MemWf.noteLowered {c d} (h : s.MemWf) : (s.noteLowered c d).MemWf := by
  unfold State.noteLowered
  split
  · exact h
  · exact h.foldl (fun _ hs1 _ => hs1.noteEnd)

theorem State.MemWf.endCopy {c d} (h : s.MemWf) : (s.endCopy c d).MemWf := by
  unfold State.endCopy
  extract_lets s1 _ s2
  have hs1 : s1.MemWf := h.logCmd.noteLowered
  have hs2 : s2.MemWf := hs1.markSeen.putCmd
  split
  · exact hs2.update
  · exact hs1.putCmd

theorem State.MemWf.execCopyBytesLand {cmd sectors} (h : s.MemWf) : EndsWf (execCopyBytesLand cmd sectors s) := by
  unfold Machine.execCopyBytesLand
  split
  · exact .next h
  · extract_lets _ r
    have hr : r.1.MemWf := h.landSectors
    split
    · exact .next h
    · split
      · exact .next hr
      · extract_lets t
        have ht : t.MemWf := hr.lowerAll
        exact .next (ht.endCopy.ite ht)

/-! #### The functions of Machine/Sight.lean -/

theorem State.MemWf.execRast {a} (h : s.MemWf) : EndsWf (execRast a s) := h.postUnit (fun _ _ ht => ht.post)

theorem State.MemWf.execRay {a b} (h : s.MemWf) : EndsWf (execRay a b s) := by
  unfold Machine.execRay
  extract_lets
  exact h.postUnit (fun _ _ ht => ht.post)

theorem State.MemWf.sightWrite {c a bs bad} (h : s.MemWf) : (s.sightWrite c a bs bad).MemWf := by
  unfold State.sightWrite
  split
  next e => exact h.engWrite _ e
  · exact h

theorem State.MemWf.beginRast {c} (h : s.MemWf) : (s.beginRast c).MemWf := by
  unfold State.beginRast
  extract_lets
  exact h.observe.putCmd

theorem State.MemWf.rastStep {c} (h : s.MemWf) : (s.rastStep c).MemWf := by
  unfold State.rastStep
  extract_lets _ _ _ _ _ _ _ s1
  have hs1 : s1.MemWf := h.observe.ite h
  split
  · exact h.sightWrite.putCmd
  · split
    · exact hs1.putCmd
    · extract_lets s2
      have hs2 : s2.MemWf := hs1.sightWrite
      exact (hs2.sightWrite.ite hs2).putCmd

theorem walkRead_memWf {c : Command} {w : Walk} {a n : Nat} (h : w.s.MemWf) : OnOk (fun x => x.2.s.MemWf) (w.read c a n) := by
  unfold Walk.read
  split
  · exact .error
  next e => exact .ok (h.engRead _ e)

theorem walkLeaf_memWf {c : Command} {r : Ray} {a n : Nat} {w : Walk} (h : w.s.MemWf) :
    OnOk (fun x => x.s.MemWf) (walkLeaf c r a n w) := by
  induction n generalizing a w with
  | zero => exact .ok h
  | succ n ih =>
    unfold walkLeaf
    split
    · exact .error
    next e => exact ih (walkRead_memWf h _ e)

theorem walkNode_memWf {c : Command} {r : Ray} {fuel a : Nat} {w : Walk} (h : w.s.MemWf) :
    OnOk (fun x : Walk => x.s.MemWf) (walkNode c r fuel a w) := by
  induction fuel generalizing a w with
  | zero => exact .ok h
  | succ fuel ih =>
    unfold walkNode
    split
    · exact .error
    next b w' e =>
      have hw : w'.s.MemWf := walkRead_memWf h _ e
      refine List.foldlRecOn (motive := OnOk fun x : Walk => x.s.MemWf) _ _ (.ok hw) fun x hx k _ => ?_
      split
      · exact .error
      next v =>
        have hv : v.s.MemWf := hx v rfl
        split
        · exact walkLeaf_memWf hv
        · exact ih hv

theorem State.MemWf.runRay {c root res tmin l ws} (h : s.MemWf) :
    OnOk State.MemWf (State.runRay c root res tmin l ws s) := by
  unfold State.runRay
  split
  · exact .ok h.sightWrite
  · exact .ok h.sightWrite.update
  · split
    · exact .error
    next w e => exact .ok (State.MemWf.sightWrite (walkNode_memWf h w e))

theorem State.MemWf.rayStep {c} (h : s.MemWf) : (s.rayStep c).MemWf := by
  unfold State.rayStep
  split
  · exact h.putCmd
  · split
    next t e1 =>
      have ht : t.MemWf := h.runRay _ e1
      exact ht.putCmd
    · exact h.engineFail

theorem State.MemWf.execSightCommandRun {slice_ cluster} (h : s.MemWf) : EndsWf (execSightCommandRun slice_ cluster s) := by
  unfold Machine.execSightCommandRun
  split
  · exact .next (h.rastStep.ite h.rayStep)
  · split
    · exact .next h
    · exact .next (h.beginRast.ite h.putCmd)

/-! #### The functions of Machine/Attention.lean -/

theorem State.MemWf.execQpost {a} (h : s.MemWf) : EndsWf (execQpost a s) := by
  unfold Machine.execQpost
  extract_lets
  exact h.postUnit (fun _ _ ht => by
      extract_lets t1
      have ht1 : t1.MemWf := ht.foldl (fun _ ht2 _ => ht2.mark)
      exact ht1.post)

theorem State.MemWf.breakTriple {c code addr} (h : s.MemWf) : (s.breakTriple c code addr).MemWf := by
  unfold State.breakTriple
  split
  · exact h
  · exact h.engineNote.putCmd

theorem State.MemWf.execAttentionCommandStart {cmd} (h : s.MemWf) : EndsWf (execAttentionCommandStart cmd s) := by
  unfold Machine.execAttentionCommandStart
  split
  · exact .next h
  · extract_lets _ _ _ _ s1
    have hs1 : s1.MemWf := h.observe.putCmd
    split
    · exact .next h
    · exact .next (hs1.breakTriple.ite hs1)

theorem State.MemWf.scanArray {c pa va n} (h : s.MemWf) : (s.scanArray c pa va n).2.MemWf := by
  unfold State.scanArray
  extract_lets r
  have hr : r.2.MemWf := h.engReadArray
  exact hr

theorem State.MemWf.readRegion {c i u} (h : s.MemWf) : (s.readRegion c i u).2.MemWf := by
  unfold State.readRegion
  extract_lets _ r h1
  have hr : r.2.MemWf := h.scanArray
  have hh1 : h1.2.MemWf := hr.scanArray
  split
  · exact hh1
  · exact hr

theorem State.MemWf.scanUnit {c t u} (h : s.MemWf) : (s.scanUnit c t u).2.MemWf := by
  unfold State.scanUnit
  extract_lets _ k v
  have hk : k.2.MemWf := h.readRegion
  have hv : v.2.MemWf := hk.readRegion
  exact hv

theorem State.MemWf.activate {place vf} (h : s.MemWf) : (s.activate place vf).MemWf := h.update

theorem State.MemWf.readRow {c bau} (h : s.MemWf) : (s.readRow c bau).MemWf := by
  unfold State.readRow
  extract_lets
  split
  · exact h
  · extract_lets s1 r _ _ _ s2
    have hs1 : s1.MemWf := h.foldl (fun _ hs3 _ => hs3.activate)
    have hr : r.2.MemWf := hs1.foldl_snd (fun _ ha _ => by
        extract_lets x1
        have hx1 : x1.2.MemWf := ha.scanUnit
        exact hx1)
    have hs2 : s2.MemWf := hr.putCmd
    split
    · exact hs2.breakTriple
    · exact hs2

theorem State.MemWf.rescanBau {c bau} (h : s.MemWf) : (s.rescanBau c bau).MemWf := by
  unfold State.rescanBau
  extract_lets _ _ _ s1
  have hs1 : s1.MemWf := h.putCmd
  split
  · exact hs1.update.breakTriple
  · exact hs1

theorem State.MemWf.execBauRowRead {cmd bau fault} (h : s.MemWf) : EndsWf (execBauRowRead cmd bau fault s) := by
  unfold Machine.execBauRowRead
  split
  · exact .next h
  · split
    · exact .next h
    · split
      · exact .next h.rescanBau
      · split
        · exact .next h
        · extract_lets
          split
          · exact .next h
          · split
            · extract_lets
              exact .next h.update
            · exact .next h.readRow

theorem State.MemWf.putTriple {c g off bs bad} (h : s.MemWf) : (s.putTriple c g off bs bad).MemWf := by
  unfold State.putTriple
  exact h.foldl (fun _ hs1 _ => by
      split
      next e => exact hs1.engWrite _ e
      · exact hs1)

theorem State.MemWf.execAttentionResultWrite {cmd} (h : s.MemWf) : EndsWf (execAttentionResultWrite cmd s) := by
  unfold Machine.execAttentionResultWrite
  split
  · exact .next h
  · extract_lets _ _ _ s1 s2
    have hs1 : s1.MemWf := h.putTriple.logCmd
    have hs2 : s2.MemWf := hs1.markSeen.lowerBar
    split
    · exact .next h
    · exact .next hs2.putCmd

theorem State.MemWf.execRefresh {stack channel} (h : s.MemWf) : EndsWf (execRefresh stack channel s) := by
  unfold Machine.execRefresh
  extract_lets _ s1
  have hs1 : s1.MemWf := h.update
  exact .next (hs1.foldl (fun _ hs2 _ => hs2.foldl (fun _ hs3 _ => by
      extract_lets
      split
      · split
        · exact hs3
        · extract_lets
          split
          · exact hs3.putCmd.breakTriple
          · exact hs3.putCmd
      · exact hs3)))

theorem State.MemWf.execHotRowThrottle {stack bank row} (h : s.MemWf) : EndsWf (execHotRowThrottle stack bank row s) := by
  unfold Machine.execHotRowThrottle
  extract_lets
  split
  · exact .next h
  · extract_lets
    split
    · exact .next h
    · extract_lets _ s1
      have hs1 : s1.MemWf := h.setPreg
      split
      · exact .next h.update
      · exact .next hs1.update

theorem State.MemWf.serveSide {key} (h : s.MemWf) : (s.serveSide key).MemWf := by
  unfold State.serveSide
  split
  · exact h
  · extract_lets t
    have ht : t.MemWf := h.update
    split
    · exact ht
    · split
      · exact h
      · split
        · exact ht.readRow
        · exact ht

theorem State.MemWf.execHotRowSideQueue {stack channel} (h : s.MemWf) : EndsWf (execHotRowSideQueue stack channel s) :=
  .next (h.foldl (fun _ hs1 _ => hs1.serveSide))

theorem State.MemWf.execHotRowWindowEnd (h : s.MemWf) : EndsWf (execHotRowWindowEnd s) := .next h.update

theorem State.MemWf.tripleUnit {d srcs outLen f} (h : s.MemWf) : EndsWf (s.tripleUnit d srcs outLen f) := by
  unfold State.tripleUnit
  extract_lets
  exact h.issueLive (fun _ ht => by
      extract_lets x _ _ _ t1 t2
      have hx : x.2.MemWf := ht.readRunTogether
      have ht1 : t1.MemWf := hx.writeTogether
      have ht2 : t2.MemWf := ht1.foldl (fun _ ht3 _ => ht3.alog)
      split
      · exact ht2.update
      · exact ht2)

theorem State.MemWf.execAmerge {d a b} (h : s.MemWf) : EndsWf (execAmerge d a b s) := h.tripleUnit

theorem State.MemWf.execAfin {d a} (h : s.MemWf) : EndsWf (execAfin d a s) := h.tripleUnit

/-! #### The functions of Machine/Chain.lean -/

theorem State.MemWf.sawLaunch {who va} (h : s.MemWf) : (s.sawLaunch who va).MemWf := by
  unfold State.sawLaunch
  extract_lets _ s1
  have hs1 : s1.MemWf := h.foldl (fun _ hs2 _ => hs2.physTouch)
  split
  · exact hs1.seen
  · extract_lets t
    have ht : t.MemWf := hs1.seen.seen
    split
    · exact ht
    · exact ht.seen

/-! #### The functions of Machine/Launches.lean -/

theorem State.MemWf.putLaunch {l} (h : s.MemWf) : (s.putLaunch l).MemWf := h.update

theorem State.MemWf.confineUe {who level code at_} (h : s.MemWf) : (s.confineUe who level code at_).MemWf :=
    h.noteLost.confine

theorem State.MemWf.noteQueue {who code launch} (h : s.MemWf) : (s.noteQueue who code launch).MemWf := h.report

theorem State.MemWf.updateRecord {who launch done n or_ max_ nz} (h : s.MemWf) :
    (s.updateRecord who launch done n or_ max_ nz).MemWf := by
  unfold State.updateRecord
  extract_lets _ s1
  have hs1 : s1.MemWf := h.raisePts.look
  split
  · split
    · exact h.oweFail
    · exact h.oweFail.confineCtx
  · extract_lets
    split
    · exact hs1.ctxPut.ctxPut
    · exact hs1.ctxPut

theorem State.MemWf.putLaunchState {l st} (h : s.MemWf) : (s.putLaunchState l st).MemWf := by
  unfold State.putLaunchState
  split
  · exact h
  · exact h.rcbPut

theorem State.MemWf.dropChild {who parent} (h : s.MemWf) : (s.dropChild who parent).MemWf := by
  unfold State.dropChild
  split
  · exact h.look
  · exact h.look.rcbPut
  · exact h.confineUe
  · exact h.look.confineCtx

theorem State.MemWf.childrenLeft {l} (h : s.MemWf) : OnSome State.MemWf (s.childrenLeft l) := by
  unfold State.childrenLeft
  split
  · exact .some h
  · exact .some h.confineUe
  · exact .none

theorem State.MemWf.settleLaunch {fuel id} (h : s.MemWf) : (State.settleLaunch fuel s id).MemWf := by
  induction fuel generalizing s id with
  | zero => exact h
  | succ fuel ih =>
    unfold State.settleLaunch
    split
    · exact h
    next l _ =>
      split
      · exact h
      · split
        next t e => exact h.childrenLeft t e
        · extract_lets _ t u v
          have ht : t.MemWf := State.MemWf.update (State.MemWf.look h)
          have hu : u.MemWf := ht.putLaunchState
          have hv : v.MemWf := hu.dropChild
          clear_value v
          split
          · exact hv.foldl fun _ hw _ => ih hw
          · exact hu

theorem State.MemWf.settle {id} (h : s.MemWf) : (s.settle id).MemWf := h.settleLaunch

theorem State.MemWf.childDone {l} (h : s.MemWf) : (s.childDone l).MemWf := by
  unfold State.childDone
  extract_lets s1
  have hs1 : s1.MemWf := h.dropChild
  split
  · exact hs1.foldl (fun _ hs2 _ => hs2.settle)
  · exact h

theorem State.MemWf.countGroups {l who n or_ max_ nz faulted after} (h : s.MemWf)
    (hafter : ∀ t : State, t.MemWf → (after t).MemWf) : (s.countGroups l who n or_ max_ nz faulted after).MemWf := by
  unfold State.countGroups
  extract_lets s1 s2
  have hs1 : s1.MemWf := hafter _ h.updateRecord
  have hs2 : s2.MemWf := by
    unfold s2
    split
    · exact hs1.putLaunch
    · exact hs1
  exact hs2.settle

theorem State.MemWf.failLaunch {l code} (h : s.MemWf) : (s.failLaunch l code).MemWf := by
  unfold State.failLaunch
  extract_lets s1 s2
  have hs1 : s1.MemWf := by
    unfold s1
    split
    · exact h.noteQueue
    · exact h
  have hs2 : s2.MemWf := hs1.updateRecord
  exact hs2.putLaunchState.childDone

theorem State.MemWf.closeLaunch {id} (h : s.MemWf) : (s.closeLaunch id).MemWf := by
  unfold State.closeLaunch
  split
  · exact h
  · extract_lets _ s1
    have hs1 : s1.MemWf := h.putLaunch
    split
    · exact hs1.settle
    · exact hs1.countGroups (fun _ hs2 => hs2)

theorem State.MemWf.dropPosted {p} (h : s.MemWf) : (s.dropPosted p).MemWf := by
  unfold State.dropPosted
  extract_lets
  split
  · exact h.failLaunch
  · exact h.childDone

theorem State.MemWf.dropChildren {sel par} (h : s.MemWf) : (s.dropChildren sel par).MemWf := by
  unfold State.dropChildren
  extract_lets _ _ _ s1 s2
  have hs1 : s1.MemWf := h.update
  have hs2 : s2.MemWf := hs1.foldl (fun _ hs3 _ => hs3.ite hs3.rcbPut.rcbPut)
  exact hs2.foldl (fun _ hs3 _ => hs3.dropPosted)

/-! #### The functions of Machine/Queues.lean -/

theorem State.MemWf.syncEmpty {f c} (h : s.MemWf) : (s.syncEmpty f c).MemWf := h.setBell

theorem State.MemWf.haltQueue {f c code} (h : s.MemWf) : (s.haltQueue f c code).MemWf := by
  unfold State.haltQueue
  extract_lets s1
  have hs1 : s1.MemWf := h.setBell
  split
  · exact hs1.noteQueue
  · exact hs1

theorem State.MemWf.execDoorbellWrite {vf ctx widx} (h : s.MemWf) : EndsWf (execDoorbellWrite vf ctx widx s) := by
  unfold Machine.execDoorbellWrite
  extract_lets s1
  have hs1 : s1.MemWf := h.setBell.syncEmpty
  split
  · exact .next h
  · exact .next (hs1.haltQueue.ite hs1)

theorem State.MemWf.execQueueEnableWrite {vf ctx val} (h : s.MemWf) : EndsWf (execQueueEnableWrite vf ctx val s) := by
  unfold Machine.execQueueEnableWrite
  extract_lets s1 _ _ _ s2 s3
  have hs1 : s1.MemWf := h
  have hs2 : s2.MemWf := hs1.setBell
  have hs3 : s3.MemWf := hs2.ite hs2.update.setBell
  split
  · exact .next h
  · split
    · exact .next (hs3.haltQueue.ite hs3)
    · exact .next hs2

theorem State.MemWf.release {who rcb i} (h : s.MemWf) : (s.release who rcb i).MemWf := by
  unfold State.release
  extract_lets _ _ s1 on _ s2
  have hs1 : s1.MemWf := h.sawLaunch
  have hon : ∀ t : State, t.MemWf → (on t).MemWf := fun _ hs3 => hs3.setBell.syncEmpty
  have hs2 : s2.MemWf := hon _ hs1
  split
  · exact hs1.confineUe
  · exact hs1.haltQueue
  · exact hs1.confineUe
  · exact hs2.failLaunch
  · exact hs2.failLaunch
  · exact hs2.update

theorem State.MemWf.execQueueEntryRelease {vf ctx} (h : s.MemWf) : EndsWf (execQueueEntryRelease vf ctx s) := by
  unfold Machine.execQueueEntryRelease
  extract_lets _ _ _ s1
  have hs1 : s1.MemWf := h.update
  split
  · exact .next h
  · extract_lets _ t
    have ht : t.MemWf := hs1.seen
    split
    · exact .next h
    · split
      · exact .next hs1.haltQueue
      · split
        · exact .next ht.haltQueue
        · exact .next ht.confineUe
        · extract_lets _ s2
          have hs2 : s2.MemWf := ht.ite ht.seen
          split
          · exact .next ht
          · split
            · exact .next hs2.update
            · split
              · exact .next hs2
              · exact .next hs2.release

theorem State.MemWf.execCtxBindWrite {part vf ctx val} (h : s.MemWf) : EndsWf (execCtxBindWrite part vf ctx val s) := by
  unfold Machine.execCtxBindWrite
  extract_lets
  split
  · exact .next h
  · exact .next h.setReg64

theorem State.MemWf.execLaunchPriorityAging {launch} (h : s.MemWf) : EndsWf (execLaunchPriorityAging launch s) := by
  unfold Machine.execLaunchPriorityAging
  extract_lets
  exact .next h.update

/-! #### The functions of Machine/Distributor.lean -/

theorem State.MemWf.takeFailed {who addr a} (h : s.MemWf) : (s.takeFailed who addr a).MemWf := by
  unfold State.takeFailed
  split
  · exact h.confineUe
  · exact h.confineCtx

theorem State.MemWf.unlinkHead {l} (h : s.MemWf) : OnOk (fun x => x.2.MemWf) (s.unlinkHead l) := by
  unfold State.unlinkHead
  extract_lets
  split
  · exact .error
  · extract_lets s1 s2
    have hs1 : s1.MemWf := h.rcbPut
    have hs2 : s2.MemWf := hs1.rcbPut.ite hs1
    exact .ok hs2.update

theorem State.MemWf.unpost {l c} (h : s.MemWf) : (s.unpost l c).MemWf := by
  unfold State.unpost
  extract_lets s1
  have hs1 : s1.MemWf := h.update
  split
  · split
    · exact hs1
    · split
      · exact hs1.takeFailed
      next s2 e =>
        have ht : s2.MemWf := hs1.unlinkHead _ e
        exact ht.update
  · split
    · exact h.takeFailed
    next e => exact h.unlinkHead _ e

theorem State.MemWf.oweWeight {part f} (h : s.MemWf) : (s.oweWeight part f).MemWf := by
  unfold State.oweWeight
  split
  · extract_lets
    split
    · exact h
    · exact h.update
  · exact h

theorem State.MemWf.enterPort {core port part f} (h : s.MemWf) : (s.enterPort core port part f).MemWf := by
  unfold State.enterPort
  extract_lets
  exact h.update.oweWeight

theorem State.MemWf.startWave {g regs w} (h : s.MemWf) : (s.startWave g regs w).MemWf := by
  unfold State.startWave
  extract_lets _ _ _ _ _ _ _ _ s1 s2
  have hs1 : s1.MemWf := h.enterPort
  have hs2 : s2.MemWf := hs1.update
  split
  · exact hs2
  · exact hs2.foldl (fun _ hs3 _ => hs3.markSeen)

theorem State.MemWf.beginSlice {core f c} (h : s.MemWf) : (s.beginSlice core f c).MemWf := by
  unfold State.beginSlice
  split
  · exact h
  · exact h.update

theorem State.MemWf.startGroup {g regs} (h : s.MemWf) : (s.startGroup g regs).MemWf := by
  unfold State.startGroup
  extract_lets s1 s2
  have hs1 : s1.MemWf := h.beginSlice.dropStale
  have hs2 : s2.MemWf := hs1.update
  exact hs2.foldl (fun _ hs3 _ => hs3.startWave)

theorem State.MemWf.clearBanks {core base c} (h : s.MemWf) : (s.clearBanks core base c).MemWf := by
  unfold State.clearBanks
  extract_lets
  exact h.update

theorem State.MemWf.putProgress {l} (h : s.MemWf) : (s.putProgress l).MemWf := by
  unfold State.putProgress
  extract_lets t
  have ht : t.MemWf := h.ctxPut
  split
  · exact h
  · exact ht.update

theorem State.MemWf.startAt {l core} (h : s.MemWf) : (s.startAt l core).MemWf := by
  unfold State.startAt
  extract_lets _ _ _ _ _ s1 s2 s3 s4
  have hs1 : s1.MemWf := h.clearBanks
  have hs2 : s2.MemWf := hs1.update
  have hs3 : s3.MemWf := hs2.foldl (fun _ hs5 _ => hs5.startGroup)
  have hs4 : s4.MemWf := hs3.putLaunch
  exact (hs4.putLaunchState.ite hs4).putProgress

theorem State.MemWf.failChild {c e} (h : s.MemWf) : (s.failChild c e).MemWf := by
  unfold State.failChild
  split
  · exact h.sawLaunch.unpost.failLaunch
  · exact h.takeFailed
  · exact h

theorem State.MemWf.startCand {c core} (h : s.MemWf) : (s.startCand c core).MemWf := by
  unfold State.startCand
  split
  · extract_lets s1
    have hs1 : s1.MemWf := h.sawLaunch.unpost
    split
    · exact hs1.update.startAt
    · exact hs1.failLaunch
  · exact h.startAt

theorem State.MemWf.execWorkgroupDispatch {part} (h : s.MemWf) : EndsWf (execWorkgroupDispatch part s) := by
  unfold Machine.execWorkgroupDispatch
  extract_lets s1
  have hs1 : s1.MemWf := h.unfocus
  split
  · exact .next h
  · split
    · exact .next hs1.failChild
    · split
      · exact .next hs1.startCand
      · exact .next hs1

/-! #### The functions of Machine/Shading.lean -/

theorem State.MemWf.setScTag {tag t} (h : s.MemWf) : (s.setScTag tag t).MemWf := h.update

theorem State.MemWf.objSeen {part wave obj} (h : s.MemWf) : (s.objSeen part wave obj).MemWf := by
  unfold State.objSeen
  split
  · exact h.l2Touch.observe
  · exact h

theorem State.MemWf.objLost {who r obj} (h : s.MemWf) : (s.objLost who r obj).MemWf := by
  unfold State.objLost
  extract_lets
  exact h.noteLost.confine

theorem State.MemWf.scVictim {slice set} (h : s.MemWf) : OnSome (fun x : Nat × State => x.2.MemWf) (s.scVictim slice set) :=
    by
  unfold State.scVictim
  extract_lets ts
  split
  · exact .some h
  · split
    · exact .some h
    · split
      · refine .some ?_
        dsimp only
        clear_value ts
        exact h.foldl fun _ ht _ => ht.setScTag.ite ht
      · exact .none

theorem State.MemWf.scStamp {tag k o f t} (h : s.MemWf) : (s.scStamp tag k o f t).MemWf := by
  unfold State.scStamp
  extract_lets s1
  have hs1 : s1.MemWf := h.setScTag
  exact hs1.update

theorem State.MemWf.scLookup {part k o f} (h : s.MemWf) : (s.scLookup part k o f).2.MemWf := by
  unfold State.scLookup
  extract_lets
  split
  · split
    · exact h
    · split
      · exact h
      next s' e1 =>
        have ht : s'.MemWf := h.scVictim _ e1
        exact ht.scStamp
  · extract_lets
    split
    · split
      · exact h.setScTag
      · split
        · exact h
        · exact h.scStamp
    · split
      · exact h
      · split
        · exact h
        · exact h.scStamp

theorem State.MemWf.scUnread {tag} (h : s.MemWf) : (s.scUnread tag).MemWf := by
  unfold State.scUnread
  extract_lets
  exact h.modFrags

theorem State.MemWf.scInvalidate {tag} (h : s.MemWf) : (s.scInvalidate tag).MemWf := by
  unfold State.scInvalidate
  extract_lets s1 _ _ s2
  have hs1 : s1.MemWf := h.scUnread
  have hs2 : s2.MemWf := hs1.foldl (fun _ hs3 _ => hs3.update.countUE)
  exact hs2.setScTag.wakeLine

theorem State.MemWf.scAsk {part wave f x n} (h : s.MemWf) : (State.scAsk part wave f x n s).2.MemWf := by
  obtain ⟨lookup, hlookup⟩ : ∃ f, State.scLookup = f := ⟨_, rfl⟩
  obtain ⟨texel, htexel⟩ : ∃ f, State.scTexel = f := ⟨_, rfl⟩
  have hlook : ∀ s : State, s.MemWf → ∀ a b c d, (State.scLookup s a b c d).2.MemWf := fun _ h _ _ _ _ => h.scLookup
  delta State.scAsk State.scAsk._f
  rw [hlookup, htexel]
  rw [hlookup] at hlook
  induction n generalizing s x with
  | zero => exact h
  | succ n ih =>
    dsimp only
    have hr := hlook _ (h.objSeen (part := part) (wave := wave) (obj := keyObj x.key)) part x.key
        (s.objRec part wave (keyObj x.key)) f
    split
    · exact hr
    · exact hr.ite hr.setP
    · split
      · exact (hr.ite hr.setP).observe
      · exact ih (hr.ite hr.setP).scInvalidate

theorem State.MemWf.scAskSome {part wave f pick xs} (h : s.MemWf) : (State.scAskSome part wave f pick xs s).2.MemWf := by
  induction xs generalizing s with
  | nil => exact h
  | cons x xs ih => exact ih (h.scAsk.ite_snd h)

theorem State.MemWf.scSettle {part wave f fuel xs lost} (h : s.MemWf) :
    (State.scSettle part wave f fuel xs lost s).2.MemWf := by
  induction fuel generalizing s xs lost with
  | zero => exact h
  | succ fuel ih =>
    unfold State.scSettle
    dsimp only
    split
    · exact ih h.scAskSome
    · exact h

theorem State.MemWf.scAskAll {part wave f xs} (h : s.MemWf) : (State.scAskAll part wave f xs s).2.MemWf := by
  unfold State.scAskAll
  extract_lets r
  have hr : r.2.MemWf := h.scAskSome
  exact hr.scSettle

theorem State.MemWf.texelsOut {d xs} (h : s.MemWf) : (s.texelsOut d xs).MemWf := by
  unfold State.texelsOut
  exact h.foldl (fun _ hs1 _ => by
      split
      · exact hs1.setD
      · exact hs1)

theorem State.MemWf.scUnit {conds obj eff} (h : s.MemWf) (heff : ∀ t : State, t.MemWf → (eff t).MemWf) :
    EndsWf (s.scUnit conds obj eff) := by
  unfold State.scUnit
  split
  · exact .next h.update.objLost
  · exact h.issueLive heff

theorem State.MemWf.execScq {d a b} (h : s.MemWf) : EndsWf (execScq d a b s) := by
  unfold Machine.execScq
  extract_lets
  exact h.scUnit (fun _ ht => by
      extract_lets r
      have hr : r.2.MemWf := (ht.frameLoad.ite ht).scAskAll
      split
      · exact hr.texelsOut
      · exact hr.park.watchLines)

theorem State.MemWf.putHeap {part tag bs} (h : s.MemWf) : (s.putHeap part tag bs).MemWf :=
    h.foldl (fun _ hs1 _ => hs1.putPlace)

theorem State.MemWf.scFillRow {part k ver frame bs} (h : s.MemWf) : (s.scFillRow part k ver frame bs).2.MemWf := by
  unfold State.scFillRow
  split
  · exact h
  · extract_lets
    split
    · exact h
    · split
      · exact h.setScTag.wakeLine
      · split
        · exact h.scInvalidate
        · exact h.putHeap.setScTag

theorem State.MemWf.execScfill {d a b} (h : s.MemWf) : EndsWf (execScfill d a b s) := by
  unfold Machine.execScfill
  exact h.issueLive (fun _ ht => by
      extract_lets r
      have hr : r.2.MemWf := ht.scFillRow
      exact hr.foldl (fun _ ht1 _ => ht1.setP))

theorem State.MemWf.scWrap {part obj} (h : s.MemWf) : (s.scWrap part obj).MemWf := by
  unfold State.scWrap
  extract_lets
  exact h.update

theorem State.MemWf.scBump {part obj} (h : s.MemWf) : (s.scBump part obj).2.MemWf := by
  unfold State.scBump
  extract_lets _ _ s1
  have hs1 : s1.MemWf := h.physWrite
  exact hs1.scWrap.ite hs1

theorem State.MemWf.scBumps {part xs} (h : s.MemWf) : (State.scBumps part xs s).2.MemWf := by
  induction xs generalizing s with
  | nil => exact h
  | cons x xs ih => exact ih h.scBump

theorem State.MemWf.execScinv {d a} (h : s.MemWf) : EndsWf (execScinv d a s) := by
  unfold Machine.execScinv
  extract_lets
  exact h.scUnit (fun _ ht => by
      extract_lets r
      have hr : r.2.MemWf := ht.scBumps
      exact hr.writeLanes)

theorem State.MemWf.scAge {part wave k frame} (h : s.MemWf) : (s.scAge part wave k frame).2.MemWf := by
  unfold State.scAge
  extract_lets _ s1
  have hs1 : s1.MemWf := h.objSeen
  split
  · exact hs1
  · extract_lets
    split
    · exact hs1.setScTag
    · exact hs1

theorem State.MemWf.execScage {d a b} (h : s.MemWf) : EndsWf (execScage d a b s) := by
  unfold Machine.execScage
  extract_lets
  exact h.scUnit (fun _ ht => ht.foldl (fun _ ht1 _ => by
      extract_lets r
      have hr : r.2.MemWf := ht1.scAge
      exact hr.setP))

theorem State.MemWf.scLast {part code} (h : s.MemWf) : (s.scLast part code).MemWf := h.setPreg

theorem State.MemWf.scWithdraw {x} (h : s.MemWf) : (s.scWithdraw x).2.MemWf := by
  unfold State.scWithdraw
  extract_lets s1
  have hs1 : s1.MemWf := h.ite h.setP
  exact hs1.scLast.report

theorem State.MemWf.scAgain {grant f pick xs} (h : s.MemWf) : (State.scAgain grant f pick xs s).2.MemWf := by
  induction xs generalizing s with
  | nil => exact h
  | cons x xs ih =>
    exact ih (State.MemWf.ite_snd h (State.MemWf.ite_snd h.scWithdraw h.scAsk))

theorem State.MemWf.scRetry {pick} (h : s.MemWf) : (s.scRetry pick).MemWf := by
  unfold State.scRetry
  split
  · extract_lets _ a r s1
    have ha : a.2.MemWf := h.scAgain
    have hr : r.2.MemWf := ha.scSettle
    have hs1 : s1.MemWf := hr
    split
    · exact h.objLost
    · split
      · exact hs1.unwatch.texelsOut.wakeIf
      · exact hs1.update.rewatch
  · exact h

theorem State.MemWf.execScRelookup {wave slot} (h : s.MemWf) : EndsWf (execScRelookup wave slot s) := by
  unfold Machine.execScRelookup
  split
  next t e =>
    have ht : t.MemWf := h.focusOn _ e
    exact .next ht.scRetry
  · exact .next h

theorem State.MemWf.execScLookupRetry {wave slot} (h : s.MemWf) : EndsWf (execScLookupRetry wave slot s) := by
  unfold Machine.execScLookupRetry
  split
  next t e =>
    have ht : t.MemWf := h.focusOn _ e
    exact .next ht.scRetry
  · exact .next h

theorem State.MemWf.scReset {part} (h : s.MemWf) : (s.scReset part).MemWf := by
  unfold State.scReset
  extract_lets _ _ s1
  have hs1 : s1.MemWf := h.foldl (fun _ hs2 _ => hs2.wakeLine)
  exact hs1.update

theorem State.MemWf.execScCtlWrite {part val} (h : s.MemWf) : EndsWf (execScCtlWrite part val s) := by
  unfold Machine.execScCtlWrite
  extract_lets t
  have ht : t.MemWf := h.setPreg.ite h
  exact .next (ht.scReset.ite ht)

/-! #### The functions of Machine/Fills.lean -/

theorem State.MemWf.abandonJob {part code j} (h : s.MemWf) : (s.abandonJob part code j).MemWf := by
  unfold State.abandonJob
  split
  · exact h
  · extract_lets _ s1 _ s2
    have hs1 : s1.MemWf := h.setScTag.wakeLine
    have hs2 : s2.MemWf := hs1.setPreg.scLast
    split
    · exact hs2.report
    · exact h

theorem State.MemWf.freeJobs {part code b} (h : s.MemWf) : (s.freeJobs part code b).MemWf := by
  unfold State.freeJobs
  extract_lets _ s1
  have hs1 : s1.MemWf := h.foldl (fun _ hs2 _ => hs2.abandonJob)
  exact hs1.update

theorem State.MemWf.leaveGroup {g} (h : s.MemWf) : (s.leaveGroup g).MemWf := by
  unfold State.leaveGroup
  extract_lets s1
  have hs1 : s1.MemWf := h.modGroup
  split
  · exact hs1.update
  · exact hs1

theorem State.MemWf.recordCmds {g done} (h : s.MemWf) : (s.recordCmds g done).MemWf := by
  unfold State.recordCmds
  extract_lets _ s1
  have hs1 : s1.MemWf := h.noteEnd
  exact hs1.update

theorem State.MemWf.endGroup {g or_ max_ nz faulted} (h : s.MemWf) : (s.endGroup g or_ max_ nz faulted).MemWf := by
  unfold State.endGroup
  extract_lets _ s1 s2
  have hs1 : s1.MemWf := by
    unfold s1
    split
    · exact h.orderV.countGroups (fun _ hs3 => hs3.recordCmds)
    · exact h
  have hs2 : s2.MemWf := by
    unfold s2
    split
    · exact hs1.freeJobs
    · exact hs1
  exact hs2.leaveGroup

theorem State.MemWf.execWorkgroupComplete {wg} (h : s.MemWf) : EndsWf (execWorkgroupComplete wg s) := by
  unfold Machine.execWorkgroupComplete
  extract_lets s1
  have hs1 : s1.MemWf := h.unfocus
  split
  · exact .next (hs1.endGroup.ite hs1)
  · exact .next hs1

theorem State.MemWf.postFill {w b va} (h : s.MemWf) : (s.postFill w b va).MemWf := by
  unfold State.postFill
  extract_lets _ s1
  have hs1 : s1.MemWf := h.sawLaunch
  split
  · exact hs1.update
  · exact hs1.failLaunch.freeJobs
  · exact hs1.confineUe.freeJobs
  · exact hs1.confineUe.freeJobs
  · exact hs1.freeJobs

theorem State.MemWf.jobsSeen {n} (h : s.MemWf) : (s.jobsSeen n).MemWf := by
  unfold State.jobsSeen
  extract_lets
  exact h.foldl (fun _ hs1 _ => hs1.markSeen)

theorem State.MemWf.execShadeBatchDispatch {slice} (h : s.MemWf) : EndsWf (execShadeBatchDispatch slice s) := by
  unfold Machine.execShadeBatchDispatch
  extract_lets
  split
  · exact .next h
  · extract_lets
    split
    · extract_lets _ _ s1
      have hs1 : s1.MemWf := h.update
      split
      · exact .next h
      · split
        next t e3 =>
          have ht : t.MemWf := hs1.ctxPutOn.of_pair e3
          exact .next ht.freeJobs
        next t e3 =>
          have ht : t.MemWf := hs1.ctxPutOn.of_pair e3
          extract_lets s2 u
          have hs2 : s2.MemWf := ht.jobsSeen
          have hu : u.MemWf := hs2.seen
          split
          · exact .next hu.confineUe.freeJobs
          · exact .next hu.postFill
          · exact .next hu.freeJobs
    · exact .next h

/-! #### The functions of Machine/Log.lean -/

theorem State.MemWf.putEntry {e} (h : s.MemWf) : (s.putEntry e).MemWf := by
  unfold State.putEntry
  extract_lets _ _ s1
  have hs1 : s1.MemWf := h.physWrite.ite h.noteLost
  exact hs1.update.setReg

theorem State.MemWf.dueCheckpoint (h : s.MemWf) : s.dueCheckpoint.MemWf := by
  unfold State.dueCheckpoint
  split
  · exact h.putEntry
  · exact h

theorem State.MemWf.settleLog (h : s.MemWf) : s.settleLog.MemWf := by
  unfold State.settleLog
  split
  · exact h.dueCheckpoint
  · exact h

theorem State.MemWf.appendEntry {event part vf ctx arg} (h : s.MemWf) : (s.appendEntry event part vf ctx arg).MemWf := by
  unfold State.appendEntry
  extract_lets s1
  have hs1 : s1.MemWf := h.dueCheckpoint
  exact hs1.putEntry

theorem State.MemWf.appendCheckpoint (h : s.MemWf) : s.appendCheckpoint.MemWf := h.putEntry

/-! #### The functions of Machine/Keys.lean -/

theorem State.MemWf.unwrapEnds (h : s.MemWf) : s.unwrapEnds.MemWf := h.setReg

theorem State.MemWf.beginMode {k code} (h : s.MemWf) : (s.beginMode k code).MemWf := by
  unfold State.beginMode
  extract_lets s1
  have hs1 : s1.MemWf := h.unwrapEnds.ite h
  exact hs1.update.setReg

theorem State.MemWf.dropKeyLines {k} (h : s.MemWf) : (s.dropKeyLines k).MemWf := h.dropPhys

theorem State.MemWf.zeroSteppe {k} (h : s.MemWf) : (s.zeroSteppe k).MemWf :=
  zeroSteppe_mem_wf _ h

theorem State.MemWf.modeDone {k code} (h : s.MemWf) : (s.modeDone k code).MemWf := by
  unfold State.modeDone
  extract_lets s1 _ _ s2 s3 s4
  have hs1 : s1.MemWf := h.dropKeyLines.zeroSteppe
  have hs2 : s2.MemWf := hs1.update
  have hs3 : s3.MemWf := hs2.setReg
  have hs4 : s4.MemWf := hs3.unwrapEnds.ite hs3
  exact hs4.releaseHeld.wakeIf

theorem State.MemWf.unwrap (h : s.MemWf) : s.unwrap.MemWf := by
  unfold State.unwrap
  extract_lets _ _ s1 s2
  have hs1 : s1.MemWf := h.foldl (fun _ hs3 _ => hs3.setReg)
  have hs2 : s2.MemWf := hs1.setReg
  split
  · exact h.setReg
  · extract_lets
    split
    · exact hs2.setReg
    · exact hs2.beginMode

/-! #### The functions of Machine/Tenancy.lean -/

theorem State.MemWf.answer {src meter bytes sealed_} (h : s.MemWf) : (s.answer src meter bytes sealed_).MemWf := by
  unfold State.answer
  extract_lets _ _ _ s1 s2
  have hs1 : s1.MemWf := h.update
  have hs2 : s2.MemWf := hs1.foldl (fun _ hs3 _ => hs3.hold.ite hs3.charge)
  split
  · exact hs2.update
  · split
    · exact hs1.update.hold
    · exact hs1.update

theorem State.MemWf.putRcbHalf {r j w} (h : s.MemWf) : (s.putRcbHalf r j w).MemWf := by
  unfold State.putRcbHalf
  extract_lets
  split
  · exact h
  · extract_lets _ s1
    have hs1 : s1.MemWf := by
      unfold s1
      split
      · exact h
      · exact h.appendEntry
      · exact h.appendEntry
    exact hs1.setReg

theorem State.MemWf.leavePart {i} (h : s.MemWf) : (s.leavePart i).MemWf :=
  leavePart_mem_wf _ h

theorem State.MemWf.enterPart {i} (h : s.MemWf) : (s.enterPart i).MemWf := h.update

theorem State.MemWf.setPtCfg {i new} (h : s.MemWf) : (s.setPtCfg i new).MemWf := by
  unfold State.setPtCfg
  extract_lets s1
  have hs1 : s1.MemWf := (h.leavePart.ite h).setPreg
  split
  · exact h
  · split
    · exact hs1.enterPart
    · exact hs1

theorem State.MemWf.applyLogged {a} (h : s.MemWf) : (s.applyLogged a).MemWf := by
  unfold State.applyLogged
  extract_lets
  split
  · extract_lets _ s1
    have hs1 : s1.MemWf := h.appendEntry
    split
    · exact hs1.setPtCfg
    · exact hs1.setPreg
  · extract_lets
    exact h.appendEntry.setPreg
  · extract_lets _ s1
    have hs1 : s1.MemWf := h.appendEntry
    split
    · exact hs1
    · exact hs1.beginMode
  · split
    · exact h
    · exact h.appendEntry.unwrap
  · extract_lets
    exact h.appendEntry.setPreg
  · extract_lets
    exact h.appendEntry.setReg
  · extract_lets s1
    have hs1 : s1.MemWf := h.appendEntry
    exact hs1.update
  · extract_lets s1
    have hs1 : s1.MemWf := h.appendEntry
    exact hs1.answer
  · exact h.appendEntry
  · exact h.appendCheckpoint
  · split
    · exact h.putRcbHalf.putRcbHalf
    · exact h

theorem State.MemWf.logWrite {w} (h : s.MemWf) : (s.logWrite w).MemWf := by
  unfold State.logWrite
  extract_lets s1
  have hs1 : s1.MemWf := h.settleLog
  split
  · exact h.applyLogged
  · exact hs1.update

theorem State.MemWf.execLogEntryWrite (h : s.MemWf) : EndsWf (execLogEntryWrite s) := by
  unfold Machine.execLogEntryWrite
  split
  · exact .next h
  · exact .next (h.update.applyLogged.ite h.settleLog)

theorem State.MemWf.barWrite {w} (h : s.MemWf) : (s.barWrite w).MemWf := by
  unfold State.barWrite
  split
  · exact h.logWrite
  · exact h

theorem State.MemWf.execPtCfgWrite {part val} (h : s.MemWf) : EndsWf (execPtCfgWrite part val s) := .next (h.barWrite.ite h)

theorem State.MemWf.execOwnershipWrite {part off val} (h : s.MemWf) : EndsWf (execOwnershipWrite part off val s) :=
  .next (h.barWrite.ite h)

theorem State.MemWf.execVfCtlWrite {part vf val} (h : s.MemWf) : EndsWf (execVfCtlWrite part vf val s) :=
  .next (h.barWrite.ite h)

theorem State.MemWf.writeRcb {r lo hi} (h : s.MemWf) : (s.writeRcb r lo hi).MemWf := by
  unfold State.writeRcb
  split
  · exact h
  · split
    · exact h.putRcbHalf.putRcbHalf
    · exact h.logWrite

theorem State.MemWf.execRcbAddressWrite {reg val} (h : s.MemWf) : EndsWf (execRcbAddressWrite reg val s) := .next h.writeRcb

theorem State.MemWf.execKeySlotOrdinary {slot} (h : s.MemWf) : EndsWf (execKeySlotOrdinary slot s) := .next h.barWrite

theorem State.MemWf.execKeySlotOff {slot} (h : s.MemWf) : EndsWf (execKeySlotOff slot s) := .next h.barWrite

theorem State.MemWf.execKeySlotPlain {slot} (h : s.MemWf) : EndsWf (execKeySlotPlain slot s) := .next h.barWrite

theorem State.MemWf.execKeySlotSealedWrite {slot} (h : s.MemWf) : EndsWf (execKeySlotSealedWrite slot s) := .next h.barWrite

theorem State.MemWf.execSealUnwrap (h : s.MemWf) : EndsWf (execSealUnwrap s) := .next (h.ite h.barWrite)

theorem State.MemWf.execSealGrantWrite {part vf ctx val} (h : s.MemWf) : EndsWf (execSealGrantWrite part vf ctx val s) :=
  .next h.barWrite

theorem State.MemWf.execMeterWrite {meter off val} (h : s.MemWf) : EndsWf (execMeterWrite meter off val s) :=
  .next (h.barWrite.ite h)

theorem State.MemWf.execMeterTokenTick (h : s.MemWf) : EndsWf (execMeterTokenTick s) := .next h.oneUs

theorem State.MemWf.execEgressReadAbort {id} (h : s.MemWf) : EndsWf (execEgressReadAbort id s) := by
  unfold Machine.execEgressReadAbort
  extract_lets _ s1
  have hs1 : s1.MemWf := h.update
  split
  · exact .next hs1.letPass.writeFwRec
  · exact .next h

theorem State.MemWf.execLogBaseCommit {val} (h : s.MemWf) : EndsWf (execLogBaseCommit val s) := by
  unfold Machine.execLogBaseCommit
  extract_lets t
  have ht : t.MemWf := h.setReg
  split
  · exact .next h
  · split
    · exact .next ht.applyLogged
    · exact .next h.noteLost

theorem State.MemWf.execLogCheckpoint (h : s.MemWf) : EndsWf (execLogCheckpoint s) := .next h.barWrite

theorem State.MemWf.readBack {port unit index off} (h : s.MemWf) : (s.readBack port unit index off).MemWf := by
  unfold State.readBack
  extract_lets
  split
  · exact h.answer
  · split
    · exact h.logWrite
    · exact h.update

theorem State.MemWf.execStateReadback {unit index off} (h : s.MemWf) : EndsWf (execStateReadback unit index off s) :=
  .next h.readBack

theorem State.MemWf.execDebugHaltControl {vf ctx enable} (h : s.MemWf) : EndsWf (execDebugHaltControl vf ctx enable s) :=
  .next h.logWrite

theorem State.MemWf.execRbacc {dr} (h : s.MemWf) : EndsWf (execRbacc dr s) := by
  unfold Machine.execRbacc
  extract_lets
  exact .next h.update.readBack

theorem State.MemWf.execCaptureDr (h : s.MemWf) : EndsWf (execCaptureDr s) := by
  unfold Machine.execCaptureDr
  extract_lets
  split
  · split
    · exact .next h.update
    · exact .next h.update
  · exact .next h.update

theorem State.MemWf.execExtest {cells} (h : s.MemWf) : EndsWf (execExtest cells s) := .next h.update

theorem State.MemWf.execSample {cells} (h : s.MemWf) : EndsWf (execSample cells s) := .next h.update

theorem State.MemWf.execPreload {cells} (h : s.MemWf) : EndsWf (execPreload cells s) := .next h.update

theorem State.MemWf.execBypass (h : s.MemWf) : EndsWf (execBypass s) := .next h.update

theorem State.MemWf.execBrkResume {wave slot} (h : s.MemWf) : EndsWf (execBrkResume wave slot s) := by
  unfold Machine.execBrkResume
  extract_lets
  exact .next h.update.wakeIf

theorem State.MemWf.execMgmtKill {wave slot} (h : s.MemWf) : EndsWf (execMgmtKill wave slot s) := by
  unfold Machine.execMgmtKill
  extract_lets
  split
  · exact .next h
  · split
    · exact .next h
    next t e1 =>
      have ht : t.MemWf := h.focusOn _ e1
      extract_lets _ t1
      have ht1 : t1.MemWf := ht.update
      exact .next ht1.endLanes

theorem State.MemWf.priEnds {id code} (h : s.MemWf) : (s.priEnds id code).MemWf := by
  unfold State.priEnds
  split
  · exact h
  · extract_lets s1
    have hs1 : s1.MemWf := by
      unfold s1
      split
      · exact h.update
      · exact h.update
    exact hs1.wakeIf

theorem State.MemWf.execPriResponse {id r} (h : s.MemWf) : EndsWf (execPriResponse id r s) := by
  unfold Machine.execPriResponse
  split
  · exact .next h.priEnds
  · exact .next h.priEnds
  · exact .next h.priEnds

theorem State.MemWf.execPriTimeout {id} (h : s.MemWf) : EndsWf (execPriTimeout id s) := .next (h.priEnds.ite h)

/-! #### The functions of Machine/Landing.lean -/

theorem State.MemWf.incomingStore {pa bs} (h : s.MemWf) : (s.incomingStore pa bs).MemWf := by
  unfold State.incomingStore
  split
  · exact h
  · extract_lets s1 s2
    have hs1 : s1.MemWf := h.ite h.meetUE
    have hs2 : s2.MemWf := hs1.askFor
    exact hs2.putLine.setHome

theorem State.MemWf.incomingLoad {pa n} (h : s.MemWf) : (s.incomingLoad pa n).2.MemWf := by
  unfold State.incomingLoad
  split
  · exact h
  · extract_lets s1
    have hs1 : s1.MemWf := h.meetUE.l2Touch
    exact hs1.observe.homeLoad

theorem State.MemWf.abortRead {src} (h : s.MemWf) : (s.abortRead src).MemWf := h.update

theorem State.MemWf.incomingLines {pa bs} (h : s.MemWf) : (s.incomingLines pa bs).MemWf :=
  h.foldl (fun _ hs1 _ => hs1.incomingStore)

theorem State.MemWf.memWrite {src addr pa bs} (h : s.MemWf) : (s.memWrite src addr pa bs).MemWf := by
  unfold State.memWrite
  split
  · exact h
  · split
    · exact h.update
    · exact h.incomingLines

theorem State.MemWf.memRead {src addr pa n} (h : s.MemWf) : (s.memRead src addr pa n).MemWf := by
  unfold State.memRead
  extract_lets r
  have hr : r.2.MemWf := h.foldl_snd (fun _ ha _ => by
      extract_lets b
      have hb : b.2.MemWf := ha.incomingLoad
      exact hb)
  split
  · exact h.abortRead
  · split
    · exact h.update
    · exact hr.answer

theorem State.MemWf.admitHeld (h : s.MemWf) : s.admitHeld.MemWf := by
  unfold State.admitHeld
  exact h.update.foldl (fun _ hs1 _ => by
      split
      · exact hs1.memWrite
      · exact hs1.memRead
      · exact hs1
      · exact hs1.abortRead)

/-! #### The functions of Machine/Xlate.lean -/

theorem State.MemWf.install {i f c va acc x} (h : s.MemWf) : (s.install i f c va acc x).MemWf := by
  unfold State.install
  extract_lets
  exact h.update

theorem State.MemWf.walkFails {i f c e} (h : s.MemWf) : (s.walkFails i f c e).MemWf := by
  unfold State.walkFails
  extract_lets s1
  have hs1 : s1.MemWf := by
    unfold s1
    split
    · exact h.captureS2
    · exact h
  split
  · exact hs1.noteLost.confine
  · exact hs1

theorem State.MemWf.execPageWalk {vf ctx va acc} (h : s.MemWf) : EndsWf (Machine.execPageWalk vf ctx va acc s) := by
  obtain ⟨walk, hwalk⟩ : ∃ f, s.walk = f := ⟨_, rfl⟩
  conv in Machine.execPageWalk => delta Machine.execPageWalk
  rw [hwalk]
  split
  · exact .next h
  · split
    · exact .next h.walkFails
    · exact .ite (.next h) (.next h.mark.install)

theorem State.MemWf.execTlbInvalidate {vf ctx val} (h : s.MemWf) : EndsWf (execTlbInvalidate vf ctx val s) := by
  unfold Machine.execTlbInvalidate
  extract_lets _ s1
  have hs1 : s1.MemWf := h.setBell
  split
  · exact .next h
  · exact .next hs1.update

theorem State.MemWf.execInvalidationComplete {vf ctx} (h : s.MemWf) : EndsWf (execInvalidationComplete vf ctx s) := by
  unfold Machine.execInvalidationComplete
  extract_lets
  split
  · exact .next h
  · exact .next h.update.setBell

theorem State.MemWf.execMscRequest {sl t wr} (h : s.MemWf) : EndsWf (execMscRequest sl t wr s) := by
  unfold Machine.execMscRequest
  split
  · exact .next h
  · exact .next h.mscAsk

theorem State.MemWf.execMscFillComplete {sl index} (h : s.MemWf) : EndsWf (execMscFillComplete sl index s) :=
    .next h.mscFilled

theorem State.MemWf.execPtsTick (h : s.MemWf) : EndsWf (execPtsTick s) := .next h.pass

theorem State.MemWf.execL1CopyExpiry {core line} (h : s.MemWf) : EndsWf (execL1CopyExpiry core line s) := .next h.update

/-! #### The functions of Machine/Migrate.lean -/

theorem State.MemWf.setLock {p v} (h : s.MemWf) : (s.setLock p v).MemWf := by
  unfold State.setLock
  split
  · exact h.update
  · exact h

theorem State.MemWf.unlockAll {id} (h : s.MemWf) : (s.unlockAll id).MemWf := h.update

theorem State.MemWf.freeHeld (h : s.MemWf) : s.freeHeld.MemWf := h.releaseHeld.admitHeld.wakeIf

theorem State.MemWf.freshLine {pa} (h : s.MemWf) : (s.freshLine pa).MemWf := by
  unfold State.freshLine
  split
  · exact h
  · exact h.update

theorem State.MemWf.spoilLine {c i} (h : s.MemWf) : (s.spoilLine c i).MemWf := by
  obtain ⟨frameAt, hframe⟩ : ∃ f, s.frameAt = f := ⟨_, rfl⟩
  conv in State.spoilLine => delta State.spoilLine
  rw [hframe]
  split
  · exact h
  · split
    · exact h
    · exact h.putPlace.freshLine

theorem State.MemWf.undoMigration {c} (h : s.MemWf) : (s.undoMigration c).MemWf := by
  unfold State.undoMigration
  extract_lets t
  have ht : t.MemWf := h.foldl (fun _ ht1 _ => ht1.spoilLine)
  exact ht.update.unlockAll.freeHeld

theorem State.MemWf.abortMigration {c code addr} (h : s.MemWf) : (s.abortMigration c code addr).MemWf :=
  h.undoMigration.engineNote.putCmd

theorem State.MemWf.engLatest {c g pa n} (h : s.MemWf) : (s.engLatest c g pa n).2.MemWf := by
  unfold State.engLatest
  split
  · exact h.observeAll.engReadPa
  · exact h.engReadPa

theorem State.MemWf.beginMigration {c} (h : s.MemWf) : (s.beginMigration c).MemWf := by
  unfold State.beginMigration
  extract_lets
  split
  · exact h.oweFail.abortMigration
  · exact h.oweFail.abortMigration
  · exact h.abortMigration
  · extract_lets
    split
    · exact h.abortMigration
    · exact h.putCmd

theorem State.MemWf.migrateLine {c} (h : s.MemWf) : (s.migrateLine c).MemWf := by
  unfold State.migrateLine
  extract_lets
  split
  · exact h.engineFail
  · exact h.engineFail
  · exact h.engineFail
  · extract_lets _ t step
    have ht : t.MemWf := State.MemWf.setLock h.mark.setLock
    have hstep : ∀ t : State, t.MemWf → ∀ j, (step t j).MemWf := fun _ hu _ => State.MemWf.engWritePa hu.engLatest
    split
    · exact h
    · exact (ht.foldl hstep).freshLine.putCmd

theorem State.MemWf.migrateLeaf {c} (h : s.MemWf) : (s.migrateLeaf c).MemWf := by
  unfold State.migrateLeaf
  extract_lets
  split
  · exact h.oweFail.abortMigration
  · exact h.abortMigration
  · extract_lets
    split
    · exact h.abortMigration
    · exact (h.foldl (fun _ ht _ => by
        extract_lets t1
        have ht1 : t1.MemWf := ht.physWrite
        exact ht1.setHome)).putCmd

theorem State.MemWf.dropTlb {vf ctx base size} (h : s.MemWf) : (s.dropTlb vf ctx base size).MemWf := h.update

theorem State.MemWf.settleLine {c i} (h : s.MemWf) : (s.settleLine c i).MemWf := by
  unfold State.settleLine
  extract_lets _ t
  have ht : t.MemWf := by
    unfold t
    split
    · exact h.setHome
    · exact h
  exact ht.setLock.setLock

theorem State.MemWf.execPageMigration {cmd} (h : s.MemWf) : EndsWf (execPageMigration cmd s) := by
  unfold Machine.execPageMigration
  split
  · exact .next h
  · split
    · exact .next h
    · split
      · exact .next (h.ite h.beginMigration)
      · split
        · exact .next h.abortMigration
        · split
          · exact .next h.migrateLine
          · split
            · exact .next (h.ite h.migrateLeaf)
            · split
              · split
                · exact .next h
                · exact .next h.dropTlb.putCmd
              · exact .next (((h.foldl (fun _ ht _ => ht.settleLine)).freeHeld).putCmd)

theorem State.MemWf.loseLock {cmd line} (h : s.MemWf) : (s.loseLock cmd line).MemWf := by
  unfold State.loseLock
  split
  · exact h
  · split
    · exact h
    · split
      · exact h.putCmd
      · split
        · exact h.settleLine.freeHeld
        · exact h

theorem State.MemWf.stopMigration {c} (h : s.MemWf) : (s.stopMigration c).MemWf := by
  unfold State.stopMigration
  split
  · exact h.undoMigration
  · exact h

/-! #### The functions of Machine/Matrix.lean -/

theorem State.MemWf.postMatrix {c} (h : s.MemWf) : (s.postMatrix c).MemWf := by
  unfold State.postMatrix
  extract_lets _ t
  have ht : t.MemWf := h.post
  exact ht.update

theorem State.MemWf.mmaUnit {kind n a b} (h : s.MemWf) : EndsWf (s.mmaUnit kind n a b) := by
  unfold State.mmaUnit
  extract_lets
  exact h.postUnit (fun _ _ ht => ht.postMatrix)

theorem State.MemWf.execMma {n a b} (h : s.MemWf) : EndsWf (execMma n a b s) := h.mmaUnit

theorem State.MemWf.execMmaB {n a b} (h : s.MemWf) : EndsWf (execMmaB n a b s) := h.mmaUnit

theorem State.MemWf.execMmat {a} (h : s.MemWf) : EndsWf (execMmat a s) := by
  unfold Machine.execMmat
  extract_lets
  exact h.postUnit (fun _ _ ht => ht.postMatrix)

theorem State.MemWf.execAccSwap {n} (h : s.MemWf) : EndsWf (execAccSwap n s) := by
  unfold Machine.execAccSwap
  extract_lets
  exact h.issueLive (fun _ ht => by
      extract_lets
      split
      · exact ht.update.block
      · exact ht.update)

theorem State.MemWf.execAccZero {n} (h : s.MemWf) : EndsWf (execAccZero n s) := by
  unfold Machine.execAccZero
  extract_lets t
  have ht : t.MemWf := h.retire
  split
  · exact .next h.takeTrap
  · split
    · exact .next ht
    · split
      · exact .next h.blockAgain
      · exact .next ht.postMatrix

theorem State.MemWf.execAccZeroV {n} (h : s.MemWf) : EndsWf (execAccZeroV n s) := h.issueLive (fun _ ht => ht.update)

theorem State.MemWf.execAccRd {d a r n} (h : s.MemWf) : EndsWf (execAccRd d a r n s) := by
  unfold Machine.execAccRd
  extract_lets
  exact h.issueLive (fun _ ht => ht.foldl (fun _ ht1 _ => ht1.foldl (fun _ ht2 _ => ht2.setV)))

theorem State.MemWf.execAccWr {d a r n} (h : s.MemWf) : EndsWf (execAccWr d a r n s) := by
  unfold Machine.execAccWr
  extract_lets
  exact h.issueLive (fun _ ht => by
      extract_lets
      exact ht.update)

theorem State.MemWf.putImage {e d m pay hdr} (h : s.MemWf) : (s.putImage e d m pay hdr).MemWf := by
  unfold State.putImage
  extract_lets
  exact h.foldl (fun _ ht _ => by
      extract_lets t1
      have ht1 : t1.MemWf := ht.foldl (fun _ ht2 _ => by
          extract_lets
          exact ht2.setV)
      exact ht1.setV)

theorem State.MemWf.tileLoad {d w b x tr} (h : s.MemWf) : EndsWf (s.tileLoad d w b x tr) := by
  unfold State.tileLoad
  extract_lets
  exact h.issueItems (fun _ _ ht => by
      extract_lets r
      have hr : r.2.MemWf := ht.readRunTogether
      split
      · exact ht
      · exact hr.putImage)

theorem State.MemWf.execTld {d w b x} (h : s.MemWf) : EndsWf (execTld d w b x s) := h.tileLoad

theorem State.MemWf.execTldT {d w b x} (h : s.MemWf) : EndsWf (execTldT d w b x s) := h.tileLoad

theorem State.MemWf.execTst {d w b x} (h : s.MemWf) : EndsWf (execTst d w b x s) := by
  unfold Machine.execTst
  extract_lets
  exact h.issueItems (fun _ _ ht => ht.writeTogether)

theorem State.MemWf.execTscale {d a f} (h : s.MemWf) : EndsWf (execTscale d a f s) := by
  unfold Machine.execTscale
  extract_lets
  exact h.issueLive (fun _ ht => by
      extract_lets t1 t2 t3
      have ht1 : t1.MemWf := ht.putImage
      have ht2 : t2.MemWf := (ht1.foldl (fun _ ht4 _ => ht4.foldl (fun _ ht5 _ => ht5.setV))).ite ht1
      have ht3 : t3.MemWf := ht2.setGens.ite ht2
      exact ht3.logLanes)

theorem State.MemWf.execFmtv {d a} (h : s.MemWf) : EndsWf (execFmtv d a s) := by
  unfold Machine.execFmtv
  extract_lets
  exact h.issueLive (fun _ ht => by
      extract_lets t1
      have ht1 : t1.MemWf := ht.writeLanes
      exact ht1.foldl (fun _ ht2 _ => ht2.setP))

/-! #### The functions of Machine/MatrixEngine.lean -/

theorem State.MemWf.spotRead {c g sp d n} (h : s.MemWf) : (s.spotRead c g sp d n).2.MemWf := by
  unfold State.spotRead
  split
  · split
    · exact h.observe
    · exact h
  · exact h.observe
  · exact h

theorem State.MemWf.readRows {c g o fl k ds} {r : Slab × State} (h : r.2.MemWf) : (readRows c g o fl k ds r).2.MemWf := by
  induction ds generalizing r with
  | nil => exact h
  | cons d ds ih => exact ih h.spotRead

theorem State.MemWf.readTiles {c g o fl is} {r : Slab × State} (h : r.2.MemWf) : (readTiles c g o fl is r).2.MemWf := by
  induction is generalizing r with
  | nil => exact h
  | cons i is ih => exact ih h.spotRead.spotRead

theorem State.MemWf.readSlab {c g o fl x} (h : s.MemWf) : (s.readSlab c g o fl x).2.MemWf := by
  unfold State.readSlab
  extract_lets r
  have hr : r.2.MemWf := h.readRows
  split
  · exact h.readTiles
  · split
    · exact h.readRows
    · exact hr

theorem State.MemWf.applyChunk {c f tile fl bd za o x} (h : s.MemWf) : (s.applyChunk c f tile fl bd za o x).MemWf := by
  unfold State.applyChunk
  extract_lets _ a b s1 _ _ _ _ _ _ _ s2
  have ha : a.2.MemWf := h.readSlab
  have hb : b.2.MemWf := ha.readSlab
  have hs1 : s1.MemWf := hb
  have hs2 : s2.MemWf := hs1.modGroup.putCmd
  split
  · exact hs2.engineNote
  · exact hs2

theorem State.MemWf.runSwaps {id} (h : s.MemWf) : (s.runSwaps id).MemWf := by
  unfold State.runSwaps
  exact h.foldl (fun _ hs1 _ => by
      split
      · exact hs1
      · split
        · exact hs1
        · exact hs1.modGroup.wakeIf)

theorem State.MemWf.endEntry {c} (h : s.MemWf) : (s.endEntry c).MemWf := by
  unfold State.endEntry
  extract_lets _ s1 s2 s3 s4
  have hs1 : s1.MemWf := h.logCmd
  have hs2 : s2.MemWf := hs1.update
  have hs3 : s3.MemWf := hs2.putCmd
  have hs4 : s4.MemWf := hs3.retireCmd.ite hs3
  exact hs4.runSwaps.wakeIf

theorem State.MemWf.beginEntry {c} (h : s.MemWf) : (s.beginEntry c).MemWf := by
  unfold State.beginEntry
  extract_lets _ _ s1
  have hs1 : s1.MemWf := h.modGroup.ite h
  split
  · exact h.modGroup.endEntry
  · exact h.putCmd
  · exact hs1.putCmd

theorem State.MemWf.execMatrixEntryStart {core} (h : s.MemWf) : EndsWf (execMatrixEntryStart core s) := by
  unfold Machine.execMatrixEntryStart
  split
  · exact .next h
  · extract_lets _ _ _ s1
    have hs1 : s1.MemWf := h.observe
    split
    · exact .next h
    · split
      · split
        · exact .next hs1.putCmd
        · split
          · exact .next hs1.fence.beginEntry
          · exact .next hs1.endEntry
      · exact .next h.beginEntry

theorem State.MemWf.mismatched {c n} (h : s.MemWf) : (s.mismatched c n).MemWf := by
  unfold State.mismatched
  extract_lets _ s1
  have hs1 : s1.MemWf := h.alog
  split
  · exact hs1.putCmd
  · exact hs1.setReg.engineConfine

theorem State.MemWf.stageBytes {c g fuel va off n} (h : s.MemWf) : (stageBytes c g fuel va off n s).2.MemWf := by
  induction fuel generalizing s va off n with
  | zero => exact h
  | succ fuel ih =>
    unfold Sys2Proof.Machine.stageBytes
    split
    · exact h
    · dsimp only
      split
      · exact h
      next r t e =>
        have ht : t.MemWf := h.engRead _ e
        split
        · exact h
        next t' e' => exact ih (ht.engWrite t' e')

theorem State.MemWf.stageAll {c g n vas off} (h : s.MemWf) : (stageAll c g n vas off s).2.MemWf := by
  induction vas generalizing s off with
  | nil => exact h
  | cons va vas ih =>
    unfold Sys2Proof.Machine.stageAll
    split
    next e => exact h.stageBytes.of_pair e
    next e => exact ih (h.stageBytes.of_pair e)

theorem State.MemWf.stagePanels {c d mb nb ks} (h : s.MemWf) : (s.stagePanels c d mb nb ks).2.MemWf := by
  unfold State.stagePanels
  extract_lets
  exact h.foldl_snd (fun _ hr _ => by
      split
      · exact hr
      · exact hr.stageAll)

theorem State.MemWf.mmatChunk {c x} (h : s.MemWf) : (s.mmatChunk c x).MemWf := by
  unfold State.mmatChunk
  extract_lets _ t
  have ht : t.MemWf := h.applyChunk
  split
  · exact ht
  · exact ht.putCmd

theorem State.MemWf.execMatrixChunkComplete {core mismatch} (h : s.MemWf) :
    EndsWf (execMatrixChunkComplete core mismatch s) := by
  unfold Machine.execMatrixChunkComplete
  split
  · exact .next h
  · extract_lets _ t
    have ht : t.MemWf := h.applyChunk
    split
    · exact .next h
    · split
      · split
        · exact .next h
        · split
          · exact .next h
          · exact .next (h.mismatched.ite h.mmatChunk)
      · split
        · exact .next h.mismatched
        · split
          · exact .next ht
          · extract_lets
            exact .next (ht.putCmd.ite ht.putCmd.endEntry)

theorem State.MemWf.drainBytes {c g bad fuel va bs} (h : s.MemWf) : (drainBytes c g bad fuel va bs s).2.MemWf := by
  induction fuel generalizing s va bs with
  | zero => exact h
  | succ fuel ih =>
    unfold Sys2Proof.Machine.drainBytes
    split
    · exact h
    · dsimp only
      split
      · exact h
      next t e => exact ih (h.engWrite t e)

theorem State.MemWf.drainAll {c g bad cstr rs va} (h : s.MemWf) : (drainAll c g bad cstr rs va s).2.MemWf := by
  induction rs generalizing s va with
  | nil => exact h
  | cons r rs ih =>
    unfold Sys2Proof.Machine.drainAll
    split
    next e => exact h.drainBytes.of_pair e
    next e => exact ih (h.drainBytes.of_pair e)

theorem State.MemWf.drain {c d mb nb} (h : s.MemWf) : (s.drain c d mb nb).2.MemWf := by
  unfold State.drain
  extract_lets
  split
  next e1 => exact h.drainAll.of_pair e1
  next t e =>
    have ht : t.MemWf := h.drainAll.of_pair e
    exact ht.putCmd

theorem State.MemWf.orFail {c} {r : Option (Nat × EngFail) × State} {go : State → State} (h : s.MemWf) (hr : r.2.MemWf)
    (hgo : ∀ t, t.MemWf → (go t).MemWf) : (s.orFail c r go).MemWf := by
  unfold State.orFail
  split
  · exact h.engineFail
  · exact h.engineFail
  · exact State.MemWf.engineFail hr
  · exact hgo _ hr

theorem State.MemWf.stageStep {c d mb nb ks} (h : s.MemWf) : (s.stageStep c d mb nb ks).MemWf := by
  unfold State.stageStep
  extract_lets _ t
  have ht : t.MemWf := h.modGroup.ite h
  split
  · exact h
  · exact h.orFail ht.stagePanels (fun _ ht1 => ht1.markSeen.putCmd)

theorem State.MemWf.endStep {c d mb nb ks} (h : s.MemWf) : (s.endStep c d mb nb ks).MemWf := by
  unfold State.endStep
  exact h.orFail (by
    split
    · exact h.drain
    · exact h) (fun _ ht => by
      split
      · exact ht
      · extract_lets
        split
        · exact ht.putCmd
        · exact ht.putCmd.endEntry)

theorem State.MemWf.execMmatKstep {core} (h : s.MemWf) : EndsWf (execMmatKstep core s) := by
  unfold Machine.execMmatKstep
  split
  · exact .next h
  · extract_lets
    split
    · exact .next h
    · split
      · exact .next h.stageStep
      · exact .next (h.endStep.ite h)

/-! #### The functions of Machine/Parking.lean -/

theorem State.MemWf.execDeepPark {wave} (h : s.MemWf) : EndsWf (execDeepPark wave s) := by
  unfold Machine.execDeepPark
  split
  · extract_lets
    split
    · exact .next h
    · split
      · exact .next (h.ite h.useCtx)
      · split
        · exact .next h.useCtx.modWave
        · exact .next h
  · exact .next h

theorem State.MemWf.ctxPoison {who va} (h : s.MemWf) : (s.ctxPoison who va).MemWf := by
  unfold State.ctxPoison
  split
  · exact h.update
  · exact h

theorem State.MemWf.saveWave {g w keep} (h : s.MemWf) : (s.saveWave g w keep).2.MemWf := by
  unfold State.saveWave
  extract_lets _ _ s1 _ _ image s2
  have hs1 : s1.MemWf := h.useCtx
  have himage : image.2.MemWf := hs1.ctxPut
  have hs2 : s2.MemWf := himage
  split
  next t e =>
    have ht : t.MemWf := hs2.update.ctxPut.of_pair e
    dsimp only
    exact ht
  next t e =>
    have ht : t.MemWf := hs2.update.ctxPut.of_pair e
    dsimp only
    exact ht.foldl fun _ hu _ => hu.ctxPoison.ite hu

theorem State.MemWf.slotLost {g e addr} (h : s.MemWf) : (s.slotLost g e addr).MemWf := by
  unfold State.slotLost
  split
  · exact h
  · exact h.confineCtx

theorem State.MemWf.seenSlot {g w} (h : s.MemWf) : (s.seenSlot g w).MemWf := by
  unfold State.seenSlot
  extract_lets
  exact h.seen

theorem State.MemWf.evict {b} (h : s.MemWf) : (s.evict b).MemWf := by
  unfold State.evict
  extract_lets s1
  have hs1 : s1.MemWf := h.unfocus
  split
  next t e =>
    have ht : t.MemWf := hs1.saveWave.of_pair e
    exact ht.slotLost
  next t e =>
    have ht : t.MemWf := hs1.saveWave.of_pair e
    exact ht.update

theorem State.MemWf.execWaveEviction {wave} (h : s.MemWf) : EndsWf (execWaveEviction wave s) := by
  unfold Machine.execWaveEviction
  split
  · exact .next h
  · extract_lets
    split
    · exact .next h.evict
    · exact .next h

theorem State.MemWf.reslot {b} (h : s.MemWf) : (s.reslot b).2.MemWf := by
  unfold State.reslot
  extract_lets
  exact h.update

theorem State.MemWf.comeBack {b priv pois} (h : s.MemWf) : (s.comeBack b priv pois).MemWf := by
  unfold State.comeBack
  extract_lets r _ s1
  have hr : r.2.MemWf := h.reslot
  have hs1 : s1.MemWf := hr.enterPort
  exact hs1.update

theorem State.MemWf.execWaveRestore {wave} (h : s.MemWf) : EndsWf (Machine.execWaveRestore wave s) := by
  unfold Machine.execWaveRestore
  extract_lets s1
  have hs1 : s1.MemWf := h.unfocus
  split
  · exact .next hs1
  · extract_lets g r s2
    have hs2 : s2.MemWf := hs1.seenSlot
    clear_value r
    split
    · split
      · exact .next hs2.confineCtx
      · exact .next hs2.confineUe
      · exact .next hs2.comeBack
    · exact .next hs1

/-! #### The functions of Machine/Waits.lean -/

theorem State.MemWf.focusWave {id} (h : s.MemWf) : OnSome State.MemWf (s.focusWave id) := by
  unfold State.focusWave
  split
  · exact .some h
  · split
    · split
      · exact h.focusOn
      · exact .none
    · exact .none

theorem State.MemWf.execRejoinTimeout {wave tokenId} (h : s.MemWf) : EndsWf (execRejoinTimeout wave tokenId s) := by
  unfold Machine.execRejoinTimeout
  split
  · exact .next h
  next t e =>
    have ht : t.MemWf := h.focusWave _ e
    split
    · exact .next (ht.mergeToken.ite ht)
    · exact .next ht

theorem State.MemWf.retestAny (h : s.MemWf) : s.retestAny.MemWf := by
  unfold State.retestAny
  split
  · exact h.scRetry
  · exact h.retest

theorem State.MemWf.retestDue (h : s.MemWf) : s.retestDue.MemWf := by
  unfold State.retestDue
  split
  · split
    · exact h
    · exact h.scRetry
  · exact h.retestLeft

theorem State.MemWf.execWaitRetest {wave slot} (h : s.MemWf) : EndsWf (execWaitRetest wave slot s) := by
  unfold Machine.execWaitRetest
  split
  · exact .next h
  · split
    · exact .next h
    next t e =>
      have ht : t.MemWf := h.focusOn _ e
      extract_lets
      split
      · exact .next (ht.ite ht.update)
      · split
        · exact .next ht
        · exact .next ht.retestAny

theorem State.MemWf.execWaitPeriodicRetest {wave slot} (h : s.MemWf) : EndsWf (execWaitPeriodicRetest wave slot s) := by
  unfold Machine.execWaitPeriodicRetest
  split
  · exact .next h
  next t e =>
    have ht : t.MemWf := h.focusOn _ e
    extract_lets
    split
    · exact .next ht
    · split
      · exact .next ht.update.retestDue
      · exact .next ht

theorem State.MemWf.execSleepExpiry {wave slot} (h : s.MemWf) : EndsWf (execSleepExpiry wave slot s) := .next h.wakeIf

theorem State.MemWf.execFragmentRankAging {wave slot} (h : s.MemWf) : EndsWf (execFragmentRankAging wave slot s) :=
  .next h.modFrags

theorem State.MemWf.execPendingReadyReplace {core port} (h : s.MemWf) : EndsWf (execPendingReadyReplace core port s) := by
  unfold Machine.execPendingReadyReplace
  extract_lets s1
  have hs1 : s1.MemWf := h.refill
  split
  · exact .next hs1.setStatus.setStatus
  · exact .next hs1

theorem State.MemWf.execLoadDataReturn {load data} (h : s.MemWf) : EndsWf (execLoadDataReturn load data s) := by
  unfold Machine.execLoadDataReturn
  split
  · exact .next h
  · split
    · exact .next h.update
    next t e1 =>
      have ht : t.MemWf := h.focusWave _ e1
      extract_lets t1 _ t2
      have ht1 : t1.MemWf := ht.update
      have ht2 : t2.MemWf := ht1.writeLanes
      split
      · exact .next h
      · exact .next ht2.wakeIf

theorem State.MemWf.execL2MissReport {load} (h : s.MemWf) : EndsWf (execL2MissReport load s) := by
  unfold Machine.execL2MissReport
  extract_lets s1
  have hs1 : s1.MemWf := h.update
  split
  · exact .next h
  · extract_lets s2
    have hs2 : s2.MemWf := hs1.modFrags
    split
    · exact .next hs2.refill
    · exact .next hs2

/-! #### The functions of Machine/Preempt.lean -/

theorem State.MemWf.expireDue {wave} (h : s.MemWf) : (s.expireDue wave).MemWf := by
  unfold State.expireDue
  split
  · exact h
  next t e =>
    have ht : t.MemWf := h.focusWave _ e
    exact ht.foldl (fun _ ht1 _ => by
        split
        · split
          · exact ht1.mergeToken
          · exact ht1
        · exact ht1)

theorem State.MemWf.freeze {ids} (h : s.MemWf) : (s.freeze ids).MemWf := by
  unfold State.freeze
  extract_lets s1 _ s2
  have hs1 : s1.MemWf := h.unfocus
  have hs2 : s2.MemWf := (hs1.foldl (fun _ hs3 _ => hs3.expireDue)).unfocus
  exact hs2.update

theorem State.MemWf.execTimeSliceEnd {vf ctx} (h : s.MemWf) : EndsWf (execTimeSliceEnd vf ctx s) := by
  unfold Machine.execTimeSliceEnd
  extract_lets
  split
  · exact .next h
  · extract_lets
    split
    · exact .next (h.ite h.confineUe)
    · exact .next (h.ite h.freeze)

theorem State.MemWf.withdraw {ids} (h : s.MemWf) : (s.withdraw ids).MemWf := by
  unfold State.withdraw
  extract_lets
  exact h.update

theorem State.MemWf.fbSeen {g f} (h : s.MemWf) : (s.fbSeen g f).MemWf := by
  unfold State.fbSeen
  cases g.entryOf f with
  | none => exact h
  | some k => exact h.seen

theorem State.MemWf.badEntry {g fs} (h : s.MemWf) : (s.badEntry g fs).MemWf := by
  unfold State.badEntry
  extract_lets
  split
  · exact h.confineUe
  · exact h.confine

theorem State.MemWf.rewoundRegs {g b} (h : s.MemWf) : (s.rewoundRegs g b).2.MemWf := by
  unfold State.rewoundRegs
  extract_lets
  exact h.update

theorem State.MemWf.saveGroup {g} (h : s.MemWf) : (s.saveGroup g).MemWf := by
  unfold State.saveGroup
  extract_lets _ here fs melt
  have hmelt : ∀ t : State, t.MemWf → (melt t).MemWf := fun _ ht => ht.modGroup
  split
  · exact (hmelt _ h).badEntry
  · generalize hr : here.foldl _ _ = r
    have hr : r.2.MemWf := by
      rw [← hr]
      refine State.MemWf.foldl_snd (h.foldl fun _ ht _ => ht.fbSeen) fun a ha b => ?_
      dsimp only
      exact ha.saveWave
    split
    · exact (hmelt _ hr).slotLost
    next t _ =>
      extract_lets r
      have hr : r.2.MemWf := State.MemWf.foldl_snd (r := ([], t)) hr fun a ha b => by
        dsimp only
        split
        · exact ha
        · exact ha.rewoundRegs (g := g) (b := b)
      exact hr.update

theorem State.MemWf.unqueue {f c cores grant} (h : s.MemWf) : (s.unqueue f c cores grant).MemWf := by
  unfold State.unqueue
  extract_lets _ s1
  have hs1 : s1.MemWf := h.update
  exact hs1.foldl (fun _ hs2 _ => by
      extract_lets _ _ _ s3 s4 s5
      have hs3 : s3.MemWf := hs2.rcbPut
      have hs4 : s4.MemWf := hs3.rcbPut
      have hs5 : s5.MemWf := hs4.rcbPut.ite hs4
      exact hs5.update)

theorem State.MemWf.execPreemptionSave {vf ctx} (h : s.MemWf) : EndsWf (execPreemptionSave vf ctx s) := by
  unfold Machine.execPreemptionSave
  extract_lets s1 _ s2 _ s3 _ s4
  have hs1 : s1.MemWf := h.unfocus
  have hs2 : s2.MemWf := hs1.withdraw
  have hs3 : s3.MemWf := hs2.foldl (fun _ hs5 _ => hs5.saveGroup)
  have hs4 : s4.MemWf := hs3.unqueue
  split
  · exact .next hs2
  · exact .next hs4.update

theorem State.MemWf.resumeWave {g b priv pois} (h : s.MemWf) : (s.resumeWave g b priv pois).MemWf := by
  unfold State.resumeWave
  extract_lets r s1
  have hr : r.2.MemWf := h.reslot
  have hs1 : s1.MemWf := hr.enterPort
  exact hs1.update

theorem State.MemWf.resumeBox {g b} (h : s.MemWf) : (State.resumeBox g s b).MemWf := by
  unfold State.resumeBox
  split
  · exact h.update
  · split
    · exact (h.seenSlot.foldl (fun _ hs1 _ => hs1.fbSeen)).resumeWave
    · exact h

theorem State.MemWf.slotFails {g bs} (h : s.MemWf) : OnSome State.MemWf (s.slotFails g bs) := by
  unfold State.slotFails
  exact .findSome? (fun _ => by
      split
      · exact .none
      · exact .some h.confineCtx
      · exact .some h.confineUe)

theorem State.MemWf.repost {wg} (h : s.MemWf) : (s.repost wg).MemWf := by
  unfold State.repost
  extract_lets
  exact h.update

theorem State.MemWf.execResumption {wg} (h : s.MemWf) : EndsWf (execResumption wg s) := by
  unfold Machine.execResumption
  extract_lets s1
  have hs1 : s1.MemWf := h.unfocus
  split
  · extract_lets
    split
    · exact .next hs1
    next t _ e3 =>
      have ht : t.MemWf := hs1.slotFails _ e3
      exact .next ht
    · extract_lets _ s2 _ s3
      have hs2 : s2.MemWf := hs1.beginSlice.dropStale
      have hs3 : s3.MemWf := hs2.update
      split
      · exact .next hs1.badEntry
      · exact .next ((hs3.foldl (fun _ hs4 _ => hs4.resumeBox)).repost)
  · exact .next hs1

/-! #### The functions of Machine/Confine.lean -/

theorem State.MemWf.markReset {b r} (h : s.MemWf) : (s.markReset b r).MemWf := by
  unfold State.markReset
  split
  · split
    · exact h.setPreg
    · exact h
  · split
    · exact h.setPreg
    · exact h

theorem State.MemWf.withReset {level part vf r} (h : s.MemWf) : (s.withReset level part vf r).MemWf := by
  unfold State.withReset
  extract_lets
  split
  · exact h
  · extract_lets s1
    have hs1 : s1.MemWf := h.update
    split
    · exact hs1
    · exact hs1.markReset

theorem State.MemWf.execContextKill {vf ctx} (h : s.MemWf) : EndsWf (execContextKill vf ctx s) := by
  unfold Machine.execContextKill
  split
  · exact .next h
  · extract_lets
    split
    · exact .next h
    · exact .next h.confine

theorem State.MemWf.execVfReset {part vf} (h : s.MemWf) : EndsWf (execVfReset part vf s) := by
  unfold Machine.execVfReset
  extract_lets s1 s2
  have hs1 : s1.MemWf := h.setPreg
  have hs2 : s2.MemWf := hs1.confine
  split
  · exact .next h
  · exact .next hs2.withReset

theorem State.MemWf.execPartitionReset {part} (h : s.MemWf) : EndsWf (execPartitionReset part s) := by
  unfold Machine.execPartitionReset
  extract_lets s1 s2
  have hs1 : s1.MemWf := h.setPreg
  have hs2 : s2.MemWf := hs1.confine
  split
  · exact .next h
  · exact .next hs2.withReset

theorem State.MemWf.modConf {id f} (h : s.MemWf) : (s.modConf id f).MemWf := h.update

theorem State.MemWf.progress {c b} (h : s.MemWf) : (s.progress c b).MemWf := by
  unfold State.progress
  extract_lets s1
  have hs1 : s1.MemWf := h.ite (h.foldl (fun _ hs2 _ => hs2.setBell))
  exact hs1.foldl (fun _ hs2 _ => hs2.markReset)

theorem State.MemWf.execQuiesceComplete {conf eng} (h : s.MemWf) : EndsWf (execQuiesceComplete conf eng s) := by
  unfold Machine.execQuiesceComplete
  split
  · exact .next h
  · extract_lets _ s1 _ _ s2 _ s3
    have hs1 : s1.MemWf := h.foldl (fun _ hs4 _ => hs4.stopMigration)
    have hs2 : s2.MemWf := hs1.update
    have hs3 : s3.MemWf := hs2.update
    split
    · exact .next h
    · split
      · exact .next hs3.progress.modConf
      · exact .next hs2.modConf

theorem State.MemWf.captureGroup {r : List Who × State} {g} (h : r.2.MemWf) : (State.captureGroup r g).2.MemWf := by
  unfold State.captureGroup
  extract_lets x
  have hx : x.2.MemWf := State.MemWf.foldl_snd (r := (false, r.2)) h fun y hy _ => by
    dsimp only
    exact hy.saveWave
  exact State.MemWf.update hx

theorem State.MemWf.loseImages {who} (h : s.MemWf) : (s.loseImages who).MemWf := by
  unfold State.loseImages
  extract_lets s1
  have hs1 : s1.MemWf := h.useCtx
  split
  · exact hs1
  · exact hs1.lostRec

theorem State.MemWf.confRecords {c gs} (h : s.MemWf) : (s.confRecords c gs).MemWf := by
  unfold State.confRecords
  extract_lets s1
  have hs1 : s1.MemWf := h.foldl (fun _ hs2 _ => hs2.confRecord)
  exact hs1.foldl (fun _ hs2 _ => hs2.confRecord)

theorem State.MemWf.recordMet {c known} (h : s.MemWf) : (State.recordMet c known s).MemWf := by
  unfold State.recordMet
  extract_lets _ _ s1
  have hs1 : s1.MemWf := h.update
  exact hs1.foldl (fun _ hs2 _ => (hs2.ite hs2.noteLost).confRecord)

theorem State.MemWf.endCaptured {g} (h : s.MemWf) : (s.endCaptured g).MemWf := by
  unfold State.endCaptured
  extract_lets _ s1
  have hs1 : s1.MemWf := h.update
  exact hs1.endGroup

theorem State.MemWf.closeScope {c} (h : s.MemWf) : (s.closeScope c).MemWf := by
  unfold State.closeScope
  extract_lets _ s1
  have hs1 : s1.MemWf := h.dropChildren
  exact hs1.foldl (fun _ hs2 _ => by
      extract_lets s3
      have hs3 : s3.MemWf := hs2.closeLaunch
      split
      · split
        · exact hs3.freeJobs
        · exact hs3
      · exact hs3)

theorem State.MemWf.clearVf {part f} (h : s.MemWf) : (s.clearVf part f).MemWf := by
  unfold State.clearVf
  extract_lets _ _ _ s1 s2 s3
  have hs1 : s1.MemWf := h.update
  have hs2 : s2.MemWf := hs1.update
  have hs3 : s3.MemWf := hs2.foldl (fun _ hs4 _ => hs4.logWrite)
  exact hs3.setPreg

theorem State.MemWf.clearPart {part} (h : s.MemWf) : (s.clearPart part).MemWf := by
  unfold State.clearPart
  extract_lets _ s1 s2 _ s3
  have hs1 : s1.MemWf := h.foldl (fun _ hs4 _ => hs4.clearVf)
  have hs2 : s2.MemWf := hs1.scReset
  have hs3 : s3.MemWf := hs2.update
  exact hs3.setPtCfg

theorem State.MemWf.clearDevice {off} (h : s.MemWf) : (s.clearDevice off).MemWf :=
  clearDevice_mem_wf _ h

theorem State.MemWf.clearScope {c} (h : s.MemWf) : (s.clearScope c).MemWf := by
  unfold State.clearScope
  extract_lets s1 s2 s3
  have hs1 : s1.MemWf := h.setPreg.ite h
  have hs2 : s2.MemWf := hs1.foldl (fun _ hs4 _ => hs4.clearVf.ite (hs4.clearPart.ite hs4))
  have hs3 : s3.MemWf := hs2.setPtCfg.ite hs2
  split
  · exact hs3.update
  · split
    · exact hs3.clearDevice
    · split
      · exact hs3.clearDevice
      · exact hs3.modConf

theorem State.MemWf.execConfinementCapture {conf} (h : s.MemWf) : EndsWf (execConfinementCapture conf s) := by
  unfold Machine.execConfinementCapture
  extract_lets s1
  have hs1 : s1.MemWf := h.unfocus
  split
  · exact .next h
  · extract_lets _ _ _ r s2 s3 s4 s5 s6
    have hr : r.2.MemWf := hs1.foldl_snd (fun _ hr1 _ => hr1.captureGroup)
    have hs2 : s2.MemWf := (hr.foldl (fun _ hs7 _ => hs7.loseImages)).ite hr
    have hs3 : s3.MemWf := hs2.confRecords.recordMet.recordMet
    have hs4 : s4.MemWf := hs3.foldl (fun _ hs7 _ => hs7.setDumpState)
    have hs5 : s5.MemWf := hs4.closeScope.foldl (fun _ hs7 _ => hs7.endCaptured)
    have hs6 : s6.MemWf := hs5.foldl (fun _ hs7 _ => hs7.setDumpState)
    split
    · exact .next hs1
    · exact .next hs6.recordMet.progress.clearScope

/-! #### The functions of Machine/Device.lean -/

theorem memWf_execPowerOn : EndsWf (execPowerOn s) := by
  unfold Machine.execPowerOn
  extract_lets s1
  have hs1 : s1.MemWf := memWf_reset
  exact .next hs1.update

theorem State.MemWf.execBootGo (h : s.MemWf) : EndsWf (execBootGo s) := .next (h.setReg.ite h)

theorem State.MemWf.execBootVerifyComplete (h : s.MemWf) : EndsWf (execBootVerifyComplete s) := by
  unfold Machine.execBootVerifyComplete
  extract_lets t
  have ht : t.MemWf := h.update.setReg
  split
  · exact .next h
  · split
    · exact .next (ht.logWrite.ite ht)
    · exact .next h.setReg

theorem State.MemWf.confineDevice {cause} (h : s.MemWf) : (s.confineDevice cause).MemWf := by
  unfold State.confineDevice
  extract_lets t
  have ht : t.MemWf := h.confine
  split
  · exact h.confine
  · split
    · exact h
    · exact ht.update

theorem State.MemWf.afterCapture {off} (h : s.MemWf) : (s.afterCapture off).MemWf := by
  unfold State.afterCapture
  split
  · exact h.clearDevice
  · exact h

theorem State.MemWf.beginReset {cause} (h : s.MemWf) : (s.beginReset cause).MemWf := by
  unfold State.beginReset
  split
  · exact h
  · exact h.confineDevice.withReset.setReg.afterCapture

theorem State.MemWf.execDeviceReset (h : s.MemWf) : EndsWf (execDeviceReset s) := .next (h.beginReset.ite h)

theorem State.MemWf.execPcieConventionalReset (h : s.MemWf) : EndsWf (execPcieConventionalReset s) :=
    .next h.update.beginReset

theorem State.MemWf.execWatchdogKick (h : s.MemWf) : EndsWf (execWatchdogKick s) := .next (h.update.ite h)

theorem State.MemWf.execWatchdogPeriodWrite {val} (h : s.MemWf) : EndsWf (execWatchdogPeriodWrite val s) := by
  unfold Machine.execWatchdogPeriodWrite
  extract_lets
  split
  · exact .next h
  · exact .next h.update.setReg

theorem State.MemWf.execWatchdogExpiry (h : s.MemWf) : EndsWf (execWatchdogExpiry s) := .next (h.beginReset.ite h)

theorem State.MemWf.setMhz {sl n} (h : s.MemWf) : (s.setMhz sl n).MemWf := h.update

theorem State.MemWf.execVoltageFrequencyLoop {slice up} (h : s.MemWf) : EndsWf (execVoltageFrequencyLoop slice up s) := by
  unfold Machine.execVoltageFrequencyLoop
  extract_lets
  exact .next h.setMhz

theorem State.MemWf.execLinkEqualisation {lane taps} (h : s.MemWf) : EndsWf (execLinkEqualisation lane taps s) :=
    .next h.update

theorem State.MemWf.execHbmReadEye {channel delay} (h : s.MemWf) : EndsWf (execHbmReadEye channel delay s) := .next h.update

theorem State.MemWf.execRefreshThreshold {stack temp} (h : s.MemWf) : EndsWf (execRefreshThreshold stack temp s) :=
  .next h.update

theorem State.MemWf.putTelemetry {sl ceil margin} (h : s.MemWf) : (s.putTelemetry sl ceil margin).MemWf := h.setReg

theorem State.MemWf.putTemp {sl temp} (h : s.MemWf) : (s.putTemp sl temp).MemWf := h.setReg

theorem State.MemWf.execAgeingLoop {slice needMHz marginMV} (h : s.MemWf) :
    EndsWf (execAgeingLoop slice needMHz marginMV s) := by
  unfold Machine.execAgeingLoop
  extract_lets _ _ s1 s2 s3
  have hs1 : s1.MemWf := h.update.putTelemetry
  have hs2 : s2.MemWf := hs1.setMhz
  have hs3 : s3.MemWf := hs2.update
  split
  · exact .next hs2
  · split
    · exact .next hs3
    · exact .next hs3.confine

theorem State.MemWf.execPowerLimit {deciWatts} (h : s.MemWf) : EndsWf (execPowerLimit deciWatts s) := by
  unfold Machine.execPowerLimit
  split
  · exact .next h
  · exact .next (h.foldl (fun _ hs1 _ => hs1.setMhz))

theorem State.MemWf.execThermalThrottle {slice temp} (h : s.MemWf) : EndsWf (execThermalThrottle slice temp s) := by
  unfold Machine.execThermalThrottle
  extract_lets s1 s2
  have hs1 : s1.MemWf := h.putTemp
  have hs2 : s2.MemWf := hs1.update
  split
  · exact .next hs2.setMhz
  · exact .next hs1

theorem State.MemWf.execThermalThrottleRelease {slice temp} (h : s.MemWf) :
    EndsWf (execThermalThrottleRelease slice temp s) := by
  unfold Machine.execThermalThrottleRelease
  extract_lets s1
  have hs1 : s1.MemWf := h.putTemp
  exact .next (hs1.update.ite hs1)

theorem State.MemWf.execThermalTrip {temp} (h : s.MemWf) : EndsWf (execThermalTrip temp s) := by
  unfold Machine.execThermalTrip
  extract_lets s1
  have hs1 : s1.MemWf := h.setReg
  split
  · exact .next h
  · exact .next hs1.confineDevice.withReset.afterCapture

theorem State.MemWf.execSaddleFlitReplay {link} (h : s.MemWf) : EndsWf (execSaddleFlitReplay link s) := by
  unfold Machine.execSaddleFlitReplay
  extract_lets
  exact .next (h.update.ite h.update)

theorem State.MemWf.linkLost (h : s.MemWf) : s.linkLost.MemWf := by
  unfold State.linkLost
  extract_lets s1 _ _ s2
  have hs1 : s1.MemWf := h.update
  have hs2 : s2.MemWf := hs1.update.foldl (fun _ hs3 _ => by
      split
      · extract_lets
        exact hs3.confine
      · exact hs3)
  exact hs2.letPass

theorem State.MemWf.execSaddleLinkRetrain {link trained} (h : s.MemWf) : EndsWf (execSaddleLinkRetrain link trained s) := by
  unfold Machine.execSaddleLinkRetrain
  extract_lets s1
  have hs1 : s1.MemWf := h.update
  split
  · exact .next hs1.update.linkLost
  · exact .next hs1.update.linkLost

theorem State.MemWf.execColBridgeReplay {dir lane} (h : s.MemWf) : EndsWf (execColBridgeReplay dir lane s) := by
  unfold Machine.execColBridgeReplay
  extract_lets _ _ _ s1
  have hs1 : s1.MemWf := h.update
  split
  · exact .next h.update
  · split
    · exact .next hs1.update
    · exact .next hs1.confineDevice

theorem State.MemWf.execPcieLinkDown (h : s.MemWf) : EndsWf (execPcieLinkDown s) := .next h.update.linkLost

/-! #### The functions of Machine/Scrub.lean -/

theorem State.MemWf.unwritten {p} (h : s.MemWf) : (s.unwritten p).MemWf := h.update

theorem State.MemWf.dropLines {back p} (h : s.MemWf) : (s.dropLines back p).MemWf := by
  unfold State.dropLines
  extract_lets _ s1
  have hs1 : s1.MemWf := (h.ite h.unwritten).dropPhys
  exact hs1.foldl (fun _ hs2 _ => by
      extract_lets
      split
      · exact hs2.mscLose
      · exact hs2.mscDrop.setMsc)

theorem State.MemWf.execScrubGo {part val} (h : s.MemWf) : EndsWf (execScrubGo part val s) := by
  unfold Machine.execScrubGo
  extract_lets _ _ _ _ _ s1
  have hs1 : s1.MemWf := h.dropLines
  split
  · exact .next h
  · split
    · exact .next hs1.update.setPreg.setPreg
    · exact .next h.setPreg

theorem State.MemWf.execScrubGranule (h : s.MemWf) : EndsWf (execScrubGranule s) := by
  unfold Machine.execScrubGranule
  split
  · exact .next h.scrubNow
  · split
    · exact .next h
    · extract_lets t
      have ht : t.MemWf := h.scrubNow.ite h
      split
      · exact .next h
      · exact .next ht.update

theorem State.MemWf.patrolSector {sec} (h : s.MemWf) : (s.patrolSector sec).MemWf := by
  unfold State.patrolSector
  extract_lets
  split
  · exact h
  · split
    · exact h.scInvalidate
    · exact h.setArray.countUE.writeFwRec

theorem State.MemWf.patrolCarve {sl index line} (h : s.MemWf) : (s.patrolCarve sl index line).MemWf := by
  unfold State.patrolCarve
  extract_lets
  exact (h.foldl (fun _ hs1 _ => hs1.poisonMsc)).setMsc

theorem State.MemWf.execPatrolScrub {addr} (h : s.MemWf) : EndsWf (execPatrolScrub addr s) := by
  unfold Machine.execPatrolScrub
  extract_lets
  exact .next (h.patrolCarve.ite (h.foldl (fun _ hs1 _ => hs1.patrolSector)))

theorem State.MemWf.execErrorInject (h : s.MemWf) : EndsWf (execErrorInject s) := by
  unfold Machine.execErrorInject
  split
  · exact .next h
  · split
    · exact .next h
    · exact .next h.update.setReg

theorem State.MemWf.execErrorInjectComplete (h : s.MemWf) : EndsWf (execErrorInjectComplete s) := by
  unfold Machine.execErrorInjectComplete
  extract_lets _ s1 _ s2
  have hs1 : s1.MemWf := h.update.setReg
  have hs2 : s2.MemWf := hs1.dropLines
  split
  · exact .next h
  · exact .next (hs2.ite hs2.setArray)

/-! #### The functions of Machine/Registers.lean -/

theorem State.MemWf.writeBy {off val a} (h : s.MemWf) : (s.writeBy off val a).MemWf := by
  unfold State.writeBy
  split
  · exact h
  · exact h.setReg
  · exact h.setReg

theorem State.MemWf.writeRcbHalf {r off val} (h : s.MemWf) : (s.writeRcbHalf r off val).MemWf := by
  unfold State.writeRcbHalf
  split
  · exact h.writeRcb
  · exact h.writeRcb

theorem State.MemWf.writeKeySlot {k val} (h : s.MemWf) : EndsWf (writeKeySlot k val s) := by
  unfold Machine.writeKeySlot
  split
  · exact h.execKeySlotOff
  · exact h.execKeySlotOrdinary
  · exact h.execKeySlotSealedWrite
  · exact h.execKeySlotPlain

theorem State.MemWf.writeUnwrap {val} (h : s.MemWf) : EndsWf (writeUnwrap val s) := by
  unfold Machine.writeUnwrap
  extract_lets _ s1
  have hs1 : s1.MemWf := h.setReg
  split
  · exact hs1.execSealUnwrap
  · exact .next hs1

theorem State.MemWf.writeWatchdog {val} (h : s.MemWf) : EndsWf (writeWatchdog val s) := by
  unfold Machine.writeWatchdog
  split
  next t e =>
    have ht : t.MemWf := h.execWatchdogPeriodWrite _ e
    split
    · exact ht.execWatchdogKick
    · exact .next ht
  · exact h.execWatchdogPeriodWrite

theorem State.MemWf.writeRoot {off val} (h : s.MemWf) : EndsWf (writeRoot off val s) := by
  unfold Machine.writeRoot
  extract_lets
  split
  · exact h.writeWatchdog
  · split
    · split
      · exact h.execDeviceReset
      · exact .next h
    · split
      · exact .next h.writeRcbHalf
      · split
        · split
          · exact h.execErrorInject
          · exact .next h
        · split
          · exact h.writeKeySlot
          · split
            · exact h.writeUnwrap
            · split
              · exact .next h
              · split
                · exact h.execLogBaseCommit
                · split
                  · split
                    · exact h.execLogCheckpoint
                    · exact .next h
                  · split
                    · exact h.execMeterWrite
                    · exact .next h.writeBy

theorem State.MemWf.writePart {i off val} (h : s.MemWf) : EndsWf (writePart i off val s) := by
  unfold Sys2Proof.Machine.writePart
  refine .ite h.execScCtlWrite <| .ite h.execPtCfgWrite <| .ite (.next h.barWrite) <| .ite h.execOwnershipWrite <|
    .ite h.execScrubGo <| .ite (.ite h.execPartitionReset (.next h)) <| .ite (.next h.writeRcbHalf) <|
    .ite (.ite h.execVfCtlWrite <| .ite (.next h) (.next h.barWrite)) <| .ite (.next h.writeRcbHalf) <|
    .ite (.ite h.execVfReset (.next h)) <| .ite (.next (h.setReg.ite h)) <| .ite h.execSealGrantWrite <|
    .ite h.execCtxBindWrite (.next h.writeBy)

theorem State.MemWf.writeBar0 {off val} (h : s.MemWf) : EndsWf (writeBar0 off val s) := by
  unfold Machine.writeBar0
  split
  · split
    · exact h.execBootGo
    · exact .next h
  · split
    · exact .next h.writeBy
    · split
      · exact .next h
      · split
        · exact h.writeRoot
        · split
          · exact h.writePart
          · exact .next h

theorem State.MemWf.writeDoorbell {f c off val} (h : s.MemWf) : EndsWf (writeDoorbell f c off val s) :=
  .ite (.next h) <| .ite (.next (h.ite h.setBell)) <| .ite (.next (h.ite h.setBell)) <| .ite h.execQueueEnableWrite <|
    .ite h.execDoorbellWrite <| .ite (.next h.setBell) <| .ite (.next h.setBell) <| .ite (.next h.setBell) <|
    .ite h.execTlbInvalidate <| .ite (.next h.frameHost) <| .ite (.ite h.execContextKill (.next h)) (.next h)

theorem State.MemWf.execRegisterWrite {t val} (h : s.MemWf) : EndsWf (execRegisterWrite t val s) := by
  unfold Machine.execRegisterWrite
  split
  · exact h.writeBar0
  · split
    · exact h.writeDoorbell
    · exact .next h

/-! #### The functions of Machine/Incoming.lean -/

theorem State.MemWf.writeWords {f fuel off bs} (h : s.MemWf) (hf : ∀ off w t, t.MemWf → EndsWf (f off w t)) :
    (writeWords f fuel off bs s).MemWf := by
  induction fuel generalizing s off bs with
  | zero => exact h
  | succ fuel ih =>
    unfold Sys2Proof.Machine.writeWords
    split
    next t e =>
      have ht : t.MemWf := hf _ _ s h t e
      exact ht.ite (ih ht)
    · exact h

theorem State.MemWf.doWrite {src addr bs} (h : s.MemWf) : (s.doWrite src addr bs).MemWf := by
  unfold State.doWrite
  split
  · exact h
  · split
    · exact h
    · exact h.writeWords (fun _ _ _ hs1 => hs1.writeBar0)
    · split
      · exact h
      · exact h.writeWords (fun _ _ _ ht => ht.writeDoorbell)
    · exact h.memWrite

theorem State.MemWf.doRead {src addr n} (h : s.MemWf) : (s.doRead src addr n).MemWf := by
  unfold State.doRead
  split
  · exact h.abortRead
  · extract_lets
    exact h.answer
  · extract_lets
    split
    · exact h.abortRead
    · exact (h.foldl (fun _ hs1 _ => hs1.frameHost)).answer
  · exact h.memRead

theorem State.MemWf.execIncomingWrite {src addr data} (h : s.MemWf) : EndsWf (execIncomingWrite src addr data s) :=
  .next h.doWrite

theorem State.MemWf.execIncomingRead {src addr len} (h : s.MemWf) : EndsWf (execIncomingRead src addr len s) := .next h.doRead

theorem State.MemWf.execKeyModeChangeComplete {slot} (h : s.MemWf) : EndsWf (execKeyModeChangeComplete slot s) := by
  unfold Machine.execKeyModeChangeComplete
  extract_lets
  split
  · exact .next h
  · exact .next h.modeDone.admitHeld

/-! #### The functions of Machine/Auto.lean -/

theorem State.MemWf.nextIssue (h : s.MemWf) : OnSome State.MemWf s.nextIssue := .findSome? (fun _ => h.select)

theorem State.MemWf.moves {e} (h : s.MemWf) (he : ∀ s : State, s.MemWf → EndsWf (e s)) : OnSome State.MemWf (s.moves e) := by
  unfold State.moves
  split
  next t et =>
    split
    · exact .none
    · exact .some (he s h t et)
  · exact .none
  · exact .none

theorem State.MemWf.firstMove {es} (h : s.MemWf) (hes : EventsWf es) : OnSome State.MemWf (s.firstMove es) := by
  intro t ht
  obtain ⟨e, he, hte⟩ := List.exists_of_findSome?_eq_some ht
  exact h.moves (hes e he) t hte

theorem State.MemWf.deviceMoves (h : s.MemWf) : OnSome State.MemWf s.deviceMoves := by
  refine h.firstMove (.append (.append (.append (.append (.append (.append ?confs ?keys) ?waits) ?pris) ?reads) ?invs) ?fills)
  case confs =>
    exact .flatMap fun c => .append (.map fun _ _ h => h.execQuiesceComplete)
        (.cons (fun _ h => h.execConfinementCapture) .nil)
  case keys => exact .map fun _ _ h => h.execKeyModeChangeComplete
  case waits =>
    exact .cons (fun _ h => h.execLogEntryWrite) <| .cons (fun _ h => h.execBootVerifyComplete) <|
      .cons (fun _ h => h.execErrorInjectComplete) <| .cons (fun _ h => h.execWatchdogExpiry) .nil
  case pris => exact .map fun _ _ h => h.execPriTimeout
  case reads => exact .map fun _ _ h => h.execEgressReadAbort
  case invs => exact .map fun _ _ h => h.execInvalidationComplete
  case fills => exact .map fun _ _ h => h.execMscFillComplete

theorem commandMoves_eventsWf (c : Command) : EventsWf c.moves := by
  unfold Command.moves
  refine .ite (.cons (fun _ h => h.execCommandComplete) .nil) (.append
      (.append (.append (.append ?all ?copies) ?matrix) ?sight) ?attention)
  case all => exact .cons (fun _ h => h.execMulticastStart) .nil
  case copies =>
    exact .ite (.cons (fun _ h => h.execPageMigration) <| .cons (fun _ h => h.execCopyBytesLand) <|
      .cons (fun _ h => h.execCopyCommandStart) .nil) .nil
  case matrix =>
    exact .ite (.cons (fun _ h => h.execMatrixEntryStart) <| .cons (fun _ h => h.execMmatKstep) <|
      .cons (fun _ h => h.execMatrixChunkComplete) .nil) .nil
  case sight => exact .ite (.cons (fun _ h => h.execSightCommandRun) .nil) .nil
  case attention =>
    exact .ite (.append (.append (.cons (fun _ h => h.execAttentionCommandStart) .nil) (.map fun _ _ h => h.execBauRowRead))
      (.cons (fun _ h => h.execAttentionResultWrite) .nil)) .nil

theorem State.MemWf.engineMoves (h : s.MemWf) : OnSome State.MemWf s.engineMoves :=
  h.firstMove (.append (.flatMap commandMoves_eventsWf) (.map fun _ _ h => h.execHotRowSideQueue))

theorem fragMoves_eventsWf (w : Wave) (f : Frag) : EventsWf (f.moves w) := by
  unfold Frag.moves
  split
  · exact .nil
  · exact .cons (fun _ h => h.execWaitRetest) <| .cons (fun _ h => h.execScRelookup) <| .cons (fun _ h => h.execScLookupRetry)
      <|
      .cons (fun _ h => h.execFenceComplete) <| .cons (fun _ h => h.execSleepExpiry) <|
      .cons (fun _ h => h.execWaitPeriodicRetest) .nil

theorem State.MemWf.waveMoves (h : s.MemWf) : OnSome State.MemWf s.waveMoves :=
  h.firstMove (.append (.append
    (.flatMap fun b => .append (.flatMap (fragMoves_eventsWf b.wave)) (.map fun _ _ h => h.execRejoinTimeout))
    (.map fun _ _ h => h.execWorkgroupComplete)) (.map fun _ _ h => h.execPendingReadyReplace))

theorem State.MemWf.distributorMoves (h : s.MemWf) : OnSome State.MemWf s.distributorMoves := by
  refine h.firstMove (.append (.append (.append (.append (.append (.append ?waves ?slices) ?saved) ?batches) ?queues) ?groups)
      ?launches)
  case waves =>
    exact .flatMap fun b => .cons (fun _ h => h.execDeepPark) <| .cons (fun _ h => h.execWaveRestore) <|
      .cons (fun _ h => h.execWaveEviction) .nil
  case slices => exact .flatMap fun c => .cons (fun _ h => h.execTimeSliceEnd) <| .cons (fun _ h => h.execPreemptionSave) .nil
  case saved => exact .map fun _ _ h => h.execResumption
  case batches => exact .map fun _ _ h => h.execShadeBatchDispatch
  case queues => exact .map fun _ _ h => h.execQueueEntryRelease
  case groups => exact .map fun _ _ h => h.execWorkgroupDispatch
  case launches => exact .map fun _ _ h => h.execLaunchPriorityAging

theorem State.MemWf.guardMoves (h : s.MemWf) : OnSome State.MemWf s.guardMoves :=
  h.firstMove (.map fun _ _ h => h.execGuardWordResolve)

theorem State.MemWf.autoEvent (h : s.MemWf) : OnSome State.MemWf s.autoEvent :=
  .orElse h.deviceMoves <| .orElse h.engineMoves <| .orElse h.waveMoves <| .orElse h.distributorMoves <|
    .orElse h.guardMoves <| h.firstMove (.cons (fun _ h => h.execScrubGranule) .nil)

/-! #### The functions of Machine/Dispatch.lean -/

/-- Whatever an instruction or an event does, it keeps the memory in its canonical form. -/
theorem State.MemWf.exec {i : Instr} (h : s.MemWf) : EndsWf (Machine.exec i s) := by
  cases i with
  | nop => exact h.execNop
  | br => exact h.execBr
  | brt => exact h.execBrt
  | brx => exact h.execBrx
  | call => exact h.execCall
  | ret => exact h.execRet
  | tok => exact h.execTok
  | rejoin => exact h.execRejoin
  | exit => exact h.execExit
  | yield => exact h.execYield
  | waitf => exact h.execWaitf
  | waitv => exact h.execWaitv
  | fpt => exact h.execFpt
  | sleep => exact h.execSleep
  | bar => exact h.execBar
  | barArrive => exact h.execBarArrive
  | barWait => exact h.execBarWait
  | lfsr => exact h.execLfsr
  | lfsrRd => exact h.execLfsrRd
  | modeSet => exact h.execModeSet
  | modeGet => exact h.execModeGet
  | modePut => exact h.execModePut
  | guard => exact h.execGuard
  | lrec => exact h.execLrec
  | launch => exact h.execLaunch
  | lit => exact h.execLit
  | lih => exact h.execLih
  | trap => exact h.execTrap
  | sysr => exact h.execSysr
  | sysw => exact h.execSysw
  | brk => exact h.execBrk
  | add => exact h.execAdd
  | sub => exact h.execSub
  | addc => exact h.execAddc
  | subb => exact h.execSubb
  | mul => exact h.execMul
  | mulh => exact h.execMulh
  | mad => exact h.execMad
  | madh => exact h.execMadh
  | div => exact h.execDiv
  | rem => exact h.execRem
  | neg => exact h.execNeg
  | abs => exact h.execAbs
  | min => exact h.execMin
  | max => exact h.execMax
  | and => exact h.execAnd
  | or => exact h.execOr
  | xor => exact h.execXor
  | not => exact h.execNot
  | andn => exact h.execAndn
  | shl => exact h.execShl
  | shr => exact h.execShr
  | sar => exact h.execSar
  | rol => exact h.execRol
  | bfx => exact h.execBfx
  | bfi => exact h.execBfi
  | popc => exact h.execPopc
  | clz => exact h.execClz
  | ctz => exact h.execCtz
  | brev => exact h.execBrev
  | cmp => exact h.execCmp
  | sel => exact h.execSel
  | mov => exact h.execMov
  | movi => exact h.execMovi
  | movs => exact h.execMovs
  | shflIdx => exact h.execShflIdx
  | shflXor => exact h.execShflXor
  | shflUp => exact h.execShflUp
  | shflDown => exact h.execShflDown
  | vote => exact h.execVote
  | ballot => exact h.execBallot
  | redux => exact h.execRedux
  | scan => exact h.execScan
  | pand => exact h.execPand
  | por => exact h.execPor
  | pxor => exact h.execPxor
  | pnot => exact h.execPnot
  | pcnt => exact h.execPcnt
  | fadd => exact h.execFadd
  | fsub => exact h.execFsub
  | fmul => exact h.execFmul
  | ffma => exact h.execFfma
  | fabs => exact h.execFabs
  | fneg => exact h.execFneg
  | fmin => exact h.execFmin
  | fmax => exact h.execFmax
  | fcmp => exact h.execFcmp
  | fcls => exact h.execFcls
  | frcp => exact h.execFrcp
  | frsq => exact h.execFrsq
  | fsqrt => exact h.execFsqrt
  | fdiv => exact h.execFdiv
  | fex2 => exact h.execFex2
  | flg2 => exact h.execFlg2
  | fsin => exact h.execFsin
  | fcos => exact h.execFcos
  | ffrac => exact h.execFfrac
  | fround => exact h.execFround
  | fscale => exact h.execFscale
  | cvtFi => exact h.execCvtFi
  | cvtIf => exact h.execCvtIf
  | cvtFfFrom => exact h.execCvtFfFrom
  | cvtFfTo => exact h.execCvtFfTo
  | pack8 => exact h.execPack8
  | pack6 => exact h.execPack6
  | pack4 => exact h.execPack4
  | unpack => exact h.execUnpack
  | dot2 => exact h.execDot2
  | dot4 => exact h.execDot4
  | dot8 => exact h.execDot8
  | rseed => exact h.execRseed
  | rnext => exact h.execRnext
  | rnextH => exact h.execRnextH
  | ipt => exact h.execIpt
  | ilo => exact h.execIlo
  | ihi => exact h.execIhi
  | imid => exact h.execImid
  | iwid => exact h.execIwid
  | ihull => exact h.execIhull
  | isect => exact h.execIsect
  | iin => exact h.execIin
  | ibis => exact h.execIbis
  | itake => exact h.execItake
  | bbox => exact h.execBbox
  | ldG => exact h.execLdG
  | ldL => exact h.execLdL
  | ldC => exact h.execLdC
  | ldS => exact h.execLdS
  | ldP => exact h.execLdP
  | stG => exact h.execStG
  | stL => exact h.execStL
  | stC => exact h.execStC
  | stS => exact h.execStS
  | stP => exact h.execStP
  | ldx => exact h.execLdx
  | stx => exact h.execStx
  | ild => exact h.execIld
  | ist => exact h.execIst
  | prf => exact h.execPrf
  | atomAdd => exact h.execAtomAdd
  | atomFadd => exact h.execAtomFadd
  | atomMin => exact h.execAtomMin
  | atomMax => exact h.execAtomMax
  | atomAnd => exact h.execAtomAnd
  | atomOr => exact h.execAtomOr
  | atomXor => exact h.execAtomXor
  | atomExch => exact h.execAtomExch
  | atomInc => exact h.execAtomInc
  | atomDec => exact h.execAtomDec
  | redAdd => exact h.execRedAdd
  | redFadd => exact h.execRedFadd
  | redMin => exact h.execRedMin
  | redMax => exact h.execRedMax
  | redAnd => exact h.execRedAnd
  | redOr => exact h.execRedOr
  | redXor => exact h.execRedXor
  | redExch => exact h.execRedExch
  | redInc => exact h.execRedInc
  | redDec => exact h.execRedDec
  | cas => exact h.execCas
  | ldf => exact h.execLdf
  | stf => exact h.execStf
  | cpy => exact h.execCpy
  | cpyCol => exact h.execCpyCol
  | cpyMc => exact h.execCpyMc
  | cpyThen => exact h.execCpyThen
  | sealBatch => exact h.execSealBatch
  | bwait => exact h.execBwait
  | slotFree => exact h.execSlotFree
  | tbarInit => exact h.execTbarInit
  | tbarExpect => exact h.execTbarExpect
  | tbarArrive => exact h.execTbarArrive
  | tbarWait => exact h.execTbarWait
  | fenceX => exact h.execFenceX
  | fenceH => exact h.execFenceH
  | spl => exact h.execSpl
  | fil => exact h.execFil
  | mma => exact h.execMma
  | mmaB => exact h.execMmaB
  | mmat => exact h.execMmat
  | accSwap => exact h.execAccSwap
  | accZero => exact h.execAccZero
  | accZeroV => exact h.execAccZeroV
  | accRd => exact h.execAccRd
  | accWr => exact h.execAccWr
  | tld => exact h.execTld
  | tldT => exact h.execTldT
  | tst => exact h.execTst
  | tscale => exact h.execTscale
  | fmtv => exact h.execFmtv
  | scq => exact h.execScq
  | scfill => exact h.execScfill
  | scinv => exact h.execScinv
  | scage => exact h.execScage
  | rast => exact h.execRast
  | ray => exact h.execRay
  | qpost => exact h.execQpost
  | amerge => exact h.execAmerge
  | afin => exact h.execAfin
  | unassignedOpcode => exact h.execUnassignedOpcode
  | handlerReturnContinue => exact h.execHandlerReturnContinue
  | handlerReturnPc => exact h.execHandlerReturnPc
  | handlerReturnEnd => exact h.execHandlerReturnEnd
  | rejoinTimeout => exact h.execRejoinTimeout
  | waitRetest => exact h.execWaitRetest
  | waitPeriodicRetest => exact h.execWaitPeriodicRetest
  | pendingReadyReplace => exact h.execPendingReadyReplace
  | fragmentRankAging => exact h.execFragmentRankAging
  | sleepExpiry => exact h.execSleepExpiry
  | loadDataReturn => exact h.execLoadDataReturn
  | fenceComplete => exact h.execFenceComplete
  | doorbellWrite => exact h.execDoorbellWrite
  | queueEnableWrite => exact h.execQueueEnableWrite
  | queueEntryRelease => exact h.execQueueEntryRelease
  | launchPriorityAging => exact h.execLaunchPriorityAging
  | workgroupDispatch => exact h.execWorkgroupDispatch
  | workgroupComplete => exact h.execWorkgroupComplete
  | ctxBindWrite => exact h.execCtxBindWrite
  | deepPark => exact h.execDeepPark
  | waveEviction => exact h.execWaveEviction
  | waveRestore => exact h.execWaveRestore
  | timeSliceEnd => exact h.execTimeSliceEnd
  | preemptionSave => exact h.execPreemptionSave
  | resumption => exact h.execResumption
  | pageWalk => exact h.execPageWalk
  | tlbInvalidate => exact h.execTlbInvalidate
  | invalidationComplete => exact h.execInvalidationComplete
  | mscRequest => exact h.execMscRequest
  | mscFillComplete => exact h.execMscFillComplete
  | ptsTick => exact h.execPtsTick
  | l1CopyExpiry => exact h.execL1CopyExpiry
  | incomingWrite => exact h.execIncomingWrite
  | incomingRead => exact h.execIncomingRead
  | pageMigration => exact h.execPageMigration
  | copyCommandStart => exact h.execCopyCommandStart
  | guardWordResolve => exact h.execGuardWordResolve
  | multicastStart => exact h.execMulticastStart
  | copyBytesLand => exact h.execCopyBytesLand
  | commandComplete => exact h.execCommandComplete
  | matrixEntryStart => exact h.execMatrixEntryStart
  | matrixChunkComplete => exact h.execMatrixChunkComplete
  | mmatKstep => exact h.execMmatKstep
  | sightCommandRun => exact h.execSightCommandRun
  | scCtlWrite => exact h.execScCtlWrite
  | scLookupRetry => exact h.execScLookupRetry
  | scRelookup => exact h.execScRelookup
  | shadeBatchDispatch => exact h.execShadeBatchDispatch
  | attentionCommandStart => exact h.execAttentionCommandStart
  | bauRowRead => exact h.execBauRowRead
  | attentionResultWrite => exact h.execAttentionResultWrite
  | refresh => exact h.execRefresh
  | hotRowThrottle => exact h.execHotRowThrottle
  | hotRowSideQueue => exact h.execHotRowSideQueue
  | hotRowWindowEnd => exact h.execHotRowWindowEnd
  | ptCfgWrite => exact h.execPtCfgWrite
  | ownershipWrite => exact h.execOwnershipWrite
  | vfCtlWrite => exact h.execVfCtlWrite
  | rcbAddressWrite => exact h.execRcbAddressWrite
  | keySlotOrdinary => exact h.execKeySlotOrdinary
  | keySlotOff => exact h.execKeySlotOff
  | keySlotPlain => exact h.execKeySlotPlain
  | keySlotSealedWrite => exact h.execKeySlotSealedWrite
  | keyModeChangeComplete => exact h.execKeyModeChangeComplete
  | sealUnwrap => exact h.execSealUnwrap
  | sealGrantWrite => exact h.execSealGrantWrite
  | meterWrite => exact h.execMeterWrite
  | meterTokenTick => exact h.execMeterTokenTick
  | egressReadAbort => exact h.execEgressReadAbort
  | logBaseCommit => exact h.execLogBaseCommit
  | logCheckpoint => exact h.execLogCheckpoint
  | logEntryWrite => exact h.execLogEntryWrite
  | scrubGo => exact h.execScrubGo
  | scrubGranule => exact h.execScrubGranule
  | patrolScrub => exact h.execPatrolScrub
  | errorInject => exact h.execErrorInject
  | contextKill => exact h.execContextKill
  | vfReset => exact h.execVfReset
  | partitionReset => exact h.execPartitionReset
  | quiesceComplete => exact h.execQuiesceComplete
  | confinementCapture => exact h.execConfinementCapture
  | powerOn => exact memWf_execPowerOn
  | bootGo => exact h.execBootGo
  | bootVerifyComplete => exact h.execBootVerifyComplete
  | deviceReset => exact h.execDeviceReset
  | pcieConventionalReset => exact h.execPcieConventionalReset
  | watchdogKick => exact h.execWatchdogKick
  | watchdogPeriodWrite => exact h.execWatchdogPeriodWrite
  | watchdogExpiry => exact h.execWatchdogExpiry
  | voltageFrequencyLoop => exact h.execVoltageFrequencyLoop
  | linkEqualisation => exact h.execLinkEqualisation
  | hbmReadEye => exact h.execHbmReadEye
  | refreshThreshold => exact h.execRefreshThreshold
  | ageingLoop => exact h.execAgeingLoop
  | powerLimit => exact h.execPowerLimit
  | thermalThrottle => exact h.execThermalThrottle
  | thermalTrip => exact h.execThermalTrip
  | saddleFlitReplay => exact h.execSaddleFlitReplay
  | saddleLinkRetrain => exact h.execSaddleLinkRetrain
  | colBridgeReplay => exact h.execColBridgeReplay
  | pcieLinkDown => exact h.execPcieLinkDown
  | priResponse => exact h.execPriResponse
  | priTimeout => exact h.execPriTimeout
  | stateReadback => exact h.execStateReadback
  | debugHaltControl => exact h.execDebugHaltControl
  | brkResume => exact h.execBrkResume
  | mgmtKill => exact h.execMgmtKill
  | rbacc => exact h.execRbacc
  | extest => exact h.execExtest
  | sample => exact h.execSample
  | preload => exact h.execPreload
  | bypass => exact h.execBypass
  | registerWrite => exact h.execRegisterWrite
  | l2MissReport => exact h.execL2MissReport
  | captureDr => exact h.execCaptureDr
  | thermalThrottleRelease => exact h.execThermalThrottleRelease
  | errorInjectComplete => exact h.execErrorInjectComplete

/-! #### The functions of Machine/Errors.lean -/

theorem State.MemWf.coreError {g code} (h : s.MemWf) : (s.coreError g code).MemWf := by
  unfold State.coreError
  extract_lets
  exact h.countUE.tell

theorem State.MemWf.waveError {id code f} (h : s.MemWf) : (s.waveError id code f).MemWf := by
  unfold State.waveError
  split
  · exact h.modWave.coreError
  · exact h

theorem State.MemWf.l2Error {sec} (h : s.MemWf) : (s.l2Error sec).MemWf := by
  unfold State.l2Error
  split
  · exact h
  · split
    · exact h
    · split
      · exact h.update
      · exact h.l2Mod.countUE

theorem State.MemWf.l1Forget {core line} (h : s.MemWf) : (s.l1Forget core line).MemWf := h.update

theorem State.MemWf.leaseLost {slc line} (h : s.MemWf) : (s.leaseLost slc line).MemWf := h.l2Mod.countCE

theorem State.MemWf.reportOwed {r} (h : s.MemWf) : (s.reportOwed r).MemWf := by
  unfold State.reportOwed
  split
  · split
    · exact h.report
    · exact h.writeFwRec
  · exact (h.ite h.noteLost).confine

theorem State.MemWf.flushOwed {fuel} (h : s.MemWf) : (State.flushOwed fuel s).MemWf := by
  induction fuel generalizing s with
  | zero => exact h
  | succ fuel ih =>
    unfold State.flushOwed
    exact h.ite (ih (h.update.foldl fun _ ht _ => ht.reportOwed))

theorem State.MemWf.paceCore {core} (h : s.MemWf) : (s.paceCore core).MemWf := by
  unfold State.paceCore
  extract_lets
  split
  · exact h.pass
  · exact h

theorem State.MemWf.pace (h : s.MemWf) : s.pace.MemWf := h.foldl (fun _ hs1 _ => hs1.paceCore)

theorem State.MemWf.loseWatch {wave slot line} (h : s.MemWf) : (s.loseWatch wave slot line).MemWf := by
  unfold State.loseWatch
  extract_lets
  split
  · exact h
  · exact h.update.modFrags.countCE

theorem State.MemWf.layHost {base n} (h : s.MemWf) : (s.layHost base n).MemWf := by
  unfold State.layHost
  extract_lets
  split
  · exact h.update
  · exact h

theorem State.MemWf.befall {a} (h : s.MemWf) : (s.befall a).MemWf := by
  unfold State.befall
  split
  · exact h.waveError
  · exact h.waveError
  · split
    · extract_lets
      exact h.countUE.confine
    · exact h
  · split
    · exact h.modGroup.coreError
    · exact h
  · extract_lets t
    have ht : t.MemWf := h.update
    split
    · exact ht.coreError
    · exact ht.countUE
  · exact h.l1Forget.countUE
  · exact h.l2Error
  · extract_lets
    split
    · exact h
    · exact h.setArray
  · extract_lets
    split
    · exact h.setMsc
    · exact h
  · extract_lets
    split
    · split
      · exact h.setMsc
      · exact h
    · exact h.setMsc
  · extract_lets
    exact h.setScTag.wakeLine.countUE
  · split
    · exact h.countCE
    · exact h
  · exact h.l1Forget.countCE
  · exact h.leaseLost
  · exact h.update.countCE
  · exact h.update.raiseTmax.countCE
  · exact h.setPts.countCE
  · exact h.loseWatch
  · split
    · extract_lets
      exact h.countUE.confine
    · exact h
  · split
    · exact h.confine
    · exact h
  · exact h.confine
  · exact h.loseLock
  · exact h.layHost
  · exact h.setReg

theorem State.MemWf.tidied (h : s.MemWf) : s.tidied.MemWf := h.flushOwed.pace

theorem State.MemWf.turnOver {a} (h : s.MemWf) : (State.turnOver a s).MemWf := by
  unfold State.turnOver
  extract_lets s1
  have hs1 : s1.MemWf := h.tidied
  exact hs1.passUs

/-! #### The functions of Machine/Step.lean -/

theorem State.MemWf.stepUnit (h : s.MemWf) : EndsWf (stepUnit s) := by
  unfold Machine.stepUnit
  extract_lets s1
  have hs1 : s1.MemWf := h.codeSeen
  split
  · exact .next h.fetchTrap
  · exact .next h.parkAgain
  · extract_lets _ r
    have hr : r.2.MemWf := hs1.formed
    split
    · exact hr.exec
    · exact .next hs1.awaitLoads

theorem State.MemWf.stepEvent {ev} (h : s.MemWf) : EndsWf (stepEvent ev s) := by
  unfold Machine.stepEvent
  split
  · exact h.exec
  · exact .next h

theorem State.MemWf.stepPort {core port} (h : s.MemWf) : EndsWf (stepPort core port s) := by
  unfold Machine.stepPort
  split
  next t e =>
    have ht : t.MemWf := h.select _ e
    exact ht.stepUnit
  · exact .next h.settlePort.cycle

theorem State.MemWf.deviceTurn (h : s.MemWf) : (deviceTurn s).MemWf := by
  unfold Machine.deviceTurn
  extract_lets s1
  have hs1 : s1.MemWf := h.foldl (fun _ hs2 _ => hs2.settlePort)
  exact ((hs1.getD hs1.autoEvent).unfocus).pass

theorem State.MemWf.stepAlone (h : s.MemWf) : EndsWf (stepAlone s) := by
  unfold Machine.stepAlone
  split
  next t e =>
    have ht : t.MemWf := h.nextIssue _ e
    exact ht.stepUnit
  · exact .next h.deviceTurn

/-- A step that has a next state keeps the memory in its canonical form. -/
theorem State.MemWf.step (h : s.MemWf) : EndsWf (Machine.step s) := by
  unfold Machine.step
  split
  · exact .fault
  · split
    · exact h.stepUnit.ended fun _ ht => ht.turnOver
    · split
      · exact h.update.stepPort.ended fun _ ht => ht.turnOver
      · exact h.update.pass.passUs.stepEvent.ended fun _ ht => ht.tidied
      · exact .next h.update.pass.passUs.befall.tidied
      · exact h.stepAlone.ended fun _ ht => ht.turnOver

end

/-- Settles O60: whatever an instruction or an event does, each function of the model it goes through keeps the memory in its
canonical form; the only functions that write the memory are those of `Laws/Memory.lean`. -/
theorem memoryKept : Obligations.MemoryKept := by
  unfold Obligations.MemoryKept
  exact fun _ t h ht => State.MemWf.step h t ht

end Sys2Proof.Machine

/-! ### Lead-in words, modes and system registers (R168 to R172, R193, R207 to R209, R215, R216, R413, R464) -/

namespace Sys2Proof.Machine

section
variable {s : State}

/-! Lead-in words (R169, R464). -/

theorem join_joins {late : Bool} {f : Issue → Issue} (hn : s.iss.n < 3) (hb : s.iss.bad = none) :
    s.join late f = .next { s with iss := { f s.iss with
      n := s.iss.n + 1, bad := if late then some s.iss.word else none } } := by
  simp only [State.join, hb, Option.isNone_none, Bool.true_and, if_neg (Nat.not_le_of_lt hn)]

theorem join_traps {late : Bool} {f : Issue → Issue} (hn : 3 ≤ s.iss.n) (hb : s.iss.bad = none) :
    s.join late f = .next (s.takeTrap s.exec { code := 0x01, lanes := s.exec, aux := s.iss.word.toNat }) := by
  rw [State.join, if_pos hn, hb]
  cases late <;> rfl

theorem execGuard_joins {sense : Fin 8} {p : Fin 16} (hn : s.iss.n < 3) (hb : s.iss.bad = none) :
    execGuard sense p s = .next { s with iss := { s.iss with
      n := s.iss.n + 1, guard := some (s.iss.guard.getD (sense.val, p.val))
      bad := if s.iss.n = 0 then none else some s.iss.word } } := by
  have hfirst : (if s.iss.guard.isNone then some (sense.val, p.val) else s.iss.guard) =
      some (s.iss.guard.getD (sense.val, p.val)) := by
    cases s.iss.guard with
    | none => rfl
    | some g => rfl
  rw [execGuard, join_joins hn hb]
  simp only [hfirst, decide_eq_true_eq, ne_eq, ite_not]

theorem execLih_joins {h : BitVec 8} (hn : s.iss.n < 3) (hb : s.iss.bad = none) :
    execLih h s = .next { s with iss := { s.iss with
      n := s.iss.n + 1, lih := some h, bad := if s.iss.lih.isSome || s.iss.lit.isSome then some s.iss.word else none } } :=
  join_joins hn hb

theorem execLit_joins {l : BitVec 24} (hn : s.iss.n < 3) (hb : s.iss.bad = none) :
    execLit l s = .next { s with iss := { s.iss with
      n := s.iss.n + 1, lit := some l, bad := if s.iss.lit.isSome then some s.iss.word else none } } :=
  join_joins hn hb

/-- Settles O15: each lead-in word joins the unit, late or in order; only the fourth word of a unit traps. -/
theorem leadInWords : Obligations.LeadInWords := by
  unfold Obligations.LeadInWords
  intro sense p h l s
  refine ⟨fun hn hb => ⟨execGuard_joins hn hb, execLih_joins hn hb, execLit_joins hn hb⟩, fun hn hb i hi => ?_⟩
  simp only [List.mem_cons, List.not_mem_nil, or_false] at hi
  obtain rfl | rfl | rfl := hi
  · exact (join_traps hn hb : execGuard sense p s = _)
  · exact (join_traps hn hb : execLih h s = _)
  · exact (join_traps hn hb : execLit l s = _)

/-! Conditions on an encoding, and the trap of the lowest code (R409, R465). -/

theorem bestOf_code_head {c : Cond} {cs : List Cond} (h : ∀ x ∈ cs, c.code < x.code) :
    bestOf (fun a b => decide (a.code < b.code)) (c :: cs) = some c := by
  refine congrArg some ?_
  induction cs with
  | nil => rfl
  | cons x xs ih =>
    have hx : ¬x.code < c.code := Nat.not_lt.mpr (Nat.le_of_lt (h x List.mem_cons_self))
    simp only [List.foldl_cons, decide_eq_false hx, Bool.false_eq_true, if_false]
    exact ih fun y hy => h y (List.mem_cons_of_mem x hy)

/-- A condition whose code is below all others' is the one that the unit raises. -/
theorem raised_head {c : Cond} {cs : List Cond} (h : ∀ x ∈ cs, c.code < x.code) :
    ∃ c' : Cond, raised (c :: cs) = some c' ∧ c'.code = c.code ∧ c'.lanes = c.lanes ∧ c'.aux = c.aux := by
  have hsame : (c :: cs).filter (fun x => x.code == c.code) = [c] := by
    rw [List.filter_cons_of_pos (by simp), List.filter_eq_nil_iff.mpr]
    intro x hx
    simp only [beq_iff_eq]
    exact Nat.ne_of_gt (h x hx)
  have hfirst : ∀ p, ([c].find? p).getD c = c := fun p => by cases h : p c <;> simp [h]
  simp only [raised, bestOf_code_head h, hsame, hfirst]
  exact ⟨_, rfl, rfl, by simp, rfl⟩

theorem issueLive_traps {c : Cond} {cs : List Cond} {eff : State → State} (hw : s.wordsOk .plain)
    (h : ∀ x ∈ cs, c.code < x.code) :
    ∃ c' : Cond, c'.code = c.code ∧ c'.lanes = c.lanes ∧ c'.aux = c.aux ∧
      s.issueLive (c :: cs) eff = .next (s.takeTrap s.exec c') := by
  obtain ⟨c', hr, hcode, hlanes, haux⟩ := raised_head h
  refine ⟨c', hcode, hlanes, haux, ?_⟩
  rw [State.issueLive, State.issue]
  refine issueK_trap ?_
  rw [State.judged, show s.unitConds .plain = [] from hw, List.nil_append, hr]

theorem lowCond_nil {n : Nat} {a : Operand} (h : ∀ l, lowest s.exec = some l → s.srcPois n a l = false) :
    s.lowCond n a = [] := by
  unfold State.lowCond
  cases hl : lowest s.exec with
  | none => rfl
  | some l => simp [h l hl, laneCond]

theorem lowCond_code {n : Nat} {a : Operand} : ∀ x ∈ s.lowCond n a, x.code = 0x0A := by
  unfold State.lowCond
  cases lowest s.exec with
  | none => exact nofun
  | some l =>
    unfold laneCond
    dsimp only
    split
    · simp
    · simp

/-- A value written to a destination in every lane that runs. -/
theorem putAll_writes (hw : s.wordsOk .plain) {d : Operand} (hd : dstBad 1 d = false) (v : Nat) :
    Writes (.next ((s.retire .plain).putAll d s.exec v)) s d 1 (runLanes d s.exec) (fun _ => v) (fun _ => false) := by
  rw [← issue_next (eff := fun t => t.putAll d s.exec v) hw (rfl : ([] : List Cond) = [])]
  exact issue_writes (out := fun _ => { v := v }) hw rfl (lanesFor_run d s.exec) (dstBad_isReg hd) fun _ _ => rfl

end

/-! Modes, tokens and the path LFSR (R193, R207 to R209). -/

section
variable {s : State} (hw : s.wordsOk .plain)
include hw

theorem execModeSet_sets {sel : BitVec 8} {v : BitVec 16} {f : Nat × Nat} (hf : modeField sel.toNat = some f)
    (hv : v.toNat < 2 ^ f.2) (he : s.exec ≠ 0) :
    execModeSet sel v s = .next { s.retire .plain with frag := { (s.retire .plain).frag with
      mr := BitVec.ofNat 32 (setField s.frag.mr.toNat f.1 f.2 v.toNat) } } := by
  unfold execModeSet
  simp only [hf, Option.getD_some, decide_eq_false (Nat.not_le_of_lt hv)]
  refine (issueLive_next hw rfl he).trans ?_
  rw [State.retire_frag_mr]

/-- A selector that Table 11 does not list names no field; no value of 16 bits is too wide for it. -/
theorem execModeSet_reserved {sel : BitVec 8} {v : BitVec 16} (hf : modeField sel.toNat = none) :
    ∃ c : Cond, c.code = 0x01 ∧ c.aux = s.iss.word.toNat ∧ execModeSet sel v s = .next (s.takeTrap s.exec c) := by
  unfold execModeSet
  simp only [hf, Option.getD_none, decide_eq_false (Nat.not_le_of_lt v.isLt)]
  obtain ⟨c, hcode, -, haux, htrap⟩ := issueLive_traps (cs := []) hw nofun
  exact ⟨c, hcode, haux, htrap⟩

theorem execModeSet_wide {sel : BitVec 8} {v : BitVec 16} {f : Nat × Nat} (hf : modeField sel.toNat = some f)
    (hv : 2 ^ f.2 ≤ v.toNat) :
    ∃ c : Cond, c.code = 0x02 ∧ c.lanes = s.exec ∧ execModeSet sel v s = .next (s.takeTrap s.exec c) := by
  unfold execModeSet
  simp only [hf, Option.getD_some, decide_eq_true hv]
  obtain ⟨c, hcode, hlanes, -, htrap⟩ := issueLive_traps (cs := []) hw nofun
  exact ⟨c, hcode, hlanes, htrap⟩

theorem execModePut_puts {a : Operand} (ha : s.srcBad 1 a = false) (he : s.exec ≠ 0)
    (hp : ∀ l, lowest s.exec = some l → s.srcPois 1 a l = false) :
    execModePut a s = .next { s.retire .plain with frag := { (s.retire .plain).frag with
      mr := BitVec.ofNat 32 (s.int a ((lowest s.exec).getD 0) % 2 ^ 21) } } :=
  issueLive_next hw (by rw [encCond_nil.mpr ha, lowCond_nil hp]; rfl) he

theorem execLfsr_shifts {d a : Operand} (hd : dstBad 1 d = false) (ha : s.srcBad 1 a = false) (he : s.exec ≠ 0)
    (hp : ∀ l, lowest s.exec = some l → s.srcPois 1 a l = false) :
    let u := (s.retire .plain).putAll d s.exec s.wave.lfsr.toNat
    execLfsr d a s = .next { u with wave := { u.wave with lfsr := BitVec.ofNat 16 (s.int a ((lowest s.exec).getD 0)) } } :=
  issueLive_next hw (by rw [encCond_nil.mpr hd, encCond_nil.mpr ha, lowCond_nil hp]; rfl) he

end

/-- Settles O16: each form is the shared form of a unit, with its conditions void or one alone. -/
theorem modesAndTokens : Obligations.ModesAndTokens := by
  unfold Obligations.ModesAndTokens
  refine ⟨fun off sel v d a s hw => ⟨issue_next hw rfl, fun he => ?_, fun he => ?_,
    fun f hf hv he => execModeSet_sets hw hf hv he, fun hd => ?_, fun ha he hp => execModePut_puts hw ha he hp⟩,
    fun sel v s hw => ⟨execModeSet_reserved hw, fun f hf hv => execModeSet_wide hw hf hv⟩, fun d a s hw hd he => ⟨?_, ?_⟩⟩
  · exact (issueLive_next hw rfl he : execTok off s = _)
  · exact (issueLive_none hw rfl he : execTok off s = _)
  · exact (issue_writes (out := fun _ => { v := s.frag.mr.toNat }) hw (encCond_nil.mpr hd) (lanesFor_run d s.exec)
      (dstBad_isReg hd) fun _ _ => rfl : Writes (execModeGet d s) _ _ _ _ _ _)
  · have hread : exec (.lfsrRd d) s = .next ((s.retire .plain).putAll d s.exec s.wave.lfsr.toNat) :=
      (issueLive_next hw (encCond_nil.mpr hd) he : execLfsrRd d s = _)
    exact hread ▸ putAll_writes hw hd _
  · exact fun ha hp => ⟨_, _, putAll_writes hw hd _, execLfsr_shifts hw hd ha he hp, rfl⟩

/-! System registers (R215, R216, R413). -/

/-- The high words that reads of TICK_LO and PTS_LO latch (R215). -/
def State.latch (t : State) (tick pts : Word) : State := { t with wave := { t.wave with tickHi := tick, ptsHi := pts } }

theorem setD_latch (t : State) (tick pts : Word) (d : Operand) (l n v : Nat) (p : Bool) :
    (t.latch tick pts).setD d l n v p = (t.setD d l n v p).latch tick pts := by
  cases d with
  | v r => exact List.foldl_hom (fun t : State => t.latch tick pts) fun _ _ => rfl
  | x r => exact List.foldl_hom (fun t : State => t.latch tick pts) fun _ _ => rfl
  | p r => rfl
  | sp r => rfl
  | k r => rfl
  | lit => rfl

theorem putAll_latch (t : State) (tick pts : Word) (d : Operand) (e : LaneMask) (v : Nat) :
    (t.latch tick pts).putAll d e v = (t.putAll d e v).latch tick pts := by
  unfold State.putAll
  generalize runLanes d e = ls
  induction ls generalizing t with
  | nil => rfl
  | cons l ls ih =>
    rw [List.map_cons, writeLanes_cons, writeLanes_cons, setD_latch]
    exact ih _

theorem putAll_latches (t : State) (d : Operand) (e : LaneMask) (v : Nat) :
    (t.putAll d e v).wave.tickHi = t.wave.tickHi ∧ (t.putAll d e v).wave.ptsHi = t.wave.ptsHi := by
  unfold State.putAll
  rw [writeLanes_wave]
  exact ⟨rfl, rfl⟩

/-- A register of Table 4 may be read in a handler and outside, and written where `wr` has it. -/
theorem selConds_listed {s : State} {k : Nat} {wr : Option (Nat → Bool)} (hk : sysListed k = true) (hwr : ∀ p ∈ wr, p k = true) :
    s.selConds k wr = [] := by
  have hlow : k < 0x8000 := by
    simp only [sysListed, Bool.or_eq_true, Bool.and_eq_true, decide_eq_true_eq, beq_iff_eq] at hk
    omega
  have hpriv : decide (0x8000 ≤ k) = false := decide_eq_false (Nat.not_le_of_lt hlow)
  have hlast : decide (0x800B ≤ k) = false := decide_eq_false (by omega)
  cases wr with
  | none => simp [State.selConds, hk, hpriv, hlast, State.encCond]
  | some p => simp [State.selConds, hk, hpriv, hlast, State.encCond, hwr p rfl]

/-- Inside a handler the handler registers may be read, and written where `wr` has them. -/
theorem selConds_inside {s : State} {k : Nat} {wr : Option (Nat → Bool)} (hx : s.wave.hx.isSome = true) (hk : 0x8000 ≤ k)
    (hlast : k < 0x800B) (hwr : ∀ p ∈ wr, p k = true) : s.selConds k wr = [] := by
  have hlast : decide (0x800B ≤ k) = false := decide_eq_false (Nat.not_le_of_lt hlast)
  cases wr with
  | none => simp [State.selConds, hk, hx, hlast, State.encCond]
  | some p => simp [State.selConds, hk, hx, hlast, State.encCond, hwr p rfl]

/-- Outside a handler the selectors from 0x8000 on are privileged: the trap is that of the lanes that run. -/
theorem selConds_outside {s : State} {k : Nat} {wr : Option (Nat → Bool)} (hx : s.wave.hx = none) (hk : 0x8000 ≤ k) :
    s.selConds k wr = if s.exec = 0 then [] else [{ code := 0x04, lanes := s.exec }] := by
  simp [State.selConds, hk, hx, State.encCond]

section
variable {s : State} (hw : s.wordsOk .plain)
include hw

theorem execSysr_listed {d : Operand} {k : BitVec 16} (hd : dstBad 1 d = false) (he : s.exec ≠ 0)
    (hk : sysListed k.toNat = true) :
    execSysr d k s = .next (((s.retire .plain).sysMoves s k.toNat).putAll d s.exec (s.sysRead k.toNat)) := by
  have hlow : ¬0x8000 ≤ k.toNat := by
    simp only [sysListed, Bool.or_eq_true, Bool.and_eq_true, decide_eq_true_eq, beq_iff_eq] at hk
    omega
  refine (issueLive_next hw (by rw [encCond_nil.mpr hd, selConds_listed hk (by simp)]; rfl) he).trans ?_
  simp only [if_neg hlow]

theorem execSysr_handler {d : Operand} {k : BitVec 16} {h : Handler} (hd : dstBad 1 d = false) (he : s.exec ≠ 0)
    (hx : s.wave.hx = some h) (hk : 0x8000 ≤ k.toNat) (hlast : k.toNat < 0x800B) :
    execSysr d k s = .next ((s.retire .plain).putAll d s.exec (h.read (k.toNat - 0x8000))) := by
  have hin : s.wave.hx.isSome = true := by rw [hx]; rfl
  refine (issueLive_next hw (by rw [encCond_nil.mpr hd, selConds_inside hin hk hlast (by simp)]; rfl) he).trans ?_
  simp only [if_pos hk, hx]

theorem execSysr_idle {d : Operand} {k : BitVec 16} (hd : dstBad 1 d = false) (he : s.exec = 0)
    (hk : s.wave.hx = none ∧ 0x8000 ≤ k.toNat ∨ sysListed k.toNat = true) : execSysr d k s = .next (s.retire .plain) := by
  have hc : s.selConds k.toNat none = [] := by
    obtain ⟨hx, hk⟩ | hk := hk
    · rw [selConds_outside hx hk, if_pos he]
    · exact selConds_listed hk (by simp)
  exact issueLive_none hw (by rw [encCond_nil.mpr hd, hc]; rfl) he

theorem execSysr_traps {d : Operand} {k : BitVec 16} (hd : dstBad 1 d = false) (he : s.exec ≠ 0) (hx : s.wave.hx = none)
    (hk : 0x8000 ≤ k.toNat) : ∃ c : Cond, c.code = 0x04 ∧ c.lanes = s.exec ∧ execSysr d k s = .next (s.takeTrap s.exec c) := by
  unfold execSysr
  rw [encCond_nil.mpr hd, selConds_outside hx hk, if_neg he, List.nil_append]
  obtain ⟨c, hcode, hlanes, -, htrap⟩ := issueLive_traps (cs := []) hw nofun
  exact ⟨c, hcode, hlanes, htrap⟩

/-- The privilege trap is the lowest: poison of the operand has code 0x0A (R409). -/
theorem execSysw_traps {a : Operand} {k : BitVec 16} (ha : s.srcBad 1 a = false) (he : s.exec ≠ 0) (hx : s.wave.hx = none)
    (hk : 0x8000 ≤ k.toNat) : ∃ c : Cond, c.code = 0x04 ∧ execSysw a k s = .next (s.takeTrap s.exec c) := by
  unfold execSysw
  rw [encCond_nil.mpr ha, selConds_outside hx hk, if_neg he, List.nil_append, List.singleton_append]
  obtain ⟨c, hcode, -, -, htrap⟩ := issueLive_traps (c := { code := 0x04, lanes := s.exec }) (cs := s.lowCond 1 a) hw
    fun x hx => Nat.lt_of_lt_of_eq (by decide : 0x04 < 0x0A) (lowCond_code x hx).symm
  exact ⟨c, hcode, htrap⟩

theorem execSysw_frame {a : Operand} (ha : s.srcBad 1 a = false) (he : s.exec ≠ 0)
    (hp : ∀ l, lowest s.exec = some l → s.srcPois 1 a l = false) :
    execSysw a 0x0020 s =
      .next ((s.retire .plain).frameStore s.wg.vf s.wg.ctx s.wave.core (s.int a ((lowest s.exec).getD 0))) :=
  issueLive_next hw (by
    rw [encCond_nil.mpr ha, lowCond_nil hp, selConds_listed rfl (by rintro _ ⟨⟩; rfl)]
    rfl) he

theorem execSysw_handler {a : Operand} {k : BitVec 16} {h : Handler} (ha : s.srcBad 1 a = false) (he : s.exec ≠ 0)
    (hp : ∀ l, lowest s.exec = some l → s.srcPois 1 a l = false) (hx : s.wave.hx = some h) (hk : 0x8000 ≤ k.toNat)
    (hlast : k.toNat < 0x800B) (hwr : sysWritable k.toNat = true) :
    execSysw a k s = .next ((s.retire .plain).writeHx h (k.toNat - 0x8000) (s.int a ((lowest s.exec).getD 0))) := by
  have hin : s.wave.hx.isSome = true := by rw [hx]; rfl
  have hframe : k.toNat ≠ 0x20 := by omega
  have hret : (s.retire .plain).wave.hx = some h := by rw [State.retire_wave]; exact hx
  refine (issueLive_next hw ?_ he).trans ?_
  · rw [encCond_nil.mpr ha, lowCond_nil hp, selConds_inside hin hk hlast (by rintro _ ⟨⟩; exact hwr)]
    rfl
  · simp only [if_neg hframe, hret]
    rfl

theorem execSysw_idle {a : Operand} {k : BitVec 16} (ha : s.srcBad 1 a = false) (he : s.exec = 0)
    (hc : s.selConds k.toNat (some sysWritable) = []) : execSysw a k s = .next (s.retire .plain) := by
  have hlow : s.lowCond 1 a = [] := lowCond_nil fun l hl => by
    rw [he, show lowest 0 = none by decide] at hl
    cases hl
  exact issueLive_none hw (by rw [encCond_nil.mpr ha, hc, hlow]; rfl) he

/-- What a read of one register of Table 4 gives, where it neither latches nor takes a lease. -/
theorem sysr_reads {d : Operand} {k : BitVec 16} {v : Nat} (hd : dstBad 1 d = false) (he : s.exec ≠ 0)
    (hk : sysListed k.toNat = true) (hlo : k.toNat ≠ 0x10 ∧ k.toNat ≠ 0x12 ∧ k.toNat ≠ 0x20) (hv : s.sysRead k.toNat = v) :
    Writes (exec (.sysr d k) s) s d 1 (runLanes d s.exec) (fun _ => v) (fun _ => false) := by
  obtain ⟨htick, hpts, hframe⟩ := hlo
  have hexec : exec (.sysr d k) s = _ := execSysr_listed hw hd he hk
  rw [hexec, State.sysMoves, if_neg htick, if_neg hpts, if_neg hframe, hv]
  exact putAll_writes hw hd v

theorem sysr_latches_tick {d : Operand} (hd : dstBad 1 d = false) (he : s.exec ≠ 0) :
    ∃ u t, Writes (.next u) s d 1 (runLanes d s.exec) (fun _ => s.now % 2 ^ 32) (fun _ => false) ∧
      exec (.sysr d 0x0010) s = .next t ∧ t = { u with wave := { u.wave with tickHi := BitVec.ofNat 32 (s.now / 2 ^ 32) } } := by
  have hexec : exec (.sysr d 0x0010) s = _ := execSysr_listed hw hd he rfl
  refine ⟨_, _, putAll_writes hw hd _, hexec, ?_⟩
  refine (putAll_latch (s.retire .plain) _ (s.retire .plain).wave.ptsHi d s.exec _).trans ?_
  rw [← (putAll_latches (s.retire .plain) d s.exec (s.now % 2 ^ 32)).2]
  rfl

theorem sysr_latches_pts {d : Operand} (hd : dstBad 1 d = false) (he : s.exec ≠ 0) :
    ∃ u t, Writes (.next u) s d 1 (runLanes d s.exec) (fun _ => s.ptsOf s.wave.core % 2 ^ 32) (fun _ => false) ∧
      exec (.sysr d 0x0012) s = .next t ∧
      t = { u with wave := { u.wave with ptsHi := BitVec.ofNat 32 (s.ptsOf s.wave.core / 2 ^ 32) } } := by
  have hexec : exec (.sysr d 0x0012) s = _ := execSysr_listed hw hd he rfl
  refine ⟨_, _, putAll_writes hw hd _, hexec, ?_⟩
  refine (putAll_latch (s.retire .plain) (s.retire .plain).wave.tickHi _ d s.exec _).trans ?_
  rw [← (putAll_latches (s.retire .plain) d s.exec (s.ptsOf s.wave.core % 2 ^ 32)).1]
  rfl

end

/-! The return actions of HX_RET (R414 Table 3). -/

theorem writeHx_return (s : State) (h : Handler) (v : Nat) : s.writeHx h 10 v = s.handlerReturn h v := rfl

theorem handlerReturn_after {s : State} {h : Handler} {v : Nat} (hc : h.cause ≠ 0x11) (hv : v % 4 = 0) :
    s.handlerReturn h v = s.leaveHandler h (h.w + 4) := by
  simp only [State.handlerReturn, if_neg hc, hv, State.returnAfter]

theorem handlerReturn_to {s : State} {h : Handler} {v : Nat} (hc : h.cause ≠ 0x11) (hv : v % 4 = 1) :
    s.handlerReturn h v = s.leaveHandler h h.pc := by
  simp only [State.handlerReturn, if_neg hc, hv, State.returnTo]

theorem handlerReturn_ends {s : State} {h : Handler} {v : Nat} (hv : h.cause = 0x11 ∨ 2 ≤ v % 4) :
    s.handlerReturn h v = s.endInHandler h := by
  unfold State.handlerReturn
  split
  · rfl
  next hc =>
    have hv : 2 ≤ v % 4 := hv.resolve_left hc
    split
    · omega
    · omega
    · rfl

/-- The registers of Table 4 that a read only reads, with what they read. -/
theorem sysRead_listed {s : State} {x : Nat × Nat}
    (hx : x ∈ [(0x0000, devCfg), (0x0011, s.wave.tickHi.toNat), (0x0013, s.wave.ptsHi.toNat),
      (0x0014, s.mhz (s.wave.core / 16))] ++ (List.range 12).map (fun i => (0x0001 + i, 0xFFFF))) :
    sysListed x.1 = true ∧ (x.1 ≠ 0x10 ∧ x.1 ≠ 0x12 ∧ x.1 ≠ 0x20) ∧ s.sysRead x.1 = x.2 := by
  simp only [List.mem_append, List.mem_cons, List.not_mem_nil, or_false, List.mem_map, List.mem_range] at hx
  obtain (rfl | rfl | rfl | rfl) | ⟨i, hi, rfl⟩ := hx
  · exact ⟨rfl, by simp, rfl⟩
  · exact ⟨rfl, by simp, rfl⟩
  · exact ⟨rfl, by simp, rfl⟩
  · exact ⟨rfl, by simp, rfl⟩
  · have hlow : 1 + i ≤ 0x0C := by omega
    have hpos : ¬1 + i = 0 := by omega
    refine ⟨?_, by omega, ?_⟩
    · simp [sysListed, hlow]
    · simp only [State.sysRead, if_neg hpos, if_pos hlow]

/-- Settles O25: each selector's conditions are void, or the privilege trap alone is raised. -/
theorem systemRegisters : Obligations.SystemRegisters := by
  unfold Obligations.SystemRegisters
  refine ⟨fun d k s hw hd => ⟨fun he => ⟨fun x hx hk => ?_, ?_, ?_, ?_, fun h hh x hx hk => ?_⟩, fun he hk => ?_⟩,
    fun d a k s hw he hx hk => ⟨fun hd => execSysr_traps hw hd he hx hk, fun ha => execSysw_traps hw ha he hx hk⟩,
    fun a s hw ha => ⟨fun he hp => ⟨execSysw_frame hw ha he hp, fun h hh => ?_⟩, fun he => ⟨?_, fun hx k hk => ?_⟩⟩⟩
  · obtain ⟨hlist, hplain, hv⟩ := sysRead_listed hx
    rw [← hk] at hlist hplain hv
    exact sysr_reads hw hd he hlist hplain hv
  · rintro rfl
    exact sysr_latches_tick hw hd he
  · rintro rfl
    exact sysr_latches_pts hw hd he
  · rintro rfl
    exact execSysr_listed hw hd he rfl
  · have hread : h.read x.1 = x.2 ∧ x.1 ≤ 10 := by
      simp only [List.mem_cons, List.not_mem_nil, or_false] at hx
      obtain rfl | rfl | rfl | rfl | rfl | rfl | rfl | rfl | rfl | rfl | rfl := hx <;> exact ⟨rfl, by simp⟩
    obtain ⟨hv, hle⟩ := hread
    have hexec : exec (.sysr d k) s = _ := execSysr_handler hw hd he hh (by omega) (by omega)
    rw [hexec, hk, Nat.add_sub_cancel_left, hv]
    exact putAll_writes hw hd x.2
  · refine execSysr_idle hw hd he (hk.imp_right fun hk => ?_)
    obtain hk | ⟨hlo, hhi⟩ | rfl := hk
    · simp [sysListed, hk]
    · simp [sysListed, hlo, hhi]
    · rfl
  · have hput {k : BitVec 16} (j : Nat) (hk : k.toNat = 0x8000 + j ∧ j < 0x0B ∧ sysWritable k.toNat = true) :
        exec (.sysw a k) s = .next ((s.retire .plain).writeHx h j (s.int a ((lowest s.exec).getD 0))) := by
      obtain ⟨hj, hlast, hwr⟩ := hk
      have hexec : exec (.sysw a k) s = _ := execSysw_handler hw ha he hp hh (by omega) (by omega) hwr
      rw [hexec, hj, Nat.add_sub_cancel_left]
    have hret := (hput (k := 0x800A) 10 (by decide)).trans (congrArg _ (writeHx_return _ _ _))
    refine ⟨hput 2 (by decide), hput 3 (by decide), hput 9 (by decide), fun hc hv => ?_, fun hc hv => ?_, fun hv => ?_⟩
    · rw [hret, handlerReturn_after hc hv]
    · rw [hret, handlerReturn_to hc hv]
    · rw [hret, handlerReturn_ends hv]
  · exact execSysw_idle hw ha he (selConds_listed rfl (by rintro _ ⟨⟩; rfl))
  · refine execSysw_idle hw ha he ?_
    simp only [List.mem_cons, List.not_mem_nil, or_false] at hk
    obtain rfl | rfl | rfl | rfl := hk <;>
      exact selConds_inside hx (by decide) (by decide) (by rintro _ ⟨⟩; rfl)

end Sys2Proof.Machine

/-! ### Stores (R272 to R275, R281) -/

namespace Sys2Proof.Machine

/-- A store's own conditions: its width code and its address operands. -/
theorem storeConds_nil {s : State} {w : Fin 8} {b : Fin 32} {x : Operand} {pair : Bool} (hw : w.val ≠ 7)
    (hsgn : (widthOf w.val).sgn = false) (hpair : pair = true → b.val % 2 = 0) (hx : s.srcBad 1 x = false) :
    s.encCond (decide (w.val = 7) || (widthOf w.val).sgn) 0x01 ++ s.addrConds pair b x = [] := by
  rw [addrConds_nil hpair hx, encCond_nil.mpr (by simp [hw, hsgn]), List.nil_append]

/-- An interval's width code, element type and address operands (R275). -/
theorem ivlMemConds_nil {s : State} {w : Fin 8} {b : Fin 32} {x : Operand} (hw : w.val < 5) (het : s.et = 6 ∨ s.et = 7)
    (hpair : (spaceOf w.val).pair = true → b.val % 2 = 0) (hx : s.srcBad 1 x = false) : s.ivlMemConds w b x = [] := by
  have hcode : (decide (4 < w.val) || !(s.et == 6 || s.et == 7)) = false := by
    have hw : ¬4 < w.val := by omega
    rcases het with h | h <;> simp [hw, h]
  rw [State.ivlMemConds, addrConds_nil hpair hx, encCond_nil.mpr hcode, List.nil_append]

/-- Settles O31: every form is the shared store, with no condition left. -/
theorem stores : Obligations.Stores := by
  unfold Obligations.Stores
  intro d x w b is s hx hpx
  refine ⟨fun hw hsgn => ⟨fun y hy hpair hd hpd ha => ?_, fun hb hvb hd hpd ha => ?_⟩, fun hw het hpair hd hpd ha => ?_⟩
  · have hexec : exec y.1 s = s.st y.2 d w b x := by
      simp only [List.mem_cons, List.not_mem_nil, or_false] at hy
      rcases hy with rfl | rfl | rfl | rfl | rfl <;> rfl
    exact hexec.trans (storeUnit_next hd (storeConds_nil hw hsgn hpair hx) (by simpa using ⟨hpd, hpx⟩) ha)
  · exact storeUnit_next hd (storeConds_nil hw hsgn (fun _ => hb) hx) (by simpa using ⟨hpd, hpx, hvb⟩) ha
  · exact storeUnit_next hd (ivlMemConds_nil hw het hpair hx) (by simpa using ⟨hpd, hpx⟩) ha

end Sys2Proof.Machine

/-! ### Children from a wave, traps and breakpoints (R58, R212 to R214, R217, R218, R467) -/

namespace Sys2Proof.Machine

/-! The lanes of lrec and launch, and their addresses (R212, R213). -/

theorem nodup_passLanes (s : State) (os : List Operand) : (s.passLanes os).Nodup := by
  unfold State.passLanes
  split
  · exact (nodup_lanesOf s.exec).sublist (List.take_sublist 1 _)
  · exact nodup_lanesOf s.exec

/-- Lanes of a list in which nothing is wrong raise no condition. -/
theorem laneCond_filter_nil {c a x : Nat} {ls : List Nat} {p : Nat → Bool} (h : ∀ l ∈ ls, p l = false) :
    laneCond c (maskOf (ls.filter p)) a x = [] := by
  rw [laneCond_nil, List.filter_eq_nil_iff.mpr (by simpa using h), maskOf_nil]

theorem passCond_nil {s : State} {ls : List Nat} {n : Nat} {o : Operand} (h : ∀ l ∈ ls, s.srcPois n o l = false) :
    s.passCond ls n o = [] := laneCond_filter_nil h

/-- The reads of a unit that meet poison at home (R419): none, where each has none. -/
theorem filter_homePoison_nil {s : State} {is : List Item} (h : ∀ i ∈ is, (s.homeItem i).2 = false) :
    is.filter (fun i => (s.homeItem i).2) = [] :=
  List.filter_eq_nil_iff.mpr (by simpa using h)

/-! lrec (R212). -/

/-- Of three accesses for each lane, those at a place that three divides are the first of each lane. -/
theorem filterMap_zipIdx_triples {α β : Type} (f g h : α → β) (ls : List α) {k : Nat} (hk : k % 3 = 0) :
    ((ls.flatMap (fun l => [f l, g l, h l])).zipIdx k).filterMap (fun r => if r.2 % 3 = 0 then some r.1 else none) =
      ls.map f := by
  induction ls generalizing k with
  | nil => rfl
  | cons l ls ih =>
    have h1 : ¬(k + 1) % 3 = 0 := by omega
    have h2 : ¬(k + 1 + 1) % 3 = 0 := by omega
    simp only [List.flatMap_cons, List.cons_append, List.nil_append, List.zipIdx_cons, List.filterMap_cons, hk, h1, h2,
      if_true, if_false, List.map_cons]
    rw [ih (by omega)]

/-- With clean addresses, and every lane's template and RCB in order, lrec has no condition (R212, R219). -/
theorem execLrec_writes {s : State} {a b : Operand} {r x y : Nat → Item} (hw : s.wordsOk .plain) (ha : a.isPair = true)
    (hb : b.isPair = true)
    (hls : ∀ l ∈ s.passLanes [a, b], s.srcPois 2 a l = false ∧ s.srcPois 2 b l = false ∧ s.addr56 a l % 256 = 0 ∧
      s.judgeLane .g .read 128 l (s.addr56 b l) 128 = .ok (r l) ∧ s.judgeLane .g .write 256 l (s.addr56 a l) 128 = .ok (x l) ∧
      s.judgeLane .g .write 128 l (s.addr56 a l + 128) 128 = .ok (y l) ∧ (s.homeItem (r l)).2 = false)
    (hheld : ∀ i ∈ (s.passLanes [a, b]).flatMap (fun l => [r l, x l, y l]), s.heldItem i = false) :
    let is := (s.passLanes [a, b]).flatMap (fun l => [r l, x l, y l])
    execLrec a b s = .next (lrecLanes s.wg.launchAddr.toNat (s.sharedItems is) (s.begun is)) := by
  have haccesses : (s.passLanes [a, b]).flatMap (fun l =>
      [s.judgeLane .g .read 128 l (s.addr56 b l) 128, s.judgeLane .g .write 256 l (s.addr56 a l) 128,
       s.judgeLane .g .write 128 l (if s.addr56 a l % 256 = 0 then s.addr56 a l + 128 else 0) 128]) =
      (s.passLanes [a, b]).flatMap (fun l => [.ok (r l), .ok (x l), .ok (y l)]) := by
    refine List.flatMap_congr fun l hl => ?_
    obtain ⟨-, -, halign, hr, hx, hy, -⟩ := hls l hl
    rw [if_pos halign, hr, hx, hy]
  have hpoisA : ∀ l ∈ s.passLanes [a, b], s.srcPois 2 a l = false := fun l hl => (hls l hl).1
  have hpoisB : ∀ l ∈ s.passLanes [a, b], s.srcPois 2 b l = false := fun l hl => (hls l hl).2.1
  have htemplates : judgeAll ((s.passLanes [a, b]).map (fun l => .ok (r l))) = ([], (s.passLanes [a, b]).map r) := by
    rw [← judgeAll_ok, List.map_map]
    rfl
  have hclean : ((s.passLanes [a, b]).map r).filter (fun i => (s.homeItem i).2) = [] := by
    refine filter_homePoison_nil fun i hi => ?_
    obtain ⟨l, hl, rfl⟩ := List.mem_map.mp hi
    obtain ⟨-, -, -, -, -, -, hhome⟩ := hls l hl
    exact hhome
  simp only [execLrec, haccesses, filterMap_zipIdx_triples _ _ _ _ (Nat.zero_mod 3), htemplates, hclean]
  refine issueMet_next hw ?_ ?_ hheld
  · rw [encCond_nil.mpr (by simp [ha, hb]), passCond_nil hpoisA, passCond_nil hpoisB]
    rfl
  · rw [List.map_flatMap]
    rfl

/-! launch (R58, R213, R214). -/

/-- An access of global memory is that of its lane. -/
theorem judgeLane_lane {s : State} {acc : Access} {al l a n : Nat} {i : Item} (h : s.judgeLane .g acc al l a n = .ok i) :
    i.lane = l := by
  unfold State.judgeLane at h
  simp only at h
  split at h
  · simp at h
  · cases hv : s.judgeVa false acc l a a with
    | error c => simp [hv, Except.map] at h
    | ok x =>
      simp only [hv, Except.map, Except.ok.injEq] at h
      exact h ▸ rfl

theorem rcbItems_lane {s : State} {l va : Nat} {is : List Item} (h : s.rcbItems l va = is.map .ok) :
    ∀ i ∈ is, i.lane = l := by
  intro i hi
  have hmem : Except.ok i ∈ s.rcbItems l va := h ▸ List.mem_map_of_mem hi
  obtain ⟨p, -, hp⟩ := List.mem_map.mp hmem
  exact judgeLane_lane hp

/-- Among the accesses of different lanes, those of lane `l` are its own. -/
theorem filter_lane_flatMap {r : Nat → List Item} {ls : List Nat} (hnd : ls.Nodup) (hr : ∀ l ∈ ls, ∀ i ∈ r l, i.lane = l)
    {l : Nat} (hl : l ∈ ls) : (ls.flatMap r).filter (fun i => i.lane == l) = r l := by
  have hlane (k : Nat) (hk : k ∈ ls) : (r k).filter (fun i => i.lane == l) = if k = l then r k else [] := by
    split
    · next h => exact List.filter_eq_self.mpr fun i hi => by simp [hr k hk i hi, h]
    · next h => exact List.filter_eq_nil_iff.mpr fun i hi => by simp [hr k hk i hi, h]
  rw [List.filter_flatMap, List.flatMap_congr hlane]
  clear hr hlane
  induction ls with
  | nil => exact absurd hl List.not_mem_nil
  | cons k ks ih =>
    obtain ⟨hk, hks⟩ := List.nodup_cons.mp hnd
    rw [List.flatMap_cons]
    rcases List.mem_cons.mp hl with rfl | hl
    · rw [if_pos rfl, List.flatMap_eq_nil_iff.mpr fun j hj => if_neg (by rintro rfl; exact hk hj), List.append_nil]
    · rw [if_neg (by rintro rfl; exact hk hl), List.nil_append, ih hks hl]

/-- With clean addresses, every lane's RCB in order, and room in the queue budget, launch has no condition (R213, R214). -/
theorem execLaunch_posts {s : State} {a : Operand} {r : Nat → List Item} (hw : s.wordsOk .plain) (ha : a.isPair = true)
    (hls : ∀ l ∈ s.passLanes [a], s.srcPois 2 a l = false ∧ s.rcbItems l (s.addr56 a l) = (r l).map .ok ∧
      (∀ i ∈ r l, (s.homeItem i).2 = false ∧ s.heldItem i = false) ∧
      postOk ((r l).flatMap (fun i => (s.homeItem i).1)) s.wg.launchAddr.toNat = true)
    (hroom : s.rcbGet s.who s.wg.launchAddr.toNat 5 1 + (s.passLanes [a]).length ≤ s.wg.budget.lqdepth) :
    let is := (s.passLanes [a]).flatMap r
    execLaunch a s = .next (State.postLanes s.wg.launchAddr.toNat (s.addr56 a) (s.passLanes [a]) (s.sharedItems is)
      (s.begun is)) := by
  have haccesses : (s.passLanes [a]).flatMap (fun l => s.rcbItems l (s.addr56 a l)) = ((s.passLanes [a]).flatMap r).map .ok := by
    rw [List.map_flatMap]
    exact List.flatMap_congr fun l hl => (hls l hl).2.1
  have hitems : ∀ i ∈ (s.passLanes [a]).flatMap r, (s.homeItem i).2 = false ∧ s.heldItem i = false := by
    intro i hi
    obtain ⟨l, hl, hil⟩ := List.mem_flatMap.mp hi
    obtain ⟨-, -, hl, -⟩ := hls l hl
    exact hl i hil
  have hposted : ∀ l ∈ s.passLanes [a], (((s.passLanes [a]).flatMap r).any (fun i => i.lane == l) &&
      !postOk ((((s.passLanes [a]).flatMap r).filter (fun i => i.lane == l)).flatMap (fun i => (s.homeItem i).1))
        s.wg.launchAddr.toNat) = false := by
    intro l hl
    obtain ⟨-, -, -, hok⟩ := hls l hl
    rw [filter_lane_flatMap (nodup_passLanes s [a]) (fun k hk => rcbItems_lane (hls k hk).2.1) hl, hok, Bool.not_true,
      Bool.and_false]
  simp only [execLaunch, haccesses, judgeAll_ok, filter_homePoison_nil fun i hi => (hitems i hi).1,
    decide_eq_false (Nat.not_lt.mpr hroom)]
  refine issueMet_next hw ?_ rfl fun i hi => (hitems i hi).2
  rw [encCond_nil.mpr (by rw [ha]; rfl), passCond_nil fun l hl => (hls l hl).1, if_neg Bool.false_ne_true,
    laneCond_filter_nil hposted]
  rfl

/-- Settles O23: with every lane in order neither instruction has a condition left, and what remains is its effect. -/
theorem launchRecordsAndChildren : Obligations.LaunchRecordsAndChildren := by
  unfold Obligations.LaunchRecordsAndChildren
  exact ⟨fun a b r x y s hw ha hb hls hheld => execLrec_writes hw ha hb hls hheld,
    fun a r s hw ha hls hroom => execLaunch_posts hw ha hls hroom⟩

/-! trap, a word that is no instruction, and brk (R217, R218, R467). -/

/-- The only condition of a unit is raised as it is, where stage 2 refused nothing (R409). -/
theorem raised_one {c : Cond} (h : c.ipas = []) : raised [c] = some c := by
  have hself : [c].filter (fun x => x.code == c.code) = [c] := by simp
  have hfirst : ∀ p, ([c].find? p).getD c = c := fun p => by cases hp : p c <;> simp [hp]
  have hfields : ({ c with ipas := [] } : Cond) = c := by rw [← h]
  simp only [raised, bestOf, List.foldl_nil, hself, hfirst]
  simpa [h] using hfields

theorem issue_trap_exact {s : State} {c : Cond} {eff : State → State} (hw : s.wordsOk .plain) (hc : c.ipas = []) :
    s.issue [c] eff = .next (s.takeTrap s.exec c) := by
  refine issueK_trap ?_
  rw [State.judged, show s.unitConds .plain = [] from hw, List.nil_append, raised_one hc]

section
variable {s : State} {c : BitVec 8} (hw : s.wordsOk .plain)
include hw

theorem execTrap_traps (he : s.exec ≠ 0) :
    execTrap c s = .next (s.takeTrap s.exec { code := 0x10, lanes := s.exec, sw := c.toNat }) := by
  rw [execTrap, if_neg he, issue_trap_exact hw rfl]

theorem execTrap_idle (he : s.exec = 0) : execTrap c s = .next (s.retire .plain) := by
  rw [execTrap, if_pos he, issue_next hw rfl, id]

theorem execUnassignedOpcode_traps {w : Word} :
    execUnassignedOpcode w s = .next (s.takeTrap s.exec { code := 0x01, lanes := s.exec, aux := w.toNat }) :=
  issue_trap_exact hw rfl

theorem execBrk_goes_on (he : s.exec ≠ 0) (hh : SMap.get false (256 * s.wg.vf + s.wg.ctx) s.halts = false) :
    execBrk c s = .next (s.retire .plain) := by
  rw [execBrk, issueLive_next hw rfl he, hh, if_neg Bool.false_ne_true]

theorem execBrk_halts (he : s.exec ≠ 0) (hh : SMap.get false (256 * s.wg.vf + s.wg.ctx) s.halts = true) :
    execBrk c s = .next { (s.retire .plain).park s.frag.pc (.halt c.toNat) with
      halted := s.halted ++ [(64 * s.wave.id + s.frag.slot, c.toNat)] } := by
  rw [execBrk, issueLive_next hw rfl he, if_pos hh, ← s.retire_halted .plain]
  rfl

end

/-- Settles O24: trap with lanes and a word that is no instruction have their one condition, the others have none; brk parks
the fragment at its unit, which leaves registers and memory as they are. -/
theorem trapsAndBreakpoints : Obligations.TrapsAndBreakpoints := by
  unfold Obligations.TrapsAndBreakpoints
  refine ⟨fun c w s hw => ⟨execTrap_traps hw, execTrap_idle hw, execUnassignedOpcode_traps hw⟩,
    fun c s hw he => ⟨execBrk_goes_on hw he, fun hh => ⟨_, execBrk_halts hw he hh, ?_⟩⟩⟩
  have hwave : ((s.retire .plain).park s.frag.pc (.halt c.toNat)).wave = { s.wave with place := none } := s.retire_wave .plain
  exact ⟨State.park_status _ _ _, State.park_wait _ _ _, State.park_pc _ _ _, rfl, s.retire_mem .plain,
    congrArg (·.vregs) hwave, congrArg (·.xregs) hwave, congrArg (·.preds) hwave⟩

end Sys2Proof.Machine

/-! ### Integers: arithmetic, carries, comparison, moves, lane exchange and predicates (R221 to R237, R240, R242)

What follows settles the statements of chapter 9 of the spec, except its reductions. The rule of an instruction on the integer
view stands under Laws; each other shared form has its rule here, cited once for each instruction that has the form. -/

namespace Sys2Proof.Machine

/-! The integer view's forms (R221, R222, R242). -/

theorem intGives_of_exec {i : Instr} {s : State} {d : Operand} {srcs : List Operand} {readsD : Bool}
    {f : Nat → Nat × List Nat} (h : exec i s = s.intUnit d srcs readsD f) : IntGives i s d srcs readsD f := by
  intro hready
  rw [h]
  exact intUnit_gives f hready

theorem intWrites_of_exec {i : Instr} {s : State} {d : Operand} {srcs : List Operand} {readsD : Bool} {f : Nat → Nat}
    (h : exec i s = s.intUnit d srcs readsD (fun l => (f l, []))) : IntWrites i s d srcs readsD f := by
  intro hready
  rw [h]
  exact intUnit_writes f hready

theorem exec_neg_eq_intUnit (d a : Operand) (s : State) :
    exec (.neg d a) s = s.intUnit d [a] false (fun l => (s.narrowView (-s.viewI a l), [])) := by
  simp only [← Int.zero_sub]
  rfl

theorem exec_abs_eq_intUnit (d a : Operand) (s : State) :
    exec (.abs d a) s = s.intUnit d [a] false (fun l => (s.narrowView |s.viewI a l|, [])) := by
  simp only [Int.abs_eq_natAbs]
  rfl

/-- Settles O1: each instruction is the shared form of the integer view, and its lanes take the values that the statement
names: first logic and counts, then shifts and fields. -/
theorem logicShiftsAndFields : Obligations.LogicShiftsAndFields := by
  unfold Obligations.LogicShiftsAndFields
  refine ⟨fun d a b s => ⟨?and, ?or, ?xor, ?not, ?andn, ?popc, ?clz, ?ctz, ?brev⟩,
    fun d a b s => ⟨?shl, ?shr, ?sar, ?rol, ?bfx, ?bfi⟩⟩
  all_goals exact intWrites_of_exec rfl

/-- Settles O2: each form is the integer view's; only a quotient and a remainder have causes to log. -/
theorem integerArithmetic : Obligations.IntegerArithmetic := by
  unfold Obligations.IntegerArithmetic
  refine ⟨fun d a b s => ⟨?add, ?sub, ?mul, ?mulh, ?mad, ?madh, ?neg, ?abs, ?min, ?max⟩, fun d a b s => ⟨?div, ?rem⟩⟩
  case neg => exact intWrites_of_exec (exec_neg_eq_intUnit d a s)
  case abs => exact intWrites_of_exec (exec_abs_eq_intUnit d a s)
  case div | rem => exact intGives_of_exec rfl
  all_goals exact intWrites_of_exec rfl

/-! Conditions of the forms below that a legal unit does not raise (R222, R242). -/

/-- A check that holds raises nothing. -/
theorem checkCond_nil {s : State} {b : Bool} {c : Nat} (h : b = true) : s.encCond (!b) c = [] :=
  encCond_nil.mpr (by rw [h]; rfl)

/-- An element type that has an integer view raises no condition (R242). -/
theorem viewCond_nil {s : State} (h : (intView s.et).isSome = true) : s.encCond (intView s.et).isNone 0x01 = [] :=
  encCond_nil.mpr (Option.isNone_eq_false_iff.mpr h)

/-- Lanes of which none is poisoned, or a destination that holds poison, raise nothing (R222). -/
theorem lanesPois_nil {d : Operand} {ls : List Nat} {p : Nat → Bool} {c : Nat} (h : d.isV = true ∨ ∀ l ∈ ls, p l = false) :
    (if d.isV then [] else laneCond 0x0A (maskOf (ls.filter p)) 0 c) = [] := by
  rcases h with hv | hclean
  · rw [if_pos hv]
  · rw [laneCond_filter_nil hclean, ite_self]

/-! Carries (R224). -/

/-- A unit with no condition that writes its lanes and then sets a predicate in the same lanes. -/
theorem issue_writes_setsP {s : State} {cs : List Cond} {d : Operand} {n p : Nat} {m : LaneMask} {ls : List Nat}
    {v : Nat → Nat} {q : Nat → Tri} (hw : s.wordsOk .plain) (hc : cs = []) (hl : LanesFor d m ls)
    (hd : d.isReg = true ∨ d.isP = true) :
    ∃ u t, Writes (.next u) s d n ls v (fun _ => false) ∧
      s.issue cs (fun t => ls.foldl (fun t l => t.setP p l (q l)) (t.writeLanes d n (ls.map (fun l => (l, { v := v l }))))) =
        .next t ∧
      t = { u with wave := { u.wave with preds := t.wave.preds } } ∧ WroteP u t p ls q := by
  have hwrites := issue_writes (cs := []) (n := n) (out := fun l => { v := v l }) hw rfl hl hd (fun _ _ => rfl)
  rw [issue_next hw rfl] at hwrites
  obtain ⟨hpred, hrest⟩ := foldl_setP ((s.retire .plain).writeLanes d n (ls.map (fun l => (l, { v := v l })))) p q ls
    hl.lt hl.nodup
  exact ⟨_, _, hwrites, issue_next hw hc, hrest, hpred⟩

/-- addc and subb, whose lanes `f` gives the value and the carry out (R224). -/
theorem carryUnit_carries {s : State} {d a b : Operand} (f : Nat → Nat → Nat → Nat × Bool) (hw : s.wordsOk .plain)
    (hv : (intView s.et).isSome = true) (hd : dstBad s.view.1.regs d = false)
    (hs : ∀ o ∈ [a, b], s.srcBad s.view.1.regs o = false)
    (hp : s.poisonAt (runLanes d s.exec) [(s.view.1.regs, a), (s.view.1.regs, b)] = []) :
    let r (l : Nat) : Nat × Bool := f (s.viewU a l) (s.viewU b l) (if s.pred 15 l = .t then 1 else 0)
    ∃ u t, Writes (.next u) s d s.view.1.regs (runLanes d s.exec) (fun l => (r l).1) (fun _ => false) ∧
      s.carryUnit d a b f = .next t ∧ t = { u with wave := { u.wave with preds := t.wave.preds } } ∧
      WroteP u t 15 (runLanes d s.exec) (fun l => if (r l).2 then .t else .f) := by
  refine issue_writes_setsP hw ?_ (lanesFor_run d s.exec) (dstBad_isReg hd)
  rw [viewCond_nil hv, encCond_nil.mpr hd, encCond_nil.mpr (any_srcBad_false hs), hp]
  rfl

/-- Settles O3: the two forms differ in what a lane gives. -/
theorem carryChains : Obligations.CarryChains := by
  unfold Obligations.CarryChains
  intro d a b s hw hv hd hs hp c ls
  have haddc := carryUnit_carries (fun x y c =>
    ((x + y + c) % 2 ^ s.view.1.bits, decide (2 ^ s.view.1.bits ≤ x + y + c))) hw hv hd hs hp
  have hsubb := carryUnit_carries (fun x y c =>
    ((x + 2 ^ s.view.1.bits * 2 - y - c) % 2 ^ s.view.1.bits, decide (x < y + c))) hw hv hd hs hp
  simp only [decide_eq_true_eq] at haddc hsubb
  exact ⟨haddc, hsubb⟩

/-! Comparison, selection and moves (R231 to R234). -/

section
variable {s : State} (hw : s.wordsOk .plain)
include hw

theorem execCmp_compares {r p : Fin 16} {a b : Operand} (hv : (intView s.et).isSome = true) (hr : r.val < 6)
    (hs : ∀ o ∈ [a, b], s.srcBad s.view.1.regs o = false)
    (hp : s.poisonCond (.p p) [(s.view.1.regs, a), (s.view.1.regs, b)] = []) :
    SetsPred (execCmp r p a b s) s p.val (lanesOf s.exec)
      (fun l => if cmpHolds r.val (s.viewI a l) (s.viewI b l) then .t else .f) := by
  refine issue_setsPred hw ?_
  rw [viewCond_nil hv, encCond_nil.mpr (decide_eq_false (Nat.not_le_of_lt hr)), encCond_nil.mpr (any_srcBad_false hs), hp]
  rfl

theorem execSel_selects {d a b : Operand} (het : etOk s.et = true) (hd : dstBad s.moveSh.regs d = false)
    (ha : s.srcBad s.moveSh.regs a = false) (hb : b.isP = true)
    (hp : d.isV = true ∨ ∀ l ∈ runLanes d s.exec, s.srcPois s.moveSh.regs a l = false) :
    Writes (execSel d a b s) s d s.moveSh.regs ((runLanes d s.exec).filter (fun l => s.pred b.num l == .t))
      (s.src s.moveSh a) (s.srcPois s.moveSh.regs a) := by
  refine issue_writes (out := fun l => { v := s.src s.moveSh a l, pois := s.srcPois s.moveSh.regs a l }) hw ?_
    (lanesFor_filter d s.exec _) (dstBad_isReg hd) fun _ _ => rfl
  rw [checkCond_nil het, encCond_nil.mpr hd, encCond_nil.mpr ha, checkCond_nil hb,
    lanesPois_nil (hp.imp_right fun h l hl => h l (List.mem_of_mem_filter hl))]
  rfl

theorem execMov_moves {d a : Operand} (het : etOk s.et = true) (hd : d.isReg = true ∨ d.isP = true)
    (hda : d.aligned s.moveSh.regs = true) (haa : a.aligned s.moveSh.regs = true) (ha : s.noLit a = false)
    (hp : s.poisonCond d [(s.moveSh.regs, a)] = []) :
    Writes (execMov d a s) s d s.moveSh.regs (runLanes d s.exec) (s.src s.moveSh a) (s.srcPois s.moveSh.regs a) := by
  refine issue_writes (out := fun l => { v := s.src s.moveSh a l, pois := s.srcPois s.moveSh.regs a l }) hw ?_
    (lanesFor_run d s.exec) hd fun _ _ => rfl
  rw [checkCond_nil het, checkCond_nil (Bool.or_eq_true_iff.mpr hd), encCond_nil.mpr (by rw [hda, haa]; rfl),
    encCond_nil.mpr ha, hp]
  rfl

theorem execMovi_moves {d : Operand} {i : BitVec 16} (het : etOk s.et = true) (hd : dstBad s.moveSh.regs d = false) :
    Writes (execMovi d i s) s d s.moveSh.regs (runLanes d s.exec) (fun _ => moviBits s.et i) (fun _ => false) := by
  refine issue_writes (out := fun _ => { v := moviBits s.et i }) hw ?_ (lanesFor_run d s.exec) (dstBad_isReg hd)
    fun _ _ => rfl
  rw [checkCond_nil het, encCond_nil.mpr hd]
  rfl

end

/-- Settles O4: each of the four leaves no condition, and has the one effect of its rule. -/
theorem compareSelectMove : Obligations.CompareSelectMove := by
  unfold Obligations.CompareSelectMove
  intro d a b r p i s hw
  exact ⟨execCmp_compares hw, execSel_selects hw, execMov_moves hw, execMovi_moves hw⟩

/-! Lane exchange (R223, R234, R235). -/

theorem exchangeConds_nil {s : State} {d a b : Operand} (het : etOk s.et = true) (hd : dstBad s.moveSh.regs d = false)
    (ha : a.isV = true) (haa : a.aligned s.moveSh.regs = true) (hb : s.srcBad 1 b = false) : s.exchangeConds d a b = [] := by
  rw [State.exchangeConds, checkCond_nil het, encCond_nil.mpr hd, encCond_nil.mpr (by rw [ha, haa]; rfl),
    encCond_nil.mpr hb]
  rfl

/-- Poison of two kinds raises nothing, where the destination holds poison or no lane has either (R222). -/
theorem exchangePois_nil {d : Operand} {ls : List Nat} {p q : Nat → Bool} {x y : Nat}
    (h : ∀ l ∈ ls, d.isV = true ∨ (p l || q l) = false) :
    (if d.isV then [] else laneCond 0x0A (maskOf (ls.filter p)) 0 x ++ laneCond 0x0A (maskOf (ls.filter q)) 0 y) = [] := by
  by_cases hv : d.isV = true
  · rw [if_pos hv]
  · have hclean : ∀ l ∈ ls, p l = false ∧ q l = false :=
      fun l hl => Bool.or_eq_false_iff.mp ((h l hl).resolve_left hv)
    rw [if_neg hv, laneCond_filter_nil fun l hl => (hclean l hl).1, laneCond_filter_nil fun l hl => (hclean l hl).2]
    rfl

theorem exchanges_of_exec {i : Instr} {s : State} {d a b : Operand} {from_ idx : Nat → Nat}
    (h : exec i s = s.exchange d a b from_ idx) (hw : s.wordsOk .plain) (hc : s.exchangeConds d a b = [])
    (hd : dstBad s.moveSh.regs d = false) : Exchanges i s d a b from_ idx := by
  intro hp
  rw [h]
  exact issue_writes (out := fun l =>
      { v := (s.laneSrc s.moveSh a (from_ l)).1, pois := (s.laneSrc s.moveSh a (from_ l)).2 || s.srcPois 1 b (idx l) })
    hw (by rw [hc, exchangePois_nil hp]; rfl) (lanesFor_run d s.exec) (dstBad_isReg hd) fun _ _ => rfl

/-- Settles O5: the five differ in the lane that each lane reads. -/
theorem laneExchange : Obligations.LaneExchange := by
  unfold Obligations.LaneExchange
  intro d a b s hw het hd ha haa hb
  have hc : s.exchangeConds d a b = [] := exchangeConds_nil het hd ha haa hb
  refine ⟨?movs, ?shflIdx, ?shflXor, ?shflUp, ?shflDown⟩
  all_goals exact exchanges_of_exec rfl hw hc hd

/-! Votes and counts (R236, R237). -/

theorem execVote_votes {s : State} {d a : Operand} {k : BitVec 8} (hw : s.wordsOk .plain) (ha : a.isP = true)
    (hd : d.isReg = true ∨ d.isP = true) (hk : k.toNat < 3) :
    Writes (execVote d a k s) s d 1 (runLanes d s.exec)
      (fun _ => (voteOf k.toNat ((lanesOf s.exec).map (s.pred a.num))).toNat) (fun _ => false) := by
  refine issue_writes (out := fun _ => { v := (voteOf k.toNat ((lanesOf s.exec).map (s.pred a.num))).toNat }) hw ?_
    (lanesFor_run d s.exec) hd fun _ _ => rfl
  rw [checkCond_nil (Bool.or_eq_true_iff.mpr hd), checkCond_nil ha, encCond_nil.mpr (decide_eq_false (Nat.not_le_of_lt hk))]
  rfl

/-- ballot and pcnt, which take `f` of the lanes whose predicate is of the set `k` (R237). -/
theorem countUnit_counts {s : State} {d a : Operand} {k : Nat} (f : LaneMask → Nat) (hw : s.wordsOk .plain)
    (ha : a.isP = true) (het : etOk s.et = true) (hd : dstBad s.countRegs d = false) :
    Writes (s.countUnit d a k f) s d s.countRegs (runLanes d s.exec)
      (fun _ => f (lanesWhere s.exec (fun l => inSet k (s.pred a.num l)))) (fun _ => false) := by
  refine issue_writes (out := fun _ => { v := f (lanesWhere s.exec (fun l => inSet k (s.pred a.num l))) }) hw ?_
    (lanesFor_run d s.exec) (dstBad_isReg hd) fun _ _ => rfl
  rw [checkCond_nil het, encCond_nil.mpr hd, checkCond_nil ha]
  rfl

theorem laneCount_lanesWhere (m : LaneMask) (p : Nat → Bool) :
    laneCount (lanesWhere m p) = ((lanesOf m).filter p).length := by
  rw [laneCount, lanesOf_lanesWhere]

/-! Predicate logic (R134, R240): Table 6 by its rows, and the unit that applies it. -/

theorem triAnd_eq (a b : Tri) :
    triAnd a b = if a = .f ∨ b = .f then .f else if a = .t ∧ b = .t then .t else .u := by
  cases a <;> cases b <;> rfl

theorem triOr_eq (a b : Tri) :
    triOr a b = if a = .t ∨ b = .t then .t else if a = .f ∧ b = .f then .f else .u := by
  cases a <;> cases b <;> rfl

theorem triXor_eq (a b : Tri) : triXor a b = if a = .u ∨ b = .u then .u else if a = b then .f else .t := by
  cases a <;> cases b <;> rfl

theorem triNot_eq (a : Tri) : triNot a = if a = .t then .f else if a = .f then .t else .u := by
  cases a <;> rfl

theorem predUnit_setsPred {s : State} {d : Operand} {srcs : List Operand} {f : Nat → Tri} (hw : s.wordsOk .plain)
    (hp : ∀ o ∈ d :: srcs, o.isP = true) : SetsPred (s.predUnit d srcs f) s d.num (lanesOf s.exec) f :=
  issue_setsPred hw (checkCond_nil (List.all_eq_true.mpr hp))

/-- Settles O6: vote and the two counts write what they make of the lanes' predicates; the logic is that of its table. -/
theorem predicatesAndVotes : Obligations.PredicatesAndVotes := by
  unfold Obligations.PredicatesAndVotes
  refine ⟨fun d a k q s hw ha => ⟨execVote_votes hw ha, fun het hd => ⟨?ballot, ?pcnt⟩⟩, fun d a b s hw hd ha hb => ?logic⟩
  case ballot => exact countUnit_counts BitVec.toNat hw ha het hd
  case pcnt =>
    simp only [← laneCount_lanesWhere]
    exact countUnit_counts laneCount hw ha het hd
  case logic =>
    have hone : ∀ o ∈ [d, a], o.isP = true := by simp [hd, ha]
    have htwo : ∀ o ∈ [d, a, b], o.isP = true := by simp [hd, ha, hb]
    simp only [← triAnd_eq, ← triOr_eq, ← triXor_eq, ← triNot_eq]
    exact ⟨predUnit_setsPred hw htwo, predUnit_setsPred hw htwo, predUnit_setsPred hw htwo, predUnit_setsPred hw hone⟩

end Sys2Proof.Machine

/-! ### Numbers: conversions, packing, intervals, boxes and rings (R252 to R256, R260 to R267)

What follows settles the rest of the statements of chapter 10 of the spec. Conversions, packing and interval operations are the
floating unit, whose rule stands under Laws; iin and bbox write a predicate or a box of registers; ibis and itake work on a ring
in local memory. -/

namespace Sys2Proof.Machine

/-- Settles O10: each form is the floating unit with the value that it converts. -/
theorem conversions : Obligations.Conversions := by
  unfold Obligations.Conversions
  intro d a c s
  refine ⟨?cvtFi, ?cvtIf, ?cvtFfFrom, ?cvtFfTo⟩
  all_goals exact floatGives_of_exec rfl

/-! Packing (R255, R256). -/

theorem exec_pack_eq_packUnit {d a : Operand} {k : Fin 8} {f : Fin 32} {s : State} {x : Instr × List Nat}
    (hx : x ∈ [(Instr.pack8 d a k f, pack8Codes), (.pack6 d a k f, pack6Codes), (.pack4 d a k f, pack4Codes)]) :
    exec x.1 s = s.packUnit x.2 d a k.val f.val := by
  simp only [List.mem_cons, List.not_mem_nil, or_false] at hx
  rcases hx with rfl | rfl | rfl <;> rfl

/-- Settles O11: the three forms of pack differ in the formats that they accept; unpack is the floating unit itself. -/
theorem packAndUnpack : Obligations.PackAndUnpack := by
  unfold Obligations.PackAndUnpack
  intro d a k f s isInt w
  refine ⟨fun x hx => ?pack, ?unpack⟩
  case pack => exact floatGives_of_exec (exec_pack_eq_packUnit hx)
  case unpack => exact floatGives_of_exec rfl

/-! Intervals (R260 to R262). -/

theorem exec_end_eq_endUnit {d a : Operand} {s : State} {x : Instr × (Mode → FFmt → Ivl → Elem)}
    (hx : x ∈ [(Instr.ilo d a, fun (_ : Mode) (f : FFmt) (i : Ivl) =>
        ({ bits := if i.empty f then f.emptyIvl.lo else i.lo } : Elem)),
      (.ihi d a, fun _ f i => { bits := if i.empty f then f.emptyIvl.hi else i.hi }), (.imid d a, Mode.mid),
      (.iwid d a, Mode.width)]) : exec x.1 s = s.endUnit d a x.2 := by
  simp only [List.mem_cons, List.not_mem_nil, or_false] at hx
  rcases hx with rfl | rfl | rfl | rfl <;> rfl

theorem exec_join_eq_joinUnit {d a b : Operand} {s : State} {x : Instr × (FFmt → Ivl → Ivl → Ivl)}
    (hx : x ∈ [(Instr.ihull d a b, Ivl.hull), (.isect d a b, Ivl.sect)]) : exec x.1 s = s.joinUnit d a b x.2 := by
  simp only [List.mem_cons, List.not_mem_nil, or_false] at hx
  rcases hx with rfl | rfl <;> rfl

theorem execIin_decides {s : State} {d a b : Operand} (hw : s.wordsOk .plain) (het : ivlOk s.et = true) (hd : d.isP = true)
    (hs : ∀ o ∈ [a, b], s.srcBad s.fsh.regs o = false) (hp : s.poisonCond d [(s.fsh.regs, a), (s.fsh.regs, b)] = [])
    (hempty : s.emptyCond d (fun l => (s.ivl a l).empty s.ptFmt || (s.ivl b l).empty s.ptFmt) (fun _ => false) = []) :
    SetsPred (execIin d a b s) s d.num (lanesOf s.exec) (fun l => (s.ivl a l).inside s.ptFmt (s.ivl b l)) := by
  refine issue_setsPred hw ?_
  rw [checkCond_nil het, checkCond_nil hd, encCond_nil.mpr (any_srcBad_false hs), hp, hempty]
  rfl

/-! Boxes (R263). -/

theorem boxOk_isReg {n : Nat} {o : Operand} (h : boxOk n o = true) : o.isReg = true := by
  simp only [boxOk, Bool.and_eq_true] at h
  obtain ⟨⟨hreg, -⟩, -⟩ := h
  exact hreg

theorem isP_of_isReg {o : Operand} (h : o.isReg = true) : o.isP = false := by
  cases o with
  | p r => exact absurd h Bool.false_ne_true
  | v r | x r | sp r | k r | lit => rfl

section BoxRules

variable {s : State} {d a b : Operand} (hw : s.wordsOk .plain) (het : ivlOk s.et = true) (ha : boxOk s.fsh.regs a = true)
  (hb : boxOk s.fsh.regs b = true) (hp : s.poisonCond d [(3 * s.fsh.regs, a), (3 * s.fsh.regs, b)] = [])
  (hempty : s.emptyCond d (fun l => boxEmpty s.ptFmt (s.box3 a l) || boxEmpty s.ptFmt (s.box3 b l)) (fun _ => false) = [])
include het ha hb hp hempty

/-- Two boxes and a destination of either kind leave no condition. -/
theorem bboxConds_nil (hd : (d.isP || boxOk s.fsh.regs d) = true) :
    s.encCond (!ivlOk s.et) 0x01 ++ s.encCond (!boxOk s.fsh.regs a || !boxOk s.fsh.regs b) 0x01 ++
      s.encCond (!(d.isP || boxOk s.fsh.regs d)) 0x01 ++
      s.poisonCond d [(3 * s.fsh.regs, a), (3 * s.fsh.regs, b)] ++
      s.emptyCond d (fun l => boxEmpty s.ptFmt (s.box3 a l) || boxEmpty s.ptFmt (s.box3 b l)) (fun _ => false) = [] := by
  rw [checkCond_nil het, encCond_nil.mpr (by rw [ha, hb]; rfl), checkCond_nil hd, hp, hempty]
  rfl

include hw

theorem execBbox_meets (hd : d.isP = true) :
    SetsPred (execBbox d a b s) s d.num (lanesOf s.exec) (fun l => boxMeets s.ptFmt (s.box3 a l) (s.box3 b l)) := by
  have hconds := bboxConds_nil het ha hb hp hempty (by rw [hd]; rfl)
  simp only [execBbox, if_pos hd]
  exact issue_setsPred hw hconds

theorem execBbox_joins (hd : boxOk s.fsh.regs d = true) :
    Writes (execBbox d a b s) s d (3 * s.fsh.regs) (runLanes d s.exec)
      (fun l => boxRaw s.ptFmt (boxHull s.ptFmt (s.box3 a l) (s.box3 b l)))
      (fun l => s.srcPois (3 * s.fsh.regs) a l || s.srcPois (3 * s.fsh.regs) b l) := by
  have hreg := boxOk_isReg hd
  have hconds := bboxConds_nil het ha hb hp hempty (by rw [hd, Bool.or_true])
  simp only [execBbox, isP_of_isReg hreg, Bool.false_eq_true, if_false]
  exact issue_writes (out := fun l => { v := boxRaw s.ptFmt (boxHull s.ptFmt (s.box3 a l) (s.box3 b l))
                                        pois := s.srcPois (3 * s.fsh.regs) a l || s.srcPois (3 * s.fsh.regs) b l })
    hw (by rw [← hconds, isP_of_isReg hreg]) (lanesFor_run d s.exec) (.inl hreg) fun _ _ => rfl

end BoxRules

/-- Settles O14: what makes, reads or joins intervals is the floating unit; iin and bbox have one rule for each kind of
destination. -/
theorem intervalsAndBoxes : Obligations.IntervalsAndBoxes := by
  unfold Obligations.IntervalsAndBoxes
  refine ⟨fun d a b s => ⟨?ipt, fun x hx => ?ends, fun x hx => ?join, ?iin⟩,
    fun d a b s hw het ha hb hp hempty => ⟨?meets, ?hull⟩⟩
  case ipt => exact floatGives_of_exec rfl
  case ends => exact floatGives_of_exec (exec_end_eq_endUnit hx)
  case join => exact floatGives_of_exec (exec_join_eq_joinUnit hx)
  case iin => exact execIin_decides
  case meets => exact execBbox_meets hw het ha hb hp hempty
  case hull => exact execBbox_joins hw het ha hb hp hempty

/-! Rings (R264 to R267). -/

/-- Lanes chosen from a list in which nothing is wrong raise no condition. -/
theorem laneCond_map_filter_nil {α : Type} {c a x : Nat} {xs : List α} {lane : α → Nat} {p : α → Bool}
    (h : ∀ y ∈ xs, p y = false) : laneCond c (maskOf ((xs.filter p).map lane)) a x = [] := by
  rw [laneCond_nil, List.filter_eq_nil_iff.mpr (by simpa using h), List.map_nil, maskOf_nil]

/-- The lanes that ibis pushes carry no poison in their interval or their tag: neither kind is raised (R265). -/
theorem pushPois_nil {s : State} {n x y : Nat} {d b : Operand} {cut : List (Nat × Nat)}
    (h : ∀ z ∈ cut, s.srcPois n d z.1 = false ∧ s.srcPois 1 b z.1 = false) :
    laneCond 0x0A (maskOf ((cut.map (·.1)).filter (s.srcPois n d))) 0 x ++
      laneCond 0x0A (maskOf ((cut.map (·.1)).filter (fun l => s.srcPois 1 b l && !s.srcPois n d l))) 0 y = [] := by
  have hclean : ∀ l ∈ cut.map (·.1), s.srcPois n d l = false ∧ s.srcPois 1 b l = false := by simpa using h
  rw [laneCond_filter_nil fun l hl => (hclean l hl).1, laneCond_filter_nil fun l hl => by rw [(hclean l hl).2]; rfl]
  rfl

/-- The records that itake takes hold no empty interval under EMPTY, and no poison for a scalar: nothing is raised (R266). -/
theorem takenConds_nil {s : State} {d : Operand} {x : Nat} {took : List (Nat × Nat × Nat × Bool)}
    (h : ∀ z ∈ took, (s.emptyTraps = false ∨ (Ivl.ofRaw s.ptFmt z.2.1).empty s.ptFmt = false) ∧
      (d.isV = true ∨ z.2.2.2 = false)) :
    (if s.emptyTraps then
        laneCond 0x06 (maskOf ((took.filter (fun z => (Ivl.ofRaw s.ptFmt z.2.1).empty s.ptFmt)).map (·.1))) else []) ++
      (if d.isV then [] else laneCond 0x0A (maskOf ((took.filter (fun z => z.2.2.2)).map (·.1))) 0 x) = [] := by
  refine List.append_eq_nil_iff.mpr ⟨ite_eq_right_iff.mpr fun htraps => ?empties, ite_eq_left_iff.mpr fun hv => ?poison⟩
  case empties => exact laneCond_map_filter_nil fun z hz => (h z hz).1.resolve_left (by simp [htraps])
  case poison => exact laneCond_map_filter_nil fun z hz => (h z hz).2.resolve_left hv

/-- Settles O45: a legal ring, and lanes or records in order, leave no condition, so each of the two has its effect. -/
theorem rings : Obligations.Rings := by
  unfold Obligations.Rings
  intro d a b s hw he het hd ha hring f n ls r flags
  have hrings : (s.ringConds a).isEmpty = true := by rw [hring]; rfl
  refine ⟨?ibis, ?itake⟩
  case ibis =>
    intro cut hb hempty hclean recs up
    have hsrcs : ∀ o ∈ [a, b], s.srcBad 1 o = false := by simp [ha, hb]
    change execIbis d a b s = _
    refine issueLive_next hw ?_ he
    rw [checkCond_nil het, encCond_nil.mpr hd, encCond_nil.mpr (any_srcBad_false hsrcs), hempty, if_pos hrings, hring,
      pushPois_nil hclean]
    rfl
  case itake =>
    intro took hb htaken reads up
    change execItake d a b s = _
    refine issueLive_next hw ?_ he
    rw [checkCond_nil het, encCond_nil.mpr hd, encCond_nil.mpr ha, checkCond_nil hb, if_pos hrings, hring,
      takenConds_nil htaken]
    rfl

end Sys2Proof.Machine

/-! ### Local accesses that trap (R272, R297, R409)

What a unit raises of the conditions that its lanes' accesses meet; then the statement. -/

namespace Sys2Proof.Machine

/-! The condition of the lowest code (R409). -/

/-- Taking the lower code at each step ends with the lowest of all. -/
theorem foldl_lower_code (cs : List Cond) (a : Cond) :
    let c := cs.foldl (fun a b => if decide (b.code < a.code) then b else a) a
    c ∈ a :: cs ∧ ∀ x ∈ a :: cs, c.code ≤ x.code := by
  induction cs generalizing a with
  | nil => simp
  | cons x cs ih =>
    obtain ⟨hmem, hleast⟩ := ih (if decide (x.code < a.code) then x else a)
    simp only [List.forall_mem_cons] at hleast
    rw [List.foldl_cons]
    by_cases hlt : x.code < a.code
    all_goals
      simp only [hlt, decide_true, decide_false, if_true, Bool.false_eq_true, if_false, List.mem_cons,
        forall_eq_or_imp] at hmem hleast ⊢
      exact ⟨by tauto, by omega, by omega, hleast.2⟩

/-- The first of a list in the order of the codes is one of them, and none has a lower code. -/
theorem bestOf_code {cs : List Cond} (h : cs ≠ []) :
    ∃ c ∈ cs, bestOf (fun a b => decide (a.code < b.code)) cs = some c ∧ ∀ x ∈ cs, c.code ≤ x.code := by
  obtain ⟨y, ys, rfl⟩ := List.exists_cons_of_ne_nil h
  obtain ⟨hmem, hleast⟩ := foldl_lower_code ys y
  exact ⟨_, hmem, rfl, hleast⟩

/-- A lane lies in the union of conditions' masks exactly when it lies in one of them. -/
theorem getLsbD_foldl_lanes (cs : List Cond) (m : LaneMask) (l : Nat) :
    (cs.foldl (fun m x => m ||| x.lanes) m).getLsbD l = true ↔ m.getLsbD l = true ∨ ∃ x ∈ cs, x.lanes.getLsbD l = true := by
  induction cs generalizing m with
  | nil => simp
  | cons c cs ih => simp [ih, or_assoc]

/-- What a unit raises where `code` is the lowest: that code, in every lane in which it holds. -/
theorem raised_lowest {cs : List Cond} {code : Nat} (hsome : ∃ x ∈ cs, x.code = code) (hleast : ∀ x ∈ cs, code ≤ x.code) :
    ∃ c : Cond, raised cs = some c ∧ c.code = code ∧
      ∀ l, c.lanes.getLsbD l = true ↔ ∃ x ∈ cs, x.code = code ∧ x.lanes.getLsbD l = true := by
  obtain ⟨y, hy, hcode⟩ := hsome
  obtain ⟨b, hb, hbest, hmin⟩ := bestOf_code (List.ne_nil_of_mem hy)
  obtain rfl : b.code = code := Nat.le_antisymm (hcode ▸ hmin y hy) (hleast b hb)
  simp only [raised, hbest]
  refine ⟨_, rfl, ?_, fun l => ?_⟩
  · dsimp only
    cases hfind : (cs.filter (fun x => x.code == b.code)).find? _ with
    | none => rfl
    | some x => exact beq_iff_eq.mp (List.mem_filter.mp (List.mem_of_find?_eq_some hfind)).2
  · simp [getLsbD_foldl_lanes, and_assoc]

/-! What judging accesses meets: one condition for each code, in all lanes that meet it (R409). -/

/-- Judging joins the masks of each code: a property of masks that a union has exactly when a part does holds of what judging
meets under a code exactly when it holds of what one access meets under it. -/
theorem judgeAll_meets {p : LaneMask → Prop} (hp : ∀ a b, p (a ||| b) ↔ p a ∨ p b) (rs : List (Except Cond Item))
    (code : Nat) :
    (∃ x ∈ (judgeAll rs).1, x.code = code ∧ p x.lanes) ↔ ∃ c, .error c ∈ rs ∧ c.code = code ∧ p c.lanes := by
  induction rs with
  | nil => simp [judgeAll]
  | cons r rs ih =>
    cases r with
    | ok i => simpa [judgeAll] using ih
    | error c =>
      have hcons : (∃ d, Except.error d ∈ Except.error c :: rs ∧ d.code = code ∧ p d.lanes) ↔
          (c.code = code ∧ p c.lanes) ∨ ∃ d, Except.error d ∈ rs ∧ d.code = code ∧ p d.lanes := by
        simp [or_and_right, exists_or]
      rw [hcons, ← ih]
      simp only [judgeAll]
      split
      · next hany =>
        obtain ⟨d, hd, hdc⟩ := List.any_eq_true.mp hany
        have hdc : d.code = c.code := beq_iff_eq.mp hdc
        simp only [List.mem_map, exists_exists_and_eq_and]
        constructor
        · rintro ⟨x, hx, hcode, hpx⟩
          by_cases hxc : x.code = c.code
          · simp only [if_pos hxc] at hcode hpx
            exact ((hp _ _).mp hpx).elim (fun h => .inr ⟨x, hx, hxc.trans hcode, h⟩) (fun h => .inl ⟨hcode, h⟩)
          · simp only [if_neg hxc] at hcode hpx
            exact .inr ⟨x, hx, hcode, hpx⟩
        · rintro (⟨hcode, hpc⟩ | ⟨x, hx, hcode, hpx⟩)
          · exact ⟨d, hd, by rw [if_pos hdc]; exact hcode, by simpa only [if_pos hdc] using (hp _ _).mpr (.inr hpc)⟩
          · refine ⟨x, hx, ?_⟩
            by_cases hxc : x.code = c.code
            · simpa only [if_pos hxc] using ⟨hxc.symm.trans hcode, (hp _ _).mpr (.inl hpx)⟩
            · simpa only [if_neg hxc] using ⟨hcode, hpx⟩
      · simp

/-- A unit of whose accesses some are not in order, and whose operands are, takes the trap of the lowest code that its accesses
meet, in every lane that meets it; what its conditions judge of memory matters to code 0x0A only. -/
theorem issueMet_traps {s : State} {met : List Item} {cs : List Cond} {rs : List (Except Cond Item)}
    {eff : List Item → State → State} {code : Nat} (hw : s.wordsOk .plain) (hc : cs = []) (hA : code ≠ 0x0A)
    (hsome : ∃ c, .error c ∈ rs ∧ c.code = code) (hleast : ∀ c, .error c ∈ rs → code ≤ c.code) :
    ∃ c : Cond, c.code = code ∧
      (∀ l, c.lanes.getLsbD l = true ↔ ∃ e, .error e ∈ rs ∧ e.code = code ∧ e.lanes.getLsbD l = true) ∧
      s.issueMet met cs rs eff = .next (s.takeTrap s.exec c) := by
  have hcodes : ∀ k, (∃ x ∈ (judgeAll rs).1, x.code = k) ↔ ∃ c, .error c ∈ rs ∧ c.code = k := fun k => by
    simpa using judgeAll_meets (p := fun _ => True) (by simp) rs k
  have hlanes : ∀ l, (∃ x ∈ (judgeAll rs).1, x.code = code ∧ x.lanes.getLsbD l = true) ↔
      ∃ e, .error e ∈ rs ∧ e.code = code ∧ e.lanes.getLsbD l = true := fun l =>
    judgeAll_meets (p := fun m => m.getLsbD l = true) (by simp) rs code
  obtain ⟨c, hraised, hcode, hmask⟩ := raised_lowest ((hcodes code).mpr hsome) (fun x hx => by
    obtain ⟨e, he, hex⟩ := (hcodes x.code).mp ⟨x, hx, rfl⟩
    exact hex ▸ hleast e he)
  have hjudged : s.judged .plain (cs ++ (judgeAll rs).1) = some c := by
    rw [State.judged, show s.unitConds .plain = [] from hw, hc, List.nil_append, List.nil_append, hraised]
  refine ⟨c, hcode, fun l => (hmask l).trans (hlanes l), ?_⟩
  simp only [State.issueMet, hjudged, if_neg (hcode ▸ hA)]

/-- The condition that lane `l` meets whose access to local memory is not in order. -/
def laneTrap (code l a : Nat) : Cond := { code := code, lanes := BitVec.twoPow 32 l, addr := a }

theorem judgeLane_local_misaligned {s : State} {acc : Access} {al l a n : Nat} (ha : a % al ≠ 0) :
    s.judgeLane .l acc al l a n = .error (laneTrap 0x07 l a) := by
  simp only [State.judgeLane, if_pos ha, laneTrap]

theorem judgeLane_local_beyond {s : State} {acc : Access} {al l a n : Nat} (ha : a % al = 0)
    (hb : s.wg.localBytes < a + n) : s.judgeLane .l acc al l a n = .error (laneTrap 0x0B l a) := by
  simp only [State.judgeLane, ha, ne_eq, not_true, if_false, if_neg (Nat.not_le.mpr hb), laneTrap]

/-- An access to local memory that is not in order is misaligned, or aligned and beyond the workgroup's memory (R272). -/
theorem judgeLane_local_error {s : State} {acc : Access} {n l a : Nat} {c : Cond}
    (h : s.judgeLane .l acc n l a n = .error c) :
    (a % n ≠ 0 ∧ c = laneTrap 0x07 l a) ∨ (a % n = 0 ∧ s.wg.localBytes < a + n ∧ c = laneTrap 0x0B l a) := by
  by_cases ha : a % n = 0
  · rcases Nat.lt_or_ge s.wg.localBytes (a + n) with hb | hb
    · rw [judgeLane_local_beyond ha hb] at h
      exact .inr ⟨ha, hb, (Except.error.inj h).symm⟩
    · exact nomatch (judgeLane_local ha hb).symm.trans h
  · rw [judgeLane_local_misaligned ha] at h
    exact .inl ⟨ha, (Except.error.inj h).symm⟩

/-- A unit with one access of each lane to local memory, and with its operands in order, takes the trap of the lowest code that
its lanes meet: `p` says which lanes meet it. -/
theorem issueMet_traps_local {s : State} {met : List Item} {cs : List Cond} {eff : List Item → State → State} {acc : Access}
    {addr : Nat → Nat} {n code : Nat} {p : Nat → Prop} (hw : s.wordsOk .plain) (hc : cs = []) (hA : code ≠ 0x0A)
    (hp : ∀ l ∈ lanesOf s.exec, p l → s.judgeLane .l acc n l (addr l) n = .error (laneTrap code l (addr l)))
    (hmeets : ∀ l ∈ lanesOf s.exec, ∀ c, s.judgeLane .l acc n l (addr l) n = .error c →
      (p l ∧ c = laneTrap code l (addr l)) ∨ code < c.code) (hsome : ∃ l ∈ lanesOf s.exec, p l) :
    ∃ c : Cond, c.code = code ∧ (∀ l, l < 32 → (c.lanes.getLsbD l = true ↔ l ∈ lanesOf s.exec ∧ p l)) ∧
      s.issueMet met cs ((lanesOf s.exec).map (fun l => s.judgeLane .l acc n l (addr l) n)) eff =
        .next (s.takeTrap s.exec c) := by
  obtain ⟨k, hk, hpk⟩ := hsome
  obtain ⟨c, hcode, hlanes, htrap⟩ := issueMet_traps (met := met) (eff := eff) (code := code)
    (rs := (lanesOf s.exec).map (fun l => s.judgeLane .l acc n l (addr l) n)) hw hc hA
    ⟨_, List.mem_map.mpr ⟨k, hk, hp k hk hpk⟩, rfl⟩ (fun e he => by
      obtain ⟨l, hl, hle⟩ := List.mem_map.mp he
      rcases hmeets l hl e hle with ⟨-, rfl⟩ | hlt
      · exact Nat.le_refl _
      · exact Nat.le_of_lt hlt)
  refine ⟨c, hcode, fun l hl => (hlanes l).trans ⟨?_, ?_⟩, htrap⟩
  · rintro ⟨e, he, hecode, hbit⟩
    obtain ⟨j, hj, hje⟩ := List.mem_map.mp he
    rcases hmeets j hj e hje with ⟨hpj, rfl⟩ | hlt
    · obtain rfl : l = j := by
        simp only [laneTrap, BitVec.getLsbD_twoPow, Bool.and_eq_true, decide_eq_true_eq] at hbit
        exact hbit.2.symm
      exact ⟨hj, hpj⟩
    · omega
  · rintro ⟨hmem, hpl⟩
    exact ⟨_, List.mem_map.mpr ⟨l, hmem, hp l hmem hpl⟩, rfl, by simp [laneTrap, hl]⟩

/-- What a unit with one access of each lane to local memory does where some access is not in order (R272, R409). -/
theorem issueMet_local_traps {s : State} {met : List Item} {cs : List Cond} {eff : List Item → State → State} {acc : Access}
    {addr : Nat → Nat} {n : Nat} {ls : List Nat} {r : Host.Outcome State Fault Refusal} (hw : s.wordsOk .plain) (hc : cs = [])
    (hls : ls = lanesOf s.exec) (hr : r = s.issueMet met cs (ls.map (fun l => s.judgeLane .l acc n l (addr l) n)) eff) :
    ((∃ l ∈ lanesOf s.exec, addr l % n ≠ 0) → ∃ c : Cond, c.code = 0x07 ∧
      (∀ l, l < 32 → (c.lanes.getLsbD l = true ↔ l ∈ lanesOf s.exec ∧ addr l % n ≠ 0)) ∧
      r = .next (s.takeTrap s.exec c)) ∧
    ((∀ l ∈ lanesOf s.exec, addr l % n = 0) → (∃ l ∈ lanesOf s.exec, s.wg.localBytes < addr l + n) →
      ∃ c : Cond, c.code = 0x0B ∧
        (∀ l, l < 32 → (c.lanes.getLsbD l = true ↔ l ∈ lanesOf s.exec ∧ s.wg.localBytes < addr l + n)) ∧
        r = .next (s.takeTrap s.exec c)) := by
  subst hr hls
  refine ⟨issueMet_traps_local hw hc (by decide) (fun l _ ha => judgeLane_local_misaligned ha) (fun l _ e he => ?_),
    fun haligned => issueMet_traps_local hw hc (by decide) (fun l hl hb => judgeLane_local_beyond (haligned l hl) hb)
      (fun l hl e he => ?_)⟩
  · rcases judgeLane_local_error he with hmis | ⟨-, -, rfl⟩
    · exact .inl hmis
    · exact .inr (show 0x07 < 0x0B by decide)
  · rcases judgeLane_local_error he with ⟨hmis, -⟩ | ⟨-, hbeyond⟩
    · exact absurd (haligned l hl) hmis
    · exact .inl hbeyond

/-- A vector destination runs in every lane of the execution mask (R164). -/
theorem runLanes_of_isV {d : Operand} {m : LaneMask} (hd : d.isV = true) : runLanes d m = lanesOf m := by
  cases d with
  | v r => rfl
  | _ => exact nomatch hd

/-- An aligned vector register is a legal source and a legal destination (R162, R163). -/
theorem vector_legal {s : State} {d : Operand} {n : Nat} (hd : d.isV = true) (ha : d.aligned n = true) :
    dstBad n d = false ∧ s.srcBad n d = false := by
  cases d with
  | v r => exact ⟨by simp [dstBad, Operand.isReg, Operand.isV, ha], by simp [State.srcBad, State.noLit, Operand.isP, ha]⟩
  | _ => exact nomatch hd

/-- Settles O33: neither form has another condition, and of those of its accesses misalignment has the lower code. -/
theorem localAccessTraps : Obligations.LocalAccessTraps := by
  unfold Obligations.LocalAccessTraps
  intro d x w b s hw hw7 hsgn hd hal hx hpois n addr i hi
  obtain ⟨hdst, hsrc⟩ := vector_legal (s := s) hd hal
  have hrun : runLanes d s.exec = lanesOf s.exec := runLanes_of_isV hd
  have hindex : s.cleanCond [(1, x)] = [] := cleanCond_nil (by simpa using fun l hl => (hpois l hl).1)
  have hdata : s.cleanCond [((widthOf w.val).regs, d), (1, x)] = [] :=
    cleanCond_nil (by simpa using ⟨fun l hl => (hpois l hl).2, fun l hl => (hpois l hl).1⟩)
  have haddr : s.addrConds Space.l.pair b x = [] := addrConds_nil (by simp [Space.pair]) hx
  have hcode : decide (w.val = 7) = false := decide_eq_false hw7
  simp only [List.mem_cons, List.not_mem_nil, or_false] at hi
  obtain rfl | rfl := hi
  · refine issueMet_local_traps (acc := .read) (addr := addr) hw ?_ hrun (rfl : execLdL d w b x s = _)
    rw [encCond_nil.mpr hdst, hcode, haddr, hindex, if_pos hd]
    rfl
  · refine issueMet_local_traps (acc := .write) (addr := addr) hw ?_ hrun (rfl : execStL d w b x s = _)
    rw [encCond_nil.mpr hsrc, hcode, haddr, hdata, hsgn]
    rfl

end Sys2Proof.Machine

/-! ### Futures, prefetch and transaction barriers (R276, R280, R281, R291, R292)

Each unit once its operands and its accesses are in order; then the statements. -/

namespace Sys2Proof.Machine

/-! ldf, stf and prf (R276, R280, R281). -/

section FutureRules

variable {s : State} {d x : Operand} {b : Fin 32} {is : List Item} (hx : s.srcBad 1 x = false)
include hx

/-- The cells of ldf, one of each lane that runs (R280). -/
def State.futureCells (s : State) (d : Operand) (b : Fin 32) (x : Operand) : List Cell :=
  (runLanes d s.exec).map (fun l => { lane := l, addr := BitVec.ofNat 56 (s.baseAddr b x l) })

theorem execLdf_waits (hb : b.val % 2 = 0) (he : s.exec ≠ 0) (hd : dstBad 2 d = false) (hh : s.wave.hx = none)
    (hp : ∀ l ∈ lanesOf s.exec, s.srcPois 1 x l = false)
    (ha : s.accesses ((runLanes d s.exec).map (fun l => s.judgeLane .g .read 8 l (s.baseAddr b x l) 8)) is)
    (hnear : ∀ i ∈ is, s.peerSpot i = none ∧ (d.isV = true ∨ (s.homeItem i).2 = false)) :
    execLdf d b x s = .next ((s.retire .plain).beginWait s.frag.pc (.future d.code (s.futureCells d b x))) := by
  obtain ⟨hw, hr, hheld⟩ := ha
  have hbegun : s.begun is = s.retire .plain := begun_judged hr (fun _ _ => judgeLane_save (by decide))
  have hindex : s.cleanCond [(1, x)] = [] := cleanCond_nil (by simpa using hp)
  have hpeers : s.peerLanes is = 0 := peerLanes_zero (fun i hi => (hnear i hi).1)
  have hclean : (if d.isV then [] else laneCond 0x0A (maskOf ((is.filter (fun i => (s.homeItem i).2)).map (·.lane))) 0 d.code) =
      [] := by
    split
    · rfl
    · next hv =>
      have hnone : is.filter (fun i => (s.homeItem i).2) = [] :=
        List.filter_eq_nil_iff.mpr (fun i hi => by simp [(hnear i hi).2.resolve_left hv])
      rw [hnone]
      rfl
  unfold execLdf
  refine (issueMet_next hw ?_ hr hheld).trans ?_
  · rw [hr, judgeAll_ok, encCond_nil.mpr hd, addrConds_nil (fun _ => hb) hx, hindex, hclean, hpeers, waitCond_outside hh]
    rfl
  · rw [if_neg he, hbegun]
    rfl

theorem execStf_fills (hb : b.val % 2 = 0) (hd : dstBad 2 d = false)
    (hp : ∀ l ∈ lanesOf s.exec, s.srcPois 1 x l = false ∧ s.srcPois 2 d l = false)
    (ha : s.accesses ((lanesOf s.exec).map (fun l => s.judgeLane .g .write 8 l (s.baseAddr b x l) 8)) is) :
    execStf d b x s = .next (State.storeItems
      (fun l => bytesOf 8 (s.dataOf d { bytes := 8, regs := 2 } l % 2 ^ 63 + 2 ^ 63)) (s.sharedItems is) (s.retire .plain)) := by
  obtain ⟨hw, hr, hheld⟩ := ha
  have hbegun : s.begun is = s.retire .plain := begun_judged hr (fun _ _ => judgeLane_save (by decide))
  have hdata : s.cleanCond [(2, d), (1, x)] = [] :=
    cleanCond_nil (by simpa using ⟨fun l hl => (hp l hl).2, fun l hl => (hp l hl).1⟩)
  rw [← hbegun]
  refine issueItems_next hw ?_ hr hheld
  rw [encCond_nil.mpr hd, addrConds_nil (fun _ => hb) hx, hdata]
  rfl

theorem execPrf_prefetches {w : Fin 8} (hb : b.val % 2 = 0) (hw : s.wordsOk .plain) (hcode : w.val < 3) :
    execPrf w b x s = .next (((lanesOf s.exec).filter (fun l => !s.srcPois 1 x l)).foldl
      (fun t l => t.prefetch w.val l (s.baseAddr b x l)) (s.retire .plain)) := by
  refine issue_next hw ?_
  rw [addrConds_nil (fun _ => hb) hx, encCond_nil.mpr (decide_eq_false (by omega)), List.nil_append]

end FutureRules

/-- Settles O35: none of the three has a condition left, and what remains is its one effect. -/
theorem futuresAndPrefetch : Obligations.FuturesAndPrefetch := by
  unfold Obligations.FuturesAndPrefetch
  intro d x w b is s hx hb he
  exact ⟨execLdf_waits hx hb he, execStf_fills hx hb, execPrf_prefetches hx hb⟩

/-! tbar.init, tbar.expect, tbar.arrive and tbar.wait (R291, R292, R435). -/

/-- A further operand of one register that is legal and carries no poison raises nothing (R297). -/
theorem operandConds_nil {s : State} {b : Operand} (hb : s.srcBad 1 b = false) (hc : s.cleanCond [(1, b)] = []) :
    s.encCond (s.srcBad 1 b) 0x01 ++ s.cleanCond [(1, b)] = [] := by
  rw [encCond_nil.mpr hb, hc, List.nil_append]

section TbarRules

variable {s : State} {a : Operand} (hw : s.wordsOk .plain) (he : s.exec ≠ 0) (ha : s.srcBad 1 a = false)
  (hc : s.cleanCond [(1, a)] = []) (hal : s.lowInt a % 8 = 0) (hin : s.wg.tbarIn (s.lowInt a) = true)
  (hp : (s.tbarAt (s.lowInt a)).2 = false)
include hw he ha hc hal hin hp

/-- A barrier instruction whose address names a sound barrier, and whose operands are in order, has its effect on it (R297). -/
theorem tbarUnit_next {conds : List Cond} {code : Nat} {bad : Tbar → Bool} {eff : Nat → State → State} (hconds : conds = [])
    (hbad : bad (s.tbarAt (s.lowInt a)).1 = false) :
    s.tbarUnit conds a code bad eff = .next (eff (s.lowInt a) (s.retire .plain)) := by
  refine issueLive_next hw ?_ he
  simp only [encCond_nil.mpr ha, hconds, hc, hal, hin, hp, hbad, ne_eq, not_true, decide_false, Bool.not_true, Bool.not_false,
    Bool.and_false, Bool.false_eq_true, if_false, lowWhen_false, laneCond_nil.mpr, List.append_nil]

variable {b : Operand} (hb : s.srcBad 1 b = false) (hcb : s.cleanCond [(1, b)] = [])

theorem execTbarArrive_arrives {d : Operand} (hd : dstBad 1 d = false) (hdue : (s.tbarAt (s.lowInt a)).1.due ≠ 0) :
    let x := (s.tbarAt (s.lowInt a)).1
    execTbarArrive d a s = .next (((s.retire .plain).putTbar (s.lowInt a) { x with due := x.due - 1 : Tbar }.settle).putAll d
      s.exec (if x.phase then 1 else 0)) :=
  tbarUnit_next hw he ha hc hal hin hp (encCond_nil.mpr hd) (decide_eq_false hdue)

include hb hcb

theorem execTbarInit_sets (hlo : 1 ≤ s.lowInt b) (hhi : s.lowInt b ≤ 255) :
    execTbarInit a b s = .next ((s.retire .plain).putTbar (s.lowInt a)
      { phase := false, cnt := s.lowInt b, due := s.lowInt b, pend := 0 }) := by
  have hrange : (decide (s.lowInt b = 0) || decide (255 < s.lowInt b)) = false := by
    rw [Bool.or_eq_false_iff, decide_eq_false_iff_not, decide_eq_false_iff_not]
    omega
  unfold execTbarInit
  exact tbarUnit_next hw he ha hc hal hin hp (operandConds_nil hb hcb) hrange

theorem execTbarExpect_adds (hn : s.lowInt b < 2 ^ 27) (hpend : (s.tbarAt (s.lowInt a)).1.pend + s.lowInt b < 2 ^ 27) :
    let x := (s.tbarAt (s.lowInt a)).1
    execTbarExpect a b s = .next ((s.retire .plain).putTbar (s.lowInt a)
      { x with pend := x.pend + s.lowInt b : Tbar }.settle) := by
  have hrange : (decide (2 ^ 27 ≤ s.lowInt b) ||
      decide ((2 ^ 27 : Int) ≤ (s.tbarAt (s.lowInt a)).1.pend + s.lowInt b)) = false := by
    rw [Bool.or_eq_false_iff, decide_eq_false_iff_not, decide_eq_false_iff_not]
    omega
  intro x
  unfold execTbarExpect
  exact tbarUnit_next hw he ha hc hal hin hp (operandConds_nil hb hcb) hrange

theorem execTbarWait_waits (hh : s.wave.hx = none) (hcnt : (s.tbarAt (s.lowInt a)).1.cnt ≠ 0) :
    execTbarWait a b s = .next ((s.retire .plain).beginWait s.frag.pc
      (.tbar (s.lowInt a) (decide (s.lowInt b % 2 = 1)))) := by
  unfold execTbarWait
  refine tbarUnit_next hw he ha hc hal hin hp ?_ (decide_eq_false hcnt)
  rw [operandConds_nil hb hcb, waitCond_outside hh, List.nil_append]

end TbarRules

/-- Settles O38: each of the four finds a sound barrier, and no condition is left. -/
theorem transactionBarriers : Obligations.TransactionBarriers := by
  unfold Obligations.TransactionBarriers
  intro d a b s hw he ha hc hal hin hp p x n r done
  exact ⟨execTbarArrive_arrives hw he ha hc hal hin hp, fun hb hcb => ⟨execTbarInit_sets hw he ha hc hal hin hp hb hcb,
    execTbarExpect_adds hw he ha hc hal hin hp hb hcb, execTbarWait_waits hw he ha hc hal hin hp hb hcb⟩⟩

end Sys2Proof.Machine

/-! ### Copies at their posts (R282 to R287, R297, R306, R460)

What the shared form of a posting unit does with a descriptor in order: it posts, or its full queue makes it wait; then the
statement. -/

namespace Sys2Proof.Machine

/-- A descriptor or block is in order: aligned and unpoisoned in the workgroup's window, and its bytes raise no code (R297). -/
structure State.SpotGood (s : State) (x : PostSpot) : Prop where
  aligned : x.addr % x.n = 0
  within : x.addr + x.n ≤ s.wg.localBytes
  clean : corePois s.wg.lpois x.addr x.n = false
  codes : x.codes (s.localBytes s.wg 0 s.wave.id x.addr x.n).1 = []

theorem spotConds_nil {s : State} {x : PostSpot} (h : s.SpotGood x) : s.spotConds x = [] := by
  have hbeyond : decide (s.wg.localBytes < x.addr + x.n) = false := decide_eq_false (Nat.not_lt.mpr h.within)
  have hodd : decide (x.addr % x.n ≠ 0) = false := decide_eq_false (not_not.mpr h.aligned)
  rw [State.spotConds, hbeyond, hodd, h.clean, h.codes, lowWhen_false, lowWhen_false]
  exact ite_self _

/-- The operands and the descriptors of a posting unit are in order: its words are, some lane posts, and each descriptor or
block is good (R297, R322). -/
structure State.PostGood (s : State) (a : Operand) (n : Nat) (codes : List Byte → List Nat) (more : List PostSpot) : Prop where
  words : s.wordsOk .plain
  live : s.exec ≠ 0
  legal : s.srcBad 1 a = false
  clean : s.cleanCond [(1, a)] = []
  spots : ∀ x ∈ PostSpot.mk a (s.lowInt a) n codes :: more, s.SpotGood x

/-- A descriptor and blocks that lie in order, and of which no byte raises a code, are good. -/
theorem State.describes.postGood {s : State} {a : Operand} {n : Nat} {codes : List Byte → List Nat} {more : List PostSpot}
    (h : s.describes a n (more.map (fun x => (x.addr, x.n)))) (hcodes : codes (s.descriptor a n) = [])
    (hmore : ∀ x ∈ more, x.codes (s.localBytes s.wg 0 s.wave.id x.addr x.n).1 = []) : s.PostGood a n codes more := by
  obtain ⟨hw, he, ha, hclean, hlie⟩ := h
  rw [List.forall_mem_cons] at hlie
  obtain ⟨⟨halign, hwithin, hpois⟩, hblocks⟩ := hlie
  refine ⟨hw, he, ha, hclean, List.forall_mem_cons.mpr ⟨⟨halign, hwithin, hpois, hcodes⟩, fun x hx => ?_⟩⟩
  obtain ⟨hxalign, hxwithin, hxpois⟩ := hblocks _ (List.mem_map_of_mem hx)
  exact ⟨hxalign, hxwithin, hxpois, hmore x hx⟩

theorem waitCond_false (s : State) (ok : Bool) : s.waitCond (false && ok) = [] := by
  simp [State.waitCond, laneCond]

section PostRules

variable {s : State} {a : Operand} {n : Nat} {conds : List Cond} {codes : List Byte → List Nat} {full mxFull : Bool}
  {more : List PostSpot} {eff : List Byte → State → State} (h : s.PostGood a n codes more) (hconds : conds = [])
include h hconds

theorem postUnit_judged {ok : Bool} (hwait : s.waitCond (full && ok) = []) :
    s.judged .plain (s.encCond (s.srcBad 1 a) 0x01 ++ conds ++ s.cleanCond [(1, a)] ++
      (PostSpot.mk a (s.lowInt a) n codes :: more).flatMap s.spotConds ++ s.waitCond (full && ok)) = none := by
  have hspots : (PostSpot.mk a (s.lowInt a) n codes :: more).flatMap s.spotConds = [] :=
    List.flatMap_eq_nil_iff.mpr (fun x hx => spotConds_nil (h.spots x hx))
  rw [judged_none_iff, encCond_nil.mpr h.legal, hconds, h.clean, hspots, hwait]
  exact ⟨h.words, rfl⟩

/-- A unit with room in its queues posts (R283, R306). -/
theorem postUnit_posts : s.postUnit a n conds codes false false more eff =
    .next (eff (s.descriptor a n) (s.reads a n (more.map (fun x => (x.addr, x.n))))) := by
  have hjudged := postUnit_judged (full := false)
    (ok := (PostSpot.mk a (s.lowInt a) n codes :: more).all s.spotOk) h hconds (waitCond_false s _)
  simp only [State.postUnit, hjudged]
  simp only [Bool.false_and, Bool.false_eq_true, if_false, if_neg h.live]
  rw [State.reads, ← List.map_cons (f := fun x : PostSpot => (x.addr, x.n)) (a := PostSpot.mk a (s.lowInt a) n codes),
    List.foldl_map]
  rfl

/-- A unit whose COPYQ is full parks, outside a handler (R283, R460). -/
theorem postUnit_parks (hh : s.wave.hx = none) :
    s.postUnit a n conds codes true mxFull more eff = .next s.parkAgain := by
  have hjudged := postUnit_judged (full := true)
    (ok := (PostSpot.mk a (s.lowInt a) n codes :: more).all s.spotOk) h hconds (waitCond_outside hh)
  simp only [State.postUnit, hjudged]
  rw [decide_eq_true h.live, Bool.and_self, if_pos rfl]

/-- A unit whose matrix queue is full is blocked (R306). -/
theorem postUnit_blocks : s.postUnit a n conds codes false true more eff = .next s.blockAgain := by
  have hjudged := postUnit_judged (full := false)
    (ok := (PostSpot.mk a (s.lowInt a) n codes :: more).all s.spotOk) h hconds (waitCond_false s _)
  simp only [State.postUnit, hjudged]
  simp only [decide_eq_true h.live, Bool.and_self, Bool.false_and, Bool.false_eq_true, if_false, if_true]

end PostRules

/-! cpy, cpy.col, cpy.mc and cpy.then (R282 to R287). -/

/-- The follow-on block of cpy.then, whose offset is operand `b`, as a block of its post (R287). -/
def State.followSpot (s : State) (b : Operand) : PostSpot :=
  { operand := b, addr := s.lowInt b, n := 32
    codes := fun x => s.blockCodes s.wg true x (MatBlock.ofBytes x true 0 0 false false) }

/-- The command that a copy posts (R282, R286, R287): a multicast names its receivers. -/
def State.copyCmd (t : State) (unit : VAddr) (kind : CmdKind) (d follow : List Byte) : Command :=
  { t.newCmd unit (copyKind kind d) d with
    args := if kind = .cpyMc then ((t.receivers t.wg (CopyDesc.ofBytes d).mask).filterMap id).map (·.id) else []
    follow := follow }

/-- Only cpy posts a migration (R284). -/
theorem copyKind_of_ne {kind : CmdKind} (d : List Byte) (h : kind ≠ .cpy) : copyKind kind d = kind :=
  if_neg (fun hk => h hk.1)

theorem copyKind_cpy (d : List Byte) : copyKind .cpy d = if (CopyDesc.ofBytes d).mig then .migrate else .cpy :=
  if_congr (and_iff_right rfl) rfl rfl

section CopyCommands

variable (t : State) (unit : VAddr) (d follow : List Byte)

/-- A copy that is no multicast names no receivers. -/
theorem copyCmd_one {kind : CmdKind} (h : kind ≠ .cpyMc) :
    t.copyCmd unit kind d follow = { t.newCmd unit (copyKind kind d) d with follow := follow } := by
  simp only [State.copyCmd, if_neg h]
  rfl

theorem copyCmd_multicast : t.copyCmd unit .cpyMc d [] = { t.newCmd unit .cpyMc d with
    args := ((t.receivers t.wg (CopyDesc.ofBytes d).mask).filterMap id).map (·.id) } := by
  simp only [State.copyCmd, if_true, copyKind_of_ne d (kind := .cpyMc) (by decide)]
  rfl

theorem copyCmd_alone {kind : CmdKind} (h : kind ≠ .cpyMc) :
    t.copyCmd unit kind d [] = t.newCmd unit (copyKind kind d) d := copyCmd_one t unit d [] h

end CopyCommands

section CopyRules

variable {s : State} {kind : CmdKind} {a : Operand} {conds : List Cond} {blk : Option Operand}
  (hq : 0 < s.copyqOf s.wg) (h : s.PostGood a 64 (s.copyCodes s.wg kind) (blk.toList.map s.followSpot)) (hconds : conds = [])
include hq h hconds

/-- A copy whose COPYQ has room is posted, with its receivers and its follow-on block (R283, R286, R287). -/
theorem copyUnit_posts (hroom : s.copyqFull s.wg = false) {t : State}
    (ht : s.reads a 64 ((blk.toList.map s.followSpot).map (fun x => (x.addr, x.n))) = t) :
    s.copyUnit kind a conds blk = .next (t.post (t.copyCmd s.frag.pc kind (s.descriptor a 64)
      ((blk.toList.map s.followSpot).flatMap (fun x => (s.localBytes s.wg 0 s.wave.id x.addr x.n).1)))) := by
  have hzero : decide (s.copyqOf s.wg = 0) = false := decide_eq_false (by omega)
  subst ht
  unfold State.copyUnit
  rw [hzero, hroom]
  exact postUnit_posts h (by rw [hconds, lowWhen_false, List.nil_append])

/-- A copy whose COPYQ is full parks, outside a handler (R283, R460). -/
theorem copyUnit_parks (hfull : s.copyqFull s.wg = true) (hh : s.wave.hx = none) :
    s.copyUnit kind a conds blk = .next s.parkAgain := by
  have hzero : decide (s.copyqOf s.wg = 0) = false := decide_eq_false (by omega)
  unfold State.copyUnit
  rw [hzero, hfull]
  exact postUnit_parks h (by rw [hconds, lowWhen_false, List.nil_append]) hh

end CopyRules

section CopyPosts

variable {s : State} {a : Operand} (hq : 0 < s.copyqOf s.wg) (hroom : s.copyqFull s.wg = false)
  (h : s.describes a 64 [])
include hq hroom h

/-- A copy without a follow-on block is posted (R284 to R286). -/
theorem copyUnit_posts_alone {kind : CmdKind} (hcodes : s.copyCodes s.wg kind (s.descriptor a 64) = []) :
    s.copyUnit kind a [] none =
      .next ((s.reads a 64 []).post ((s.reads a 64 []).copyCmd s.frag.pc kind (s.descriptor a 64) [])) :=
  copyUnit_posts (blk := none) hq (h.postGood (more := []) hcodes nofun) rfl hroom rfl

theorem execCpy_posts (hcodes : s.copyCodes s.wg .cpy (s.descriptor a 64) = []) :
    let d := s.descriptor a 64
    let t := s.reads a 64 []
    execCpy a s = .next (t.post (t.newCmd s.frag.pc (if (CopyDesc.ofBytes d).mig then .migrate else .cpy) d)) := by
  have hposts := copyUnit_posts_alone hq hroom h hcodes
  rwa [copyCmd_alone (h := by decide), copyKind_cpy] at hposts

theorem execCpyCol_posts (hcodes : s.copyCodes s.wg .cpyCol (s.descriptor a 64) = []) :
    let t := s.reads a 64 []
    execCpyCol a s = .next (t.post (t.newCmd s.frag.pc .cpyCol (s.descriptor a 64))) := by
  have hposts := copyUnit_posts_alone hq hroom h hcodes
  rwa [copyCmd_alone (h := by decide), copyKind_of_ne _ (by decide)] at hposts

theorem execCpyMc_posts (hcodes : s.copyCodes s.wg .cpyMc (s.descriptor a 64) = []) :
    let d := s.descriptor a 64
    let t := s.reads a 64 []
    execCpyMc a s = .next (t.post { t.newCmd s.frag.pc .cpyMc d with
      args := ((t.receivers t.wg (CopyDesc.ofBytes d).mask).filterMap id).map (·.id) }) := by
  have hposts := copyUnit_posts_alone hq hroom h hcodes
  rwa [copyCmd_multicast] at hposts

end CopyPosts

theorem followSpot_codes {s : State} {b : Operand} (h : s.blockCodes s.wg true (s.localBytes s.wg 0 s.wave.id (s.lowInt b) 32).1
    (.ofBytes (s.localBytes s.wg 0 s.wave.id (s.lowInt b) 32).1 true 0 0 false false) = []) :
    ∀ x ∈ [s.followSpot b], x.codes (s.localBytes s.wg 0 s.wave.id x.addr x.n).1 = [] := by
  rw [List.forall_mem_singleton]
  exact h

section CopyThen

variable {s : State} {a b : Operand} (hq : 0 < s.copyqOf s.wg) (h : s.describes a 64 [(s.lowInt b, 32)])
  (hb : s.srcBad 1 b = false) (hcb : s.cleanCond [(1, b)] = [])
  (hcodes : s.copyCodes s.wg .cpyThen (s.descriptor a 64) = [])
  (hblock : s.blockCodes s.wg true (s.localBytes s.wg 0 s.wave.id (s.lowInt b) 32).1
    (.ofBytes (s.localBytes s.wg 0 s.wave.id (s.lowInt b) 32).1 true 0 0 false false) = [])
include hq h hb hcb hcodes hblock

theorem execCpyThen_posts (hroom : s.copyqFull s.wg = false) :
    let t := s.reads a 64 [(s.lowInt b, 32)]
    execCpyThen a b s = .next (t.post { t.newCmd s.frag.pc .cpyThen (s.descriptor a 64) with
      follow := (s.localBytes s.wg 0 s.wave.id (s.lowInt b) 32).1 }) := by
  have hposts := copyUnit_posts (blk := some b) hq (h.postGood hcodes (followSpot_codes hblock)) (operandConds_nil hb hcb) hroom rfl
  rw [copyCmd_one (h := by decide), copyKind_of_ne _ (by decide), Option.toList_some, List.map_singleton,
    List.flatMap_singleton] at hposts
  exact hposts

theorem execCpyThen_parks (hfull : s.copyqFull s.wg = true) (hh : s.wave.hx = none) :
    execCpyThen a b s = .next s.parkAgain :=
  copyUnit_parks (blk := some b) hq (h.postGood hcodes (followSpot_codes hblock))
    (operandConds_nil hb hcb) hfull hh

end CopyThen

/-! mma, mma.b and mmat at a full queue (R299, R306, R314). -/

/-- A vote that settles on a legal word is a vote that settles (R299). -/
theorem voteCond_agrees {s : State} {a : Operand} {legal : Nat → Bool} (h : s.voteCond a legal = []) :
    s.voteCond a (fun _ => true) = [] := by
  simp only [State.voteCond] at h ⊢
  split
  · next hbad => rwa [if_pos hbad] at h
  · next hbad =>
    rw [if_neg hbad] at h
    split
    · next hodd => rwa [if_pos hodd] at h
    · rfl

theorem votedWord_of_vote {s : State} {a : Operand} {legal : Nat → Bool} (h : s.voteCond a legal = []) :
    s.votedWord a = s.lowInt a := by
  rw [State.votedWord, voteCond_agrees h, List.isEmpty_nil, if_pos rfl]

section MatrixQueueRules

variable {s : State} {a b : Operand}

theorem mmaUnit_blocks {kind : CmdKind} {n : Nat} (hmatq : s.matqFull = true) (hv : a.isV = true)
    (hvote : s.voteCond a fmtOk = []) (h : s.describes b 32 []) (hcodes : s.blockCodes s.wg false (s.descriptor b 32)
      (.ofBytes (s.descriptor b 32) false n (s.lowInt a) (kind == .mmaB) s.flushBit) = []) :
    s.mmaUnit kind n a b = .next s.blockAgain := by
  unfold State.mmaUnit
  rw [votedWord_of_vote hvote, hmatq]
  exact postUnit_blocks (h.postGood (more := []) hcodes nofun) (by rw [hv, hvote]; rfl)

variable (h : s.describes a 128 []) (hq : 0 < s.copyqOf s.wg)
  (hcodes : (MmatDesc.ofBytes (s.descriptor a 128)).codes s.wg (s.descriptor a 128) = [])
include h hq hcodes

theorem execMmat_parks (hfull : s.copyqFull s.wg = true) (hh : s.wave.hx = none) : execMmat a s = .next s.parkAgain := by
  have hzero : decide (s.copyqOf s.wg = 0) = false := decide_eq_false (by omega)
  unfold execMmat
  rw [hzero, hfull]
  exact postUnit_parks (h.postGood (more := []) hcodes nofun) (lowWhen_false s _ _) hh

theorem execMmat_blocks (hroom : s.copyqFull s.wg = false) (hmatq : s.matqFull = true) :
    execMmat a s = .next s.blockAgain := by
  have hzero : decide (s.copyqOf s.wg = 0) = false := decide_eq_false (by omega)
  unfold execMmat
  rw [hzero, hroom, hmatq]
  exact postUnit_blocks (h.postGood (more := []) hcodes nofun) (lowWhen_false s _ _)

end MatrixQueueRules

/-- A unit that a full queue makes wait has posted nothing and is to issue again (R283, R306). -/
def State.Waits (s : State) (r : Host.Outcome State Fault Refusal) (how : Status) : Prop :=
  ∃ t, r = .next t ∧ t.cmds = s.cmds ∧ t.matq = s.matq ∧ t.frag.status = how ∧ t.frag.wait = some .again ∧
    t.frag.pc = s.frag.pc ∧ t.mem = s.mem ∧ t.wave = s.wave ∧ t.wg = s.wg

theorem waits_of_parks {s : State} {r : Host.Outcome State Fault Refusal} (h : r = .next s.parkAgain) : s.Waits r .waiting :=
  ⟨s.parkAgain, h, by simp only [State.parkAgain_cmds], rfl, rfl, rfl, rfl, rfl, rfl, rfl⟩

theorem waits_of_blocks {s : State} {r : Host.Outcome State Fault Refusal} (h : r = .next s.blockAgain) : s.Waits r .blocked :=
  ⟨s.blockAgain, h, rfl, rfl, rfl, rfl, rfl, rfl, rfl, rfl⟩

/-- Settles O36: a descriptor in order leaves no condition, so that only the queues decide whether its unit posts or waits. -/
theorem copiesPosted : Obligations.CopiesPosted := by
  unfold Obligations.CopiesPosted
  refine ⟨fun a b s hq hroom => ⟨execCpy_posts hq hroom, execCpyCol_posts hq hroom, execCpyMc_posts hq hroom,
    fun h hb hcb hcodes hblock => execCpyThen_posts hq h hb hcb hcodes hblock hroom⟩, fun n a b s => ⟨?copyq, ?matq⟩⟩
  case copyq =>
    intro hh hq hfull
    refine ⟨fun h x hx hcodes => ?_, fun h hb hcb hcodes hblock =>
      waits_of_parks (execCpyThen_parks hq h hb hcb hcodes hblock hfull hh),
      fun h hcodes => waits_of_parks (execMmat_parks h hq hcodes hfull hh)⟩
    have hexec : exec x.1 s = s.copyUnit x.2 a [] none := by
      simp only [List.mem_cons, List.not_mem_nil, or_false] at hx
      obtain rfl | rfl | rfl := hx <;> rfl
    exact waits_of_parks (hexec.trans (copyUnit_parks hq (h.postGood (more := []) hcodes nofun) rfl hfull hh))
  case matq =>
    intro hmatq
    refine ⟨fun hv hvote h x hx hcodes => ?_, fun h hq hroom hcodes =>
      waits_of_blocks (execMmat_blocks h hq hcodes hroom hmatq)⟩
    have hexec : exec x.1 s = s.mmaUnit x.2 n.val a b := by
      simp only [List.mem_cons, List.not_mem_nil, or_false] at hx
      obtain rfl | rfl := hx <;> rfl
    exact waits_of_blocks (hexec.trans (mmaUnit_blocks hmatq hv hvote h hcodes))

end Sys2Proof.Machine

/-! ### Events of the copy, matrix and sight engines (R283 to R289, R306 to R316, R342, R446, R481)

One rule for each step of an engine, by the phase of its command; then the statement. -/

namespace Sys2Proof.Machine

/-! Copy engines (R283 to R289). -/

section CopyEvents

variable {s : State} {c : Command} {cmd : Nat}

theorem execCopyCommandStart_starts {engine : Nat} (h : s.nextCopy engine = some c) :
    execCopyCommandStart engine s = .next (if (CopyDesc.ofBytes c.desc).guard = 0 then s.runCopy c
      else s.judgeGuard c (CopyDesc.ofBytes c.desc).guard 2 (fun t => t.runCopy c)) := by
  simp only [execCopyCommandStart, h]
  split <;> rfl

variable (hc : s.cmd cmd = some c)
include hc

theorem execCommandComplete_retires (hphase : c.phase = .done) : execCommandComplete cmd s = .next (s.retireCmd c) := by
  simp only [execCommandComplete, hc, if_pos hphase]

variable (hs : s.cmdStopped c = false)
include hs

theorem execGuardWordResolve_judges (hphase : c.phase = .guarded) (hcopies : c.copies = true) :
    execGuardWordResolve cmd s =
      .next (s.judgeGuard c (CopyDesc.ofBytes c.desc).guard 2 (fun t => t.runCopy c)) := by
  simp [execGuardWordResolve, hc, hs, hphase, hcopies]

theorem execGuardWordResolve_queues (hphase : c.phase = .guarded) (hcopies : c.copies = false) :
    execGuardWordResolve cmd s = .next (s.putCmd { c with phase := if c.kind = .cpyThen then .landed else .posted }) := by
  simp [execGuardWordResolve, hc, hs, hphase, hcopies]

/-- A multicast whose receivers all live, and have a slot, takes the slots and runs (R286). -/
theorem execMulticastStart_starts (hphase : c.phase = .slotless) (hbusy : s.mcBusy c = false)
    (hready : ∀ id ∈ c.args, ∃ g, s.group id = some g ∧ s.confined g = false ∧ g.finished = false ∧ g.fscPois = false ∧
      1 ≤ s.slotsOf g) :
    execMulticastStart cmd s = .next ((c.args.foldl (fun s id => s.takeSlot id) s).putCmd { c with phase := .running }) := by
  simp only [execMulticastStart, hc]
  rw [if_neg (by simp [hphase, hs]), if_neg]
  case hnc =>
    rw [List.any_eq_true]
    rintro ⟨id, hid, hgone⟩
    obtain ⟨g, hg, hconf, hfin, -, -⟩ := hready id hid
    simp [hg, hconf, hfin] at hgone
  split
  case h_1 g hbad =>
    obtain ⟨id, hfind, -⟩ := Option.bind_eq_some_iff.mp hbad
    obtain ⟨g', hg, -, -, hpois, -⟩ := hready id (List.mem_of_find?_eq_some hfind)
    simpa [hg, hpois] using List.find?_some hfind
  case h_2 =>
    rw [if_pos]
    rw [hbusy, Bool.not_false, Bool.true_and, List.all_eq_true]
    intro id hid
    obtain ⟨g, hg, -, -, -, hslot⟩ := hready id hid
    simp [hg, hslot]

theorem execCopyBytesLand_lands {n : Nat} {c' : Command} (hphase : c.phase = .running) (hcopies : c.copies = true)
    (hkind : c.kind ≠ .migrate) (hc' : (landSectors (CopyDesc.ofBytes c.desc) cmd n s).1.cmd cmd = some c') :
    let d := CopyDesc.ofBytes c.desc
    let r := landSectors d cmd n s
    execCopyBytesLand cmd n s = .next (if d.rows ≤ c'.progress / 2 ^ 24 then (r.1.lowerAll c' d r.2).endCopy c' d
      else r.1.lowerAll c' d r.2) := by
  simp only [execCopyBytesLand, hc, hs, hphase, hcopies, hkind, hc', ne_eq, not_true, Bool.not_true, Bool.false_eq_true,
    or_self, if_false]

end CopyEvents

/-! The entry at the head of a matrix queue (R306 to R316, R481). -/

section MatrixEvents

variable {s : State} {c : Command} {core : Nat} (hs : s.cmdStopped c = false)
include hs

section Starts

variable (hphase : c.phase = .posted ∨ c.phase = .landed) (hswap : s.swapFirst c = false) (hwith : s.withdrawnFirst c = false)
include hphase hswap hwith

/-- Nothing keeps the entry from being taken up (R306, R310, R316). -/
theorem not_entryHeld :
    ¬((c.phase ≠ .posted ∧ c.phase ≠ .landed) ∨ s.cmdStopped c ∨ s.swapFirst c ∨ s.withdrawnFirst c) := by
  simp only [hs, hswap, hwith]
  tauto

variable (hc : s.matHead core = some c)
include hc

theorem execMatrixEntryStart_begins
    (hplain : (c.kind ≠ .mma ∧ c.kind ≠ .mmaB ∧ c.kind ≠ .cpyThen) ∨ bitAt c.block.guard 31 = false) :
    execMatrixEntryStart core s = .next (s.beginEntry c) := by
  have hguard : ¬((c.kind = .mma ∨ c.kind = .mmaB ∨ c.kind = .cpyThen) ∧ bitAt c.block.guard 31 = true) := by
    rcases hplain with h | h
    · tauto
    · simp [h]
  simp only [execMatrixEntryStart, hc, if_neg (not_entryHeld hs hphase hswap hwith), if_neg hguard]

theorem execMatrixEntryStart_judges (hkind : c.kind = .mma ∨ c.kind = .mmaB ∨ c.kind = .cpyThen)
    (hguard : bitAt c.block.guard 31 = true) :
    let a := c.block.guard % 2 ^ 19
    let r := s.localBytes (s.cmdGroup c) 0 c.wave a 4
    let v := if r.2 then 0 else natOfBytes r.1
    let u := s.observe 0 c.wave (scratchPlace c.wg a) 4
    execMatrixEntryStart core s = .next (if v = 0 then u.putCmd { c with phase := .guarded }
      else if v = 1 then (u.fence c.core 0 3 c.wave).beginEntry c else u.endEntry c) := by
  simp only [execMatrixEntryStart, hc, if_neg (not_entryHeld hs hphase hswap hwith), if_pos (And.intro hkind hguard),
    apply_ite Host.Outcome.next]

end Starts

variable (hc : s.matHead core = some c) (hphase : c.phase = .running)
include hc hphase

theorem execMatrixChunkComplete_applies {t : State} {c' : Command} (hkind : c.kind ≠ .mmat)
    (ht : s.applyChunk c (.ofNat c.block.word) c.block.acc c.block.fl c.block.bd (c.block.za && c.progress == 0)
      (s.blockOps (s.cmdGroup c) c.block) c.progress = t) (hc' : t.cmd c.id = some c') :
    let e := { c' with progress := c'.progress + 1, retries := 0 }
    execMatrixChunkComplete core 0 s = .next (if e.progress < e.total then t.putCmd e else (t.putCmd e).endEntry e) := by
  subst ht
  simp [execMatrixChunkComplete, hc, hs, hphase, hkind, hc']

/-- A chunk with mismatched residues is tried again, or ends its command (R481). -/
theorem execMatrixChunkComplete_mismatches {n : Nat} (hn : 0 < n)
    (hchunk : c.kind = .mmat → ∃ x, c.chunksDone = some x ∧ x < (MmatDesc.ofBytes c.desc).ks / 16) :
    execMatrixChunkComplete core n s = .next (s.mismatched c n) := by
  by_cases hkind : c.kind = .mmat
  · obtain ⟨x, hx, hlt⟩ := hchunk hkind
    simp [execMatrixChunkComplete, hc, hs, hphase, hkind, hx, hn, Nat.not_le.mpr hlt]
  · simp [execMatrixChunkComplete, hc, hs, hphase, hkind, hn]

variable (hkind : c.kind = .mmat)
include hkind

theorem execMatrixChunkComplete_steps {x : Nat} {t : State} {c' : Command} (hx : c.chunksDone = some x)
    (hlt : x < (MmatDesc.ofBytes c.desc).ks / 16)
    (ht : let d := MmatDesc.ofBytes c.desc
      s.applyChunk c (.ofNat d.word) d.acc d.fl false false (d.ops (s.cmdGroup c) (c.progress % d.ksteps)) x = t)
    (hc' : t.cmd c.id = some c') :
    execMatrixChunkComplete core 0 s = .next (t.putCmd { c' with query := [x + 1], retries := 0 }) := by
  subst ht
  simp [execMatrixChunkComplete, hc, hs, hphase, hkind, hx, Nat.not_le.mpr hlt, State.mmatChunk, hc']

/-- The K-step that a running mmat is in, by what it has done of it (R315). -/
theorem execMmatKstep_goes_on :
    let d := MmatDesc.ofBytes c.desc
    let mb := c.progress / d.ksteps % d.mb
    let nb := c.progress / d.ksteps / d.mb
    let ks := c.progress % d.ksteps
    (c.chunksDone = none → execMmatKstep core s = .next (s.stageStep c d mb nb ks)) ∧
    (∀ x, c.chunksDone = some x → d.ks / 16 ≤ x → execMmatKstep core s = .next (s.endStep c d mb nb ks)) := by
  constructor
  · intro hx
    simp [execMmatKstep, hc, hs, hphase, hkind, hx]
  · intro x hx hle
    simp [execMmatKstep, hc, hs, hphase, hkind, hx, hle]

end MatrixEvents

section KstepRules

variable {s : State} {c : Command} {d : MmatDesc} {mb nb ks : Nat}

/-- A frozen workgroup begins no K-step (R316). -/
theorem stageStep_frozen (h : (s.cmdGroup c).frozen = true) : s.stageStep c d mb nb ks = s := if_pos h

theorem stageStep_stages {u : State} (h : (s.cmdGroup c).frozen = false)
    (hu : let f := FmtWord.ofNat d.word
      State.stagePanels (if ks = 0 then s.modGroup c.wg (fun g => (accTiles f.acc d.acc).foldl (fun g n => g.clearBank 1 n) g)
        else s) c d mb nb ks = (none, u)) :
    s.stageStep c d mb nb ks = (u.markSeen (fun e => e.cmd == c.id) 3 (some c.wave)).putCmd { c with query := [0] } := by
  simp only [State.stageStep, h, Bool.false_eq_true, if_false, hu, State.orFail]

/-- A K-step that ends is counted, after the last of a block has drained it (R315). -/
theorem endStep_counts {v : State} {c' : Command}
    (hv : (if ks + 1 = d.ksteps then s.drain c d mb nb else (none, s)) = (none, v)) (hc' : v.cmd c.id = some c') :
    let e := { c' with progress := c'.progress + 1, query := [] }
    s.endStep c d mb nb ks = if e.progress < e.total then v.putCmd e else (v.putCmd e).endEntry e := by
  simp only [State.endStep, hv, State.orFail, hc']

end KstepRules

/-! Sight units (R342, R344, R346, R446). -/

section SightEvents

variable {s : State} {c : Command} {sl k : Nat}

theorem execSightCommandRun_starts (hidle : s.sightRuns sl k = none) (hc : s.nextSight sl k = some c) :
    execSightCommandRun sl k s =
      .next (if c.kind = .rast then s.beginRast c else s.putCmd { c with phase := .running, progress := 0 }) := by
  simp only [execSightCommandRun, hidle, hc]

theorem execSightCommandRun_goes_on (hc : s.sightRuns sl k = some c) :
    execSightCommandRun sl k s = .next (if c.kind = .rast then s.rastStep c else s.rayStep c) := by
  simp only [execSightCommandRun, hc]

/-- A raster command past its last pixel writes COUNT and is done (R344). -/
theorem rastStep_ends (h : (RastDesc.ofBytes c.desc).w * (RastDesc.ofBytes c.desc).h ≤ c.progress) :
    s.rastStep c = (s.sightWrite c (c.args.getD 0 0 + 24) (bytesOf 4 c.total) false).putCmd { c with phase := .done } :=
  if_pos h

theorem rayStep_ends (h : c.rays.length ≤ c.progress) : s.rayStep c = s.putCmd { c with phase := .done } := by
  simp only [State.rayStep, List.drop_eq_nil_of_le h]

theorem rayStep_runs {l : Nat} {ws : List Nat} {rest : List (Nat × List Nat)} {u : State}
    (hray : c.rays.drop c.progress = (l, ws) :: rest)
    (hu : State.runRay c (natAt c.desc 0 8 % 2 ^ 56) (natAt c.desc 8 4) (natAt c.desc 12 4) l ws s = .ok u) :
    s.rayStep c = u.putCmd { c with progress := c.progress + 1 } := by
  simp only [State.rayStep, hray, hu]

end SightEvents

/-- Settles O51, event by event: each looks up the command or the entry that it is about, and does what its phase asks. -/
theorem commandEvents : Obligations.CommandEvents := by
  unfold Obligations.CommandEvents
  intro s t c cmd core
  refine ⟨fun engine => execCopyCommandStart_starts, fun hc hs => ?command, fun hc hs => ?entry,
    fun sl k => execSightCommandRun_starts, fun sl k hc => ?sight⟩
  case command =>
    exact ⟨execGuardWordResolve_judges hc hs, execGuardWordResolve_queues hc hs, execMulticastStart_starts hc hs,
      fun n c' => execCopyBytesLand_lands hc hs, execCommandComplete_retires hc⟩
  case entry =>
    refine ⟨fun hp hswap hwith => execMatrixEntryStart_begins hs hp hswap hwith hc,
      fun hp hswap hwith => execMatrixEntryStart_judges hs hp hswap hwith hc,
      fun c' hp hk ht hc' => execMatrixChunkComplete_applies hs hc hp hk ht hc',
      fun n hp => execMatrixChunkComplete_mismatches hs hc hp, fun hp hk => ?_⟩
    intro d f ks mb nb
    obtain ⟨hstage, hend⟩ := execMmatKstep_goes_on hs hc hp hk
    refine ⟨fun hx hfrozen => ?_, fun u hx hfrozen hu => ?_, fun x c' hx hlt ht hc' => ?_, fun x v c' hx hle hv hc' => ?_⟩
    · exact (hstage hx).trans (congrArg _ (stageStep_frozen hfrozen))
    · exact (hstage hx).trans (congrArg _ (stageStep_stages hfrozen hu))
    · exact execMatrixChunkComplete_steps hs hc hp hk hx hlt ht hc'
    · exact (hend x hx hle).trans (congrArg _ (endStep_counts hv hc'))
  case sight =>
    have hstep : exec (.sightCommandRun sl k) s = _ := execSightCommandRun_goes_on hc
    refine ⟨fun hk hdone => ?_, fun hk _ => ?_, fun hk hdone => ?_, fun hk l ws rest u hray hu => ?_⟩
    · rw [hstep, if_pos hk, rastStep_ends hdone]
    · rw [hstep, if_pos hk]
    · rw [hstep, if_neg hk, rayStep_ends hdone]
    · rw [hstep, if_neg hk, rayStep_runs hray hu]

end Sys2Proof.Machine

/-! ### Matrix commands at issue and accumulators (R299, R301, R306 to R308, R310 to R312, R314)

A posting unit in order posts its command; a unit on a tile below ACCUM has its one effect; then the statements. -/

namespace Sys2Proof.Machine

/-! mma, mma.b and mmat with room in the queues (R306 to R308, R314). -/

section MatrixPosts

variable {s : State} {a b : Operand} (hmatq : s.matqFull = false)
include hmatq

theorem mmaUnit_posts {kind : CmdKind} {n : Nat} (hv : a.isV = true) (hvote : s.voteCond a fmtOk = [])
    (h : s.describes b 32 []) (hcodes : s.blockCodes s.wg false (s.descriptor b 32)
      (.ofBytes (s.descriptor b 32) false n (s.lowInt a) (kind == .mmaB) s.flushBit) = []) :
    let t := s.reads b 32 []
    s.mmaUnit kind n a b = .next (t.postMatrix { t.newCmd s.frag.pc kind (s.descriptor b 32) with
      args := mmaArgs n (s.lowInt a) s.flushBit }) := by
  unfold State.mmaUnit
  rw [votedWord_of_vote hvote, hmatq]
  exact postUnit_posts (h.postGood (more := []) hcodes nofun) (by rw [hv, hvote]; rfl)

theorem execMmat_posts (h : s.describes a 128 []) (hq : 0 < s.copyqOf s.wg) (hroom : s.copyqFull s.wg = false)
    (hcodes : (MmatDesc.ofBytes (s.descriptor a 128)).codes s.wg (s.descriptor a 128) = []) :
    let t := s.reads a 128 []
    execMmat a s = .next (t.postMatrix (t.newCmd s.frag.pc .mmat (s.descriptor a 128))) := by
  have hzero : decide (s.copyqOf s.wg = 0) = false := decide_eq_false (Nat.ne_of_gt hq)
  unfold execMmat
  rw [hzero, hroom, hmatq]
  exact postUnit_posts (h.postGood (more := []) hcodes nofun) (lowWhen_false s _ _)

end MatrixPosts

/-- Settles O42: descriptors in order leave no condition, and with room in the queues each unit posts; mma and mma.b are one
unit. -/
theorem matrixPosted : Obligations.MatrixPosted := by
  unfold Obligations.MatrixPosted
  intro n a b s hmatq
  refine ⟨fun hv hvote h => ?_, fun h hq hroom => execMmat_posts hmatq h hq hroom⟩
  intro word d t x hx hcodes
  have hexec : exec x.1 s = s.mmaUnit x.2 n.val a b := by
    simp only [List.mem_cons, List.not_mem_nil, or_false] at hx
    obtain rfl | rfl := hx <;> rfl
  exact hexec.trans (mmaUnit_posts hmatq hv hvote h hcodes)

/-! Registers that acc.rd writes (R312). -/

/-- Writes register `d + q` of every lane of `e` with what `v` gives for `q` and the lane, one register after the other, for
`q` below `k`; `p` is the poison of all of them. -/
def State.putRows (s : State) (e : LaneMask) (d k : Nat) (v : Nat → Nat → Nat) (p : Bool) : State :=
  (List.range k).foldl (fun t q => (lanesOf e).foldl (fun t l => t.setV (d + q) l 1 (v q l) p) t) s

theorem foldl_setV_sameButTile (s : State) (e : LaneMask) {d m q : Nat} (v : Nat → Nat) (p : Bool) (hq : q ≤ m) :
    s.SameButTile ((lanesOf e).foldl (fun t l => t.setV (d + q) l 1 (v l) p) s) e d m :=
  foldl_sameButTile fun t _ hl => setV_sameButTile t _ p hl hq

theorem foldl_setV_vreg (s : State) (e : LaneMask) (d : Nat) (v : Nat → Nat) (p : Bool) {r l : Nat} (hl : l < 32) :
    ((lanesOf e).foldl (fun t l => t.setV d l 1 (v l) p) s).vreg r l =
      if l ∈ lanesOf e ∧ r = d then BitVec.ofNat 32 (v l) else s.vreg r l := by
  by_cases hr : r = d
  · subst hr
    simp only [and_true]
    exact (putRegs_reads s (fun k hk => (mem_lanesOf.mp hk).1) r (fun _ l => (v l, p)) hl Nat.one_pos).1
  · rw [if_neg fun h => hr h.2]
    exact ((foldl_setV_sameButTile s e (d := d) (q := 0) v p le_rfl).keeps r l hl (.inr (Nat.lt_or_gt_of_ne hr))).1

theorem putRows_succ (s : State) (e : LaneMask) (d k : Nat) (v : Nat → Nat → Nat) (p : Bool) :
    s.putRows e d (k + 1) v p = (lanesOf e).foldl (fun t l => t.setV (d + k) l 1 (v k l) p) (s.putRows e d k v p) := by
  rw [State.putRows, List.range_succ, List.foldl_append]
  rfl

theorem putRows_vreg (s : State) (e : LaneMask) (d k : Nat) (v : Nat → Nat → Nat) (p : Bool) {r l : Nat} (hl : l < 32) :
    (s.putRows e d k v p).vreg r l =
      if l ∈ lanesOf e ∧ d ≤ r ∧ r < d + k then BitVec.ofNat 32 (v (r - d) l) else s.vreg r l := by
  induction k with
  | zero => exact (if_neg (by omega)).symm
  | succ k ih =>
    rw [putRows_succ, foldl_setV_vreg _ e (d + k) (v k) p hl, ih]
    by_cases hr : r = d + k
    · subst hr
      simp
    · have hrange : (d ≤ r ∧ r < d + (k + 1)) ↔ (d ≤ r ∧ r < d + k) := by omega
      simp only [hr, and_false, if_false, hrange]

theorem putRows_sameButTile (s : State) (e : LaneMask) (d k : Nat) (v : Nat → Nat → Nat) (p : Bool) :
    s.SameButTile (s.putRows e d k v p) e d k :=
  foldl_sameButTile fun t q hq => foldl_setV_sameButTile t e (v q) p (List.mem_range.mp hq).le

/-! Units on a tile below ACCUM (R310 to R312). -/

section AccumulatorRules

variable {s : State} {n : Fin 4} (hw : s.wordsOk .plain) (he : s.exec ≠ 0) (hn : n.val < s.wg.accum)

include hn in
theorem tileCond_nil : s.tileCond n.val = [] := by rw [State.tileCond, if_pos hn, laneCond_nil]

include hw he hn

theorem execAccSwap_swaps (hfree : (s.retire .plain).entryBefore (s.retire .plain).wg n.val (s.retire .plain).nextId = false) :
    execAccSwap n s = .next { s.retire .plain with wg := (s.retire .plain).wg.swapTile n.val } :=
  (issueLive_next hw (tileCond_nil hn) he).trans (congrArg _ (if_neg (ne_true_of_eq_false hfree)))

/-- An older entry on the tile defers the swap: it takes an order number, and its fragment blocks (R310). -/
theorem execAccSwap_blocks (hbusy : (s.retire .plain).entryBefore (s.retire .plain).wg n.val (s.retire .plain).nextId = true) :
    let t := s.retire .plain
    execAccSwap n s = .next (State.block
      { t with nextId := t.nextId + 1, wg := { t.wg with swaps := t.wg.swaps ++ [(t.nextId, n.val)] } } s.frag.pc
        (.swap t.nextId)) :=
  (issueLive_next hw (tileCond_nil hn) he).trans (congrArg _ (if_pos hbusy))

theorem execAccZero_posts (hmatq : s.matqFull = false) :
    let t := s.retire .plain
    execAccZero n s = .next (t.postMatrix { t.newCmd s.frag.pc .accZero [] with args := [n.val] }) := by
  have hjudged : s.judged .plain (s.tileCond n.val) = none := (judged_none_iff ..).mpr ⟨hw, tileCond_nil hn⟩
  simp only [execAccZero, hjudged, if_neg he, hmatq, Bool.false_eq_true, if_false]

theorem execAccZeroV_clears :
    execAccZeroV n s = .next { s.retire .plain with wg := (s.retire .plain).wg.clearBank 0 n.val } :=
  issueLive_next hw (tileCond_nil hn) he

section Rows

variable {d a : Operand} {r : Fin 4} (hd : d.isV = true) (hfit : d.num + 4 * (r.val + 1) ≤ 128) (ha : s.srcBad 1 a = false)
  (hlow : s.lowCond 1 a = []) (hrows : s.lowInt a + (r.val + 1) ≤ 128)
include hd hfit ha hlow hrows

omit hw he in
theorem accConds_nil : s.accConds d a (r.val + 1) n.val = [] := by
  have hregs : decide (128 < d.num + 4 * (r.val + 1)) = false := decide_eq_false (Nat.not_lt.mpr hfit)
  have hbeyond : decide (128 < s.lowInt a + (r.val + 1)) = false := decide_eq_false (Nat.not_lt.mpr hrows)
  rw [State.accConds, hd, hregs, ha, hlow, tileCond_nil hn, hbeyond]
  rfl

theorem execAccRd_reads : execAccRd d a r n s = .next ((s.retire .plain).putRows s.exec d.num (4 * (r.val + 1))
    (fun q l => (SMap.get 0 (128 * s.lowInt a + 32 * q + l) (s.wg.bankOfTile 0 n.val)).toNat) (s.wg.bankPois 0 n.val)) :=
  issueLive_next hw (accConds_nil hn hd hfit ha hlow hrows) he

theorem execAccWr_writes (hclean : ∀ l ∈ lanesOf s.exec, ∀ q, q < 4 * (r.val + 1) → s.vpoison (d.num + q) l = false) :
    let t := s.retire .plain
    execAccWr d a r n s = .next { t with wg := t.wg.putBankOfTile 0 n.val ((List.range (4 * (r.val + 1))).foldl (fun m q =>
      (lanesOf s.exec).foldl (fun m l => SMap.set 0 (128 * s.lowInt a + 32 * q + l) (s.vreg (d.num + q) l) m) m)
        (t.wg.bankOfTile 0 n.val)) } := by
  have hpois : lanesWhere s.exec (fun l => (List.range (4 * (r.val + 1))).any (fun q => s.vpoison (d.num + q) l)) = 0 :=
    lanesWhere_zero fun l hl => by simpa using hclean l hl
  refine issueLive_next hw ?_ he
  rw [accConds_nil hn hd hfit ha hlow hrows, laneCond_nil.mpr hpois]
  rfl

end Rows

end AccumulatorRules

/-- Settles O43: on a tile below ACCUM no form has a condition left, and what remains is its one effect. -/
theorem accumulators : Obligations.Accumulators := by
  unfold Obligations.Accumulators
  intro n r d a s hw he hn t k
  refine ⟨execAccSwap_swaps hw he hn, execAccSwap_blocks hw he hn, execAccZero_posts hw he hn, execAccZeroV_clears hw he hn,
    fun hd hfit ha hlow hrows => ⟨?reads, execAccWr_writes hw he hn hd hfit ha hlow hrows⟩⟩
  obtain ⟨hretired, hx, hp, hg⟩ := (putRows_sameButTile t s.exec d.num (4 * k) (fun q l =>
    (SMap.get 0 (128 * s.lowInt a + 32 * q + l) (s.wg.bankOfTile 0 n.val)).toNat) (s.wg.bankPois 0 n.val)).retired
  refine ⟨_, execAccRd_reads hw he hn hd hfit ha hlow hrows, hretired, hx, hp, hg, fun q l hl => ?_⟩
  rw [putRows_vreg _ _ _ _ _ _ hl, BitVec.ofNat_toNat, BitVec.setWidth_eq, State.retire_vreg]

end Sys2Proof.Machine

/-! ### Trap handlers (R409 to R414, R420, R469, R474)

Which condition a unit raises, how its trap is taken, and how a handler is left; each statement after its rules. -/

namespace Sys2Proof.Machine

/-! The lowest code of a unit's conditions (R409). -/

/-- Settles O28: a unit that raises something has a condition of the lowest code, which is then what it raises. -/
theorem lowestCode : Obligations.LowestCode := by
  unfold Obligations.LowestCode
  intro cs c hc
  have hne : cs ≠ [] := by
    rintro rfl
    exact Option.some_ne_none c hc.symm
  obtain ⟨y, hy, -, hleast⟩ := bestOf_code hne
  obtain ⟨d, hd, hcode, hlanes⟩ := raised_lowest ⟨y, hy, rfl⟩ hleast
  obtain rfl : c = d := Option.some.inj (hc.symm.trans hd)
  rw [hcode]
  exact ⟨hleast, ⟨y, hy, rfl⟩, fun l _ => hlanes l⟩

/-! The return from a trap handler (R414). -/

/-- After trap 0x11 every action ends the workgroup (R474). -/
theorem handlerReturn_after_seal {s : State} {h : Handler} (hcause : h.cause = 0x11) (v : Nat) :
    s.handlerReturn h v = s.endInHandler h :=
  if_pos hcause

section HandlerRules

variable {s : State} {h : Handler} (hh : s.wave.hx = some h)
include hh

/-- Each return instruction is the return with its action (R414). -/
theorem exec_handlerReturn {x : Instr × Nat}
    (hx : x ∈ [(Instr.handlerReturnContinue, 0), (.handlerReturnPc, 1), (.handlerReturnEnd, 2)]) :
    exec x.1 s = .next (s.handlerReturn h x.2) := by
  simp only [List.mem_cons, List.not_mem_nil, or_false] at hx
  obtain rfl | rfl | rfl := hx
  · simp only [exec, execHandlerReturnContinue, hh]
  · simp only [exec, execHandlerReturnPc, hh]
  · simp only [exec, execHandlerReturnEnd, hh]

end HandlerRules

/-- Settles O26: leaving the handler gives back exactly the fields that R414 names. -/
theorem handlerReturns : Obligations.HandlerReturns := by
  unfold Obligations.HandlerReturns
  intro s h hh hold
  have hcontinue := exec_handlerReturn hh (x := (.handlerReturnContinue, 0)) (by simp)
  have hpc := exec_handlerReturn hh (x := (.handlerReturnPc, 1)) (by simp)
  have hend := exec_handlerReturn hh (x := (.handlerReturnEnd, 2)) (by simp)
  refine ⟨fun hcause => ?other, fun hcause i hi => ?sealed⟩
  case other =>
    have hacts : ∀ v, s.handlerReturn h v = _ := fun v => if_neg hcause
    exact ⟨hcontinue.trans (congrArg _ (hacts 0)), hpc.trans (congrArg _ (hacts 1)), hend.trans (congrArg _ (hacts 2))⟩
  case sealed =>
    simp only [handlerReturn_after_seal hcause] at hcontinue hpc hend
    simp only [List.mem_cons, List.not_mem_nil, or_false] at hi
    obtain rfl | rfl | rfl := hi
    · exact hcontinue
    · exact hpc
    · exact hend

/-! Taking a precise trap (R410 to R413, R420). -/

theorem reportsAddr_iff (code : Nat) : reportsAddr code = true ↔ code ∈ [0x07, 0x08, 0x09, 0x0B, 0x11] := by
  simp [reportsAddr, or_assoc]

theorem reportsAux_iff (code : Nat) : reportsAux code = true ↔ code ≤ 3 ∨ code = 0x0A := by
  simp [reportsAux]

section TrapRules

variable {s : State} {e : LaneMask} {c : Cond} (hipas : c.ipas = []) (hue : c.ue = none)
include hipas hue

theorem takeTrap_recipe (hr : s.frag.recipe.isSome = true) : s.takeTrap e c = s.confineWg 0 c := by
  have hheld : s.headerHeld c = false := by simp [State.headerHeld, Option.isNone_eq_false_iff.mpr hr]
  simp only [State.takeTrap, hheld, hipas, hue, hr, List.foldl_nil, Bool.false_eq_true, if_false, if_true]

variable (hr : s.frag.recipe = none)
include hr

theorem takeTrap_nested (hx : s.wave.hx.isSome = true) : s.takeTrap e c = s.confineWg 5 c := by
  have hheld : s.headerHeld c = false := by simp [State.headerHeld, Option.isNone_eq_false_iff.mpr hx]
  simp only [State.takeTrap, hheld, hipas, hue, hr, hx, List.foldl_nil, Option.isSome_none, Bool.false_eq_true, if_false, if_true]

variable (hx : s.wave.hx = none) (hbad : s.ctxBad s.wg.part s.wg.vf s.wg.ctx 80 8 = none)
include hx hbad

theorem takeTrap_unhandled (hh : s.handlerOf s.wg.part s.wg.vf s.wg.ctx = 0) :
    s.takeTrap e c = (s.useCtx s.who 80 8).confineWg 0 c := by
  have hheld : s.headerHeld c = false := by simp [State.headerHeld, hh]
  simp only [State.takeTrap, hheld, hipas, hue, hr, hx, hbad, hh, List.foldl_nil, Option.isSome_none, Bool.false_eq_true,
    if_false, if_true]

/-- With a handler whose header is legal the trap enters it, once the header has been read (R412, R469). -/
theorem takeTrap_handled {bs : List Byte} (hheld : s.headerHeld c = false)
    (hh : s.handlerOf s.wg.part s.wg.vf s.wg.ctx ≠ 0)
    (hread : (s.useCtx s.who 80 8).ctxRead (s.useCtx s.who 80 8).who 1 (s.handlerOf s.wg.part s.wg.vf s.wg.ctx) 64 .fetch =
      .ok (bs, false))
    (hmagic : natAt bs 0 4 = 0x314B4D45) (hlow : natAt bs 4 2 ≠ 0) (hhigh : natAt bs 4 2 ≤ 3) :
    let h := s.handlerOf s.wg.part s.wg.vf s.wg.ctx
    let v := s.useCtx s.who 80 8
    s.takeTrap e c = (v.seen v.who 1 h 64 .fetch).enterHandler e c h (natAt bs 4 2) (natAt bs 44 4) := by
  have hlegal : ¬(natAt bs 4 2 = 0 ∨ 3 < natAt bs 4 2) := by omega
  simp only [State.takeTrap, hheld, hipas, hue, hr, hx, hbad, hh, hread, hmagic, hlegal, List.foldl_nil, Option.isSome_none,
    Bool.false_eq_true, ne_eq, not_true, false_or, if_false]

end TrapRules

/-- Settles O27: a trap that a handler takes enters it, and each of the others confines the workgroup. -/
theorem trapEntryAndNesting : Obligations.TrapEntryAndNesting := by
  unfold Obligations.TrapEntryAndNesting
  refine ⟨?_, ?_⟩
  · intro s e c bs hipas hue hr hx hheld hbad h v hh hread hmagic hlow hhigh u
    refine ⟨_, _, takeTrap_handled hipas hue hr hx hbad hheld hh hread hmagic hlow hhigh, rfl, rfl, rfl, rfl, rfl, rfl, rfl, rfl,
      rfl, ?_, ?_⟩
    · simp only [← reportsAddr_iff]
      exact apply_ite (BitVec.ofNat 56) ..
    · simp only [← reportsAux_iff]
      exact apply_ite (BitVec.ofNat 32) ..
  · intro s e c hipas hue
    exact ⟨takeTrap_recipe hipas hue, takeTrap_nested hipas hue, takeTrap_unhandled hipas hue⟩

end Sys2Proof.Machine

/-! ### Shading, sight and attention units (R336 to R346, R354, R363 to R366)

A unit with no condition left has its one effect; then the statements. -/

namespace Sys2Proof.Machine

/-! scq, scfill, scinv and scage (R336 to R341, R348, R378). -/

section ShadingRules

variable {s : State} (hw : s.wordsOk .plain) (he : s.exec ≠ 0)

/-- The enabled cache and the bit of the context's grant admit a shading instruction; those that fill are for a workgroup that
is not sealed (R341, R348, R378). -/
theorem scConds_nil {bit : Nat} (hen : s.scEn s.wg.part = true) (hbit : bitAt (s.scGrant s.wg.part s.wg.vf s.wg.ctx) bit = true)
    (hsealed : bit = 30 → s.grantOf s.wg = none) : s.scConds bit = [] := by
  have hopen : ¬(bit = 30 ∧ (s.grantOf s.wg).isSome = true) := by
    rintro ⟨hfill, hsome⟩
    rw [hsealed hfill] at hsome
    exact Bool.false_ne_true hsome
  simp only [State.scConds, hen, hbit, if_neg hopen, Bool.and_self, if_true, List.append_nil]

/-- No lane's object lies beyond the table (R330). -/
theorem beyondTable_nil {obj : Nat → Nat} (h : ∀ l ∈ lanesOf s.exec, obj l < s.objN s.wg.part) :
    laneCond 0x0E (lanesWhere s.exec (fun l => decide (s.objN s.wg.part ≤ obj l))) = [] :=
  laneCond_nil.mpr (lanesWhere_zero fun l hl => decide_eq_false (Nat.not_le.mpr (h l hl)))

include hw he

/-- A shading unit with no condition, whose object records can all be had, has its effect. -/
theorem scUnit_next {conds : List Cond} {obj : Nat → Nat} {eff : State → State} (hc : conds = []) (hrec : s.scBadRec obj = none) :
    s.scUnit conds obj eff = .next (eff (s.retire .plain)) := by
  simp only [State.scUnit, (judged_none_iff s .plain conds).mpr ⟨hw, hc⟩, hrec]
  exact issueLive_next hw hc he

variable (hen : s.scEn s.wg.part = true) {d a b : Operand}
include hen

theorem execScq_asks (hgrant : bitAt (s.scGrant s.wg.part s.wg.vf s.wg.ctx) 31 = true) (hd : d.isV = true)
    (hpair : d.aligned 2 = true) (ha : a.isPair = true) (hb : s.srcBad 1 b = false)
    (hbar : s.scBarred a (s.scGrant s.wg.part s.wg.vf s.wg.ctx) = (0, 0)) (hclean : s.cleanCond [(2, a), (1, b)] = [])
    (hrec : s.scBadRec (fun l => keyObj (s.addr56 a l)) = none) :
    let t := s.retire .plain
    let xs : List Texel := (lanesOf s.exec).map (fun l => { lane := l, key := s.addr56 a l, sel := 8 * (s.int b l % 64) })
    let r := State.scAskAll s.wg.part s.wave.id (s.frameOf s.wg) xs (t.frameLoad s.wg.vf s.wg.ctx s.wave.core)
    execScq d a b s = .next (if r.1.all Texel.done then r.2.texelsOut d r.1
      else (r.2.park s.frag.pc (.texels d.code (s.scGrant s.wg.part s.wg.vf s.wg.ctx) (s.frameOf s.wg) r.1)).watchLines
        (texelLines r.1)) := by
  have hconds : s.scConds 31 = [] := scConds_nil hen hgrant (by omega)
  unfold execScq
  simp only [hconds, List.isEmpty_nil, if_true]
  refine scUnit_next hw he ?_ hrec
  simp only [hd, hpair, ha, hb, hbar, hclean, encCond_nil.mpr, laneCond_nil.mpr, Bool.not_true, Bool.or_self, List.append_nil]

variable (hgrant : bitAt (s.scGrant s.wg.part s.wg.vf s.wg.ctx) 30 = true) (hsealed : s.grantOf s.wg = none)
include hgrant hsealed

theorem execScfill_fills (hd : d.isV = true) (hd4 : d.aligned 4 = true) (ha : a.isX = true) (ha2 : a.aligned 2 = true)
    (hb : b.isX = true) (hb2 : b.aligned 2 = true) (hpois : s.fillPois d = 0) :
    let r := (s.retire .plain).scFillRow s.wg.part (s.addr56 a 0) ((s.xreg b.num).toNat % 2 ^ 16) (s.xreg (b.num + 1)).toNat
      (s.fillBytes d)
    execScfill d a b s = .next ((lanesOf s.exec).foldl (fun t l => t.setP 15 l (if r.1 then .t else .f)) r.2) := by
  have hconds : s.scConds 30 = [] := scConds_nil hen hgrant fun _ => hsealed
  refine issueLive_next hw ?_ he
  rw [hd, hd4, ha, ha2, hb, hb2, hconds, hpois]
  exact ite_self _

theorem execScinv_bumps (hd : dstBad 1 d = false) (ha : s.srcBad 1 a = false)
    (hin : ∀ l ∈ lanesOf s.exec, s.int a l % 2 ^ 24 < s.objN s.wg.part) (hclean : s.cleanCond [(1, a)] = [])
    (hrec : s.scBadRec (fun l => s.int a l % 2 ^ 24) = none) :
    let r := State.scBumps s.wg.part ((runLanes d s.exec).map (fun l => (l, s.int a l % 2 ^ 24))) (s.retire .plain)
    execScinv d a s = .next (r.2.writeLanes d 1 r.1) := by
  have hconds : s.scConds 30 = [] := scConds_nil hen hgrant fun _ => hsealed
  refine scUnit_next hw he ?_ hrec
  rw [encCond_nil.mpr hd, encCond_nil.mpr ha, hconds, beyondTable_nil hin, hclean]
  rfl

theorem execScage_ages (hd : d.isP = true) (ha : a.isPair = true) (hb : s.srcBad 1 b = false)
    (hin : ∀ l ∈ lanesOf s.exec, keyObj (s.addr56 a l) < s.objN s.wg.part) (hclean : s.cleanCond [(2, a), (1, b)] = [])
    (hrec : s.scBadRec (fun l => keyObj (s.addr56 a l)) = none) :
    execScage d a b s = .next ((lanesOf s.exec).foldl (fun t l =>
      let r := t.scAge s.wg.part s.wave.id (s.addr56 a l) (s.int b l)
      r.2.setP d.num l (if r.1 then .t else .f)) (s.retire .plain)) := by
  have hconds : s.scConds 30 = [] := scConds_nil hen hgrant fun _ => hsealed
  refine scUnit_next hw he ?_ hrec
  rw [hd, ha, encCond_nil.mpr hb, hconds, beyondTable_nil hin, hclean]
  rfl

end ShadingRules

/-- Settles O46: with the cache enabled and the grant bit set no form has a condition left, and what remains is its one effect. -/
theorem shadingUnits : Obligations.ShadingUnits := by
  unfold Obligations.ShadingUnits
  intro d a b s hw he hen grant t obj
  refine ⟨fun hgrant hd hpair ha hb hbar hclean hrec => ?asks, fun hgrant hsealed => ⟨?_, ?_, ?_⟩⟩
  case asks =>
    intro xs r
    have h : exec (.scq d a b) s = _ := execScq_asks hw he hen hgrant hd hpair ha hb hbar hclean hrec
    refine ⟨fun hall => ?_, fun hall => ?_⟩
    · exact h.trans (congrArg _ (if_pos hall))
    · exact h.trans (congrArg _ (if_neg (ne_true_of_eq_false hall)))
  · exact execScfill_fills hw he hen hgrant hsealed
  · exact execScinv_bumps hw he hen hgrant hsealed
  · exact execScage_ages hw he hen hgrant hsealed

/-! rast, ray and qpost at issue (R342, R343, R346, R354). -/

section SightPosts

variable {s : State} (hroom : s.copyqFull s.wg = false) {a b : Operand}
include hroom

theorem execRast_posts (h : s.describes a 64 []) (hcodes : rastCodes s.wg.localBytes (s.descriptor a 64) = []) :
    let t := s.reads a 64 []
    execRast a s = .next (t.post { t.newCmd s.frag.pc .rast (s.descriptor a 64) with args := [s.lowInt a] }) := by
  unfold execRast
  rw [hroom]
  exact postUnit_posts (h.postGood (more := []) hcodes nofun) rfl

theorem execRay_posts (h : s.describes b 16 []) (ha : a.isV = true) (hfit : a.num ≤ 121) (hclean : s.cleanCond [(7, a)] = [])
    (hcodes : rayCodes s.wg.localBytes ((lanesOf s.exec).getLastD 0 + 1) (s.descriptor b 16) = []) :
    let t := s.reads b 16 []
    execRay a b s = .next (t.post { t.newCmd s.frag.pc .ray (s.descriptor b 16) with
      args := lanesOf s.exec, acc := (lanesOf s.exec).flatMap (s.rayWords a) }) := by
  have hregs : decide (121 < a.num) = false := decide_eq_false (Nat.not_lt.mpr hfit)
  unfold execRay
  rw [hroom]
  exact postUnit_posts (h.postGood (more := []) hcodes nofun) (by rw [ha, hregs, hclean]; rfl)

/-- qpost whose regions and windows are in order posts on the stack that holds its keys, and marks the pages it has judged. -/
theorem execQpost_posts (h : s.describes a 64 []) :
    let q := s.descriptor a 64
    let j := s.judgeRegions (.ofBytes q) q
    let stack := (j.2.headD (0, { pa := 0, size := 0, w := false, x := false })).1 / 2 ^ 36
    j.1 = [] → s.queryCodes q = [] → s.stackFull stack = false →
      let t := j.2.foldl (fun t r => t.mark t.who r.2.marks) (s.reads a 64 [])
      execQpost a s = .next (t.post { t.newCmd s.frag.pc .qpost q with
        engine := stack, args := j.2.flatMap (fun r => [r.1, r.2.pa]) }) := by
  intro q j stack hjudged hcodes hstack
  have hgood : s.PostGood a 64 s.queryCodes [] := h.postGood (more := []) hcodes nofun
  obtain ⟨halign, hwithin, -, -⟩ := hgood.spots _ List.mem_cons_self
  have hhere : (decide (s.exec ≠ 0) && decide (s.lowInt a % 64 = 0) && decide (s.lowInt a + 64 ≤ s.wg.localBytes)) = true := by
    simp only [decide_eq_true hgood.live, decide_eq_true halign, decide_eq_true hwithin, Bool.and_self]
  dsimp only [stack, j, q, State.descriptor] at hstack
  simp only [execQpost, hhere, hroom, hstack, if_true, Bool.true_and, Bool.false_or]
  exact postUnit_posts hgood hjudged

end SightPosts

/-- A mask that is not empty has a lowest lane. -/
theorem lowest_of_ne_zero {m : LaneMask} (h : m ≠ 0) : ∃ l, lowest m = some l := by
  cases hl : lowest m with
  | some l => exact ⟨l, rfl⟩
  | none =>
    have hnone : lanesOf m = [] := List.head?_eq_none_iff.mp hl
    refine absurd (BitVec.eq_of_getLsbD_eq fun i hi => ?_) h
    have hout : ¬(i < 32 ∧ m.getLsbD i = true) := fun hin => List.not_mem_nil (hnone ▸ mem_lanesOf.mpr hin)
    simpa [hi] using hout

/-! Triples (R354, R363 to R366). -/

/-- The D code of the triple that an operand names. -/
def State.tripleCode (s : State) (o : Operand) : Nat := field (s.statusAt (s.lowInt o)) 24 2

/-- The state after a unit has retired, read the triples at `os`, each of `size` bytes, at one timestamp, and written what `f`
makes of them at `d` at one (R114, R363 to R365). -/
def State.joinTriples (s : State) (d : Operand) (os : List Operand) (size : Nat)
    (f : List Triple → List Byte × List (Nat × Nat)) : State :=
  let x := readRunTogether (os.flatMap (fun o => s.localRun (s.lowInt o) size)) (s.retire .plain)
  let r := f ((List.range os.length).map (fun k => Triple.ofBytes (slice (x.1.map (·.1)) (k * size) size)))
  let t := x.2.writeTogether ((s.localRun (s.lowInt d) r.1.length).zipIdx.map (fun k => (k.1, slice r.1 (16 * k.2) 16)))
  let t := r.2.foldl (fun t e => t.alog t.who (t.grantOf t.wg) (s.unitAlog s.frag.pc e.1 e.2 s.lowMask)) t
  if os.any (fun o => decide (s.lowInt d < s.lowInt o + size) && decide (s.lowInt o < s.lowInt d + r.1.length)) then
    { t with frag := { t.frag with hold := .fpt } } else t

section TripleRules

variable {s : State} (he : s.exec ≠ 0)
include he

theorem lowMask_ne_zero : s.lowMask ≠ 0 := by
  obtain ⟨l, hlow⟩ := lowest_of_ne_zero he
  have hl : l < 32 := (mem_lanesOf.mp (List.mem_of_mem_head? hlow)).1
  rw [State.lowMask, hlow]
  intro h
  have hbit := congrArg (fun m => BitVec.getLsbD m l) h
  simp [hl] at hbit

theorem lowWhen_nil_iff {b : Bool} {code addr : Nat} : s.lowWhen b code addr = [] ↔ b = false := by
  have hmask := lowMask_ne_zero he
  rw [State.lowWhen, laneCond_nil]
  cases b
  · simp
  · simpa using hmask

/-- A triple that meets no condition has a legal D code (R366). -/
theorem tripleCode_ne_three {a : Operand} (h : s.tripleConds a = []) : s.tripleCode a ≠ 3 := by
  simp only [State.tripleConds, List.append_eq_nil_iff, lowWhen_nil_iff he] at h
  obtain ⟨⟨⟨halign, hwithin⟩, hcode⟩, -⟩ := h
  rw [Bool.or_eq_false_iff] at hwithin
  have hal : (s.lowInt a % 16 == 0) = true := by simpa using halign
  simp only [hwithin.1, hal, Bool.not_false, Bool.and_self, Bool.true_and, Bool.or_eq_false_iff] at hcode
  exact of_decide_eq_false hcode.2

/-- A unit on sound triples of one D code joins them (R363 to R366). -/
theorem tripleUnit_joins {d a : Operand} {rest : List Operand} {outLen : Nat → Nat}
    {f : List Triple → List Byte × List (Nat × Nat)} (hw : s.wordsOk .plain)
    (hlegal : ∀ o ∈ d :: a :: rest, s.srcBad 1 o = false ∧ s.lowCond 1 o = []) (hal : s.lowInt d % 16 = 0)
    (hsound : ∀ o ∈ a :: rest, s.tripleConds o = []) (hsame : ∀ o ∈ rest, s.tripleCode o = s.tripleCode a)
    (hfit : s.lowInt d + outLen (dimOf (s.tripleCode a)) ≤ s.wg.localBytes) :
    s.tripleUnit d (a :: rest) outLen f = .next (s.joinTriples d (a :: rest) (16 + 4 * dimOf (s.tripleCode a)) f) := by
  have hdim : ((((a :: rest).map s.lowInt).map (fun o => field (s.statusAt o) 24 2)).filter (fun x => x != 3)).head?.elim 0 dimOf =
      dimOf (s.tripleCode a) := by
    have hcode : (field (s.statusAt (s.lowInt a)) 24 2 != 3) = true :=
      bne_iff_ne.mpr (tripleCode_ne_three he (hsound a List.mem_cons_self))
    rw [List.map_cons, List.map_cons, List.filter_cons_of_pos (p := fun x => x != 3) hcode]
    rfl
  have hone : ((a :: rest).map s.lowInt).any (fun o => field (s.statusAt o) 24 2 !=
      field (s.statusAt (((a :: rest).map s.lowInt).headD 0)) 24 2) = false := by
    simpa [List.any_eq_false, State.tripleCode] using hsame
  have hoperands : (d :: a :: rest).flatMap (fun o => s.encCond (s.srcBad 1 o) 0x01 ++ s.lowCond 1 o) = [] :=
    List.flatMap_eq_nil_iff.mpr fun o ho => by rw [encCond_nil.mpr (hlegal o ho).1, (hlegal o ho).2, List.append_nil]
  have hjudged : (a :: rest).flatMap s.tripleConds = [] := List.flatMap_eq_nil_iff.mpr hsound
  unfold State.tripleUnit
  simp only [hdim, hone, hoperands, hjudged]
  refine (issueLive_next hw ?_ he).trans ?_
  · simp only [hal, Nat.not_lt.mpr hfit, Bool.and_false, ne_eq, not_true, decide_false, lowWhen_false, List.append_nil]
  · simp only [State.joinTriples, List.flatMap_map, List.any_map, List.length_map, Nat.add_assoc, Function.comp_def]

end TripleRules

/-- Settles O47: the units that post find their descriptors in order, and amerge and afin are one unit on triples. -/
theorem sightAndAttention : Obligations.SightAndAttention := by
  unfold Obligations.SightAndAttention
  intro d a b s
  refine ⟨fun hroom => ⟨execRast_posts hroom, execRay_posts hroom, execQpost_posts hroom⟩, ?triples⟩
  case triples =>
    intro hw he hlegal hal ha dc n size joins
    simp only [List.forall_mem_cons, List.not_mem_nil, false_imp_iff, implies_true, and_true] at hlegal
    obtain ⟨hd, ha', hb'⟩ := hlegal
    refine ⟨fun hb hsame hfit => ?merge, fun hfit => ?finish⟩
    case merge =>
      have hexec : exec (.amerge d a b) s = execAmerge d a b s := rfl
      rw [hexec, execAmerge, tripleUnit_joins he hw ?legal hal ?sound ?same hfit]
      case legal => simp [hd, ha', hb']
      case sound => simp [ha, hb]
      case same => exact List.forall_mem_singleton.mpr hsame
      rfl
    case finish =>
      have hexec : exec (.afin d a) s = execAfin d a s := rfl
      rw [hexec, execAfin, tripleUnit_joins he hw ?legal hal ?sound ?same hfit]
      case legal => simp [hd, ha']
      case sound => exact List.forall_mem_singleton.mpr ha
      case same => exact nofun
      rfl

end Sys2Proof.Machine

/-! ### Events of the shading cache and the attention engine (R327 to R335, R355, R361, R362, R461)

One rule for each event; then the statement. -/

namespace Sys2Proof.Machine

/-! The shading cache (R327, R331, R334, R335). -/

theorem execScCtlWrite_enables {s t : State} {part : Nat} {val : Word} (hbar : s.openBar = true)
    (ht : s.setPreg part 0x000 (val.toNat &&& 0xFF01) = t) :
    execScCtlWrite part val s = .next (if !s.scEn part && t.scEn part then t.scReset part else t) := by
  simp only [execScCtlWrite, hbar, ht, if_true]

theorem execScLookupRetry_retries {s t : State} {wave slot : Nat} (ht : s.focusOn wave slot = some t) :
    execScLookupRetry wave slot s = .next (t.scRetry (fun _ x => x.at_ == .held)) := by
  simp only [execScLookupRetry, ht]

theorem execScRelookup_retries {s t : State} {wave slot : Nat} (ht : s.focusOn wave slot = some t) :
    execScRelookup wave slot s = .next (t.scRetry State.texelWoken) := by
  simp only [execScRelookup, ht]

/-- A class batch that nothing holds takes the lowest free job block, and its fill launch is posted (R334, R335). -/
theorem execShadeBatchDispatch_posts {s t : State} {slice part cls i va : Nat} (hpart : s.partOf slice = some part)
    (hcls : s.nextClass part slice = some cls)
    (hi : (List.range 64).find? (fun i => (SMap.get [] (slice * 64 + i) s.jobBlocks).isEmpty) = some i)
    (hen : s.scEn part = true) (hconf : s.confs.any (fun d => d.coversCtx part (s.filler part).vf (s.filler part).ctx) = false)
    (hheld : s.batchHeld (s.filler part) (slice * 64 + i) cls = false) :
    let w := s.filler part
    let b := slice * 64 + i
    let js := (s.classJobs slice cls).take 16
    let u := { s with jobs := dropJobs slice cls 16 s.jobs, jobBlocks := SMap.set [] b js s.jobBlocks }
    u.ctxPutOn 5 w none (u.jobBlockAt part b) (js.flatMap Job.bytes) = (none, t) →
    let v := t.jobsSeen u.oseq
    v.classLaunch w cls = .ok (some va) →
    execShadeBatchDispatch slice s = .next ((v.seen w 5 (v.classEntry w cls) 8 .read).postFill w b va) := by
  intro w b js u hput v hlaunch
  have hopen : ¬((!s.scEn part || s.confs.any (fun d => d.coversCtx part w.vf w.ctx) || s.batchHeld w b cls) = true) := by
    simp only [w, b, hen, hconf, hheld, Bool.not_true, Bool.or_self, Bool.false_eq_true, not_false_iff]
  simp only [w, b, js, u, v] at hput hlaunch hopen ⊢
  simp only [execShadeBatchDispatch, hpart, hcls, hi, if_neg hopen, hput, hlaunch]

/-! Attention commands (R355, R361, R461). -/

section AttentionEvents

variable {s : State} {c : Command} {cmd : Nat} (hc : s.cmd cmd = some c) (hkind : c.kind = .qpost) (hs : s.cmdStopped c = false)
include hc hkind hs

theorem execAttentionCommandStart_starts (hphase : c.phase = .posted) (hmay : s.mayStart c = true)
    (hroom : s.scanning c.engine < 16) :
    let q := c.asked
    let r := s.localBytes (s.cmdGroup c) 6 c.wave q.qoff (4 * q.dim)
    let e := { c with phase := .running, total := q.units, query := (List.range q.dim).map (fun k => natAt r.1 (4 * k) 4) }
    let u := (s.observe 6 c.wave (scratchPlace (s.cmdGroup c).id q.qoff) (4 * q.dim)).putCmd e
    execAttentionCommandStart cmd s = .next (if r.2 then u.breakTriple e 0x70 q.qoff else u) := by
  simp only [execAttentionCommandStart, hc, hkind, hs, hphase, hmay, Nat.not_le.mpr hroom, ne_eq, not_true, Bool.not_true,
    Bool.false_eq_true, or_self, if_false]

theorem execAttentionResultWrite_writes (hphase : c.phase = .running) (hall : c.total ≤ c.progress)
    (hends : ∀ b ∈ c.scans, b.2.ends ≤ s.aclk) :
    let r := c.result
    let e := c.noteCauses r.2
    let g := s.cmdGroup e
    let u := (s.putTriple e g e.asked.roff r.1.bytes e.broken.isSome).logCmd e 2
    let u := (u.markSeen (fun x => x.cmd == e.id) 8 none).lowerBar e g e.asked.tbar (16 + 4 * e.asked.dim)
    execAttentionResultWrite cmd s = .next (u.putCmd { e with phase := .done }) := by
  have hdone : c.scans.any (fun b => decide (s.aclk < b.2.ends)) = false := by simpa using hends
  simp only [execAttentionResultWrite, hc, hkind, hs, hphase, hdone, Nat.not_lt.mpr hall, ne_eq, not_true, Bool.false_eq_true,
    or_self, if_false]

variable {bau : Nat} (hphase : c.phase = .running)
include hphase

omit hkind hs hphase in
/-- A BAU whose row read still holds its bank does nothing (R361). -/
theorem execBauRowRead_waits {fault : Bool} (hbusy : s.aclk < (c.scan bau).ends) : execBauRowRead cmd bau fault s = .next s := by
  have hwait : c.kind ≠ CmdKind.qpost ∨ c.phase ≠ .running ∨ s.cmdStopped c ∨ s.scanHeld c ∨ s.aclk < (c.scan bau).ends := by
    tauto
  simp only [execBauRowRead, hc, if_pos hwait]

variable (hheld : s.scanHeld c = false) (hends : (c.scan bau).ends ≤ s.aclk)
include hheld hends

omit hc in
/-- Nothing keeps a BAU from its next row (R355, R460). -/
theorem not_bauWaits :
    ¬(c.kind ≠ CmdKind.qpost ∨ c.phase ≠ .running ∨ s.cmdStopped c ∨ s.scanHeld c ∨ s.aclk < (c.scan bau).ends) := by
  simp only [hkind, hphase, hs, hheld, Nat.not_lt.mpr hends, ne_eq, not_true, Bool.false_eq_true, or_self, not_false_iff]

theorem execBauRowRead_faults (hfailed : SMap.get false (1024 * c.engine + bau) s.bauFailed = false) :
    execBauRowRead cmd bau true s = .next (s.rescanBau c bau) := by
  simp only [execBauRowRead, hc, if_neg (not_bauWaits hkind hs hphase hheld hends), hfailed, Bool.not_false, Bool.and_self,
    if_true]

section Rows

variable {u : Nat} (hu : (c.rowUnits bau (c.scan bau).next).head? = some u) (hside : ∀ q ∈ s.sideQ, (cmd, bau) ∉ q.2)
  (hroom : ∀ p ∈ c.rowPlaces u, s.sideFull c.vf p = false)

omit hc hkind hs hphase hheld hends in
include hside hroom in
/-- No side queue holds the BAU's read, and none that it may need is full (R461). -/
theorem not_rowHeld : ¬((s.sideQ.any (fun e => e.2.contains (cmd, bau))) = true ∨ (c.rowPlaces u).any (s.sideFull c.vf) = true) := by
  simp only [List.any_eq_true, List.contains_iff_mem, not_or, not_exists, not_and, Bool.not_eq_true]
  exact ⟨hside, hroom⟩

include hu hside hroom

theorem execBauRowRead_reads (hcold : ∀ p ∈ c.rowPlaces u, s.throttledAt c.vf p = false) :
    execBauRowRead cmd bau false s = .next (s.readRow c bau) := by
  have hnone : (c.rowPlaces u).find? (s.throttledAt c.vf) = none :=
    List.find?_eq_none.mpr fun p hp => ne_true_of_eq_false (hcold p hp)
  simp only [execBauRowRead, hc, if_neg (not_bauWaits hkind hs hphase hheld hends), Bool.false_and, Bool.false_eq_true, if_false,
    hu, if_neg (not_rowHeld hside hroom), hnone]

/-- Where its function is throttled, the read goes to the side queue of the row's pseudo-channel (R461). -/
theorem execBauRowRead_queues {p : Nat} (hhot : (c.rowPlaces u).find? (s.throttledAt c.vf) = some p) :
    let ch := 64 * channelOf p + c.vf
    execBauRowRead cmd bau false s =
      .next { s with sideQ := SMap.set [] ch (SMap.get [] ch s.sideQ ++ [(cmd, bau)]) s.sideQ } := by
  simp only [execBauRowRead, hc, if_neg (not_bauWaits hkind hs hphase hheld hends), Bool.false_and, Bool.false_eq_true, if_false,
    hu, if_neg (not_rowHeld hside hroom), hhot]

end Rows

end AttentionEvents

/-! Refreshes and hot rows (R362, R461). -/

/-- A refresh with no attention command on the device counts, and aborts nothing (R362). -/
theorem execRefresh_counts {s : State} {stack channel : Nat} (h : ∀ c ∈ s.cmds, c.kind ≠ .qpost) :
    execRefresh stack channel s = .next { s with
      refreshes := SMap.set 0 (stack * 64 + channel) (SMap.get 0 (stack * 64 + channel) s.refreshes + 1) s.refreshes } := by
  refine congrArg Host.Outcome.next ((List.foldl_ext _ (fun t _ => t) _ fun t c hc => ?_).trans (List.foldl_fixed _))
  refine List.foldl_fixed' (fun b => if_neg ?_) c.scans
  simp only [beq_eq_false_iff_ne.mpr (h c hc), Bool.false_and, Bool.false_eq_true, not_false_iff]

/-- The place of a row of a bank (R351, R461). -/
def rowPlace (stack bank row : Nat) : Nat := stack * 2 ^ 36 + row * 2 ^ 21 + bank / 64 % 16 * 2 ^ 17 + bank % 64 * 2 ^ 11

/-- The activations of a row that count against a function: its own, and its share of the ordinary ones (log entry 98). -/
def State.rowShare (s : State) (place f : Nat) : Nat :=
  SMap.get 0 (rowKey place f) s.rowActs + (Config.freeWord (s.free + f)).toNat

/-- The functions that a partition owns. -/
def State.ownFuncs (s : State) (part : Nat) : List Nat := (List.range 64).filter (fun f => s.partBit part 0x4020 f)

/-- The function with the most activations of a row is throttled and charged once they reach 2,048 (R461). -/
theorem execHotRowThrottle_judges {s : State} {stack bank row part f : Nat} (hpart : s.partOf stack = some part)
    (hf : let acts := s.rowShare (rowPlace stack bank row)
      bestOf (fun a b => decide (acts b < acts a)) (s.ownFuncs part) = some f) :
    let place := rowPlace stack bank row
    let u := s.setPreg part (0x7000 + 16 * f + 0xC) (min (s.preg part (0x7000 + 16 * f + 0xC) % 65536 + 1) 0xFFFF)
    execHotRowThrottle stack bank row s = .next
      (if ((s.ownFuncs part).map (s.rowShare place)).sum < 2048 ∨ SMap.get 0 (place / 2048) s.throttled ≠ 0 then
        { s with free := s.free + 64 }
      else { u with throttled := SMap.set 0 (place / 2048) (f + 1) u.throttled, free := u.free + 64 }) := by
  intro place u
  simp only [execHotRowThrottle, hpart]
  split
  case h_1 hnone => exact absurd (hnone.symm.trans hf) (Option.some_ne_none f).symm
  case h_2 g hg =>
    obtain rfl : g = f := Option.some.inj (hg.symm.trans hf)
    exact (apply_ite Host.Outcome.next _ _ _).symm

theorem serveSide_reads {s t : State} {c : Command} {key cmd bau : Nat} {rest : List (Nat × Nat)}
    (hq : SMap.get [] key s.sideQ = (cmd, bau) :: rest) (ht : { s with sideQ := SMap.set [] key rest s.sideQ } = t)
    (hc : t.cmd cmd = some c) (hheld : t.scanHeld c = false) (hphase : c.phase = .running) (hs : t.cmdStopped c = false) :
    s.serveSide key = t.readRow c bau := by
  simp [State.serveSide, hq, ht, hc, hheld, hphase, hs]

/-- Settles O52, event by event: each finds what it waits for, and has its effect. -/
theorem shadingAndAttentionEvents : Obligations.ShadingAndAttentionEvents := by
  unfold Obligations.ShadingAndAttentionEvents
  intro s t c wave slot cmd bau
  refine ⟨fun part val => execScCtlWrite_enables, fun ht => ⟨execScLookupRetry_retries ht, execScRelookup_retries ht⟩,
    ?batch, fun hc hkind hs => ?attention, fun stack channel => execRefresh_counts, ?hot, fun stack channel => rfl,
    fun key rest => serveSide_reads, rfl⟩
  case batch =>
    intro slice part cls i va hpart hcls hi hen hconf hheld w b js u hput v hlaunch
    exact execShadeBatchDispatch_posts hpart hcls hi hen hconf hheld hput hlaunch
  case attention =>
    refine ⟨execAttentionCommandStart_starts hc hkind hs, ?row,
      fun hphase hbusy fault => execBauRowRead_waits hc hbusy, execBauRowRead_faults hc hkind hs,
      execAttentionResultWrite_writes hc hkind hs⟩
    case row =>
      intro u hphase hheld hends hu ps hside hroom
      exact ⟨execBauRowRead_reads hc hkind hs hphase hheld hends hu hside hroom,
        fun p => execBauRowRead_queues hc hkind hs hphase hheld hends hu hside hroom⟩
  case hot =>
    intro stack bank row part hpart place acts fs f hf
    have hjudges : exec (.hotRowThrottle stack bank row) s = _ := execHotRowThrottle_judges hpart hf
    refine ⟨fun hsum hcold => ?_, fun hcool => ?_⟩
    · have hhot : ¬((fs.map acts).sum < 2048 ∨ SMap.get 0 (place / 2048) s.throttled ≠ 0) := by omega
      exact hjudges.trans (congrArg _ (if_neg hhot))
    · exact hjudges.trans (congrArg _ (if_pos hcool))

end Sys2Proof.Machine

/-! ### Events of partitions, keys, meters and the access log (R367 to R388, R460, R495, R510)

What a logged write leaves in its register; which writes are logged; then the statement. -/

namespace Sys2Proof.Machine

/-! Bits of numbers, and registers written. -/

theorem bitAt_eq_testBit (v i : Nat) : bitAt v i = v.testBit i := by
  rw [Nat.testBit_eq_decide_div_mod_eq]
  rfl

/-- A bit of a union of numbers is set in the first or in one of the others. -/
theorem testBit_foldl_or {α : Type} (f : α → Nat) (xs : List α) (m k : Nat) :
    (xs.foldl (fun m x => m ||| f x) m).testBit k = true ↔ m.testBit k = true ∨ ∃ x ∈ xs, (f x).testBit k = true := by
  induction xs generalizing m with
  | nil => simp
  | cons x xs ih => simp [ih, or_assoc]

/-- A register reads what was written to it last. -/
@[simp] theorem State.setReg_reg (s : State) (off : Nat) (w : Word) : (s.setReg off w).reg off = w := by
  simp [State.setReg, State.reg]

@[simp] theorem State.setPreg_preg (s : State) (i off v : Nat) : (s.setPreg i off v).preg i off = v % 2 ^ 32 := by
  simp [State.setPreg, State.preg]

/-! What a logged write does when it takes effect (R369, R372, R373, R377, R381, R510). -/

section LoggedRules

variable {s : State}

theorem applyLogged_part_preg {i off : Nat} (hoff : off ≠ 0x4000) (v : Word) :
    (s.applyLogged (.part i off v)).preg i off = s.partAfter i off v.toNat % 2 ^ 32 := by
  simp only [State.applyLogged, if_neg hoff, State.setPreg_preg]

theorem applyLogged_vf_preg (i f off : Nat) (v : Word) :
    (s.applyLogged (.vf i f off v)).preg i (0x6000 + 16 * f + off) = s.vfAfter i f off v.toNat % 2 ^ 32 :=
  State.setPreg_preg ..

theorem applyLogged_grant_preg (i f c : Nat) (v : Word) :
    (s.applyLogged (.grant i f c v)).preg i (0x20000 + 4 * (256 * f + c)) = v.toNat &&& 0x8000003F :=
  (State.setPreg_preg ..).trans (Nat.mod_eq_of_lt (lt_of_le_of_lt Nat.and_le_left v.isLt))

theorem applyLogged_meter_reg (i off : Nat) (v : Word) :
    ((s.applyLogged (.meter i off v)).reg (0x2000 + 16 * i + off)).toNat = s.meterAfter i off v.toNat % 2 ^ 32 := by
  rw [State.applyLogged, State.setReg_reg, BitVec.toNat_ofNat]

theorem applyLogged_key {k mode : Nat} (hmode : mode ≠ 2) :
    ∃ arg, s.applyLogged (.key k mode) = (s.appendEntry 0x0030 0xFF 0xFF 0xFF arg).beginMode k (modeCode mode) :=
  ⟨_, if_neg hmode⟩

theorem keyMode_lt (t : State) (k : Nat) : t.keyMode k < 4 := Nat.mod_lt _ (by decide)

/-- A key slot whose change of mode has begun holds what it changes to, and reads BUSY (R373). -/
theorem beginMode_busy (k code : Nat) :
    SMap.get 0 k (s.beginMode k code).keyBusy = code ∧ bitAt ((s.beginMode k code).reg (0x1000 + 4 * k)).toNat 2 = true := by
  refine ⟨SMap.get_set_same 0 k code _, ?_⟩
  have hbit : ∀ m, m < 4 → (m + 4) % 2 ^ 32 / 2 ^ 2 % 2 = 1 := by omega
  rw [State.beginMode, State.setReg_reg, BitVec.toNat_ofNat, bitAt, beq_iff_eq]
  exact hbit _ (keyMode_lt _ k)

/-- The bits of an ownership register that another partition holds (R369). -/
theorem testBit_heldElsewhere {i off k : Nat} :
    (s.heldElsewhere i off).testBit k = true ↔ ∃ j, j < 12 ∧ j ≠ i ∧ bitAt (s.preg j off) k = true := by
  simp [State.heldElsewhere, testBit_foldl_or, bitAt_eq_testBit, and_assoc]

/-- The bits of an ownership register that are its own to hold (R368 Table 1). -/
def ownWidth (off : Nat) : Nat := if off = 0x400C then 16 else if off = 0x4010 then 18 else 32

/-- The bits that are written and that no other partition holds (R369). -/
theorem testBit_free {v w x k : Nat} (hk : k < 32) : ((v % 2 ^ w) &&& (2 ^ 32 - 1 - x % 2 ^ 32)).testBit k = true ↔
    v.testBit k = true ∧ k < w ∧ x.testBit k = false := by
  have hx : x % 2 ^ 32 < 2 ^ 32 := Nat.mod_lt _ (by decide)
  rw [show 2 ^ 32 - 1 - x % 2 ^ 32 = 2 ^ 32 - (x % 2 ^ 32 + 1) by omega, Nat.testBit_and, Nat.testBit_mod_two_pow,
    Nat.testBit_two_pow_sub_succ hx, Nat.testBit_mod_two_pow]
  simp only [hk, decide_true, Bool.true_and, Bool.and_eq_true, decide_eq_true_eq, Bool.not_eq_true']
  tauto

/-- Bit 0 is cleared, and no other (R368). -/
theorem testBit_div_two_mul_two {n k : Nat} : (n / 2 * 2).testBit k = true ↔ n.testBit k = true ∧ k ≠ 0 := by
  cases k with
  | zero => simp [Nat.testBit_zero]
  | succ k => simp [Nat.testBit_succ]

/-- An ownership register takes the bits written that it has and no other partition holds; key slot 0 is nobody's (R369). -/
theorem testBit_owned {i off v k : Nat} (hk : k < 32) : (s.owned i off v).testBit k = true ↔
    v.testBit k = true ∧ k < ownWidth off ∧ ¬(off = 0x4018 ∧ k = 0) ∧ (s.heldElsewhere i off).testBit k = false := by
  have hfree := testBit_free (v := v) (w := ownWidth off) (x := s.heldElsewhere i off) hk
  by_cases hkey : off = 0x4018
  · rw [State.owned, if_pos hkey, testBit_div_two_mul_two]
    exact (and_congr_left fun _ => hfree).trans (by tauto)
  · rw [State.owned, if_neg hkey]
    exact hfree.trans (by tauto)

/-- The ownership registers and the bits that each has (R368 Table 1). -/
theorem applyLogged_owned {i off w : Nat} (v : Word)
    (hx : (off, w) ∈ [(0x4008, 32), (0x400C, 16), (0x4010, 18), (0x4018, 32), (0x401C, 32), (0x4020, 32), (0x4024, 32)])
    {k : Nat} (hk : k < 32) :
    bitAt ((s.applyLogged (.part i off v)).preg i off) k = true ↔ bitAt v.toNat k = true ∧ k < w ∧ ¬(off = 0x4018 ∧ k = 0) ∧
      ∀ j, j < 12 → j ≠ i → bitAt (s.preg j off) k = false := by
  have hreg : off ≠ 0x4000 ∧ off ≠ 0x4004 ∧ ownWidth off = w := by
    simp only [List.mem_cons, List.not_mem_nil, or_false, Prod.mk.injEq] at hx
    obtain ⟨rfl, rfl⟩ | ⟨rfl, rfl⟩ | ⟨rfl, rfl⟩ | ⟨rfl, rfl⟩ | ⟨rfl, rfl⟩ | ⟨rfl, rfl⟩ | ⟨rfl, rfl⟩ := hx <;> decide
  obtain ⟨hcfg, hsum, rfl⟩ := hreg
  have hpart : s.partAfter i off v.toNat = s.owned i off v.toNat := by rw [State.partAfter, if_neg hcfg, if_neg hsum]
  have hheld : (s.heldElsewhere i off).testBit k = false ↔ ∀ j, j < 12 → j ≠ i → bitAt (s.preg j off) k = false := by
    rw [← Bool.not_eq_true, testBit_heldElsewhere]
    simp only [not_exists, not_and, Bool.not_eq_true]
  rw [applyLogged_part_preg hcfg, hpart, bitAt_eq_testBit, Nat.testBit_mod_two_pow, decide_eq_true hk, Bool.true_and,
    testBit_owned hk, bitAt_eq_testBit, hheld]

end LoggedRules

/-! The writes that the access log records (R367 to R388, R460, R495, R510). -/

section TenancyRules

variable {s : State}

theorem barWrite_booted (hboot : s.bootState = 2) (w : Logged) : s.barWrite w = s.logWrite w := if_pos (decide_eq_true hboot)

theorem barWrite_unbooted (hboot : s.bootState ≠ 2) (w : Logged) : s.barWrite w = s :=
  if_neg (ne_true_of_eq_false (decide_eq_false hboot))

theorem logWrite_applies {w : Logged} (hpend : s.logPending = []) (hroom : s.logRoom w.isCheckpoint w.entries = true) :
    s.logWrite w = s.applyLogged w := by
  simp only [State.logWrite, hpend, hroom, List.isEmpty_nil, Bool.and_self, if_true]

/-- Rates and bursts are set, and their ceilings only lowered (R381). -/
theorem applyLogged_meter (m : Nat) (v : Word) :
    let puts (off : Nat) : Nat := ((s.applyLogged (.meter m off v)).reg (0x2000 + 16 * m + off)).toNat
    puts 0 = v.toNat % 2 ^ 16 ∧ puts 4 = v.toNat % 2 ^ 24 ∧
      puts 8 = min (s.reg (0x2000 + 16 * m + 8)).toNat (v.toNat % 2 ^ 16) ∧
      puts 12 = min (s.reg (0x2000 + 16 * m + 12)).toNat (v.toNat % 2 ^ 24) := by
  intro puts
  simp only [puts, applyLogged_meter_reg]
  simp only [State.meterAfter]
  refine ⟨?_, ?_, ?_, ?_⟩
  all_goals (simp; omega)

theorem execSealUnwrap_logs (hboot : s.bootState = 2) (hidle : bitAt (s.reg 0x1890).toNat 30 = false) :
    execSealUnwrap s = .next (s.logWrite .unwrap) := by
  rw [execSealUnwrap, hidle, barWrite_booted hboot]
  rfl

section RcbRules

variable {v : BitVec 64} {r : RcbReg}

theorem writeRcb_closed {lo hi : Option Word} (hclosed : s.rcbOpen r = false) : s.writeRcb r lo hi = s :=
  if_pos (by rw [hclosed, Bool.not_false, Bool.or_true])

variable (hboot : s.bootState = 2) (hopen : s.rcbOpen r = true)
include hboot hopen

theorem not_rcbIgnored : ¬((!s.openBar || !s.rcbOpen r) = true) := by
  rw [State.openBar, decide_eq_true hboot, hopen]
  decide

theorem execRcbAddressWrite_logs (hr : r ≠ .root) : execRcbAddressWrite r v s =
    .next (s.logWrite (.rcb r (some (v.extractLsb' 0 32)) (some (v.extractLsb' 32 32)))) := by
  refine congrArg Host.Outcome.next ((if_neg (not_rcbIgnored hboot hopen)).trans ?_)
  cases r with
  | root => exact absurd rfl hr
  | part i => rfl
  | vf i f => rfl

end RcbRules

theorem execRcbAddressWrite_root {v : BitVec 64} (hboot : s.bootState = 2) (hopen : s.rcbOpen .root = true) :
    execRcbAddressWrite .root v s = .next ((s.setReg 0x0030 (v.extractLsb' 0 32 &&& 0xFFFFFF00)).setReg 0x0034
      (v.extractLsb' 32 32 &&& 0x800FFFFF)) :=
  congrArg _ (if_neg (not_rcbIgnored hboot hopen))

/-! Events of keys, meters and the log (R373, R382 to R385, R495). -/

theorem execKeyModeChangeComplete_completes {slot : Nat} (hbusy : SMap.get 0 slot s.keyBusy ≠ 0) :
    execKeyModeChangeComplete slot s = .next (s.modeDone slot (SMap.get 0 slot s.keyBusy)).admitHeld :=
  if_neg hbusy

/-- An incoming read of which a sector has waited 50 µs at its meter ends without data (R495). -/
theorem execEgressReadAbort_aborts {id : Nat}
    (hwaits : s.extReads.any (fun r => r.id == id && r.result == .waiting && decide (r.meter < 19)) = true)
    (hlong : s.held.any (fun h => h.read && h.id == id && h.charged && decide (h.since + 50 ≤ s.us)) = true) :
    let u := { s with
      held := s.held.filter (fun h => !(h.read && h.id == id))
      extReads := s.extReads.map (fun r => if r.id = id then { r with result := ReadEnd.aborted, bytes := [] } else r) }
    execEgressReadAbort id s =
      .next ((State.letPass (2 * u.held.length) u).writeFwRec { level := 0, source := 4, code := 0x80 }) := by
  simp only [execEgressReadAbort, hwaits, hlong, Bool.and_self, if_true]

theorem execLogBaseCommit_commits {val : Word} (hlog : s.logOn = false) (hboot : s.bootState = 2) :
    let t := s.setReg 0x1904 (BitVec.ofNat 32 (val.toNat % 2 ^ 14))
    execLogBaseCommit val s = .next (if t.backed t.logBase then t.applyLogged .image else s.noteLost t.logBase) := by
  have hopen : s.openBar = true := decide_eq_true hboot
  intro t
  simp only [execLogBaseCommit, hlog, hopen, Bool.not_true, Bool.or_self, Bool.false_eq_true, if_false]
  exact (apply_ite Host.Outcome.next _ _ _).symm

theorem execLogEntryWrite_applies {w : Logged} {ws : List Logged} (hpend : s.logPending = w :: ws)
    (hroom : s.logRoom w.isCheckpoint w.entries = true) :
    execLogEntryWrite s = .next (State.applyLogged { s with logPending := ws } w) := by
  simp only [execLogEntryWrite, hpend, hroom, if_true]

end TenancyRules

/-- Settles O53: every write goes by the access log on a booted device, and each kind of it by its rule. -/
theorem tenancyEvents : Obligations.TenancyEvents := by
  unfold Obligations.TenancyEvents
  intro s part vf ctx slot val hpart hvf writes
  have hbar : ∀ x ∈ writes, exec x.1 s = .next (s.barWrite x.2) := by
    intro x hx
    rw [List.mem_append, List.mem_append] at hx
    obtain (hx | hx) | hx := hx
    · simp only [List.mem_cons, List.not_mem_nil, or_false] at hx
      obtain rfl | rfl | rfl | rfl | rfl | rfl | rfl | rfl := hx
      · exact congrArg _ (if_pos hpart)
      · exact congrArg _ (if_pos ⟨hpart, hvf⟩)
      all_goals rfl
    · obtain ⟨off, hoff, rfl⟩ := List.mem_map.mp hx
      exact congrArg _ (if_pos ⟨hpart, List.contains_iff_mem.mpr hoff⟩)
    · obtain ⟨m, hm, hx⟩ := List.mem_flatMap.mp hx
      obtain ⟨off, hoff, rfl⟩ := List.mem_map.mp hx
      have hreg : off % 4 = 0 ∧ off < 16 := by
        simp only [List.mem_cons, List.not_mem_nil, or_false] at hoff
        omega
      exact congrArg _ (if_pos ⟨List.mem_range.mp hm, hreg⟩)
  refine ⟨fun hboot x hx => (hbar x hx).trans (congrArg _ (barWrite_booted hboot _)), fun w => logWrite_applies,
    fun x hx k hk => applyLogged_owned val hx hk, fun m _ => applyLogged_meter m val, ⟨⟨_, rfl⟩, fun mode hmode => ?key⟩, ?func,
    applyLogged_grant_preg part vf ctx val, fun hboot x hx => (hbar x hx).trans (congrArg _ (barWrite_unbooted hboot _)),
    execSealUnwrap_logs, fun v hboot => ?rcb, execKeyModeChangeComplete_completes, rfl, fun id => execEgressReadAbort_aborts,
    execLogBaseCommit_commits, fun w ws => execLogEntryWrite_applies⟩
  case key =>
    have hne : mode ≠ 2 := by
      rintro rfl
      simp at hmode
    obtain ⟨arg, harg⟩ := applyLogged_key (s := s) (k := slot) hne
    rw [harg]
    exact beginMode_busy slot (modeCode mode)
  case func =>
    refine (applyLogged_vf_preg part vf 0 val).trans ?_
    rw [State.vfAfter, if_pos rfl]
    split <;> rfl
  case rcb =>
    intro lo hi
    refine ⟨execRcbAddressWrite_root hboot, fun r hr hopen => execRcbAddressWrite_logs hboot hopen ?_,
      fun r hclosed => congrArg _ (writeRcb_closed hclosed)⟩
    rintro rfl
    simp at hr

end Sys2Proof.Machine

/-! ### Events of boot, resets, scrubbing and confinement (R393, R421 to R428, R445, R452 to R459, R491 to R498, R507, R512)

One rule for each event, and what a confinement reports of its progress; then the statement. -/

namespace Sys2Proof.Machine

/-! Boot, resets and the watchdog (R393, R445, R491 to R498). -/

section BootRules

variable {s : State}

theorem execBootGo_goes (h : s.bootState = 0 ∨ s.bootState = 3) : execBootGo s = .next (s.setReg 0x0000 1) := congrArg _ (if_pos h)

section Verify

variable (hboot : s.bootState = 1)
include hboot

theorem execBootVerifyComplete_accepts (hok : imageOk s.image = true) (hlog : s.logOn = false) :
    execBootVerifyComplete s = .next (State.setReg { s with imageHash := sha384 s.image } 0x0000 2) := by
  rw [execBootVerifyComplete, if_neg (not_not.mpr hboot), if_pos hok]
  exact congrArg Host.Outcome.next (if_neg (ne_true_of_eq_false hlog))

theorem execBootVerifyComplete_refuses (hbad : imageOk s.image = false) :
    execBootVerifyComplete s = .next (s.setReg 0x0000 3) := by
  rw [execBootVerifyComplete, if_neg (not_not.mpr hboot), if_neg (ne_true_of_eq_false hbad)]

end Verify

theorem execWatchdogExpiry_resets (hperiod : s.period ≠ 0) (hlate : s.wdogStart + 1000 * s.period ≤ s.us) :
    execWatchdogExpiry s = .next (s.beginReset (some { source := 4, code := 0x94 })) :=
  congrArg _ (if_pos ⟨hperiod, hlate⟩)

theorem execWatchdogPeriodWrite_keeps {val : Word} (hset : s.period ≠ 0)
    (hbad : val.toNat % 2 ^ 24 = 0 ∨ s.period < val.toNat % 2 ^ 24) : execWatchdogPeriodWrite val s = .next s := by
  refine if_pos ?_
  simp only [Bool.or_eq_true, Bool.and_eq_true, bne_iff_ne, decide_eq_true_eq]
  exact .inr ⟨hset, hbad⟩

variable (hopen : s.openBar = true)
include hopen

theorem execDeviceReset_begins : execDeviceReset s = .next (s.beginReset none) := congrArg _ (if_pos hopen)

theorem execWatchdogKick_restarts : execWatchdogKick s = .next { s with wdogStart := s.us } := congrArg _ (if_pos hopen)

theorem execWatchdogPeriodWrite_sets {val : Word} (hpos : 0 < val.toNat % 2 ^ 24)
    (hle : s.period = 0 ∨ val.toNat % 2 ^ 24 ≤ s.period) :
    execWatchdogPeriodWrite val s = .next (State.setReg { s with wdogStart := if s.period = 0 then s.us else s.wdogStart } 0x0010
      (BitVec.ofNat 32 (val.toNat % 2 ^ 24))) := by
  refine if_neg ?_
  simp only [hopen, Bool.not_true, Bool.false_or, Bool.and_eq_true, bne_iff_ne, Bool.or_eq_true, decide_eq_true_eq]
  omega

theorem execContextKill_confines {part vf ctx : Nat} (hpart : s.partOfVf vf = some part)
    (hnew : s.confs.any (fun c => c.coversCtx part vf ctx &&
      c.causes.any (fun r => r.source == 2 && r.code == 0x30 && r.vf == vf && r.ctx == ctx)) = false) :
    execContextKill vf ctx s = .next (s.confine 2 (ctxWho part vf ctx) none
      { source := 2, code := 0x30, vf := vf, ctx := ctx, part := part }) := by
  simp only [execContextKill, hpart, hnew, hopen, Bool.not_true, Bool.or_self, Bool.false_eq_true, if_false]

theorem execVfReset_begins {part vf : Nat} (hidle : s.resetting part (3, vf) = false) :
    execVfReset part vf s = .next (((s.setPreg part (0x8000 + 4 * vf) 0).confine 3 (ctxWho part vf 0) none
      { source := 2, code := 0x31, vf := vf, part := part }).withReset 3 part vf (3, vf)) := by
  rw [execVfReset, hopen, hidle]
  rfl

theorem execPartitionReset_begins {part : Nat} (hidle : s.resetting part (4, part) = false) :
    execPartitionReset part s = .next (((s.setPreg part 0x4040 0).confine 4 { part := part, core := 16 * part } none
      { source := 2, code := 0x32, part := part }).withReset 4 part 0 (4, part)) := by
  rw [execPartitionReset, hopen, hidle]
  rfl

/-! Scrubbing and injection (R452 to R459, R507, R512). -/

theorem execErrorInject_starts {p : Nat} (hidle : bitAt (s.reg 0x0A08).toNat 30 = false) (hp : s.injectPlace = some p) :
    execErrorInject s = .next ({ s with injecting := p / 16 + 1 }.setReg 0x0A08 0x40000000) := by
  simp [execErrorInject, hopen, hidle, hp]

/-- A run of granules that lie in the partition starts where none is in progress (R458). -/
theorem execScrubGo_starts {part : Nat} {val : Word} (hgo : bitAt val.toNat 31 = true)
    (hidle : bitAt (s.preg part 0x4034) 30 = false) (hcount : val.toNat % 2 ^ 25 ≠ 0)
    (hin : ∀ i < val.toNat % 2 ^ 25, s.granuleIn part (s.preg part 0x4030 % 2 ^ 25 + i) = true) :
    let first := s.preg part 0x4030 % 2 ^ 25
    let count := val.toNat % 2 ^ 25
    let mine (a : Nat) : Bool := decide (first ≤ a / 2 ^ 21) && decide (a / 2 ^ 21 < first + count)
    let u := s.dropLines false mine
    execScrubGo part val s = .next ((State.setPreg { u with
      older := u.older.filter (fun e => decide (stBase ≤ e.place) || !mine (u.placeLoc e.place))
      scrubbed := ((List.range count).map (fun i => first + i)).foldl (fun m g => SMap.set 0 g 2 m) u.scrubbed
      scrubs := u.scrubs ++ [{ part := part, first := first, count := count }] } part 0x4034 (2 ^ 30 + count)).setPreg part 0x4038 0) := by
  have hall : ((List.range (val.toNat % 2 ^ 25)).map (fun i => s.preg part 0x4030 % 2 ^ 25 + i)).all (s.granuleIn part) = true := by
    refine List.all_eq_true.mpr fun g hg => ?_
    obtain ⟨i, hi, rfl⟩ := List.mem_map.mp hg
    exact hin i (List.mem_range.mp hi)
  have hstarts : bitAt val.toNat 31 = true ∧ (!bitAt (s.preg part 0x4034) 30) = true ∧ val.toNat % 2 ^ 25 ≠ 0 ∧
      ((List.range (val.toNat % 2 ^ 25)).map (fun i => s.preg part 0x4030 % 2 ^ 25 + i)).all (s.granuleIn part) = true :=
    ⟨hgo, by rw [hidle]; rfl, hcount, hall⟩
  intro first count mine u
  simp only [execScrubGo, hopen, Bool.not_true, Bool.false_eq_true, if_false, if_pos hstarts]
  rfl

end BootRules

section ScrubRules

variable {s : State}

theorem execScrubGranule_runs {g : Nat} (h : s.scrubs.findSome? s.runNext = some g) : execScrubGranule s = .next (s.scrubNow g) := by
  simp only [execScrubGranule, h]

theorem execScrubGranule_boots {g : Nat} (h : s.scrubs.findSome? s.runNext = none) (hg : s.bootNext = some g)
    (hboot : s.bootState = 2) :
    let t := if s.granulePending g then s.scrubNow g else s
    execScrubGranule s = .next { t with bootScrub := g + 1, scrubbed := SMap.set 0 g 0 t.scrubbed } := by
  simp only [execScrubGranule, h, hg, hboot, ne_eq, not_true, if_false]

/-- The patrol scrubber reads a line of a carve-out in the cache's own terms, and any other sector by sector (R454). -/
theorem execPatrolScrub_reads (addr : Nat) :
    let p := addr / 128 * 128
    let sl := placeSlice p
    let n := (s.mscShape sl).1
    let first := (s.mscShape sl).2
    execPatrolScrub addr s = .next (if p < lpBase ∧ first ≤ p ∧ p < first + 2048 * n then
      s.patrolCarve sl ((p - first) / 2048) (p % 2048 / 128)
      else (List.range 8).foldl (fun s i => s.patrolSector (p / 16 + i)) s) := rfl

theorem patrolSector_keeps {sec : Nat} (h : (s.arrayStored sec).uncorr = false ∨ s.scrubPending (16 * sec) = true) :
    s.patrolSector sec = s := by
  refine if_pos ?_
  simpa using h

/-- A sector of LPDDR6 beyond correction takes the poison marker, is counted and is recorded (R422, R452). -/
theorem patrolSector_poisons {sec : Nat} (hue : (s.arrayStored sec).uncorr = true) (hnow : s.scrubPending (16 * sec) = false)
    (hlow : lpBase ≤ 16 * sec) (hhigh : 16 * sec < stBase) :
    s.patrolSector sec = ((s.setArray sec { s.arrayStored sec with pois := true, uncorr := false }).countUE
      (placeSlice (16 * sec)) 0x09).writeFwRec { level := 0, source := 1, code := 0x09, addr := s.placeLoc (16 * sec) } := by
  have harray : placeArray (16 * sec) = 0x09 := by rw [placeArray, if_neg (Nat.not_lt.mpr hlow), if_pos hhigh]
  have hheap : ¬(16 * sec < lpBase ∧ 0xFF0000000 ≤ 16 * sec % 2 ^ 36) := fun h => absurd h.1 (Nat.not_lt.mpr hlow)
  simp only [State.patrolSector, hue, hnow, harray, if_neg hheap, if_pos hhigh, Bool.not_true, Bool.or_self, Bool.false_eq_true,
    if_false]

/-- An injection completes: the sector's next read finds it beyond correction, unless it is to be scrubbed first (R507). -/
theorem execErrorInjectComplete_spoils {sec : Nat} (hbusy : bitAt (s.reg 0x0A08).toNat 30 = true) (hsec : s.injecting = sec + 1) :
    let v := State.setReg { s with injecting := 0 } 0x0A08 0
    let u := v.dropLines true (fun a => decide (a / 128 = v.placeLoc (16 * sec) / 128))
    execErrorInjectComplete s =
      .next (if u.scrubPending (16 * sec) then u else u.setArray sec { u.arrayStored sec with uncorr := true }) := by
  have hdiv : 16 * sec / 16 = sec := Nat.mul_div_cancel_left sec (by decide)
  simp only [execErrorInjectComplete, hbusy, hsec, Nat.add_sub_cancel, hdiv, Bool.not_true, Bool.false_eq_true, if_false]

end ScrubRules

/-! What a confinement reports of its progress (R445, R491). -/

section ProgressRules

variable {s t : State}

theorem partOfVf_congr (h : t.regs = s.regs) : t.partOfVf = s.partOfVf := by
  funext f
  simp only [State.partOfVf, State.partEn, State.partBit, preg_congr h]

theorem markReset_frame (s : State) (b : Nat) (r : Nat × Nat) : s.markReset b r = { s with regs := (s.markReset b r).regs } := by
  unfold State.markReset
  split
  · split <;> rfl
  · split <;> rfl

/-- What marking a reset leaves in the registers depends on the registers alone. -/
theorem markReset_regs_congr (h : t.regs = s.regs) (b : Nat) (r : Nat × Nat) : (t.markReset b r).regs = (s.markReset b r).regs := by
  unfold State.markReset
  rw [partOfVf_congr h, preg_congr h]
  split
  · split
    · simp only [State.setPreg, State.setReg, h]
    · exact h
  · split
    · simp only [State.setPreg, State.setReg, h]
    · exact h

theorem foldl_markReset_frame (s : State) (b : Nat) (rs : List (Nat × Nat)) :
    rs.foldl (fun u r => u.markReset b r) s = { s with regs := (rs.foldl (fun u r => u.markReset b r) s).regs } := by
  induction rs generalizing s with
  | nil => rfl
  | cons r rs ih => rw [List.foldl_cons, ih, markReset_frame]

theorem foldl_markReset_regs_congr (h : t.regs = s.regs) (b : Nat) (rs : List (Nat × Nat)) :
    (rs.foldl (fun u r => u.markReset b r) t).regs = (rs.foldl (fun u r => u.markReset b r) s).regs := by
  induction rs generalizing s t with
  | nil => exact h
  | cons r rs ih => exact ih (markReset_regs_congr h b r)

/-- Sets bit `b` of the progress register in the doorbell pages of some contexts (R445). -/
def State.markBells (s : State) (b : Nat) (ws : List Who) : State :=
  ws.foldl (fun s w => s.setBell w.vf w.ctx 0x304 (s.bell w.vf w.ctx 0x304 ||| 2 ^ b)) s

theorem progress_eq (s : State) (c : Conf) (b : Nat) : s.progress c b =
    c.resets.foldl (fun u r => u.markReset b r) (if c.level < 2 then s else s.markBells b (s.scopeCtxs c)) := rfl

theorem markBells_frame (s : State) (b : Nat) (ws : List Who) : s.markBells b ws = { s with dbell := (s.markBells b ws).dbell } := by
  unfold State.markBells
  induction ws generalizing s with
  | nil => rfl
  | cons w ws ih => rw [List.foldl_cons, ih]; rfl

theorem setBell_bell_same (s : State) (f c off v : Nat) : (s.setBell f c off v).bell f c off = v % 2 ^ 32 := by
  simp [State.setBell, State.bell]

/-- A bit that is set in a doorbell page stays set when one is set there, or in another page. -/
theorem setBell_or_keeps_bit {f c g d off b k : Nat} (h : (s.bell f c off).testBit k = true) :
    ((s.setBell g d off (s.bell g d off ||| 2 ^ b)).bell f c off).testBit k = true := by
  by_cases hat : dbellAt f c off = dbellAt g d off
  · have hsame : ∀ u : State, u.bell f c off = u.bell g d off := fun u => by simp only [State.bell, hat]
    have hk : k < 32 := by
      by_contra hk
      rw [State.bell, BitVec.testBit_toNat, BitVec.getLsbD_of_ge _ _ (Nat.not_lt.mp hk)] at h
      exact Bool.false_ne_true h
    rw [hsame, setBell_bell_same, Nat.testBit_mod_two_pow, Nat.testBit_or, ← hsame, h, decide_eq_true hk]
    rfl
  · rw [show (s.setBell g d off (s.bell g d off ||| 2 ^ b)).bell f c off = s.bell f c off by
      simp only [State.bell, State.setBell, SMap.get_set_other _ hat]]
    exact h

theorem markBells_keeps_bit {f c b k : Nat} (ws : List Who) (h : (s.bell f c 0x304).testBit k = true) :
    ((s.markBells b ws).bell f c 0x304).testBit k = true := by
  unfold State.markBells
  induction ws generalizing s with
  | nil => exact h
  | cons w ws ih => exact ih (setBell_or_keeps_bit h)

theorem markBells_sets_bit {b : Nat} (hb : b < 32) {ws : List Who} {w : Who} (hw : w ∈ ws) :
    ((s.markBells b ws).bell w.vf w.ctx 0x304).testBit b = true := by
  induction ws generalizing s with
  | nil => exact absurd hw List.not_mem_nil
  | cons x ws ih =>
    obtain rfl | hmem := List.mem_cons.mp hw
    · refine markBells_keeps_bit ws ?_
      rw [setBell_bell_same, Nat.testBit_mod_two_pow, Nat.testBit_or, Nat.testBit_two_pow_self, decide_eq_true hb, Bool.or_true]
      rfl
    · exact ih hmem

theorem progress_frame (s : State) (c : Conf) (b : Nat) :
    s.progress c b = { s with regs := (s.progress c b).regs, dbell := (s.progress c b).dbell } := by
  rw [progress_eq]
  split
  · rw [foldl_markReset_frame]
  · rw [foldl_markReset_frame, markBells_frame]

theorem progress_regs (s : State) (c : Conf) (b : Nat) :
    (s.progress c b).regs = (c.resets.foldl (fun u r => u.markReset b r) s).regs := by
  rw [progress_eq]
  refine foldl_markReset_regs_congr ?_ b c.resets
  split
  · rfl
  · rw [markBells_frame]

/-- From level 2 on every context of the scope is told (R445). -/
theorem progress_sets_bit {c : Conf} {b : Nat} (hb : b < 32) (hlevel : 2 ≤ c.level) {w : Who} (hw : w ∈ s.scopeCtxs c) :
    bitAt ((s.progress c b).bell w.vf w.ctx 0x304) b = true := by
  rw [bitAt_eq_testBit, progress_eq, if_neg (Nat.not_lt.mpr hlevel), foldl_markReset_frame]
  exact markBells_sets_bit hb hw

end ProgressRules

/-! An engine class has quiesced (R423, R457). -/

section QuiesceRules

variable {s : State} {c : Conf} {eng : EngineClass}

/-- What a confinement covers does not depend on the commands. -/
theorem scopeCtxs_congr {t : State} (hregs : t.regs = s.regs) (hfocus : t.focus = s.focus) (hwg : t.wg = s.wg)
    (hwgs : t.wgs = s.wgs) : t.scopeCtxs c = s.scopeCtxs c := by
  simp only [State.scopeCtxs, State.boundCtxs, State.groups, hregs, hfocus, hwg, hwgs]

/-- A command of the confinement's scope is of an engine class. -/
def Conf.ends (c : Conf) (eng : EngineClass) (x : Command) : Bool := c.coversCmd x && x.kind.engineClass == eng

/-- A confinement that has been changed is what the change makes of one with its number. -/
theorem mem_modConf_confs {id : Nat} {f : Conf → Conf} {d : Conf} (hd : d ∈ (s.modConf id f).confs) (hid : d.id = id) :
    ∃ e ∈ s.confs, e.id = id ∧ d = f e := by
  obtain ⟨e, he, rfl⟩ := List.mem_map.mp hd
  by_cases heq : e.id = id
  · exact ⟨e, he, heq, if_pos heq⟩
  · rw [if_neg heq] at hid
    exact absurd hid heq

variable (hmig : ∀ x ∈ s.cmds, c.coversCmd x = true → x.kind.engineClass = eng → x.kind ≠ .migrate)
include hmig

theorem not_migrate_of_ends {x : Command} (hx : x ∈ s.cmds) (hends : c.ends eng x = true) : x.kind ≠ .migrate := by
  obtain ⟨hcovers, hclass⟩ := Bool.and_eq_true_iff.mp hends
  exact hmig x hx hcovers (beq_iff_eq.mp hclass)

/-- With no migration among them, the commands only leave. -/
theorem foldl_stopMigration_keeps : (s.cmds.filter (c.ends eng)).foldl State.stopMigration s = s := by
  refine (List.foldl_ext _ (fun t _ => t) s fun t x hx => if_neg ?_).trans (List.foldl_fixed _)
  obtain ⟨hmem, hends⟩ := List.mem_filter.mp hx
  rw [beq_eq_false_iff_ne.mpr (not_migrate_of_ends hmig hmem hends)]
  exact Bool.false_ne_true

theorem none_pastLeaf : s.cmds.any (fun x => c.ends eng x && x.pastLeaf) = false := by
  rw [List.any_eq_false]
  intro x hx
  rw [Bool.and_eq_true_iff]
  rintro ⟨hends, hpast⟩
  rw [Command.pastLeaf, beq_eq_false_iff_ne.mpr (not_migrate_of_ends hmig hx hends)] at hpast
  exact Bool.false_ne_true hpast

/-- The class's commands leave their queues; the last class also takes what waits, and the scope is quiet. -/
theorem execQuiesceComplete_ends (hconf : s.confs.find? (fun x => x.id == c.id) = some c) (heng : eng ∈ c.waiting) :
    let left := c.waiting.filter (fun e => e != eng)
    ∃ u : State, u = { s with
        cmds := s.cmds.filter (fun x => !c.ends eng x), withdrawn := u.withdrawn, pri := u.pri, matq := u.matq, sideQ := u.sideQ
        held := u.held, pendLoads := u.pendLoads } ∧
      execQuiesceComplete c.id eng s = .next (if left = [] then
        (u.progress c 0).modConf c.id (fun x => { x with waiting := [], phase := .quiet })
      else u.modConf c.id (fun x => { x with waiting := left })) := by
  intro left
  have hgoes : ¬((!c.waiting.contains eng || s.cmds.any (fun x => c.ends eng x && x.pastLeaf)) = true) := by
    rw [none_pastLeaf hmig, List.contains_iff_mem.mpr heng]
    decide
  have hstop := foldl_stopMigration_keeps hmig
  unfold Conf.ends at hgoes hstop
  by_cases hleft : left = []
  · have hempty : (c.waiting.filter (fun e => e != eng)).isEmpty = true := List.isEmpty_iff.mpr hleft
    simp only [if_pos hleft, execQuiesceComplete, hconf, if_neg hgoes, hstop, if_pos hempty]
    exact ⟨_, rfl, rfl⟩
  · have hmore : ¬(c.waiting.filter (fun e => e != eng)).isEmpty = true := fun h => hleft (List.isEmpty_iff.mp h)
    simp only [if_neg hleft, execQuiesceComplete, hconf, if_neg hgoes, hstop, if_neg hmore]
    exact ⟨_, rfl, rfl⟩

/-- What is left once an engine class of a confinement has quiesced, and what the last class reports (R423, R445, R491). -/
theorem execQuiesceComplete_quiesces (hconf : s.confs.find? (fun x => x.id == c.id) = some c) (heng : eng ∈ c.waiting) :
    let left := c.waiting.filter (fun e => e != eng)
    ∃ t, execQuiesceComplete c.id eng s = .next t ∧
      (∀ x ∈ t.cmds, c.ends eng x = false) ∧
      (∀ d ∈ t.confs, d.id = c.id → (∃ e ∈ s.confs, e.id = c.id ∧ d = { e with
        waiting := left, phase := if left = [] then .quiet else e.phase })) ∧
      (left = [] → 2 ≤ c.level → ∀ w ∈ s.scopeCtxs c, bitAt (t.bell w.vf w.ctx 0x304) 0 = true) ∧
      (left = [] → t.regs = (c.resets.foldl (fun u r => u.markReset 0 r) s).regs) ∧
      (left ≠ [] → t.regs = s.regs ∧ t.dbell = s.dbell) ∧
      t.mem = s.mem ∧ t.wave = s.wave ∧ t.wgs = s.wgs ∧ t.others = s.others := by
  intro left
  obtain ⟨u, hu, hexec⟩ := execQuiesceComplete_ends hmig hconf heng
  have hcmds : ∀ x ∈ u.cmds, c.ends eng x = false := by
    rw [hu]
    exact fun x hx => by simpa using (List.mem_filter.mp hx).2
  have hregs : u.regs = s.regs := by rw [hu]
  have hconfs : u.confs = s.confs := by rw [hu]
  have hkept : u.mem = s.mem ∧ u.wave = s.wave ∧ u.wgs = s.wgs ∧ u.others = s.others := by rw [hu]; exact ⟨rfl, rfl, rfl, rfl⟩
  refine ⟨_, hexec, ?_⟩
  by_cases hleft : left = []
  · have hscope : u.scopeCtxs c = s.scopeCtxs c := by rw [hu]; exact scopeCtxs_congr rfl rfl rfl rfl
    have hframe := progress_frame u c 0
    rw [if_pos hleft]
    refine ⟨?_, fun d hd hid => ?_, fun _ hlevel w hw => progress_sets_bit (by decide) hlevel (hscope ▸ hw), fun _ => ?_,
      fun hne => absurd hleft hne, ?_⟩
    · rw [hframe]
      exact hcmds
    · obtain ⟨e, he, heid, rfl⟩ := mem_modConf_confs hd hid
      rw [hframe] at he
      exact ⟨e, hconfs ▸ he, heid, by simp [hleft]⟩
    · exact (progress_regs u c 0).trans (foldl_markReset_regs_congr hregs 0 c.resets)
    · rw [hframe]
      exact hkept
  · rw [if_neg hleft]
    refine ⟨hcmds, fun d hd hid => ?_, fun h => absurd h hleft, fun h => absurd h hleft, fun _ => ⟨hregs, by rw [hu]; rfl⟩, hkept⟩
    obtain ⟨e, he, heid, rfl⟩ := mem_modConf_confs hd hid
    exact ⟨e, hconfs ▸ he, heid, by rw [if_neg hleft]⟩

end QuiesceRules

/-- A confinement that is quiet, of which no workgroup is frozen yet to be saved, is captured (R423 to R428). -/
theorem execConfinementCapture_captures {s : State} {c : Conf} (hconf : s.confs.find? (fun x => x.id == c.id) = some c)
    (hphase : c.phase = .quiet) :
    let t := s.unfocus
    let gs := t.wgs.filter (fun g => c.covers g && !g.finished)
    gs.any (·.frozen) = false →
    let away := (t.saved.map (·.wg)).filter c.covers
    let ws := (t.scopeCtxs c).map (fun w => (w, t.ctxGrant w))
    let known := t.owed.length
    let r := gs.foldl State.captureGroup ([], t)
    let t := if c.level = 5 then r.1.foldl State.loseImages r.2 else r.2
    let t := ((t.confRecords c (gs ++ away)).recordMet c known).recordMet c known
    let t := ws.foldl (fun s w => s.setDumpState w.1 w.2 2) t
    let t := (gs ++ away).foldl State.endCaptured (t.closeScope c)
    let t := ws.foldl (fun s w => s.setDumpState w.1 w.2 3) t
    execConfinementCapture c.id s = .next (((t.recordMet c known).progress c 1).clearScope c) := by
  intro t gs hfrozen
  have hready : ¬(c.phase ≠ .quiet ∨ gs.any (·.frozen) = true) := by
    rw [hphase, hfrozen]
    decide
  simp only [execConfinementCapture, hconf]
  exact if_neg hready

/-- Settles O54, event by event; the events of a booted device have their registers open. -/
theorem bootResetAndFaultEvents : Obligations.BootResetAndFaultEvents := by
  unfold Obligations.BootResetAndFaultEvents
  intro s part vf ctx val
  refine ⟨rfl, execBootGo_goes, execBootVerifyComplete_accepts, execBootVerifyComplete_refuses, fun hboot => ?booted, rfl,
    execWatchdogExpiry_resets, fun g => execScrubGranule_runs, fun g => execScrubGranule_boots, fun addr => ?patrol,
    fun sec => ⟨patrolSector_keeps, patrolSector_poisons⟩, fun sec u hbusy hsec => ?inject, fun c eng hconf heng hmig =>
      execQuiesceComplete_quiesces hmig hconf heng, fun c => execConfinementCapture_captures⟩
  case booted =>
    have hopen : s.openBar = true := decide_eq_true hboot
    refine ⟨execDeviceReset_begins hopen, execWatchdogKick_restarts hopen, execWatchdogPeriodWrite_sets hopen,
      execWatchdogPeriodWrite_keeps, execContextKill_confines hopen, execVfReset_begins hopen, execPartitionReset_begins hopen,
      fun p => execErrorInject_starts hopen, ?_⟩
    rintro first count rfl rfl hgo hidle hcount hin
    exact execScrubGo_starts hopen hgo hidle hcount hin
  case patrol =>
    intro p sl n first
    have hreads : exec (.patrolScrub addr) s = _ := execPatrolScrub_reads addr
    refine ⟨fun hfirst hlast hlow => ?_, fun hout => ?_⟩
    · exact hreads.trans (congrArg _ (if_pos ⟨hlow, hfirst, hlast⟩))
    · refine hreads.trans (congrArg _ (if_neg ?_))
      rintro ⟨hlow, hfirst, hlast⟩
      obtain h | h | h := hout
      · exact absurd hfirst (Nat.not_le.mpr h)
      · exact absurd hlast (Nat.not_lt.mpr h)
      · exact absurd hlow (Nat.not_lt.mpr h)
  case inject =>
    intro v hu
    subst hu
    exact execErrorInjectComplete_spoils hbusy hsec

end Sys2Proof.Machine

/-! ### Events of the device around the dies (R395 to R399, R451, R500 to R506)

One rule for each event that decides something; then the statement. -/

namespace Sys2Proof.Machine

section DeviceRules

variable {s : State} {n : Nat}

/-! Clocks, power and heat (R395, R502 to R504). -/

theorem execAgeingLoop_lowers {need margin : Nat} (hneed : 700 ≤ need) :
    let old := SMap.get 1400 n s.sliceCeil
    let new := if need < old then max 700 (old - 25 * ceilDiv (old - need) 25) else old
    let t := State.putTelemetry { s with sliceCeil := SMap.set 1400 n new s.sliceCeil } n new margin
    execAgeingLoop n need margin s = .next (t.setMhz n (t.mhz n)) :=
  if_pos (.inl hneed)

theorem execPowerLimit_lowers {dw : Nat} (h : 24000 < dw) : execPowerLimit dw s =
    .next ((List.range 12).foldl (fun s i => s.setMhz i (if 25 < s.mhz i then s.mhz i - 25 else s.mhz i)) s) :=
  if_neg (Nat.not_le.mpr h)

theorem execPowerLimit_keeps {dw : Nat} (h : dw ≤ 24000) : execPowerLimit dw s = .next s := if_pos h

theorem execThermalThrottle_holds {temp : Int} (h : 105 * 64 < temp) :
    let t := s.putTemp n temp
    execThermalThrottle n temp s = .next (State.setMhz { t with sliceHot := SMap.set false n true t.sliceHot } n
      (State.mhz { t with sliceHot := SMap.set false n true t.sliceHot } n)) :=
  if_pos h

theorem execThermalThrottleRelease_ends {temp : Int} (h : temp < 100 * 64) : execThermalThrottleRelease n temp s =
    .next { s.putTemp n temp with sliceHot := SMap.set false n false (s.putTemp n temp).sliceHot } :=
  congrArg _ (if_pos h)

theorem execThermalTrip_confines {temp : Int} (h : 115 * 64 < temp) : execThermalTrip temp s =
    .next (((((s.setReg 0x0020 0x80000000).confineDevice (some { source := 4, code := 0x95 })).withReset 5 0 0 (6, 0))).afterCapture
      true) :=
  if_neg (Int.not_le.mpr h)

/-! Links (R451, R500, R501). -/

theorem execSaddleFlitReplay_counts (h : (replayed s.us n s.replays).length < 64) :
    execSaddleFlitReplay n s = .next { s with replays := SMap.set [] n (replayed s.us n s.replays) s.replays } :=
  congrArg _ (if_pos h)

theorem execSaddleFlitReplay_retrains (h : 64 ≤ (replayed s.us n s.replays).length) : execSaddleFlitReplay n s = .next { s with
    replays := SMap.set [] n [] s.replays, training := SMap.set false n true s.training } :=
  congrArg _ (if_neg (Nat.not_lt.mpr h))

/-- What a link expects of its far end depends on the registers alone. -/
theorem expectsOther_congr {t : State} (h : t.regs = s.regs) : t.expectsOther = s.expectsOther := by
  funext link id
  simp only [State.expectsOther, preg_congr h]

/-- A link that ends its training is up where it has trained and reaches the module that its windows expect (R391, R500). -/
theorem execSaddleLinkRetrain_ends (id : Option (BitVec 8)) : execSaddleLinkRetrain n id s = .next (State.linkLost { s with
    replays := SMap.set [] n [] s.replays, training := SMap.set false n false s.training
    linkIds := match id with
      | none => s.linkIds
      | some x => SMap.set 0 n (x.toNat + 1) s.linkIds
    linkDown := SMap.set false n (match id with
      | none => true
      | some x => s.expectsOther n x.toNat) s.linkDown }) := by
  cases id with
  | none => rfl
  | some x =>
    have hexpects : State.expectsOther { s with replays := SMap.set [] n [] s.replays, training := SMap.set false n false s.training }
        = s.expectsOther := expectsOther_congr rfl
    simp only [execSaddleLinkRetrain, hexpects]

section ColRules

variable {dir : Bool} {lane : Nat}

theorem execColBridgeReplay_counts :
    let key := 2 * lane + (if dir then 1 else 0)
    (replayed s.us key s.colReplays).length < 16 → execColBridgeReplay dir lane s =
      .next { s with colReplays := SMap.set [] key (replayed s.us key s.colReplays) s.colReplays } :=
  fun h => if_pos h

/-- The sixteenth replay takes the direction's spare lane, and without one confines the device (R501). -/
theorem execColBridgeReplay_replaces :
    let key := 2 * lane + (if dir then 1 else 0)
    let d := if dir then 1 else 0
    16 ≤ (replayed s.us key s.colReplays).length → execColBridgeReplay dir lane s =
      if SMap.get 0 d s.colSpares = 0 then
        .next { s with colReplays := SMap.set [] key [] s.colReplays, colSpares := SMap.set 0 d 1 s.colSpares }
      else .next (State.confineDevice { s with colReplays := SMap.set [] key [] s.colReplays } (some { source := 4, code := 0x92 })) :=
  fun h => if_neg (Nat.not_lt.mpr h)

end ColRules

theorem execPriTimeout_fails (h : s.pri.any (fun p => p.id == n && p.code == 0 && decide (p.sentAt + 100000 ≤ s.us)) = true) :
    execPriTimeout n s = .next (s.priEnds n (some 0x09)) :=
  congrArg _ (if_pos h)

/-! Debug and the test port (R218, R399). -/

section KillRules

variable {t : State} {wave slot : Nat} {h : Nat × Nat} (ht : s.focusOn wave (h.1 % 64) = some t)
include ht

theorem execMgmtKill_ends_fragment (hh : s.halted.find? (fun h => h.1 / 64 == wave && h.1 % 64 == slot) = some h) :
    execMgmtKill wave (some slot) s = .next (State.endLanes { t with
      halted := t.halted.filter (fun h => !(h.1 / 64 == wave && h.1 % 64 == slot))
      watches := t.watches.filter (fun w => !(w.wave == wave && w.slot == slot)) } t.frag.mask (fun _ => 0xFFFF)) := by
  simp only [execMgmtKill, hh, ht, Option.isSome_some, if_true]

theorem execMgmtKill_ends_wave (hh : s.halted.find? (fun h => h.1 / 64 == wave) = some h) :
    execMgmtKill wave none s = .next (State.endLanes { t with
      halted := t.halted.filter (fun h => h.1 / 64 != wave)
      watches := t.watches.filter (fun w => w.wave != wave) } t.wave.live (fun _ => 0xFFFF)) := by
  simp only [execMgmtKill, Bool.and_true, hh, ht, Option.isSome_none, Bool.false_eq_true, if_false]
  rfl

end KillRules

theorem execCaptureDr_bypasses (h : s.testIr ≠ 0x40) : execCaptureDr s = .next { s with testBypass := false } := if_neg h

theorem execCaptureDr_captures {r : ExtRead} (hir : s.testIr = 0x40) (hlog : s.logPending = [])
    (hr : s.extReads.find? (fun r => r.meter == 68) = some r) : execCaptureDr s = .next { s with
      rbacc := BitVec.ofNat 96 (s.rbacc.toNat / 2 ^ 40 * 2 ^ 40 + if r.result = .done then 2 ^ 32 + natOfBytes r.bytes else 0) } := by
  simp only [execCaptureDr, hir, hlog, hr, List.any_nil, Bool.not_false, Bool.and_true, if_true]

/-! Doorbell pages (R55, R98, R389). -/

theorem execRegisterWrite_doorbell {k off : Nat} {v : Word} (hn : n < 64) (hk : k < 256) (hoff : off < 4096) :
    execRegisterWrite (.doorbell n k off) v s = writeDoorbell n k (off / 4 * 4) v s :=
  if_pos ⟨hn, hk, hoff⟩

theorem writeDoorbell_frame {f c : Nat} {v : Word} (hopen : s.openBar = true) :
    writeDoorbell f c 0x200 v s = .next (s.frameHost f c (some v.toNat)) := by
  simp [writeDoorbell, hopen]

theorem writeDoorbell_page {f c : Nat} {v : Word} (hopen : s.openBar = true) :
    writeDoorbell f c 0x108 v s = .next (s.setBell f c 0x108 (v.toNat / 4096 * 4096)) := by
  simp [writeDoorbell, hopen]

end DeviceRules

/-- Settles O55, event by event: most only set what they name, and the others decide by a count or a limit. -/
theorem deviceEvents : Obligations.DeviceEvents := by
  unfold Obligations.DeviceEvents
  intro s n k wave slot cells
  refine ⟨fun up => rfl, rfl, rfl, fun temp => rfl, fun need margin => execAgeingLoop_lowers, fun dw => execPowerLimit_lowers,
    fun dw => execPowerLimit_keeps, fun temp => execThermalThrottle_holds, fun temp => execThermalThrottleRelease_ends,
    fun temp => execThermalTrip_confines, execSaddleFlitReplay_counts, execSaddleFlitReplay_retrains,
    fun id => execSaddleLinkRetrain_ends id, fun dir lane => execColBridgeReplay_counts, ?col, rfl, rfl, rfl, rfl, execPriTimeout_fails,
    fun off => rfl, fun on => rfl, rfl,
    fun h t ht => ⟨execMgmtKill_ends_fragment ht, execMgmtKill_ends_wave ht⟩, fun dr => rfl, rfl, rfl, rfl, rfl,
    execCaptureDr_bypasses, fun r => execCaptureDr_captures, ?bell⟩
  case col =>
    intro dir lane key d hmany
    have hreplaces : exec (.colBridgeReplay dir lane) s = _ := execColBridgeReplay_replaces hmany
    exact ⟨fun hspare => hreplaces.trans (if_pos hspare), fun hnone => hreplaces.trans (if_neg hnone)⟩
  case bell =>
    intro hboot hn hk v
    have hopen : s.openBar = true := decide_eq_true hboot
    exact ⟨(execRegisterWrite_doorbell hn hk (by decide)).trans (writeDoorbell_frame hopen),
      (execRegisterWrite_doorbell hn hk (by decide)).trans (writeDoorbell_page hopen)⟩

end Sys2Proof.Machine
